-- ==== Sys2Proof/Word.lean ====
section
/-!
DEFINITION. The word types of the module and the tables the state is kept in.

A byte, the 32-bit and 64-bit registers of the register tables (00 §0.4.3), and a 64-byte line (a descriptor, a
logbook line and a cache line are all 64 bytes: R512, R543, R299). A `Tab` is a sparse table by a number: entries in
strictly rising order of their number, and none equal to what an unlisted number reads as, so that equal tables are
equal data (their operations are in Machine/Ops.lean).
-/

namespace Sys2Proof

/-- One byte. -/
abbrev Byte := BitVec 8
/-- A 32-bit register or half. -/
abbrev W32 := BitVec 32
/-- A 64-bit register. -/
abbrev W64 := BitVec 64
/-- A 64-byte line; byte 0 is bits 7:0 (R9, little-endian). -/
abbrev Line := BitVec 512

/-- A sparse table by number: (number, value), numbers strictly rising. -/
abbrev Tab (α : Type) := List (Nat × α)

/-- A hart number (R186). -/
abbrev HartId := Fin 24
/-- A function number: 0 the PF, 1-255 the VFs (R18). -/
abbrev FnId := Fin 256
/-- A ring number (R497). -/
abbrev RingId := Fin 1024
/-- A site, lane, channel or TRIP number (R23, R24). -/
abbrev SiteId := Fin 64

end Sys2Proof
end

