-- ==== Sys2Proof/Syntax.lean ====
section
/-!
DEFINITION. The commands of the module: one constructor of `Instr` for each row of spec/opcode_table.json, in the
table's order, and the types of their operands.

A command is what comes to the module from outside or becomes due in it (an event on a land, a register access, an
instruction of a hart, a step of an engine). A vendor instruction is given by its word, which its row decodes (Table 5.3).
Operands say what the row's rule leaves to the outside: a level, a frame's
bytes, a value written.
-/

namespace Sys2Proof

/-! ### Operands of the power, boot and cycle-time rows -/

/-- The two 48 V feeds (04 §4.1). -/
inductive Feed | a | b
  deriving DecidableEq, Repr

/-- The two NOR slots (03 §3.1). -/
inductive Slot | a | b
  deriving DecidableEq, Repr

/-- Who makes a register access: one PCIe function or one hart (R100). -/
inductive Requester
  | fn (f : FnId)
  | hart (h : HartId)
  deriving DecidableEq, Repr

/-- How much of a 64-bit register an access covers (R100, R887). -/
inductive Part | full | low | high
  deriving DecidableEq, Repr

/-- A TCB frame as the receiver hands it on (Table 2.1, R73): its 128 bits, whether it came with no code-group or
running-disparity error between /S/ and /T/, how many 1 us frame boundaries lie between it and the previous valid frame,
whether its boundary lies a whole multiple of 100 TCB_REF periods after that one, and how many measurement clocks have
passed since its boundary (R888: at most 40). -/
structure TcbFrame where
  bits : BitVec 128
  codeOk : Bool
  onGrid : Bool
  gap : Nat
  clocks : Fin 41
  deriving DecidableEq, Repr

/-! ### Operands of the hart and mesh rows -/

/-- Access width in bytes, as a power of two. -/
inductive Width | b1 | b2 | b4 | b8
  deriving DecidableEq, Repr

/-- The hint that stands immediately before a load or store (Table 6.1). -/
inductive Ntl | none | p1 | pall | s1 | all
  deriving DecidableEq, Repr

/-- The translation stage that the first walk of an access is of (R201, R202). -/
inductive PteStage | single | vs
  deriving DecidableEq, Repr

/-- One stage of a page walk as it read memory: its non-leaf PTEs, its leaf PTE, and the leaf's level (0: 4 KiB). -/
structure StageWalk where
  path : List W64
  pte : W64
  level : Nat
  deriving DecidableEq, Repr

/-- What the page walk of an access found: the first stage's walk (none where that stage is Bare), the G-stage's walk of the
guest physical address (none where there is none), that address, and whether a PTE read returned poison (§5.11). -/
structure Walk where
  stage : PteStage
  first : Option StageWalk
  guest : Option StageWalk
  gpa : W64
  poisoned : Bool
  deriving DecidableEq, Repr

/-- What the memory controller's check of a DRAM line found (R319, R322): sound, errors confined to one device (the
device, subchannel and rank are named), or uncorrectable. -/
inductive DramCheck
  | sound
  | corrected (device : Fin 10) (sub : Bool) (rank : Bool)
  | uncorrectable
  deriving DecidableEq, Repr

/-- What SECDED finds as it reads: of a cache a line (R217, R299), of a dispatch list an entry (R402). -/
inductive BitError | none | single | double
  deriving DecidableEq, Repr

/-- What a home slice meets as it serves a request: the check of a DRAM read, of the L3's copy, and whether the line's
snoop-filter entry has a double-bit error (R299, R322, R337). -/
structure HomeCheck where
  dram : DramCheck := .sound
  l3 : BitError := .none
  filterUe : Bool := false
  deriving DecidableEq, Repr

/-- What a hart's access meets on its way: errors in L1D and in L2 (R217), and what the home slice meets. -/
structure CacheCheck where
  l1 : BitError := .none
  l2 : BitError := .none
  home : HomeCheck := {}
  deriving DecidableEq, Repr

/-- A hart's memory access: the virtual address the program gave, the physical address its translation gives, its width,
the hint before it, the walk of its mapping when that is not Bare or M-mode, whether the instruction was fetched
from the enclave's (or the monitor's) own ranges (R343, R346), the instruction's bits, expanded, and whether it was a
compressed one (R195), and what the caches meet. -/
structure Access where
  va : W64
  pa : BitVec 48
  width : Width
  hint : Ntl
  walk : Option Walk
  fetchedInside : Bool
  insn : W32
  short : Bool := false
  cache : CacheCheck := {}
  deriving DecidableEq, Repr

/-- The AMO operations of the A extension (Table 6.5). -/
inductive AmoOp | swap | add | xor | and | or | min | max | minu | maxu
  deriving DecidableEq, Repr

/-- A FENCE's predecessor or successor set. -/
structure FenceSet where
  i : Bool
  o : Bool
  r : Bool
  w : Bool
  deriving DecidableEq, Repr

/-- The three prefetch instructions (Table 5.10). -/
inductive PrefetchKind | i | r | w
  deriving DecidableEq, Repr

/-- The counters of R195: mcycle, minstret, mhpmcounter3-10. -/
inductive CounterId
  | cycle
  | instret
  | hpm (n : Fin 8)
  deriving DecidableEq, Repr

/-- The trap-vector CSRs of Table 5.4. -/
inductive TvecReg | mtvec | stvec | vstvec
  deriving DecidableEq, Repr

/-- The translation-root CSRs of Table 5.4. -/
inductive AtpReg | satp | vsatp | hgatp
  deriving DecidableEq, Repr

/-- Which timer interrupt (R212, R93). -/
inductive TimerKind | machine | supervisor | virtual
  deriving DecidableEq, Repr

/-- A home slice (R297). -/
abbrev SliceId := Fin 12
/-- A mesh requester (R295). -/
abbrev MeshReq := Fin 28
/-- A DRAM line number, PA[47:6]. -/
abbrev LineNo := BitVec 42

/-! ### Operands of the Keeper rows -/

/-- The commands of KP_ENCL_CMD and the blocks that change hands are given as the register words that carry them. The
scope of a debug unlock is answered by the response bytes (R387). -/
structure DebugResponse where
  mldsa : List Byte
  ecdsaR : List Byte
  ecdsaS : List Byte
  reservedZero : Bool
  deriving DecidableEq, Repr

/-- A DMI access (R385): a read or a write of one debug-module register. -/
inductive DmiOp
  | read (addr : BitVec 7)
  | write (addr : BitVec 7) (data : W32)
  deriving DecidableEq, Repr

/-! ### Operands of the host rows -/

/-- How a DMA read of host memory ended (R446): with its data, or with an error completion or timeout for a started
command of a ring, or for the descriptor about to be accepted on it. -/
inductive HostRead
  | data (addr : W64) (bytes : List Byte)
  | commandError (ring : RingId) (seq : Nat)
  | descriptorError (ring : RingId) (seq : Nat)
  deriving DecidableEq, Repr

/-- A configuration request (R156): a read of a double word, or a write of Bus Master Enable, of MSI-X Enable and
Function Mask (10 §10.1, R453), or of Max_Payload_Size and Max_Read_Request_Size by their codes (R445). -/
inductive ConfigOp
  | read (dword : Nat)
  | busMaster (on : Bool)
  | msixControl (enable mask : Bool)
  | deviceControl (payload readRequest : BitVec 3)
  | powerState (d3hot : Bool)
  | ariHierarchy (on : Bool)
  deriving DecidableEq, Repr

/-! ### Operands of the logbook rows -/

/-- A logbook bank (R543). -/
inductive Bank | a | b
  deriving DecidableEq, Repr

/-- What writing and verifying a record met in one bank (R546): verify retries and lines retired. -/
structure BankWrite where
  retries : Nat
  retired : Nat
  deriving DecidableEq, Repr

/-- Where a running command is: the ring it was accepted on and the sequence of its first descriptor; and what the check code of the
key store finds in the slots that it reads (13 §13.11). -/
structure CmdRef where
  ring : RingId
  seq : Nat
  store : BitError := .none
  deriving DecidableEq, Repr

/-! ### Operands of the lane rows -/

/-- A 66-bit block of a lane before scrambling (R748): data or control, with its 64 payload bits, octet 0 lowest. -/
structure Block where
  control : Bool
  payload : W64
  deriving DecidableEq, Repr

/-- A register write of a requester: the block offset that PF BAR0 and the core map share, or the VF's own BAR0 offset,
the part of a 64-bit unit it covers, and its data (R887). -/
structure RegWrite where
  who : Requester
  offset : BitVec 32
  part : Part
  value : W64
  deriving DecidableEq, Repr

/-- A write of a register that has no row of its own: one of the register blocks, or a CSR of a hart by its number, with
the instruction's bits (R195). -/
inductive RegTarget
  | mapped (w : RegWrite)
  | csr (h : HartId) (number : BitVec 12) (value : W64) (insn : W32)
  deriving DecidableEq, Repr

/-! ### Operands of the crypto, MU and LU rows -/

/-- A crypto lane (R588). -/
abbrev LaneNo := Fin 16
/-- A modular or lattice unit as PS_GATE and the hand-over number it: 0-3 the MUs, 4-5 the LUs. -/
abbrev UnitNo := Fin 6

/-- How a unit's command ended (R637, R662): with its result, or with a CHECK or TWIN mismatch; a command whose input or
loaded operand was poisoned finds that by itself. -/
inductive UnitEnd | done | checkMismatch | twinMismatch
  deriving DecidableEq, Repr

/-! ### Operands of the measurement rows -/

/-- What is measured at a TRIP land (R727, R728): held in current limit for 10 us, or asserted and sinking less than
0.5 mA, or released and below 1.0 V, for 100 us; and whether the land lies above 1.0 V. -/
structure TripLand where
  asserted : Bool
  high : Bool
  deriving DecidableEq, Repr

/-! ### Operands of the lane rows -/

/-- What far-end detection finds at DETECT (R744). -/
inductive FarEnd | nothing | termination | driving
  deriving DecidableEq, Repr

/-- A buoy-chain port (R820). -/
inductive Port | up | down
  deriving DecidableEq, Repr

/-- A line's end that trains and carries frames under R743-R761: a site lane, or a buoy-chain port (R821). -/
inductive LineEnd
  | site (n : SiteId)
  | chain (p : Port)
  deriving DecidableEq, Repr

/-- A command of an internal DMA channel (R364): a read of so many bytes, or a write of bytes. -/
inductive DmaOp
  | read (bytes : Fin 65)
  | write (bytes : List Byte)
  deriving DecidableEq, Repr

/-- A command: one constructor per row of the opcode table. -/
inductive Instr
  -- 04 Power, reset and start-up
  | feedBecomesValid (f : Feed) (v : Int)
  | feedBecomesInvalid (f : Feed) (v : Int)
  | feedOvervoltage (f : Feed) (v : Int)
  | feedReversed (f : Feed) (v : Int)
  | feedShorted (f : Feed)
  | powerCapInterval (deciWatts : Nat)
  | holdupCharged
  | powerFailCommit
  | powerOnReset (holdupLow : Bool)
  | polRailsGood (modId : BitVec 6) (daymarkHigh : Bool)
  | thermalHoldRelease (temp : Int)
  | romStart (entropyOk : Bool)
  | lightTableCheck (slot : Slot) (readError : Bool)
  | dramTrained
  | pcieLinkTrained
  | logbookReplay
  | ringService
  | bootSlowTimeout
  | polFault
  | polLockoutEnd
  | modResetPin
  | psModuleReset (who : Requester) (value : W32)
  | moduleResetRelease (modId : BitVec 6) (daymarkHigh : Bool)
  | perstAssertion
  | hotReset
  | linkLoss
  | perstDeassertion
  | configRequest (f : FnId) (op : ConfigOp)
  | psHartReset (who : Requester) (mask : W32)
  | debugHartreset (h : HartId)
  | debugNdmreset
  | hartResetComplete (h : HartId)
  | thermWarnAssert (temp : Int)
  | thermWarnRelease (temp : Int)
  | throttleStep (temp : Int)
  | dieTempShutdown (temp : Int)
  -- 02 Cycle time
  | tcbFrame (fr : TcbFrame)
  | tcbCoastLimit
  | tcbAlignmentChange (aligned : Bool) (inverted : Bool)
  | tcbRefToleranceChange (within : Bool)
  | alarmFire (f : FnId) (a : Fin 4)
  | ctAlarmCmpWrite (who : Requester) (a : Fin 4) (part : Part) (value : W64)
  | ctAlarmCtrlWrite (who : Requester) (a : Fin 4) (value : W32)
  | reg64LowHalfRead (who : Requester) (offset : BitVec 32)
  -- 05, 06 Harts
  | load (h : HartId) (rd : Fin 32) (signed : Bool) (acc : Access)
  | store (h : HartId) (acc : Access) (value : W64)
  | storeBufferDrain (h : HartId)
  | combiningBufferDrain (h : HartId) (line : LineNo)
  | amo (h : HartId) (rd : Fin 32) (op : AmoOp) (acc : Access) (value : W64) (aq rl : Bool)
  | lr (h : HartId) (rd : Fin 32) (acc : Access) (aq rl : Bool) (constrained : Bool)
  | sc (h : HartId) (rd : Fin 32) (acc : Access) (value : W64) (aq rl : Bool)
  | lrDeferralTimeout (h : HartId)
  | fence (h : HartId) (pred succ : FenceSet)
  | fenceTso (h : HartId)
  | fenceI (h : HartId)
  | cboClean (h : HartId) (acc : Access)
  | cboFlush (h : HartId) (acc : Access)
  | cboInval (h : HartId) (acc : Access)
  | cboZero (h : HartId) (acc : Access)
  | prefetch (h : HartId) (kind : PrefetchKind) (acc : Access)
  | predFlush (h : HartId) (word : W32)
  | predBar (h : HartId) (word : W32)
  | pause (h : HartId)
  | wfi (h : HartId)
  | misaWrite (h : HartId) (value : W64) (insn : W32)
  | trapVectorWrite (h : HartId) (reg : TvecReg) (value : W64) (insn : W32)
  | satpWrite (h : HartId) (reg : AtpReg) (value : W64) (insn : W32)
  | pmpcfgWrite (h : HartId) (entry : Fin 16) (value : Byte) (insn : W32)
  | mhpmeventWrite (h : HartId) (n : Fin 8) (value : W64) (insn : W32)
  | counterWrite (h : HartId) (c : CounterId) (value : W64) (insn : W32)
  | skulctlWrite (h : HartId) (value : W64) (insn : W32)
  | hkulctlWrite (h : HartId) (value : W64) (insn : W32)
  | seedCsrRead (h : HartId) (rd : Fin 32) (insn : W32)
  -- 07 Mesh and DRAM
  | rdShared (core : HartId) (line : LineNo) (chk : HomeCheck)
  | rdUnique (core : HartId) (line : LineNo) (chk : HomeCheck)
  | upgrade (core : HartId) (line : LineNo)
  | wbDirty (core : HartId) (line : LineNo)
  | evictClean (core : HartId) (line : LineNo)
  | devRead (who : MeshReq) (line : LineNo) (chk : HomeCheck)
  | devWrite (who : MeshReq) (line : LineNo) (data : Line) (mask : BitVec 64)
  | snpShared (core : HartId) (line : LineNo)
  | snpUnique (core : HartId) (line : LineNo)
  | snpInv (core : HartId) (line : LineNo)
  | data (core : HartId) (line : LineNo)
  | dataDirty (core : HartId) (line : LineNo)
  | ack (core : HartId) (line : LineNo)
  | retry (who : MeshReq) (slice : SliceId)
  | trackerRelease (slice : SliceId) (line : LineNo)
  | creditGrant (who : MeshReq) (slice : SliceId)
  | patrolScrub (channel : Fin 4) (chk : DramCheck)
  | dramZeroing
  | pmcClear (h : HartId)
  | pmcFreeze (h : HartId) (freeze : Bool)
  -- 08 Keeper world
  | kenter (h : HartId) (word : W32)
  | kexit (h : HartId) (word : W32)
  | kresume (h : HartId) (word : W32)
  | asyncExit (h : HartId) (cause : W64)
  | enclaveBuild (h : HartId) (e : Byte)
  | enclaveSeal (h : HartId) (e : Byte)
  | enclaveDestroy (h : HartId) (e : Byte)
  | kpRangeWrite (h : HartId) (i : Fin 1024) (base : W64) (word1 : W64)
  | handoverRequest (h : HartId) (value : W32)
  | handoverBlockReset (block : Fin 16)
  | kpWdKick (h : HartId) (value : W32)
  | watchdogPreExpiry
  | watchdogExpiryHard
  | watchdogExpirySoft
  | kpVlogPop (h : HartId) (value : W32)
  | psGateWrite (who : Requester) (value : W32)
  | gateTakesEffect (block : Fin 16)
  | psIdleHintWrite (who : Requester) (value : W32)
  | idleHintUngate (unit : Fin 22)
  | kdbgChal
  | kdbgResp (resp : DebugResponse)
  | kdbgStat (shiftIn : W32)
  | dmiAccess (op : DmiOp)
  -- 09 Dispatch
  | dispNext (h : HartId) (word : W32) (sram : BitError)
  | dispEnq (h : HartId) (word : W32)
  | dispWait (h : HartId) (word : W32) (sram : BitError)
  | dispYield (h : HartId) (word : W32) (sram : BitError)
  | hkuldispWrite (h : HartId) (value : W64) (insn : W32)
  | tickBoundary (sram : BitError)
  | wakeHeldMove (d : FnId) (sram : BitError)
  | devicePost (source : Fin 255) (d : FnId) (payload : W64) (prio : Fin 16)
  | heldEventPost (d : FnId)
  | dsTraceRecLoRead (who : Requester) (corrected : Bool)
  | dsTraceRecHiRead (who : Requester) (corrected : Bool)
  | traceClrOvf (who : Requester)
  | traceRestart (who : Requester)
  -- 10 Host interface
  | msixDeliverPending (f : FnId) (v : Nat)
  | mbxVfSend (f : FnId)
  | mbxVfAck (f : FnId)
  | mbxPfSend (who : Requester)
  | mbxPfAck (who : Requester)
  | mbxMessageWrite (who : Requester) (n : Fin 16) (part : Part) (value : W64)
  | vfEnableWrite (enable : Bool)
  | numvfsWrite (n : BitVec 16)
  | vfFlr (f : FnId)
  | vfFlrComplete (f : FnId)
  | pfFlr
  | vfMoored (f : FnId)
  | custodyWait (c : CmdRef)
  | vfQuiesce (c : CmdRef)
  | vfDisposeRelease (c : CmdRef)
  | vfDisposeReset (c : CmdRef)
  | vfImportOffer (c : CmdRef)
  | vfExport (c : CmdRef)
  | vfImport (c : CmdRef)
  | vfExportCommit (c : CmdRef)
  | vfImportCommit (c : CmdRef)
  | vfExportAbort (c : CmdRef)
  | vfImportDiscard (c : CmdRef)
  | dirtySwitch (who : Requester)
  | fnDirtyBaseWrite (who : Requester) (bitmap : Bool) (part : Part) (value : W64)
  | hostReadCompletion (r : HostRead)
  | hostAccessResume (f : FnId)
  -- 11 Rings
  | ringEnable (who : Requester) (r : RingId) (value : W32)
  | ringDisable (who : Requester) (r : RingId) (value : W32)
  | rgNotifyWrite (who : Requester) (r : RingId) (value : W32)
  | ringConfigWrite (who : Requester) (r : RingId) (reg : Fin 3) (part : Part) (value : W64)
  | rgProdWrite (who : Requester) (r : RingId) (value : W32)
  | commandAccept (r : RingId)
  | commandComplete (r : RingId)
  | nop (c : CmdRef)
  | qRing (c : CmdRef)
  | qCommand (c : CmdRef)
  | qRecords (c : CmdRef)
  -- 12 Logbook
  | recordCommitted (a b : BankWrite)
  | bankSuspend (b : Bank)
  | bankResume (b : Bank)
  | bankFail (b : Bank)
  | carriedCopy (lsn : Nat)
  -- 13 Crypto and keys
  | hash (c : CmdRef)
  | aesCbc (c : CmdRef)
  | aesCtr (c : CmdRef)
  | aesGcm (c : CmdRef)
  | aesXts (c : CmdRef)
  | aesCmac (c : CmdRef)
  | aesKw (c : CmdRef)
  | aesKwp (c : CmdRef)
  | chachaPoly (c : CmdRef)
  | hmac (c : CmdRef)
  | kmac (c : CmdRef)
  | random (c : CmdRef)
  | keyImport (c : CmdRef)
  | keyGenerate (c : CmdRef)
  | keyDerive (c : CmdRef)
  | keyExport (c : CmdRef)
  | keyDestroy (c : CmdRef)
  | keyInfo (c : CmdRef)
  | kekRelease (c : CmdRef)
  | entropyHealthFail
  | entropyRestartDone
  | drbgReseed
  | cryptoLaneSelfTest (lane : LaneNo) (passed : Bool)
  | cryptoLaneFail (lane : LaneNo) (chain : Option CmdRef)
  -- 14 Modular and lattice units
  | mopen (c : CmdRef)
  | mclose (c : CmdRef)
  | mabort (c : CmdRef)
  | mload (c : CmdRef)
  | mstore (c : CmdRef)
  | mldkey (c : CmdRef)
  | madd (c : CmdRef)
  | msub (c : CmdRef)
  | mmul (c : CmdRef)
  | msqr (c : CmdRef)
  | minv (c : CmdRef)
  | mexp (c : CmdRef)
  | p384Sign (c : CmdRef)
  | p384Verify (c : CmdRef)
  | p384Agree (c : CmdRef)
  | mlkemEncaps (c : CmdRef)
  | mlkemDecaps (c : CmdRef)
  | mldsaSign (c : CmdRef)
  | mldsaVerify (c : CmdRef)
  | luNtt (c : CmdRef)
  | luIntt (c : CmdRef)
  | luPwmul (c : CmdRef)
  | luSample (c : CmdRef)
  | luCompress (c : CmdRef)
  | unitCommandEnd (unit : UnitNo) (how : UnitEnd)
  | muAbortWrite (who : Requester) (value : W32)
  | muSelfTest (unit : UnitNo) (passed : Bool) (memory : BitError)
  | muUnitFail (unit : Fin 4) (memory : Bool)
  | luUnitFail (unit : Fin 2) (memory : Bool)
  -- 15 Measurement and trips
  | measWindow (c : CmdRef)
  | windowClose (c : SiteId)
  | tripArm (c : CmdRef)
  | tripRelease (c : CmdRef)
  | tripAssert (c : CmdRef)
  | tripWait (c : CmdRef)
  | sampleOutput (c : SiteId) (bits : List Bool)
  | fastPathOutput (c : SiteId) (bits : BitVec 16)
  | noclkDeclared (c : SiteId)
  | noclkCleared (c : SiteId)
  | clkRangeMeasurement (c : SiteId) (tenKHz : BitVec 16)
  | stuckDeclared (c : SiteId)
  | stuckCleared (c : SiteId)
  | tripShortDetect (n : SiteId) (high : Bool)
  | tripOpenDetect (n : SiteId) (land : TripLand)
  | sdHistRead (who : Requester) (c : SiteId) (k : Fin 16)
  -- 16 Site lanes
  | laneDetectProbe (l : LineEnd) (far : FarEnd)
  | laneSwapDetect (l : LineEnd)
  | laneBlockLock (l : LineEnd) (inverted crossed : Bool)
  | laneBlockLockLoss (l : LineEnd)
  | laneHelloTimer (l : LineEnd)
  | laneHelloReceived (n : SiteId) (blocks : List Block)
  | laneDownTimeout (l : LineEnd)
  | dataFrameReceived (n : SiteId) (blocks : List Block)
  | voidFrameReceived (l : LineEnd) (blocks : List Block)
  | ackFrameReceived (l : LineEnd) (blocks : List Block)
  | epochStartReceived (n : SiteId) (blocks : List Block)
  | badFrameReceived (l : LineEnd) (blocks : List Block) (codeError : Bool)
  | laneAckTimeout (l : LineEnd)
  | laneSend (c : CmdRef)
  | laneRecv (c : CmdRef)
  -- 17 Firmware update; `worn`: a check of R793 failed for the fourth time
  | updOpen (c : CmdRef) (worn : Bool)
  | updBlock (c : CmdRef) (worn : Bool)
  | updClose (c : CmdRef) (worn : Bool)
  | updActivate (c : CmdRef)
  | updAbort (c : CmdRef)
  | chainReport (c : CmdRef)
  | upConfirm (who : Requester) (value : W32) (cutAfter : Option Nat)
  | healthWindowExpiry
  | norCommandTimeout
  | bcHello (p : Port) (blocks : List Block)
  | bcOffer (blocks : List Block) (worn : Bool)
  | bcAnswer (blocks : List Block)
  | bcBlockHdr (blocks : List Block)
  | bcBlockData (blocks : List Block) (worn : Bool)
  | bcResult (blocks : List Block)
  | bcReport (blocks : List Block)
  | bcPortLeavesUp (p : Port)
  | bcReofferTimer
  | dmOpen (who : Requester) (arg : Byte) (worn : Bool)
  | dmBlock (who : Requester) (worn : Bool)
  | dmClose (who : Requester) (arg : Byte) (worn : Bool)
  | dmActivate (who : Requester) (arg : Byte)
  | dmAbort (who : Requester)
  | dmStatus (who : Requester)
  | uartRequest (bytes : List Byte) (worn : Bool)
  -- 18 Trouble record
  | troubleW1cWrite (w : RegWrite)
  | psViolClr (who : Requester) (value : W32)
  | registerWrite (w : RegTarget)
  -- 19 Ports
  | smbPsStatus (pec : Bool)
  | smbTroubleSum (pec : Bool)
  | smbFeedAVoltage (pec : Bool)
  | smbFeedBVoltage (pec : Bool)
  | smbInputPower (pec : Bool)
  | smbDieTemperature (pec : Bool)
  | smbModId (pec : Bool)
  | smbPartId (pec : Bool)
  | smbDeviceSerial (pec : Bool)
  | smbUpStatus (pec : Bool)
  | smbWrite (code : Byte) (bytes : List Byte)
  | smbAlertResponse (pec : Bool)
  | extest (cells : List Bool)
  | idcode
  | samplePreload (cells : List Bool)
  | clamp
  | highz
  | bypass (code : BitVec 5) (tdi : Bool)
  | dtmcs (shiftIn : W32)
  | jtagTrst
  -- rows of 05, 04, 08 that the table lists last
  | timerInterrupt (h : HartId) (k : TimerKind)
  | polRailNotGood
  | holdupExhausted
  | gpioInputChange (levels : Byte)
  | internalDmaAccess (channel : Fin 32) (addr : BitVec 48) (op : DmaOp)
  deriving DecidableEq, Repr

end Sys2Proof
end

