-- ==== Sys2Proof/Decode.lean ====
section
/-!
DEFINITION. The vendor instructions' words (05 Tables 5.3 and 5.12, 08 Table 8.2, 09 Table 9.3), and the opcode table's
words: spec/opcode_table.json gives no row any bits, so no word of the table spells a command.
-/

namespace Sys2Proof

/-! ### Fields of an instruction word -/

/-- The major opcode, bits 6:0. -/
def wOpcode (w : W32) : BitVec 7 := w.extractLsb' 0 7
/-- rd, bits 11:7. -/
def wRd (w : W32) : BitVec 5 := w.extractLsb' 7 5
/-- funct3, bits 14:12. -/
def wFunct3 (w : W32) : BitVec 3 := w.extractLsb' 12 3
/-- rs1, bits 19:15. -/
def wRs1 (w : W32) : BitVec 5 := w.extractLsb' 15 5
/-- rs2, bits 24:20. -/
def wRs2 (w : W32) : BitVec 5 := w.extractLsb' 20 5
/-- imm[11:0], bits 31:20. -/
def wImm (w : W32) : BitVec 12 := w.extractLsb' 20 12
/-- funct7, bits 31:25. -/
def wFunct7 (w : W32) : BitVec 7 := w.extractLsb' 25 7

/-! ### The vendor instructions -/

/-- The instructions of Xkulpred, Xkulkeep and Xkuldisp. -/
inductive VendorOp | predFlush | predBar | kenter | kexit | kresume | dispNext | dispEnq | dispWait | dispYield
  deriving DecidableEq, Repr

/-- The word lies in custom-0 or custom-1 (R194). -/
def vendorSpace (w : W32) : Bool := wOpcode w == 0b0001011#7 || wOpcode w == 0b0101011#7

/-- Table 5.12: custom-0 with funct3 0b000. -/
def decodePred (w : W32) : Option VendorOp :=
  if wRd w ≠ 0 ∨ wRs1 w ≠ 0 then none
  else if wImm w = 0 then some .predFlush else if wImm w = 1 then some .predBar else none

/-- Table 8.2: custom-0 with funct3 0b001. -/
def decodeKeep (w : W32) : Option VendorOp :=
  if wRd w ≠ 0 then none
  else if wImm w = 0 then some .kenter
  else if wImm w = 1 then (if wRs1 w = 0 then some .kexit else none)
  else if wImm w = 2 then some .kresume else none

/-- Table 9.3: custom-1 with funct3 0b000, by funct7. -/
def decodeDisp (w : W32) : Option VendorOp :=
  if wFunct7 w = 0 then (if wRs1 w = 0 ∧ wRs2 w = 0 then some .dispNext else none)
  else if wFunct7 w = 1 then some .dispEnq
  else if wFunct7 w = 2 then (if wRs1 w = 0 ∧ wRs2 w = 0 then some .dispWait else none)
  else if wFunct7 w = 3 then (if wRs2 w = 0 then some .dispYield else none)
  else none

/-- R194: the vendor instruction that a word of custom-0 or custom-1 encodes; none for every word that Tables 5.3, 5.12, 8.2
and 9.3 do not allocate, which raises an illegal-instruction exception. -/
def vendorDecode (w : W32) : Option VendorOp :=
  if wOpcode w = 0b0001011#7 then
    (if wFunct3 w = 0 then decodePred w else if wFunct3 w = 1 then decodeKeep w else none)
  else if wOpcode w = 0b0101011#7 ∧ wFunct3 w = 0 then decodeDisp w
  else none

/-! ### Words of the opcode table -/

/-- The command that a word spells by the table's bits: none, since no row has bits. (DESIGN CHOICE, log 6.) -/
def decodeTableWord (_nbits _w : Nat) : Option Instr := none

end Sys2Proof
end

