-- ==== Sys2Proof/Config.lean ====
section
/-!
DEFINITION. What an implementation fixes and the spec leaves open: every constant here is opaque, so that nothing can be
proved of its value. A free value that is drawn anew each time is applied to the state's counter `free`.
-/

namespace Sys2Proof.Config

/-! ### Values drawn anew -/

/-- An open number: the n-th that the module takes. (DESIGN CHOICE, log 7.) -/
opaque freeNat : Nat → Nat
/-- An open choice. (DESIGN CHOICE, log 7.) -/
opaque freeBool : Nat → Bool
/-- Open bits, such as a nonce or entropy: the n-th draw. (DESIGN CHOICE, log 7.) -/
opaque freeBits (n w : Nat) : BitVec w
/-- The 48-byte output of the module DRBG that the n-th draw takes (R606). -/
opaque seed : Nat → BitVec 384

/-! ### Contents the spec does not give -/

/-- What a device agent's read of an address outside DRAM gives, by the address. (PRESUMED, log 10.) -/
opaque vacantByte : Nat → Byte
/-- The boot ROM's bytes. (DESIGN CHOICE, log 8.) -/
opaque romByte : Nat → Byte
/-- The on-die SRAM that holds the dispatch lists, as a Keeper-world load finds it (R401). -/
opaque dispatchSram : Nat → W64
/-- Double words of configuration space that PCIe itself lays out. (DESIGN CHOICE, log 8.) -/
opaque configWord : Nat → Nat → W32
/-- Which capability of Table 10.2, by its place there, has one of its double words at a double word of a function's configuration
space, and which of them. (DESIGN CHOICE, log 8.) -/
opaque capabilityAt : Nat → Nat → Option (Nat × Nat)
/-- Where the boot ROM puts the monitor region, and its size, in pages (R343). (DESIGN CHOICE, log 62.) -/
opaque monitorPage : Nat
opaque monitorPages : Nat
/-- The Keeper monitor's restart entry, and the hypervisor's entry point (R173, Table 4.3). (DEDUCED, log 22.) -/
opaque monitorEntry : W64
opaque hypervisorEntry : W64
/-- DTMCS as the RISC-V debug specification forms it. -/
opaque dtmcs : W32
/-- The boundary register's capture of the lands. (DESIGN CHOICE, log 71.) -/
opaque landCells : Nat → List Bool

/-! ### Keys and identities fused at manufacture -/

/-- The Dexrov update key pair of the boot ROM (R799): ML-DSA-87, and P-384 uncompressed. (DESIGN CHOICE, log 8.) -/
opaque dexrovUpdateKey : Unit → List Byte × List Byte
/-- The Dexrov debug key pair (R388). (DESIGN CHOICE, log 8.) -/
opaque dexrovDebugKey : Unit → List Byte × List Byte
/-- The key-derivation root KDR (R618). (DESIGN CHOICE, log 8.) -/
opaque kdr : BitVec 256
/-- The logbook key (R553). (DESIGN CHOICE, log 8.) -/
opaque logbookKey : BitVec 256
/-- DEVICE_SERIAL. (DESIGN CHOICE, log 8.) -/
opaque deviceSerial : W64
/-- The device identity's private halves (R483): the ML-DSA-87 seed and the P-384 scalar. (DESIGN CHOICE, log 8.) -/
opaque deviceIdentity : Unit → List Byte × Nat
/-- Dexrov's signatures in the module's own DEV_CERT, 4,728 bytes (R482). (DESIGN CHOICE, log 8.) -/
opaque deviceCertSignature : Unit → List Byte
/-- The device authority's public keys in the boot ROM (R482). (DESIGN CHOICE, log 8.) -/
opaque deviceAuthorityKey : Unit → List Byte × List Byte

/-! ### What a migration blob's bytes say -/

/-- The plaintext of a blob as the module lays it out, which the spec does not give, from what it holds (R485).
(DESIGN CHOICE, log 34.) -/
opaque blobPlain : List Byte → List Byte
/-- What a plaintext holds. (DESIGN CHOICE, log 34.) -/
opaque blobContent : List Byte → List Byte
/-- SOURCE_FN of an OFFER, which names a function that the offering module does not know, by its own function.
(DESIGN CHOICE, log 34.) -/
opaque offerSource : Nat → Byte

end Sys2Proof.Config
end

