-- ==== Sys2Proof/Machine/State.lean ====
section
/-!
DEFINITION. The state of the module: every register, buffer, counter, mode and land that spec/ gives it, as plain data,
with its value after reset as each field's default, and the queue of the commands that wait.
-/

namespace Sys2Proof.Machine

/-! ### Outputs -/

/-- What the module has sent out or signalled, newest first: its outputs, kept as plain data. -/
inductive OutEvent
  /-- One MSI-X message of a function on one of its vectors (R453). -/
  | msix (fn vector : Nat)
  /-- Interrupt identity sent to an IMSIC file of a hart: 0 the S-level file, 1-7 the guest files, 8 the M-level file (R208, R209). -/
  | imsic (hart file identity : Nat)
  /-- An APLIC source asserted or pulsed (Table 5.8). -/
  | aplic (source : Nat)
  /-- A register read's answer (R29, R100). -/
  | readData (value : W64)
  /-- A configuration request answered: true with CRS (R156). -/
  | config (fn : Nat) (crs : Bool)
  /-- The address and data of an I/O access to the outbound window (Table 5.5). -/
  | outbound (addr : Nat) (value : W64)
  /-- The blocks of a site-lane frame sent on a lane (R749), before scrambling. -/
  | laneFrame (lane : Nat) (blocks : List Block)
  /-- The blocks of a buoy-chain frame sent on a port: 0 upstream, 1 downstream (17). -/
  | chainFrame (port : Nat) (blocks : List Block)
  /-- A command to the attached NOR, by its 8D-8D-8D code, with the address it carries (Table 17.1). -/
  | nor (command : BitVec 16) (addr : Nat)
  /-- Bytes answered on the service UART (17). -/
  | uart (bytes : List Byte)
  /-- Data returned on SMBus (19). -/
  | smbus (bytes : List Byte)
  /-- Bits shifted out on TDO (19, 08 §8.11). -/
  | tdo (bits : Nat) (value : Nat)
  /-- A device agent's coherent read answered with a line (R306). -/
  | devData (requester line : Nat) (value : Line)
  /-- A device agent's coherent read answered with a poisoned line (R324). -/
  | devPoison (requester line : Nat)
  /-- What an internal DMA channel read at an address (R364). -/
  | dmaData (channel addr : Nat) (bytes : List Byte)
  /-- A RETRY answer of a home slice to a requester (R312). -/
  | retry (requester slice : Nat)
  /-- A request to host memory of a function: whether it writes, its address and its bytes (R445). -/
  | hostRequest (fn : Nat) (write : Bool) (addr bytes : Nat)
  /-- A CREDIT_GRANT of a home slice to a requester (R313). -/
  | grant (requester slice : Nat)
  deriving DecidableEq, Repr

/-! ### Cycle time (02) -/

/-- One alarm (§2.9): CT_ALARMa_CMP and CT_ALARMa_CTRL. -/
structure Alarm where
  cmp : W64 := 0
  enable : Bool := false
  fired : Bool := false
  vector : Byte := 0
  deriving DecidableEq, Repr

/-- The cycle-time unit. -/
structure Ct where
  /-- CT (R5), and the 32 bits of the phase accumulator below its fraction (R60). -/
  now : W64 := 0
  acc : W32 := 0
  /-- CT and accumulator as one number at the last measurement clocks, newest first, at most 40: the CT of a frame's boundary (R888). -/
  past : List Nat := []
  /-- MT (R62) and whether it counts yet. -/
  mt : W64 := 0
  mtRunning : Bool := false
  locked : Bool := false
  coasting : Bool := false
  holding : Bool := false
  testerHeld : Bool := false
  everLocked : Bool := false
  refOk : Bool := false
  datInverted : Bool := false
  aligned : Bool := false
  /-- Lock declared since the POWER-ON reset, or since a MODULE reset under R87: CT runs (R80, R97). -/
  running : Bool := false
  trouble : BitVec 5 := 0
  lastCount : W64 := 0
  period : W32 := 0
  /-- The period of the last frame taken before coasting began (R82). -/
  coastPeriod : W32 := 0
  /-- Measurement clocks since coasting began, at most 41, and LOCKED and the trouble bits from before it (R105). -/
  coastAge : Nat := 0
  beforeCoast : Option (Bool × BitVec 5) := none
  badFrames : W32 := 0
  /-- The previous valid frame's COUNT and PERIOD (R75, Table 2.2). -/
  prev : Option (W64 × W32) := none
  /-- Consecutive valid frames of which each adjacent pair agrees (R76). -/
  agree : Nat := 0
  /-- No frame has been valid since alignment (R73). -/
  fresh : Bool := true
  /-- What a slew still has to remove, in units of 2^-32 of the CT fraction, and in how many clocks (R78). -/
  slewErr : Int := 0
  slewLeft : Nat := 0
  /-- Alarm a of function f at 4 f + a (R88). -/
  alarms : Tab Alarm := []
  /-- CT_MTIMECMPh (R212). -/
  mtimecmp : Tab W64 := []
  deriving DecidableEq, Repr

/-! ### Light table (03) -/

/-- A FUNCTIONS entry (Table 3.3); the defaults are those of a VF without an entry. -/
structure FnEntry where
  hostRings : Nat := 2
  moduleRings : Nat := 2
  vectors : Nat := 4
  migratable : Bool := false
  deriving DecidableEq, Repr

/-- An enclave entry of WORLD (Table 3.5). -/
structure EnclDecl where
  id : Nat
  owner : Nat
  rings : Nat
  quota : Nat
  deriving DecidableEq, Repr

/-- A DISPATCH entry (Table 3.8). -/
structure DispDecl where
  domain : Nat
  ready : Nat
  delay : Nat
  affinity : BitVec 24
  deriving DecidableEq, Repr

/-- COEF's default: tap 31 of every set at 0.5 (Table 3.9). -/
def defaultCoef : List W32 := (List.replicate 8 ((List.replicate 31 0) ++ [0x20000000#32])).flatten

/-- The applied light table: every LT field (R118, R26). The field defaults are those of Tables 3.3 to 3.12. -/
structure LightTable where
  applied : Bool := false
  bootSlotB : Bool := false
  resultA : Byte := 0
  resultB : Byte := 0
  defaulted : BitVec 12 := 0
  serial : W64 := 0
  keyId : BitVec 2 := 0
  digest : BitVec 384 := 0
  vfCount : Nat := 0
  pfMgmtModule : Bool := false
  pfHostRings : Nat := 16
  fns : Tab FnEntry := []
  siteOwner : List Nat := List.replicate 64 0
  channelSite : List Nat := List.range 64
  failsafe : BitVec 64 := BitVec.allOnes 64
  cacheFlush : Bool := false
  wdHard : Bool := false
  wdTimeoutMs : Nat := 1000
  encl : List EnclDecl := []
  irqWorld : BitVec 512 := 0
  dmaWorld : W32 := 0
  gpioWorld : Byte := 0
  muInitial : BitVec 4 := 0
  luInitial : BitVec 2 := 0
  sdInitial : Byte := 0
  kekSalt : BitVec 256 := 0
  trustDomain : BitVec 128 := 0
  slotQuota : Nat := 32
  slotQuotas : List (Nat × Nat) := []
  tickExp : Nat := 0
  traceStop : Bool := false
  disp : List DispDecl := []
  coef : List W32 := defaultCoef
  chan : List W32 := List.replicate 64 0x01010013#32
  laneEnable : BitVec 64 := BitVec.allOnes 64
  ackTimeoutUs : Nat := 20
  retryLimit : Nat := 16
  acceptRateCap : Nat := 8000000
  healthWindowS : Nat := 300
  updFlags : BitVec 4 := 0b1011
  powerCapW : Nat := 320
  singleFeedTrouble : Bool := true
  warnC : Int := 90
  throttleC : Int := 100
  deriving DecidableEq, Repr

/-! ### Power, reset and start-up (04) -/

/-- One 48 V feed (Table 4.1). -/
structure FeedState where
  ok : Bool := false
  /-- The overvoltage disconnect is open (Table 4.1). -/
  overvoltage : Bool := false
  /-- The element opened on reverse current (Table 4.1). -/
  shorted : Bool := false
  /-- Last reported voltage in units of 10 mV; a negative feed reads 0 in PS_FEED_V (Table 4.6). -/
  volts : Int := 0
  deriving DecidableEq, Repr

/-- What the power subsystem is doing (R140, R143, R185). -/
inductive Supply
  /-- Every rail off; a feed becoming valid starts a POWER-ON reset. -/
  | off
  /-- A POWER-ON reset has started and the POL rails are not yet good. -/
  | starting
  /-- The rails are good. -/
  | on
  /-- Start-up stopped until both feeds have been removed for 1 s (R185). -/
  | lockout
  deriving DecidableEq, Repr

/-- The start-up milestone reached (Table 4.3). -/
inductive BootStage
  | none | rails | rom | lightTable | dram | replayed | service | daymark
  deriving DecidableEq, Repr

/-- The power subsystem and the reset unit. -/
structure Power where
  feedA : FeedState := {}
  feedB : FeedState := {}
  supply : Supply := .off
  stage : BootStage := .none
  /-- A MODULE reset is in progress (R150, R158). -/
  moduleReset : Bool := false
  /-- A power-fail commit was run and its end mark written (R143). -/
  commitDone : Bool := false
  /-- The commit is armed (R140). -/
  commitArmed : Bool := false
  /-- The commit-open mark in the power subsystem's non-volatile store (R574). -/
  commitMark : Bool := false
  /-- The cause kept in that store for the next POWER-ON reset (R176): 1, 2 or 3. -/
  nextCause : Nat := 1
  holdupReady : Bool := false
  capping : Bool := false
  throttling : Bool := false
  thermWarn : Bool := false
  trouble : BitVec 14 := 0
  /-- PS_TROUBLE_SUM.CARRIED. -/
  carried : Bool := false
  /-- PS_RESET_CAUSE.CAUSE and its count of MODULE resets (Table 4.6). -/
  cause : Nat := 1
  modResets : Nat := 0
  modId : BitVec 6 := 0x3F
  daymarkPin : Bool := true
  /-- PERST# asserted, at the land (R159). -/
  perst : Bool := true
  /-- The die temperature last reported, in degrees Celsius; 0 before any (R880). -/
  dieTemp : Int := 0
  inputDeciW : Nat := 0
  /-- The core clock in MHz (R187) and the limit that R136 sets. -/
  coreMHz : Nat := 3000
  capMHz : Nat := 3000
  /-- The part of a core clock, in 500ths, that the measurement clocks so far leave over (R189). -/
  clockPart : Nat := 0
  /-- A POWER-ON reset waits for the die temperature to fall (R851). -/
  thermalHold : Bool := false
  /-- Ring service was late (R153): FAULT# sinks. -/
  slow : Bool := false
  /-- No replay has completed since the POWER-ON reset: the next one still owes what R573 asks (R181). -/
  owesReplay : Bool := false
  deriving DecidableEq, Repr

/-! ### Harts (05, 06, 09 §9.1) -/

/-- Privilege modes (R190). -/
inductive Priv | u | s | m
  deriving DecidableEq, Repr

/-- Why a hart is stalled (R195, R231, R285, R415). -/
inductive Stall
  | none
  | wfi
  /-- PAUSE, with the clocks that it still lasts. -/
  | pause (clocks : Nat)
  | dispWait (rd : Nat)
  /-- Its instruction needs a line that another hart defers requests for (R285). -/
  | line (op : Instr)
  /-- PRED.BAR: a branch before it has not resolved (R231). -/
  | predBar
  deriving DecidableEq, Repr

/-- The caller context KENTER records (R353). -/
structure Caller where
  pc : W64
  priv : Priv
  v : Bool
  satp : W64
  deriving DecidableEq, Repr

/-- What one mode's trap CSRs hold of its last trap (R195): the pc, the cause, the faulting address or instruction bits, the
guest physical address shifted right by 2 (mtval2, htval), and the transformed instruction (mtinst, htinst). -/
structure TrapCsrs where
  pc : W64 := 0
  cause : W64 := 0
  tval : W64 := 0
  tval2 : W64 := 0
  tinst : W64 := 0
  deriving DecidableEq, Repr

/-- One interrupt file of an IMSIC, with identities 1-255 (R208): delivery enable, threshold, pending and enabled. -/
structure ImsicFile where
  delivery : Bool := false
  threshold : Nat := 0
  pend : BitVec 256 := 0
  enable : BitVec 256 := 0
  deriving DecidableEq, Repr

/-- A branch in flight with its checkpoint (R225, R226): the branch's address, and the global history and the return stack
from before it. -/
structure Checkpoint where
  pc : W64
  history : List Bool
  returns : List W64
  deriving DecidableEq, Repr

/-- The branch predictor of a hart (§5.9): the global history, newest first; the branch target buffer, the indirect-target
predictor and the direction tables, by branch address; the return stack, newest first, at most 32; and the branches in
flight, oldest first, at most 48. -/
structure Predictor where
  history : List Bool := []
  targets : Tab W64 := []
  indirect : Tab W64 := []
  directions : Tab Bool := []
  returns : List W64 := []
  inFlight : List Checkpoint := []
  deriving DecidableEq, Repr

/-- A line in an L1 (Table 5.9): its number, the set that its virtual address indexes (R215), its world and enclave (R218, R341), whether it was
allocated at lowest replacement priority (Table 6.1), and, in an L1I, what it held when it was filled (R216). -/
structure L1Line where
  line : Nat
  set : Nat
  keeper : Bool
  kenc : Byte := 0
  low : Bool := false
  data : Line := 0
  deriving DecidableEq, Repr

/-- A debug trigger (Table 5.4): tdata1 and tdata2. -/
structure Trigger where
  tdata1 : W64 := 0
  tdata2 : W64 := 0
  deriving DecidableEq, Repr

/-- A store-buffer entry (R245): its bytes by address, and whether the target is I/O. -/
structure SbEntry where
  bytes : Tab Byte
  io : Bool
  /-- The world and enclave in effect when the store executed (R341), and the checks it passed at fetch (R343, R346). -/
  keeper : Bool
  kenc : Byte
  inside : Bool
  /-- The virtual address, which indexes the L1D (R215), whether the line is allocated at lowest replacement priority
  (Table 6.1), and what its caches meet (R217). -/
  va : Nat := 0
  low : Bool := false
  cache : CacheCheck := {}
  deriving DecidableEq, Repr

/-- A combining-buffer entry (§6.3): its line, the bytes and the byte mask. -/
structure NtEntry where
  line : Nat
  data : Line
  mask : BitVec 64
  kenc : Byte
  keeper : Bool
  inside : Bool
  deriving DecidableEq, Repr

/-- A TLB entry with the tags of R204, the stage it translates, the walk that filled it, and the virtual and physical page. -/
structure TlbEntry where
  page : Nat
  asid : BitVec 16
  vmid : BitVec 14
  keeper : Bool
  kenc : Byte
  walk : Walk
  ppage : Nat
  deriving DecidableEq, Repr

/-- hkuldisp (Table 9.1), with the claimed priority while CLAIMED is 1 (R428). -/
structure DispBind where
  domain : Byte := 0
  en : Bool := false
  file : BitVec 3 := 0
  runprio : Nat := 16
  claimed : Option Nat := none
  deriving DecidableEq, Repr

/-- One hart. -/
structure Hart where
  inReset : Bool := true
  priv : Priv := .m
  v : Bool := false
  kenc : Byte := 0
  pc : W64 := 0x6000000000#64
  x : Tab W64 := []
  f : Tab W64 := []
  fcsr : W32 := 0
  /-- mstatus.FS and vsstatus.FS: 0 Off, 1 Initial, 2 Clean, 3 Dirty (R354). -/
  fs : BitVec 2 := 0
  vsFs : BitVec 2 := 0
  caller : Option Caller := none
  /-- mstatus.MPP and MPV, to which with mepc a forced return from M-mode goes (R379, Table 8.7). -/
  mpp : Priv := .m
  mpv : Bool := false
  /-- mstatus.MPIE, SPIE and SPP, hstatus.SPV, and vsstatus.SIE, SPIE and SPP. -/
  mpie : Bool := false
  spie : Bool := false
  spp : Bool := false
  spv : Bool := false
  vsie : Bool := false
  vspie : Bool := false
  vspp : Bool := false
  /-- The trap CSRs of M-mode, HS-mode and VS-mode. -/
  mtrap : TrapCsrs := {}
  strap : TrapCsrs := {}
  vstrap : TrapCsrs := {}
  medeleg : W64 := 0
  hedeleg : W64 := 0
  /-- Interrupts pending and enabled, by their RISC-V numbers (§5.6); mstatus.TW and hstatus.VTW (R195). -/
  mip : W64 := 0
  mie : W64 := 0
  tw : Bool := false
  vtw : Bool := false
  /-- mstatus.MIE and SIE, SUM, MXR and TVM, and hstatus.VTVM. -/
  mieBit : Bool := false
  sieBit : Bool := false
  sum : Bool := false
  mxr : Bool := false
  tvm : Bool := false
  vtvm : Bool := false
  /-- mstatus.TSR and GVA; hstatus.VTSR, GVA, SPVP and HU. -/
  tsr : Bool := false
  mgva : Bool := false
  vtsr : Bool := false
  hgva : Bool := false
  spvp : Bool := false
  hu : Bool := false
  /-- The IMSIC's files (R208): 0 the S-level file, 1-7 the guest files, 8 the M-level file; hgeie and hstatus.VGEIN. -/
  imsic : Tab ImsicFile := []
  hgeie : Byte := 0
  vgein : BitVec 3 := 0
  /-- menvcfg, senvcfg and henvcfg, whose Zicbom and Zicboz fields R219 names. -/
  menvcfg : W64 := 0
  senvcfg : W64 := 0
  henvcfg : W64 := 0
  /-- The line an LR reserves and whether its deferral runs (R281, R285). -/
  reserved : Option Nat := none
  resAddr : Nat := 0
  deferring : Bool := false
  /-- The LR began a constrained loop that nothing has broken yet (R284, R286). -/
  looping : Bool := false
  /-- SC failures of a constrained loop so far (R283, R285). -/
  scFails : Nat := 0
  stall : Stall := .none
  storeBuf : List SbEntry := []
  combining : List NtEntry := []
  satp : W64 := 0
  vsatp : W64 := 0
  hgatp : W64 := 0
  mtvec : W64 := 0
  stvec : W64 := 0
  vstvec : W64 := 0
  pmpcfg : Tab Byte := []
  pmpaddr : Tab W64 := []
  /-- mhpmevent3-10 at 0-7 (R235). -/
  mhpmevent : Tab W64 := []
  /-- mcycle at 0, minstret at 1, mhpmcounter3-10 at 2-9 (R195). -/
  counters : Tab W64 := []
  mcountinhibit : W32 := 0
  /-- mcounteren, scounteren and hcounteren: bits 0-10 (§5.10). -/
  mcounteren : W32 := 0
  scounteren : W32 := 0
  hcounteren : W32 := 0
  stimecmp : W64 := 0
  vstimecmp : W64 := 0
  htimedelta : W64 := 0
  skulctl : Bool := false
  hkulctl : Bool := false
  bind : DispBind := {}
  tlb : List TlbEntry := []
  pred : Predictor := {}
  /-- Lines in L1I and L1D, and instructions fetched ahead (R214, R216, R263). -/
  l1i : List L1Line := []
  l1d : List L1Line := []
  prefetched : Bool := false
  /-- Debug mode, dpc, dcsr's step, ebreak and cause fields, and the triggers 0-7 (Table 5.4). -/
  halted : Bool := false
  dpc : W64 := 0
  dcsr : W32 := 0
  /-- A halt request that waits for the hart to enter the Open world (R389). -/
  haltReq : Bool := false
  tselect : BitVec 3 := 0
  triggers : Tab Trigger := []
  /-- CSRs that only hold what is written to them, by number (Machine/Csrs.lean). -/
  csrs : Tab W64 := []
  deriving DecidableEq, Repr

/-! ### Mesh and DRAM (06, 07) -/

/-- A state of a line in an L2 (R305); I is absence. -/
inductive Moes | m | o | e | s
  deriving DecidableEq, Repr

/-- One L2's copy of a line, with the world and enclave tags of R218 and R341. -/
structure Copy where
  core : Nat
  st : Moes
  keeper : Bool
  kenc : Byte
  deriving DecidableEq, Repr

/-- The L3's copy of a line (R300). -/
inductive L3 | none | clean | dirty
  deriving DecidableEq, Repr

/-- The requests that a home slice serves (Table 7.2). -/
inductive ReqKind
  | rdShared | rdUnique | upgrade | wbDirty | evictClean | devRead
  | devWrite (data : Line) (mask : BitVec 64)
  deriving DecidableEq, Repr

/-- The tracker that a transaction holds (R311); none for one that an operation runs whole. -/
inductive Tracker | none | general | reserved
  deriving DecidableEq, Repr

/-- A snoop on its way to an L2 (Table 7.2). -/
inductive SnoopKind | shared | unique | inv
  deriving DecidableEq, Repr

/-- A transaction in progress on a line (R308): who asked for what, the snoops not yet answered, whether the data comes
with dirtiness, whether it has reached the requester, and the state the requester's copy takes. -/
structure Txn where
  core : Nat
  kind : ReqKind
  tracker : Tracker
  snoops : List (Nat × SnoopKind)
  dirtyData : Bool
  /-- The requester has its data, or needs none. -/
  delivered : Bool
  /-- ACK has been sent and received. -/
  acked : Bool
  /-- The state the requester's copy takes. -/
  into : Moes
  deriving DecidableEq, Repr

/-- A DRAM line's place in the caches. -/
structure LineState where
  copies : List Copy := []
  l3 : L3 := .none
  /-- The world of the L3's copy (R301). -/
  l3Keeper : Bool := false
  /-- The value in the caches is marked poisoned (R322); DRAM's own mark stands in `Mesh.poison`. -/
  bad : Bool := false
  txn : Option Txn := none
  deriving DecidableEq, Repr

/-- A request held back or waiting (R312, R315). -/
structure MeshRequest where
  who : Nat
  line : Nat
  kind : ReqKind
  chk : HomeCheck := {}
  /-- A write that its agent's operation has already had checked (R304), with the world it writes in. -/
  passed : Option Bool := none
  deriving DecidableEq, Repr

/-- One home slice's trackers (§7.4). `general` and `reserved` say which request each busy tracker serves, `held` whose
reserved tracker is kept after a CREDIT_GRANT (R313), `refused` the requests whose RETRY is on its way, `waiting` the
retried requests and those behind them in order (R314, R315), and `queued` requests that hold a tracker behind a
transaction on their line (R308). A requester with a refused or waiting request is owed a grant (R312). -/
structure Slice where
  general : List MeshRequest := []
  reserved : List MeshRequest := []
  held : List Nat := []
  refused : List MeshRequest := []
  waiting : List MeshRequest := []
  queued : List MeshRequest := []
  l3Hit : W64 := 0
  l3Miss : W64 := 0
  snoops : W64 := 0
  retries : W64 := 0
  hwm : Nat := 0
  deriving DecidableEq, Repr

/-- DRAM, the on-die SRAM and the memory controllers. -/
structure Mesh where
  /-- DRAM as every agent sees it coherently (R241); an unlisted byte reads 0 (R326). -/
  mem : List (Nat × Byte) := []
  /-- For a line whose newest value is only in a cache: what the DRAM devices still hold (Table 5.10, CBO.INVAL). -/
  stale : Tab Line := []
  /-- Lines that DRAM marks poisoned (R322), in ascending order. -/
  poison : List Nat := []
  lines : Tab LineState := []
  slices : Tab Slice := []
  /-- DEV_WRITEs that their agent holds back behind an earlier one of its own, in order (R276). -/
  behind : List MeshRequest := []
  /-- The on-die SRAM beyond the dispatch lists, by address (Table 5.5). -/
  sram : List (Nat × Byte) := []
  trained : BitVec 4 := 0
  devFailing : BitVec 4 := 0
  zeroed : Bool := false
  /-- The next line zeroing looks at, and the lines written before it came (R327). -/
  zeroNext : Nat := 0
  written : List Nat := []
  trouble : BitVec 8 := 0
  ceCount : Tab W32 := []
  ueCount : Tab W32 := []
  errAddr : W64 := 0
  devFail : Tab W32 := []
  scrubPass : Tab W32 := []
  /-- The patrol scrub's place in each channel, as a count of lines (R321). -/
  scrubNext : Tab Nat := []
  /-- Corrected errors of a device in this pass, at 40 channel + 20 subchannel + 10 rank + device (R325). -/
  devErrors : Tab Nat := []
  freeze : Bool := false
  /-- The XTS key table of the controllers (R329): entry 0 the monitor's, entry e enclave e's; the data key in the low half of each
  pair. -/
  xtsKeys : Tab (BitVec 512) := []
  deriving DecidableEq, Repr

/-! ### Keeper world (08) -/

/-- Enclave states (Table 8.1). -/
inductive EnclState | free | building | ready | running | suspended
  deriving DecidableEq, Repr

/-- One enclave's registers and the hart it runs on. -/
structure Enclave where
  st : EnclState := .free
  entry : W64 := 0
  satp : W64 := 0
  save : W64 := 0
  /-- The OWNER that the light table declared when it was built (R170). -/
  owner : Nat := 0
  deriving DecidableEq, Repr

/-- A range-table entry (Table 8.10, KP_RANGEi). -/
structure RangeEntry where
  base : Nat := 0
  pages : Nat := 0
  encl : Byte := 0
  valid : Bool := false
  deriving DecidableEq, Repr

/-- The kinds of a violation (Table 8.8); the numbers are their codes. -/
inductive ViolKind | enclaveRange | worldAttr | functionOwner | ltLock | gate | handover
  deriving DecidableEq, Repr

/-- A violation-log entry (R381). -/
structure VlogEntry where
  ct : W64
  addr : W64
  info : W64
  deriving DecidableEq, Repr

/-- The Keeper node. -/
structure Keeper where
  started : Bool := false
  down : Bool := false
  monBase : Nat := 0
  monSize : Nat := 0
  encl : Tab Enclave := []
  ranges : Tab RangeEntry := []
  trouble : BitVec 5 := 0
  vlog : List VlogEntry := []
  vlogLost : W32 := 0
  /-- KP_HO_STATUS: DONE and the last block. -/
  hoDone : Bool := false
  hoBlock : BitVec 5 := 0
  /-- Blocks in hand-over, numbered as in KP_HO_REQ, and the world each goes to (R366). -/
  handover : List (Nat × Bool) := []
  /-- Worlds: bit n set, Keeper-assigned (KP_PUB_OWNER); blocks numbered as in KP_HO_REQ. -/
  world : BitVec 16 := 0
  /-- PS_GATE's bits, and the gates that have taken effect (R370), by block number. -/
  gate : BitVec 16 := 0
  gated : BitVec 16 := 0
  /-- PS_IDLE_HINT (crypto lanes, MUs, LUs), and the units that have gated themselves (R373, R374). -/
  hint : BitVec 22 := 0
  selfGated : BitVec 22 := 0
  /-- Source 192 is asserted (R377). -/
  preExpiry : Bool := false
  /-- The watchdog's own counter: periods of 2 ns of the internal oscillator since its start or last kick (R375, R376). -/
  wdCount : Nat := 0
  dmaEid : Tab Byte := []
  gpioOut : Byte := 0
  gpioOe : Byte := 0
  /-- The levels of the GPIO lands. -/
  gpioLand : Byte := 0
  /-- KDBG_STAT (§8.11). -/
  reqLevel : BitVec 2 := 0
  reqKey : BitVec 2 := 0
  granted : BitVec 2 := 0
  fails : BitVec 2 := 0
  dbgLocked : Bool := false
  /-- The outstanding challenge: its LEVEL, KEY_ID and nonce (R386). -/
  challenge : Option (BitVec 8 × BitVec 8 × BitVec 256) := none
  /-- Debug-module registers reached through the DMI (R385), with sbcs.sbaccess at its reset value 2. (PRESUMED, log 64.) -/
  dmi : Tab W32 := [(0x38, 0x40000#32)]
  deriving DecidableEq, Repr

/-! ### Dispatch (09) -/

/-- A ready or delay entry (Table 9.2): `cyc` is ENQ_CYC or WAKE_CYC. -/
structure TaskEntry where
  payload : W64
  cyc : Nat
  prio : Nat
  source : Byte
  deriving DecidableEq, Repr

/-- A device event held for want of quota (R424). -/
structure HeldEvent where
  source : Nat
  payload : W64
  prio : Nat
  deriving DecidableEq, Repr

/-- One dispatch domain (R397). -/
structure Domain where
  /-- Ready lists 0-15, each first-in first-out (R404). -/
  ready : Tab (List TaskEntry) := []
  /-- The delay list, by ascending WAKE_CYC (R404). -/
  delay : List TaskEntry := []
  held : List HeldEvent := []
  flags : BitVec 5 := 0
  traceOn : Bool := false
  ovf : W32 := 0
  deriving DecidableEq, Repr

/-- A trace record (Table 9.7), with whether its domain's reader has read it. -/
structure TraceRec where
  ct : W64
  word : W64
  domain : Nat
  read : Bool
  deriving DecidableEq, Repr

/-- The dispatch unit. -/
structure Dispatch where
  doms : Tab Domain := []
  trouble : BitVec 5 := 0
  /-- The trace buffer, oldest first, at most 4,096 records (R433). -/
  trace : List TraceRec := []
  written : W32 := 0
  /-- Records latched for a reader by DS_TRACE_REC_LO (R437): the reader and the record's CT and word. -/
  latched : List (Requester × W64 × W64) := []
  deriving DecidableEq, Repr

/-! ### Host interface (10) -/

/-- VF states (Table 10.8). -/
inductive VfState | disabled | active | mooring | moored | exporting | imported
  deriving DecidableEq, Repr

/-- The causes of a mooring (Table 10.10); none before the first. -/
inductive MoorCause | none | pfQuiesce | flr | vfDisable | pfFlr | ltChange | import
  deriving DecidableEq, Repr

/-- One direction pair of a VF's mailbox (Table 10.18). -/
structure Mailbox where
  out : Tab W64 := []
  inn : Tab W64 := []
  outPending : Bool := false
  inPending : Bool := false
  vector : BitVec 4 := 0
  deriving DecidableEq, Repr

/-- One MSI-X table entry and its PBA bit (R453). -/
structure MsixEntry where
  addr : W64 := 0
  data : W32 := 0
  masked : Bool := true
  pba : Bool := false
  deriving DecidableEq, Repr

/-- Dirty-page logging of one VF (Table 10.17). -/
structure Dirty where
  base0 : W64 := 0
  base1 : W64 := 0
  limit : W64 := 0
  enable : Bool := false
  active : Bool := false
  switched : Bool := false
  overflow : Bool := false
  deriving DecidableEq, Repr

/-- An outstanding migration offer of a function (R487): its MIGRATION_ID, the ML-KEM seed and the ephemeral scalar that the
module keeps, and SHA-384 of the offer's header and body. -/
structure Offer where
  id : BitVec 128
  kem : List Byte
  scalar : Nat
  digest : List Byte
  deriving DecidableEq, Repr

/-- One function's host-side state. -/
structure Fn where
  busMaster : Bool := false
  msixEnable : Bool := false
  fnMask : Bool := false
  msix : Tab MsixEntry := []
  /-- Vectors whose messages wait under R162, in order. -/
  heldMsgs : List Nat := []
  /-- Writes to host memory that wait until the function reaches it, in order (R162). -/
  heldWrites : List (Nat × List Byte) := []
  /-- Max_Payload_Size and Max_Read_Request_Size, by their codes (R445). -/
  maxPayload : BitVec 3 := 0
  maxRead : BitVec 3 := 2
  /-- The function is in D3hot, not D0 (Table 10.2). -/
  d3hot : Bool := false
  flrBusy : Bool := false
  vf : VfState := .disabled
  cause : MoorCause := .none
  drain : Bool := false
  offer : Option Offer := none
  /-- SHA-384 of the blob exported, or of the receipt returned, and the other module's serial (R490, R491). -/
  sentDigest : List Byte := []
  peer : W64 := 0
  migrationId : BitVec 128 := 0
  mbx : Mailbox := {}
  dirty : Dirty := {}
  deriving DecidableEq, Repr

/-- A custody report waiting for a CUSTODY_WAIT (R469): its 64 bytes. -/
abbrev CustodyReport := Line

/-- The host interface. -/
structure HostIf where
  linkUp : Bool := false
  /-- Link training is enabled (Table 4.3, R164). -/
  training : Bool := false
  numVfs : Nat := 0
  vfEnable : Bool := false
  /-- ARI Capable Hierarchy (Table 10.3). -/
  ariHierarchy : Bool := false
  fns : Tab Fn := []
  mbxSel : Byte := 0
  mbxVector : BitVec 6 := 0
  dirtySel : Byte := 0
  reports : List CustodyReport := []
  /-- Host memory as the module reads and has written it (10, 11). -/
  hostMem : List (Nat × Byte) := []
  /-- Read latches (R100, R733): requester, offset of the register read, and what its second half gives. -/
  latches : List (Requester × Nat × W64) := []
  deriving DecidableEq, Repr

/-! ### Rings (11) -/

/-- Origin of a ring (R19). -/
inductive Origin | host | module
  deriving DecidableEq, Repr

/-- Where a ring lies: function, origin and enclave (R19). -/
structure RingIdent where
  fn : Nat := 0
  origin : Origin := .host
  encl : Nat := 0
  deriving DecidableEq, Repr

/-- How a command ended: the fields of its completion (Table 11.5) but TAG, ACCEPT_SEQ and CT. -/
structure Result where
  status : Nat
  cflags : Nat := 0
  len : Nat := 0
  result32 : Nat := 0
  deriving DecidableEq, Repr

/-- Progress of an accepted command (R523, R525). -/
inductive CmdState
  | accepted
  | started
  | finished (r : Result)
  deriving DecidableEq, Repr

/-- An accepted command that has no completion yet (R512). -/
structure Cmd where
  seq : Nat
  descs : List Line
  ct : W64
  unreadable : Bool := false
  /-- Closed under R522. -/
  tooLong : Bool := false
  /-- The command's logged seed (R42, R555); none where its opcode draws none. -/
  seed : Option (BitVec 384) := none
  /-- It was drawn while DRBG_OK was 0: 48 zero bytes (R608). -/
  seedZero : Bool := false
  snapshot : Option Line := none
  attempt : Nat := 0
  st : CmdState := .accepted
  /-- LSN of its ACCEPT record. -/
  lsn : Nat := 0
  /-- The unit it runs on: ENGINE and engine number (R894). -/
  engine : Nat × Nat := (0, 0)
  /-- Completes with ABORTED after a POWER-ON reset (R573). -/
  aborted : Bool := false
  /-- Executed again after a reset or on another unit (R556, R894). -/
  reexec : Bool := false
  /-- What its execution before a reset gave; executing it again gives the same (R562, R563). -/
  prior : Option Result := none
  deriving DecidableEq, Repr

/-- One ring (§11.2). -/
structure Ring where
  base : W64 := 0
  cplBase : W64 := 0
  size : BitVec 5 := 0
  enabled : Bool := false
  badcfg : Bool := false
  draining : Bool := false
  notify : BitVec 2 := 0
  vector : BitVec 6 := 0
  evprio : BitVec 4 := 0
  prod : W32 := 0
  done : W32 := 0
  acceptSeq : Nat := 0
  doneSeq : Nat := 0
  trouble : BitVec 4 := 0
  event : W64 := 0
  /-- The identity the ring's latest RING_IDENTITY record holds (R503, R891). -/
  recIdent : Option RingIdent := none
  /-- R172: former identity's commands are still to be disposed of, so the ring accepts nothing. -/
  former : Bool := false
  cmds : List Cmd := []
  lastAcceptCt : W64 := 0
  lastDoneCt : W64 := 0
  /-- The next descriptor's host read failed (R446, R895): its sequence. -/
  descError : Option Nat := none
  deriving DecidableEq, Repr

/-- The ring engine. -/
structure Rings where
  tab : Tab Ring := []
  /-- R48 applies. -/
  closed : Bool := false
  /-- Commands that the allowance still holds (R532), and the ring after the last accepted one (R533). -/
  allowance : Nat := 0
  turn : Nat := 0
  /-- R892: this boot's replay rebuilt nothing, so no command executes and no completion is written. -/
  unreplayed : Bool := false
  deriving DecidableEq, Repr

/-! ### Logbook (12) -/

/-- One bank (R543). -/
structure BankState where
  failed : Bool := false
  suspended : Bool := false
  retired : Nat := 0
  /-- Lines by LSN that the bank holds. -/
  lines : Tab Line := []
  /-- LSNs committed while it was suspended, oldest first (R890). -/
  missed : List Nat := []
  /-- Lines written since manufacture. -/
  writes : Nat := 0
  deriving DecidableEq, Repr

/-- What one commit or one check of a bank added to the wear: module time, lines committed, lines written to each bank and
lines that each bank retired (R583, LB_RATE). -/
structure WearNote where
  mt : W64
  lines : Nat := 0
  writesA : Nat := 0
  writesB : Nat := 0
  retiredA : Nat := 0
  retiredB : Nat := 0
  deriving DecidableEq, Repr

/-- The logbook. -/
structure Logbook where
  a : BankState := {}
  b : BankState := {}
  /-- The LSN the next line takes (LB_HEAD). -/
  head : Nat := 0
  opened : Bool := false
  replaying : Bool := false
  liveFull : Bool := false
  wearClosed : Bool := false
  trouble : BitVec 9 := 0
  retries : W32 := 0
  /-- The wear of the last 24 h of module time, newest first: LB_RATE and LB_LIFE are read from it. -/
  history : List WearNote := []
  winBase : W64 := 0
  /-- Records formed and not yet reported committed: LSN of each header and its lines. -/
  formed : List (Nat × Nat) := []
  /-- CARRIED_TROUBLE records below this LSN have been restored by a completed replay (R564). -/
  restored : Nat := 0
  /-- LSNs kept in place for Q_RECORDS commands (R896). -/
  kept : List Nat := []
  deriving DecidableEq, Repr

/-! ### Crypto engine and key store (13) -/

/-- A key slot in use (R610). -/
structure KeySlot where
  fn : Nat
  encl : Nat
  alg : Nat
  usage : BitVec 16
  key : List Byte
  ct : W64
  /-- The creating command's ring and sequence (R616). -/
  ring : Nat
  seq : Nat
  /-- Found uncorrectable (§13.11). -/
  bad : Bool := false
  deriving DecidableEq, Repr

/-- The crypto engine. -/
structure Crypto where
  laneOk : BitVec 16 := 0
  esOk : Bool := false
  drbgOk : Bool := false
  trouble : BitVec 5 := 0
  chains : W64 := 0
  /-- The slots in use, by number. -/
  slots : Tab KeySlot := []
  deriving DecidableEq, Repr

/-! ### Modular and lattice units (14) -/

/-- An operand register: its 8,192 bits and its tag (R652). -/
structure MuReg where
  val : Nat := 0
  secret : Bool := false
  key : Bool := false
  draw : Nat := 0
  deriving DecidableEq, Repr

/-- A session on an MU, or on a twin pair by its lower unit (R638-R643). -/
structure Session where
  ring : Nat
  fn : Nat
  encl : Nat
  num : Nat
  check : Bool
  twin : Bool
  broken : Bool := false
  regs : Tab MuReg := []
  /-- Random draws so far (R652). -/
  draws : Nat := 0
  deriving DecidableEq, Repr

/-- A command that a unit runs: the operands were read when it started (R614), so what its end will write is known, but
nothing of it is written before the unit signals the end (R637, R662). -/
structure UnitRun where
  ring : Nat
  seq : Nat
  /-- It runs on a twin pair, in both of its units. -/
  pair : Bool := false
  check : Bool := false
  twin : Bool := false
  /-- The lower unit of the session it names, or opened. -/
  session : Option Nat := none
  result : Result := { status := 0 }
  /-- Its output, by address. -/
  writes : List (Nat × List Byte) := []
  /-- The session as it leaves it. -/
  after : Option Session := none
  /-- It ends the session. -/
  closes : Bool := false
  /-- The slot it makes (R675): ALG, usage and material. -/
  slot : Option (Nat × BitVec 16 × List Byte) := none
  /-- Rejection-loop iterations (R681), and whether sampling was extended (R682). -/
  iter : Nat := 0
  extend : Bool := false
  deriving DecidableEq, Repr

/-- The modular and lattice units; unit 0-3 the MUs, 4-5 the LUs. -/
structure Units where
  ok : BitVec 6 := 0
  /-- The command each busy unit runs; a pair's command stands at both of its units. -/
  busy : Tab UnitRun := []
  sessions : Tab Session := []
  /-- Generation counts of the units (R638). -/
  gens : Tab Nat := []
  muTrouble : BitVec 6 := 0
  luTrouble : BitVec 4 := 0
  cmds : Tab W64 := []
  iterMax : W32 := 0
  deriving DecidableEq, Repr

/-! ### Measurement chain (15) -/

/-- A window integrator in use (R707-R715): the command it serves, and what it has summed. -/
structure Window where
  ring : Nat
  seq : Nat
  openCt : W64
  closeCt : W64
  sum : Int := 0
  count : Nat := 0
  flags : BitVec 16 := 0
  firstCt : W64 := 0
  lastCt : W64 := 0
  closed : Bool := false
  deriving DecidableEq, Repr

/-- One sample kept in SD_HIST: its value, its SEQ and its stamp (R733). -/
structure Sample where
  value : Int
  seq : W32
  stamp : W64
  deriving DecidableEq, Repr

/-- The decimation chain of one channel (R696): what each stage remembers, newest first, and how many of its inputs have
come since its last output. -/
structure Chain where
  bits : List Bool := []
  bitPhase : Nat := 0
  half1 : List Int := []
  half1Phase : Nat := 0
  half2 : List Int := []
  half2Phase : Nat := 0
  fir : List Int := []
  firPhase : Nat := 0
  deriving DecidableEq, Repr

/-- SD block c: channel c, and the trouble register that it shares with site c. -/
structure Channel where
  noclk : Bool := false
  clkRange : Bool := false
  stuck : Bool := false
  fmod : BitVec 16 := 0
  trouble : BitVec 8 := 0
  chain : Chain := {}
  seq : W32 := 0
  /-- The last samples, newest first, at most 16. -/
  hist : List Sample := []
  /-- The fast path's last bits, newest first, and its latest output (R717). -/
  fastBits : List Bool := []
  fast : Int := 0
  hi : Int := 8388607
  lo : Int := -8388608
  armed : Bool := false
  faultTrip : Bool := false
  qual : Nat := 0
  wins : List Window := []
  postEn : Bool := false
  evprio : BitVec 4 := 0
  event : W64 := 0
  deriving DecidableEq, Repr

/-- A TRIP_WAIT of a site: its command, and its stored result, empty while it waits (R723). -/
structure WaitResult where
  ring : Nat
  seq : Nat
  bytes : List Byte
  deriving DecidableEq, Repr

/-- The TRIP output of one site (Table 15.12, R724). -/
structure TripSite where
  asserted : Bool := false
  cause : Nat := 0
  channel : Nat := 0xFF
  ct : W64 := 0
  landHigh : Bool := false
  waits : List WaitResult := []
  deriving DecidableEq, Repr

/-- The measurement chain. -/
structure Measure where
  chans : Tab Channel := []
  sites : Tab TripSite := []
  /-- SITE_OWNER and CHANNEL_SITE of the table applied last since POWER-ON (R739, R905). -/
  before : Option (List Nat × List Nat) := none
  sat : BitVec 64 := 0
  deriving DecidableEq, Repr

/-! ### Site lanes (16) -/

/-- Lane states (Table 16.1). -/
inductive LaneSt | disabled | detect | align | hello | up | down
  deriving DecidableEq, Repr

/-- An outbound entry (R762-R765, R774). -/
structure OutFrame where
  epoch : Nat
  seq : W32
  type : Nat
  flags : Nat
  payload : List Byte
  ring : Nat
  cmd : Nat
  /-- The status that a VOID frame's start decided (R774, R778). -/
  decided : Option Nat := none
  sent : Bool := false
  /-- What its command completes with, once it is acknowledged or given up. -/
  result : Option Result := none
  /-- Its command is one that R573 completes with ABORTED (R782). -/
  orphan : Bool := false
  deriving DecidableEq, Repr

/-- An inbound entry (R783, R784): the frame's header and payload, the CT at receipt, and the command bound to it. -/
structure InFrame where
  epoch : Nat
  seq : W32
  type : Nat
  flags : Nat
  payload : List Byte
  ct : W64
  bound : Option (Nat × Nat) := none
  deriving DecidableEq, Repr

/-- One site lane. -/
structure Lane where
  st : LaneSt := .disabled
  rxInverted : Bool := false
  swapped : Bool := false
  blockLock : Bool := false
  /-- How far a lane in DOWN has retrained: DETECT, ALIGN or HELLO (Table 16.1). -/
  train : LaneSt := .detect
  txEpoch : Nat := 0
  /-- Sequences used in the outbound epoch (R766). -/
  txUsed : Nat := 0
  txNext : W32 := 0
  txAcked : W32 := 0xFFFFFFFF#32
  /-- EPOCH_START is being sent until an ACK of the epoch comes, with its FIRST_SEQ (R767). -/
  starting : Option W32 := none
  rxEpoch : Nat := 0
  rxSeq : W32 := 0
  /-- There is a current inbound epoch (R902). -/
  rxCurrent : Bool := false
  credit : Nat := 0
  timeouts : Nat := 0
  outs : List OutFrame := []
  ins : List InFrame := []
  /-- LANE_RECVs that wait for a frame, in the order they started (R784): ring and sequence. -/
  recvs : List (Nat × Nat) := []
  postEn : Bool := false
  evprio : BitVec 4 := 0
  event : W64 := 0
  trouble : BitVec 8 := 0
  crcErrors : W32 := 0
  retransmits : W32 := 0
  deriving DecidableEq, Repr

/-- The site lanes. -/
structure Lanes where
  tab : Tab Lane := []
  deriving DecidableEq, Repr

/-! ### Firmware update and the buoy chain (17) -/

/-- Slot states (Table 17.6). -/
inductive SlotSt | empty | writing | staged | trial | confirmed | invalid | worn
  deriving DecidableEq, Repr

/-- What the boot control record holds of a slot (R800), with its BUILD_ID. -/
structure SlotRec where
  st : SlotSt := .empty
  attempts : Nat := 0
  fails : Nat := 0
  /-- Erase cycles by erase block. -/
  erases : Tab Nat := []
  secVer : Nat := 0
  ltVer : Nat := 0
  booting : Bool := false
  build : W64 := 0
  deriving DecidableEq, Repr

/-- Where a transfer comes from (UP_STATUS.XFER_SOURCE). -/
inductive XferSource | host | chain | daymark
  deriving DecidableEq, Repr

/-- The one open transfer (R812). -/
structure Transfer where
  target : Slot
  lightTable : Bool
  total : Nat
  source : XferSource
  /-- Ranges written so far: offset, length, and the command that wrote them (R815). -/
  blocks : List (Nat × Nat × Option (Nat × Nat)) := []
  /-- The chain's offer: HOPS and the package digest (R825). -/
  hops : Nat := 0
  digest : List Byte := []
  /-- The current chain block: its number, length and digest, and its bytes so far. -/
  block : Option (Nat × Nat × List Byte) := none
  got : List Byte := []
  deriving DecidableEq, Repr

/-- What the sender of a forwarding waits for (R824, R828): its port's return to UP, an ANSWER, a RESULT, or the next second
after an XFER_OPEN. -/
inductive FwdStage | port | answer | result | reoffer
  deriving DecidableEq, Repr

/-- The latest forwarding down the chain (R824). -/
structure Forward where
  slot : Slot
  lightTable : Bool
  len : Nat
  digest : List Byte
  hops : Nat
  stage : FwdStage
  /-- Offers made again after a link return, and after XFER_OPEN (R828). -/
  links : Nat := 0
  waits : Nat := 0
  deriving DecidableEq, Repr

/-- A frame that a port has still to deliver (R821: no store, so it is lost when the port leaves UP). -/
structure ChainOut where
  seq : W32
  type : Nat
  payload : List Byte
  sent : Bool := false
  deriving DecidableEq, Repr

/-- One buoy-chain port (BC_STATUSp, R821). -/
structure ChainPort where
  st : LaneSt := .disabled
  /-- How far a port in DOWN has retrained. -/
  train : LaneSt := .detect
  inverted : Bool := false
  swapped : Bool := false
  crossed : Bool := false
  peer : BitVec 6 := 0
  peerSerial : W64 := 0
  txNext : W32 := 0
  txAcked : W32 := 0xFFFFFFFF#32
  rxSeq : W32 := 0xFFFFFFFF#32
  credit : Nat := 32
  timeouts : Nat := 0
  outs : List ChainOut := []
  deriving DecidableEq, Repr

/-- The update unit. -/
structure Update where
  a : SlotRec := {}
  b : SlotRec := {}
  preferredB : Bool := false
  floor : Nat := 0
  fuses : Nat := 0
  /-- A fuse blow that a reset interrupted (R809). -/
  blowing : Bool := false
  retained : BitVec 4 := 0b1011
  /-- The attached NOR; an unlisted byte is erased, 0xFF. -/
  nor : Tab Byte := []
  /-- Retries of the NOR command in progress (R792). -/
  norRetries : Nat := 0
  trouble : BitVec 5 := 0
  /-- The booted slot boots as a trial. -/
  trial : Bool := false
  /-- The candidates of this boot not yet tried, the chosen one first (R801). -/
  tries : List Slot := []
  revertPending : Bool := false
  daymark : Bool := false
  daymarkCause : Nat := 0
  /-- Module time at which the health window ends (R805). -/
  health : Option W64 := none
  xfer : Option Transfer := none
  dmArg : W64 := 0
  dmStatus : Nat := 0
  dmResult : W32 := 0
  /-- The 64 KiB buffer of Daymark mode (R831). -/
  dmBuf : List (Nat × Byte) := []
  /-- SEQ of the previous UART frame, and its answer (R832). -/
  uartLast : Option (Byte × List Byte) := none
  portUp : ChainPort := {}
  portDown : ChainPort := {}
  bcTrouble : BitVec 6 := 0
  fwd : Option Forward := none
  /-- Report entries of the latest forwarding, in order of arrival (R827). -/
  reports : List (List Byte) := []
  deriving DecidableEq, Repr

/-! ### JTAG and other lands (19) -/

/-- The TAP and the lands that no other unit holds: its instruction, the boundary register's update latches and the bypass
bit. -/
structure Ports where
  ir : BitVec 5 := 1
  cells : List Bool := []
  bypass : Bool := false
  /-- MOD_RESET# is held low. -/
  modResetLow : Bool := false
  deriving DecidableEq, Repr

/-! ### The APLIC (05 §5.6, 08 §8.6) -/

/-- Where a source's MSI goes: the hart, the file (0 S-level or M-level, 1-7 guest), and the identity (R208, R210). -/
structure MsiTarget where
  hart : Nat := 0
  file : Nat := 0
  identity : Nat := 0
  deriving DecidableEq, Repr

/-- One interrupt domain of the APLIC (R210): domaincfg.IE, and by source: enabled, pending, and where its MSI goes. -/
structure AplicDomain where
  ie : Bool := false
  enable : BitVec 512 := 0
  pend : BitVec 512 := 0
  target : Tab MsiTarget := []
  deriving DecidableEq, Repr

/-- The APLIC: the M-level root domain and the S-level child domain (R210). -/
structure Aplic where
  root : AplicDomain := {}
  child : AplicDomain := {}
  deriving DecidableEq, Repr

/-! ### The machine -/

/-- What the present clock has seen, so that the rules for events of one clock hold whatever the order of their commands: the
trouble bits that were set, by register offset (R54); how many entries the violation log took (R57), and the violations of each
function (R852); the MODULE reset that began, by its cause (R175); and that the watchdog was kicked (R394).
(DESIGN CHOICE, log 5.) -/
structure ClockNotes where
  raised : Tab Nat := []
  logged : Nat := 0
  counted : Tab W32 := []
  reset : Option Nat := none
  kicked : Bool := false
  deriving DecidableEq, Repr


/-- The whole module. The defaults are the state right after reset (Tables 4.5, 4.6 and the register tables): unpowered,
before the first feed becomes valid. `free` counts the open values taken so far (the model's own field). -/
structure State where
  ct : Ct := {}
  lt : LightTable := {}
  pwr : Power := {}
  harts : Tab Hart := []
  mesh : Mesh := {}
  kp : Keeper := {}
  disp : Dispatch := {}
  host : HostIf := {}
  rings : Rings := {}
  lb : Logbook := {}
  cx : Crypto := {}
  mu : Units := {}
  sd : Measure := {}
  ln : Lanes := {}
  up : Update := {}
  port : Ports := {}
  aplic : Aplic := {}
  clock : ClockNotes := {}
  /-- PS_VIOLf by function (Table 18.2). -/
  viol : Tab W32 := []
  /-- Outputs, newest first. -/
  out : List OutEvent := []
  free : Nat := 0
  /-- Commands waiting, first in first out. -/
  pending : List Instr := []
  deriving DecidableEq, Repr

/-- Where the module's run ends. -/
inductive Fault
  /-- R855: a stress beyond Table 19.1; the module falls outside every promise of the manual. Raised by the feed rows. Safe. -/
  | absoluteMaximum
  deriving DecidableEq, Repr

/-- What the model refuses. -/
inductive Refusal
  /-- The command has no meaning yet. Raised by exec's arms alone. Safe. -/
  | notModelled (mnemonic : String)
  deriving DecidableEq, Repr

/-- The module right after reset. (DESIGN CHOICE, log 1.) -/
def State.reset : State := {}

end Sys2Proof.Machine
end

