-- ==== Sys2Proof/Machine/Ops.lean ====
section
/-!
DEFINITION. The shared operations over tables, bytes, memory and the state's blocks.

Every read or write of a table goes through `tget` and `tset`, every byte of a memory through `bget` and `bset`, and every
change of a block of the state through that block's `on…` operation, so that each is said once (Laws/Ops.lean and
Laws/State.lean prove what they do).
-/

namespace Sys2Proof.Machine

/-! ### Tables -/

/-- What number `k` of a table reads as; `d` is what an unlisted number reads as. -/
def tget {α : Type} (d : α) : Tab α → Nat → α
  | [], _ => d
  | (j, v) :: t, k => if j = k then v else tget d t k

/-- Removes number `k` from a table. -/
def tdel {α : Type} : Tab α → Nat → Tab α
  | [], _ => []
  | (j, v) :: t, k => if j = k then t else if k < j then (j, v) :: t else (j, v) :: tdel t k

/-- Lists number `k` with value `v`, in the place its order gives. -/
def tput {α : Type} (v : α) : Tab α → Nat → Tab α
  | [], k => [(k, v)]
  | (j, w) :: t, k => if j = k then (k, v) :: t else if k < j then (k, v) :: (j, w) :: t else (j, w) :: tput v t k

/-- Writes number `k` of a table; writing what an unlisted number reads as removes the entry. -/
def tset {α : Type} [DecidableEq α] (d : α) (t : Tab α) (k : Nat) (v : α) : Tab α :=
  if v = d then tdel t k else tput v t k

/-- Changes number `k` of a table. -/
def tmod {α : Type} [DecidableEq α] (d : α) (t : Tab α) (k : Nat) (f : α → α) : Tab α :=
  tset d t k (f (tget d t k))

/-- Every listed number is above `lo` and the numbers rise. -/
def risesAbove {α : Type} : Nat → Tab α → Bool
  | _, [] => true
  | lo, (k, _) :: t => decide (lo < k) && risesAbove k t

/-- The numbers of a table rise strictly. -/
def rises {α : Type} : Tab α → Bool
  | [] => true
  | (k, _) :: t => risesAbove k t

/-- The canonical form: numbers rise strictly, and no entry is what an unlisted number reads as. -/
def twf {α : Type} [DecidableEq α] (d : α) (t : Tab α) : Bool :=
  rises t && t.all fun e => decide (e.2 ≠ d)

/-! ### Memory -/

/-- The canonical form of a memory: addresses rise strictly and no listed byte is 0, what an unlisted one reads as. -/
def Memory.wf (m : List (Nat × Byte)) : Bool := twf (0 : Byte) m

/-- One byte of a memory; an address nothing has written reads 0 (R326). (DESIGN CHOICE, log 9.) -/
def bget (m : List (Nat × Byte)) (a : Nat) : Byte := tget 0 m a

/-- Writes one byte of a memory. (DESIGN CHOICE, log 9.) -/
def bset (m : List (Nat × Byte)) (a : Nat) (b : Byte) : List (Nat × Byte) := tset 0 m a b

/-- Reads `n` bytes from address `a`, in ascending address order. (DESIGN CHOICE, log 9.) -/
def readBytes (m : List (Nat × Byte)) (a : Nat) : Nat → List Byte
  | 0 => []
  | n + 1 => bget m a :: readBytes m (a + 1) n

/-- Writes bytes from address `a` upward. (DESIGN CHOICE, log 9.) -/
def writeBytes (m : List (Nat × Byte)) (a : Nat) : List Byte → List (Nat × Byte)
  | [] => m
  | b :: bs => writeBytes (bset m a b) (a + 1) bs

/-- Writes those bytes from address `a` upward whose bit of the mask, counted from `i`, is 1 (R255). -/
def writeMasked (m : List (Nat × Byte)) (a : Nat) (mask : BitVec 64) (i : Nat) : List Byte → List (Nat × Byte)
  | [] => m
  | b :: bs =>
    writeMasked (if mask.getLsbD i then bset m a b else m) (a + 1) mask (i + 1) bs

/-! ### Bits and bytes -/

/-- Bits `lo + n - 1` down to `lo` of a word, as a number (R8). -/
def bits {w : Nat} (x : BitVec w) (lo n : Nat) : Nat := (x.toNat >>> lo) % 2 ^ n

/-- A bit set to 1. -/
def setBit {w : Nat} (x : BitVec w) (i : Nat) : BitVec w := x ||| BitVec.twoPow w i

/-- A bit set to 1 when a condition holds. -/
def setBitIf {w : Nat} (c : Bool) (x : BitVec w) (i : Nat) : BitVec w := if c then setBit x i else x

/-- A bit set to 0. -/
def clearBit {w : Nat} (x : BitVec w) (i : Nat) : BitVec w := x &&& ~~~(BitVec.twoPow w i)

/-- A bit set to the value given. -/
def putBit {w : Nat} (x : BitVec w) (i : Nat) (b : Bool) : BitVec w := if b then setBit x i else clearBit x i

/-- W1C: clears the bits written as 1 (R10). -/
def w1c {w : Nat} (x written : BitVec w) : BitVec w := x &&& ~~~written

/-- A Bool as a bit's value. -/
def bit (b : Bool) : Nat := if b then 1 else 0

/-- One more, unless at the largest value (R35, Table 2.5, R383). -/
def satInc {w : Nat} (x : BitVec w) : BitVec w := if x = BitVec.allOnes w then x else x + 1

/-- `n` more, at most the largest value. -/
def satAdd {w : Nat} (x : BitVec w) (n : Nat) : BitVec w := BitVec.ofNat w (min (x.toNat + n) (2 ^ w - 1))

/-- The `n` bytes of a number, least significant first (R9). -/
def bytesLE : Nat → Nat → List Byte
  | 0, _ => []
  | n + 1, v => BitVec.ofNat 8 v :: bytesLE n (v / 256)

/-- The number of bytes least significant first. -/
def ofBytesLE : List Byte → Nat
  | [] => 0
  | b :: bs => b.toNat + 256 * ofBytesLE bs

/-- The `n` bytes of a number, most significant first (wire formats, R9). -/
def bytesBE (n v : Nat) : List Byte := (bytesLE n v).reverse

/-- The number of bytes most significant first. -/
def ofBytesBE (bs : List Byte) : Nat := ofBytesLE bs.reverse

/-- The 64 bytes of a line. -/
def lineBytes (l : Line) : List Byte := bytesLE 64 l.toNat

/-- The line of at most 64 bytes; bytes that are missing are 0. -/
def lineOf (bs : List Byte) : Line := BitVec.ofNat 512 (ofBytesLE (bs.take 64))

/-- Bytes `i` to `i + n - 1` of a line, as a number (R9). -/
def lineField (l : Line) (i n : Nat) : Nat := bits l (8 * i) (8 * n)

/-- A byte list cut or zero-padded to `n` bytes. -/
def fit (n : Nat) (bs : List Byte) : List Byte := (bs ++ List.replicate n 0).take n

/-- The byte list cut into lines of 64 bytes, the last zero-padded; `fuel` bounds the count. -/
def toLines : Nat → List Byte → List Line
  | 0, _ => []
  | _, [] => []
  | fuel + 1, bs => lineOf bs :: toLines fuel (bs.drop 64)

/-- A list with its element at `i` replaced. -/
def listSet {α : Type} (l : List α) (i : Nat) (v : α) : List α := l.set i v

/-- The part of a 64-bit register an access writes (R100, R887). -/
def putPart (p : Part) (old value : W64) : W64 :=
  match p with
  | .full => value
  | .low => (old &&& 0xFFFFFFFF00000000#64) ||| (value &&& 0x00000000FFFFFFFF#64)
  | .high => (old &&& 0x00000000FFFFFFFF#64) ||| (value <<< 32)

/-! ### The blocks of the state -/

/-- Changes the cycle-time unit. -/
def State.onCt (s : State) (f : Ct → Ct) : State := { s with ct := f s.ct }
/-- Changes the applied light table (only a boot does, R25). -/
def State.onLt (s : State) (f : LightTable → LightTable) : State := { s with lt := f s.lt }
/-- Changes the power subsystem. -/
def State.onPwr (s : State) (f : Power → Power) : State := { s with pwr := f s.pwr }
/-- Changes the mesh and DRAM. -/
def State.onMesh (s : State) (f : Mesh → Mesh) : State := { s with mesh := f s.mesh }
/-- Changes the Keeper node. -/
def State.onKp (s : State) (f : Keeper → Keeper) : State := { s with kp := f s.kp }
/-- Changes the dispatch unit. -/
def State.onDisp (s : State) (f : Dispatch → Dispatch) : State := { s with disp := f s.disp }
/-- Changes the host interface. -/
def State.onHost (s : State) (f : HostIf → HostIf) : State := { s with host := f s.host }
/-- Changes the ring engine. -/
def State.onRings (s : State) (f : Rings → Rings) : State := { s with rings := f s.rings }
/-- Changes the logbook. -/
def State.onLb (s : State) (f : Logbook → Logbook) : State := { s with lb := f s.lb }
/-- Changes the crypto engine and the key store. -/
def State.onCx (s : State) (f : Crypto → Crypto) : State := { s with cx := f s.cx }
/-- Changes the modular and lattice units. -/
def State.onMu (s : State) (f : Units → Units) : State := { s with mu := f s.mu }
/-- Changes the measurement chain. -/
def State.onSd (s : State) (f : Measure → Measure) : State := { s with sd := f s.sd }
/-- Changes the site lanes. -/
def State.onLn (s : State) (f : Lanes → Lanes) : State := { s with ln := f s.ln }
/-- Changes the update unit. -/
def State.onUp (s : State) (f : Update → Update) : State := { s with up := f s.up }
/-- Changes the JTAG and SMBus ports. -/
def State.onPort (s : State) (f : Ports → Ports) : State := { s with port := f s.port }

/-- Hart `h`. -/
def State.hart (s : State) (h : HartId) : Hart := tget {} s.harts h.val
/-- Changes hart `h`. -/
def State.onHart (s : State) (h : HartId) (f : Hart → Hart) : State :=
  { s with harts := tmod {} s.harts h.val f }

/-- Ring `r`. -/
def State.ring (s : State) (r : Nat) : Ring := tget {} s.rings.tab r
/-- Changes ring `r`. -/
def State.onRing (s : State) (r : Nat) (f : Ring → Ring) : State :=
  s.onRings fun g => { g with tab := tmod {} g.tab r f }

/-- Function `f`'s host-side state. -/
def State.fn (s : State) (f : Nat) : Fn := tget {} s.host.fns f
/-- Changes function `f`'s host-side state. -/
def State.onFn (s : State) (f : Nat) (g : Fn → Fn) : State :=
  s.onHost fun h => { h with fns := tmod {} h.fns f g }

/-- Dispatch domain `d`. -/
def State.dom (s : State) (d : Nat) : Domain := tget {} s.disp.doms d
/-- Changes dispatch domain `d`. -/
def State.onDom (s : State) (d : Nat) (f : Domain → Domain) : State :=
  s.onDisp fun u => { u with doms := tmod {} u.doms d f }

/-- Enclave `e`. -/
def State.encl (s : State) (e : Nat) : Enclave := tget {} s.kp.encl e
/-- Changes enclave `e`. -/
def State.onEncl (s : State) (e : Nat) (f : Enclave → Enclave) : State :=
  s.onKp fun k => { k with encl := tmod {} k.encl e f }

/-- DRAM line `l`'s place in the caches. -/
def State.lineAt (s : State) (l : Nat) : LineState := tget {} s.mesh.lines l
/-- Changes DRAM line `l`'s place in the caches. -/
def State.onLine (s : State) (l : Nat) (f : LineState → LineState) : State :=
  s.onMesh fun m => { m with lines := tmod {} m.lines l f }

/-- Home slice `i`. -/
def State.slice (s : State) (i : Nat) : Slice := tget {} s.mesh.slices i
/-- Changes home slice `i`. -/
def State.onSlice (s : State) (i : Nat) (f : Slice → Slice) : State :=
  s.onMesh fun m => { m with slices := tmod {} m.slices i f }

/-- Adds an output (newest first). -/
def State.emit (s : State) (e : OutEvent) : State := { s with out := e :: s.out }

/-- Takes the next number of the free-value counter: the place of one open value. (DESIGN CHOICE, log 7.) -/
def State.draw (s : State) : Nat × State := (s.free, { s with free := s.free + 1 })

/-! ### Integer registers of a hart -/

/-- Integer register `i` of a hart; x0 reads zero. -/
def Hart.getX (h : Hart) (i : Nat) : W64 := if i = 0 then 0 else tget 0 h.x i

/-- Writes integer register `i` of a hart; x0 discards the write. -/
def Hart.setX (h : Hart) (i : Nat) (v : W64) : Hart := if i = 0 then h else { h with x := tset 0 h.x i v }

/-- Every hart number, in ascending order. -/
def allHarts : List HartId := List.finRange 24

/-- A change applied for every number of a list, in its order. -/
def forAll {α : Type} (l : List α) (f : α → State → State) (s : State) : State :=
  l.foldl (fun t a => f a t) s

end Sys2Proof.Machine
end

