-- ==== Sys2Proof/Machine/Integer.lean ====
section
/-!
DEFINITION. The integer instructions of the cores (05 Table 5.1): the results of RV64I, M, Zba, Zbb, Zbs and Zicond, the branch
conditions, the immediates, and the compressed instructions as the words they stand for.

R190 and R191 name the RISC-V specifications that give them. (PRESUMED, log 88.)
-/

namespace Sys2Proof

/-! ### Immediates -/

/-- The immediate of an I-type word. -/
def immI (w : W32) : W64 := (wImm w).signExtend 64
/-- The immediate of an S-type word. -/
def immS (w : W32) : W64 := ((wFunct7 w) ++ (wRd w)).signExtend 64
/-- The immediate of a B-type word: bits 12, 11, 10:5, 4:1 of an even offset. -/
def immB (w : W32) : W64 :=
  (w.extractLsb' 31 1 ++ w.extractLsb' 7 1 ++ w.extractLsb' 25 6 ++ w.extractLsb' 8 4 ++ 0#1).signExtend 64
/-- The immediate of a U-type word. -/
def immU (w : W32) : W64 := (w &&& 0xFFFFF000#32).signExtend 64
/-- The immediate of a J-type word: bits 20, 19:12, 11, 10:1 of an even offset. -/
def immJ (w : W32) : W64 :=
  (w.extractLsb' 31 1 ++ w.extractLsb' 12 8 ++ w.extractLsb' 20 1 ++ w.extractLsb' 21 10 ++ 0#1).signExtend 64

end Sys2Proof

namespace Sys2Proof.Machine

/-! ### Counting and permuting bits (Zbb) -/

/-- Zero bits below the lowest one bit; all of them where there is none. -/
def trailingZeros {w : Nat} (x : BitVec w) : Nat := ((List.range w).find? fun i => x.getLsbD i).getD w
/-- Zero bits above the highest one bit. -/
def leadingZeros {w : Nat} (x : BitVec w) : Nat := trailingZeros x.reverse
/-- One bits. -/
def population {w : Nat} (x : BitVec w) : Nat := (List.range w).countP fun i => x.getLsbD i

/-- A 64-bit value built from its bytes, byte 0 first, by number. -/
def mapBytes (f : Nat → Byte) : W64 := BitVec.ofNat 64 ((List.range 8).foldl (fun n i => n + (f i).toNat * 256 ^ i) 0)
/-- Byte `i` of a register. -/
def byteAt (x : W64) (i : Nat) : Byte := x.extractLsb' (8 * i) 8

/-! ### Multiplication and division (M) -/

/-- The upper half of a product of exact integers. -/
def upperHalf (p : Int) : W64 := BitVec.ofInt 64 (p / 2 ^ 64)

/-- Signed division at a width, towards zero: all ones by zero, the dividend where it overflows. -/
def divS {w : Nat} (a b : BitVec w) : BitVec w := if b = 0 then BitVec.allOnes w else BitVec.ofInt w (a.toInt.tdiv b.toInt)
/-- Signed remainder: the dividend by zero. -/
def remS {w : Nat} (a b : BitVec w) : BitVec w := if b = 0 then a else BitVec.ofInt w (a.toInt.tmod b.toInt)
/-- Unsigned division: all ones by zero. -/
def divU {w : Nat} (a b : BitVec w) : BitVec w := if b = 0 then BitVec.allOnes w else a / b
/-- Unsigned remainder: the dividend by zero. -/
def remU {w : Nat} (a b : BitVec w) : BitVec w := if b = 0 then a else a % b

/-- The operations of M at 64 bits, by funct3. -/
def mulOp (f3 : Nat) (a b : W64) : W64 :=
  match f3 with
  | 0 => a * b
  | 1 => upperHalf (a.toInt * b.toInt)
  | 2 => upperHalf (a.toInt * b.toNat)
  | 3 => upperHalf ((a.toNat : Int) * b.toNat)
  | 4 => divS a b
  | 5 => divU a b
  | 6 => remS a b
  | _ => remU a b

/-- The operations of M at 32 bits, by funct3. -/
def mulOpW (f3 : Nat) (a b : W32) : Option W32 :=
  match f3 with
  | 0 => some (a * b)
  | 4 => some (divS a b)
  | 5 => some (divU a b)
  | 6 => some (remS a b)
  | 7 => some (remU a b)
  | _ => none

/-! ### Register and immediate operations -/

/-- A one or a zero. -/
def flag (c : Bool) : W64 := if c then 1 else 0

/-- RV64I's operations, by funct3. -/
def baseOp (f3 : Nat) (a b : W64) : W64 :=
  let n := b.toNat % 64
  match f3 with
  | 0 => a + b
  | 1 => a <<< n
  | 2 => flag (decide (a.toInt < b.toInt))
  | 3 => flag (decide (a < b))
  | 4 => a ^^^ b
  | 5 => a >>> n
  | 6 => a ||| b
  | _ => a &&& b

/-- funct7 0x20: SUB, SRA, XNOR, ORN, ANDN. -/
def altOp (f3 : Nat) (a b : W64) : Option W64 :=
  match f3 with
  | 0 => some (a - b)
  | 4 => some (a ^^^ ~~~b)
  | 5 => some (a.sshiftRight (b.toNat % 64))
  | 6 => some (a ||| ~~~b)
  | 7 => some (a &&& ~~~b)
  | _ => none

/-- funct7 0x10: SH1ADD, SH2ADD, SH3ADD; `a` is shifted. -/
def shiftAdd (f3 : Nat) (a b : W64) : Option W64 :=
  if f3 = 2 ∨ f3 = 4 ∨ f3 = 6 then some ((a <<< (f3 / 2)) + b) else none

/-- funct7 0x05: MIN, MINU, MAX, MAXU. -/
def minMax (f3 : Nat) (a b : W64) : Option W64 :=
  match f3 with
  | 4 => some (if a.toInt < b.toInt then a else b)
  | 5 => some (if a < b then a else b)
  | 6 => some (if a.toInt < b.toInt then b else a)
  | 7 => some (if a < b then b else a)
  | _ => none

/-- The single-bit operations of Zbs: `op` 0x24 clears or extracts, 0x34 inverts, 0x14 sets bit `n`. -/
def bitOp (op f3 : Nat) (a : W64) (n : Nat) : Option W64 :=
  if op = 0x24 ∧ f3 = 1 then some (clearBit a n)
  else if op = 0x24 ∧ f3 = 5 then some (flag (a.getLsbD n))
  else if op = 0x34 ∧ f3 = 1 then some (a ^^^ (1#64 <<< n))
  else if op = 0x14 ∧ f3 = 1 then some (setBit a n)
  else none

/-- OP: two registers, by funct7 and funct3. -/
def regOp (w : W32) (a b : W64) : Option W64 :=
  let f3 := (wFunct3 w).toNat
  let n := b.toNat % 64
  match (wFunct7 w).toNat with
  | 0x00 => some (baseOp f3 a b)
  | 0x01 => some (mulOp f3 a b)
  | 0x05 => minMax f3 a b
  | 0x07 => if f3 = 5 then some (if b = 0 then 0 else a) else if f3 = 7 then some (if b = 0 then a else 0) else none
  | 0x10 => shiftAdd f3 a b
  | 0x20 => altOp f3 a b
  | 0x30 => if f3 = 1 then some (a.rotateLeft n) else if f3 = 5 then some (a.rotateRight n) else none
  | op => bitOp op f3 a n

/-- A 32-bit result sign-extended. -/
def wide (x : W32) : W64 := x.signExtend 64

/-- OP-32: two registers at 32 bits, by funct7 and funct3; the .UW operations take the first one zero-extended. -/
def regOpW (w : W32) (a b : W64) : Option W64 :=
  let f3 := (wFunct3 w).toNat
  let x : W32 := a.truncate 32
  let y : W32 := b.truncate 32
  let n := b.toNat % 32
  match (wFunct7 w).toNat, f3 with
  | 0x00, 0 => some (wide (x + y))
  | 0x00, 1 => some (wide (x <<< n))
  | 0x00, 5 => some (wide (x >>> n))
  | 0x20, 0 => some (wide (x - y))
  | 0x20, 5 => some (wide (x.sshiftRight n))
  | 0x01, f => (mulOpW f x y).map wide
  | 0x04, 0 => some (x.zeroExtend 64 + b)
  | 0x04, 4 => if wRs2 w = 0 then some ((a.extractLsb' 0 16).zeroExtend 64) else none
  | 0x10, f => shiftAdd f (x.zeroExtend 64) b
  | 0x30, 1 => some (wide (x.rotateLeft n))
  | 0x30, 5 => some (wide (x.rotateRight n))
  | _, _ => none

/-- OP-IMM with funct3 1: shifts, single bits, counts and sign extensions. -/
def immOp1 (w : W32) (a : W64) : Option W64 :=
  let n := bits w 20 6
  match bits w 26 6 with
  | 0x00 => some (a <<< n)
  | 0x0A => bitOp 0x14 1 a n
  | 0x12 => bitOp 0x24 1 a n
  | 0x1A => bitOp 0x34 1 a n
  | 0x18 =>
    (match n with
     | 0 => some (BitVec.ofNat 64 (leadingZeros a))
     | 1 => some (BitVec.ofNat 64 (trailingZeros a))
     | 2 => some (BitVec.ofNat 64 (population a))
     | 4 => some ((a.extractLsb' 0 8).signExtend 64)
     | 5 => some ((a.extractLsb' 0 16).signExtend 64)
     | _ => none)
  | _ => none

/-- OP-IMM with funct3 5: right shifts, RORI, BEXTI, ORC.B, REV8. -/
def immOp5 (w : W32) (a : W64) : Option W64 :=
  let n := bits w 20 6
  match bits w 26 6 with
  | 0x00 => some (a >>> n)
  | 0x10 => some (a.sshiftRight n)
  | 0x18 => some (a.rotateRight n)
  | 0x12 => bitOp 0x24 5 a n
  | 0x0A => if n = 7 then some (mapBytes fun i => if byteAt a i = 0 then 0 else 0xFF) else none
  | 0x1A => if n = 0x38 then some (mapBytes fun i => byteAt a (7 - i)) else none
  | _ => none

/-- OP-IMM: a register and an immediate. -/
def immOp (w : W32) (a : W64) : Option W64 :=
  match (wFunct3 w).toNat with
  | 1 => immOp1 w a
  | 5 => immOp5 w a
  | f3 => some (baseOp f3 a (immI w))

/-- OP-IMM-32: ADDIW, the 32-bit shifts, SLLI.UW and the 32-bit counts. -/
def immOpW (w : W32) (a : W64) : Option W64 :=
  let x : W32 := a.truncate 32
  let n := bits w 20 5
  match (wFunct3 w).toNat with
  | 0 => some (wide (x + (immI w).truncate 32))
  | 1 =>
    if bits w 26 6 = 2 then some ((x.zeroExtend 64) <<< (bits w 20 6))
    else (match (wImm w).toNat, bits w 25 7 with
      | 0x600, _ => some (BitVec.ofNat 64 (leadingZeros x))
      | 0x601, _ => some (BitVec.ofNat 64 (trailingZeros x))
      | 0x602, _ => some (BitVec.ofNat 64 (population x))
      | _, 0 => some (wide (x <<< n))
      | _, _ => none)
  | 5 =>
    (match bits w 25 7 with
     | 0x00 => some (wide (x >>> n))
     | 0x20 => some (wide (x.sshiftRight n))
     | 0x30 => some (wide (x.rotateRight n))
     | _ => none)
  | _ => none

/-- The result of an integer computation that a word encodes, from pc and the values of its source registers; none where it encodes
none. -/
def aluResult (w : W32) (pc a b : W64) : Option W64 :=
  match (wOpcode w).toNat with
  | 0x13 => immOp w a
  | 0x17 => some (pc + immU w)
  | 0x1B => immOpW w a
  | 0x33 => regOp w a b
  | 0x37 => some (immU w)
  | 0x3B => regOpW w a b
  | _ => none

/-- A branch's condition, by funct3; none for the two that encode no branch. -/
def branchTaken (f3 : Nat) (a b : W64) : Option Bool :=
  match f3 with
  | 0 => some (a == b)
  | 1 => some (a != b)
  | 4 => some (decide (a.toInt < b.toInt))
  | 5 => some (decide (b.toInt ≤ a.toInt))
  | 6 => some (decide (a < b))
  | 7 => some (decide (b ≤ a))
  | _ => none

/-! ### Words built from their fields -/

/-- An R-type word. -/
def encR (op f3 f7 : Nat) (rd rs1 rs2 : Nat) : W32 := BitVec.ofNat 32 (op + 2 ^ 7 * rd + 2 ^ 12 * f3 + 2 ^ 15 * rs1 + 2 ^ 20 * rs2 + 2 ^ 25 * f7)
/-- An I-type word. -/
def encI (op f3 : Nat) (rd rs1 imm : Nat) : W32 := BitVec.ofNat 32 (op + 2 ^ 7 * rd + 2 ^ 12 * f3 + 2 ^ 15 * rs1 + 2 ^ 20 * (imm % 4096))
/-- An S-type word. -/
def encS (op f3 : Nat) (rs1 rs2 imm : Nat) : W32 := encR op f3 (imm / 32 % 128) (imm % 32) rs1 rs2
/-- A B-type word of an offset modulo 2^13. -/
def encB (f3 : Nat) (rs1 rs2 off : Nat) : W32 :=
  encR 0x63 f3 (64 * (off / 4096 % 2) + off / 32 % 64) (2 * (off / 2 % 16) + off / 2048 % 2) rs1 rs2
/-- A JAL word of an offset modulo 2^21. -/
def encJ (rd off : Nat) : W32 :=
  BitVec.ofNat 32 (0x6F + 2 ^ 7 * rd + 2 ^ 12 * (off / 4096 % 256) + 2 ^ 20 * (off / 2048 % 2) + 2 ^ 21 * (off / 2 % 1024) + 2 ^ 31 * (off / 2 ^ 20 % 2))

/-! ### Compressed instructions (C) -/

/-- A field of a halfword. -/
def cField (c : BitVec 16) (lo n : Nat) : Nat := bits c lo n
/-- The registers x8-x15 of a three-bit field. -/
def cReg (c : BitVec 16) (lo : Nat) : Nat := 8 + cField c lo 3
/-- The sign-extended six-bit immediate in bits 12 and 6:2, modulo 2^12. -/
def cImm6 (c : BitVec 16) : Nat := ((c.extractLsb' 12 1 ++ c.extractLsb' 2 5).signExtend 12).toNat
/-- The six-bit shift amount. -/
def cShamt (c : BitVec 16) : Nat := 32 * cField c 12 1 + cField c 2 5
/-- The offset of a word load or store, and of a doubleword one. -/
def cOffW (c : BitVec 16) : Nat := 8 * cField c 10 3 + 4 * cField c 6 1 + 64 * cField c 5 1
/-- The offset of a doubleword access. -/
def cOffD (c : BitVec 16) : Nat := 8 * cField c 10 3 + 64 * cField c 5 2
/-- The offset of C.J, modulo 2^21. -/
def cJump (c : BitVec 16) : Nat :=
  ((c.extractLsb' 12 1 ++ c.extractLsb' 8 1 ++ c.extractLsb' 9 2 ++ c.extractLsb' 6 1 ++ c.extractLsb' 7 1 ++ c.extractLsb' 2 1
    ++ c.extractLsb' 11 1 ++ c.extractLsb' 3 3 ++ 0#1).signExtend 21).toNat
/-- The offset of C.BEQZ and C.BNEZ, modulo 2^13. -/
def cBranch (c : BitVec 16) : Nat :=
  ((c.extractLsb' 12 1 ++ c.extractLsb' 5 2 ++ c.extractLsb' 2 1 ++ c.extractLsb' 10 2 ++ c.extractLsb' 3 2 ++ 0#1).signExtend 13).toNat

/-- Quadrant 0: C.ADDI4SPN and the register loads and stores. -/
def expandC0 (c : BitVec 16) : Option W32 :=
  let r := cReg c 2
  let b := cReg c 7
  match cField c 13 3 with
  | 0 =>
    let n := 4 * cField c 6 1 + 8 * cField c 5 1 + 16 * cField c 11 2 + 64 * cField c 7 4
    if n = 0 then none else some (encI 0x13 0 r 2 n)
  | 1 => some (encI 0x07 3 r b (cOffD c))
  | 2 => some (encI 0x03 2 r b (cOffW c))
  | 3 => some (encI 0x03 3 r b (cOffD c))
  | 5 => some (encS 0x27 3 b r (cOffD c))
  | 6 => some (encS 0x23 2 b r (cOffW c))
  | 7 => some (encS 0x23 3 b r (cOffD c))
  | _ => none

/-- Quadrant 1, funct3 4: the shifts, C.ANDI and the register operations. -/
def expandC14 (c : BitVec 16) : Option W32 :=
  let r := cReg c 7
  let b := cReg c 2
  match cField c 10 2, cField c 12 1, cField c 5 2 with
  | 0, _, _ => some (encI 0x13 5 r r (cShamt c))
  | 1, _, _ => some (encI 0x13 5 r r (0x400 + cShamt c))
  | 2, _, _ => some (encI 0x13 7 r r (cImm6 c))
  | _, 0, 0 => some (encR 0x33 0 0x20 r r b)
  | _, 0, 1 => some (encR 0x33 4 0 r r b)
  | _, 0, 2 => some (encR 0x33 6 0 r r b)
  | _, 0, _ => some (encR 0x33 7 0 r r b)
  | _, _, 0 => some (encR 0x3B 0 0x20 r r b)
  | _, _, 1 => some (encR 0x3B 0 0 r r b)
  | _, _, _ => none

/-- Quadrant 1. -/
def expandC1 (c : BitVec 16) : Option W32 :=
  let rd := cField c 7 5
  match cField c 13 3 with
  | 0 => some (encI 0x13 0 rd rd (cImm6 c))
  | 1 => if rd = 0 then none else some (encI 0x1B 0 rd rd (cImm6 c))
  | 2 => some (encI 0x13 0 rd 0 (cImm6 c))
  | 3 =>
    if cShamt c = 0 then none
    else if rd = 2 then
      some (encI 0x13 0 2 2 ((c.extractLsb' 12 1 ++ c.extractLsb' 3 2 ++ c.extractLsb' 5 1 ++ c.extractLsb' 2 1 ++ c.extractLsb' 6 1
        ++ 0#4).signExtend 12).toNat)
    else some (BitVec.ofNat 32 (0x37 + 2 ^ 7 * rd) ||| (((c.extractLsb' 12 1 ++ c.extractLsb' 2 5).signExtend 20).zeroExtend 32 <<< 12))
  | 4 => expandC14 c
  | 5 => some (encJ 0 (cJump c))
  | f => some (encB (f - 6) (cReg c 7) 0 (cBranch c))

/-- Quadrant 2. -/
def expandC2 (c : BitVec 16) : Option W32 :=
  let rd := cField c 7 5
  let r2 := cField c 2 5
  match cField c 13 3 with
  | 0 => some (encI 0x13 1 rd rd (cShamt c))
  | 1 => some (encI 0x07 3 rd 2 (32 * cField c 12 1 + 8 * cField c 5 2 + 64 * cField c 2 3))
  | 2 => if rd = 0 then none else some (encI 0x03 2 rd 2 (32 * cField c 12 1 + 4 * cField c 4 3 + 64 * cField c 2 2))
  | 3 => if rd = 0 then none else some (encI 0x03 3 rd 2 (32 * cField c 12 1 + 8 * cField c 5 2 + 64 * cField c 2 3))
  | 4 =>
    if cField c 12 1 = 0 then
      (if r2 ≠ 0 then some (encR 0x33 0 0 rd 0 r2) else if rd = 0 then none else some (encI 0x67 0 0 rd 0))
    else if r2 ≠ 0 then some (encR 0x33 0 0 rd rd r2)
    else if rd = 0 then some 0x00100073#32 else some (encI 0x67 0 1 rd 0)
  | 5 => some (encS 0x27 3 2 r2 (8 * cField c 10 3 + 64 * cField c 7 3))
  | 6 => some (encS 0x23 2 2 r2 (4 * cField c 9 4 + 64 * cField c 7 2))
  | _ => some (encS 0x23 3 2 r2 (8 * cField c 10 3 + 64 * cField c 7 3))

/-- The word that a compressed instruction stands for; none where it encodes none. -/
def expandC (c : BitVec 16) : Option W32 :=
  match cField c 0 2 with
  | 0 => expandC0 c
  | 1 => expandC1 c
  | 2 => expandC2 c
  | _ => none

end Sys2Proof.Machine
end

