-- ==== Sys2Proof/Machine/Float.lean ====
section
/-!
DEFINITION. Floating point (05 §5.8): binary32 and binary64 values, rounding, the operations of F and D with their flags, and
NaN-boxing. Every result is computed exactly and then rounded once.

R190 names the RISC-V unprivileged specification for what Table 5.11 and R221-R223 leave to it. (PRESUMED, log 88.)
-/

namespace Sys2Proof.Machine

/-! ### Formats and values -/

/-- A format: bits of the exponent and of the fraction. -/
structure Format where
  exp : Nat
  frac : Nat
  deriving DecidableEq, Repr

/-- binary32. -/
def binary32 : Format := ⟨8, 23⟩
/-- binary64. -/
def binary64 : Format := ⟨11, 52⟩

/-- The exponent of a subnormal's last place. -/
def Format.least (f : Format) : Int := 2 - 2 ^ (f.exp - 1) - (f.frac : Int)
/-- The exponent of the least normal value. -/
def Format.normal (f : Format) : Int := 2 - 2 ^ (f.exp - 1)
/-- The sign bit. -/
def Format.signBit (f : Format) (neg : Bool) : Nat := if neg then 2 ^ (f.exp + f.frac) else 0
/-- Infinity. -/
def Format.infinity (f : Format) (neg : Bool) : Nat := f.signBit neg + (2 ^ f.exp - 1) * 2 ^ f.frac
/-- The largest finite value. -/
def Format.largest (f : Format) (neg : Bool) : Nat := f.infinity neg - 1
/-- R223: the canonical NaN. -/
def Format.nan (f : Format) : Nat := f.infinity false + 2 ^ (f.frac - 1)

/-- A value: a NaN, signalling or quiet; an infinity; or `m * 2 ^ e` with its sign, `m` 0 for a zero. -/
inductive Fp
  | nan (signalling : Bool)
  | inf (neg : Bool)
  | fin (neg : Bool) (m : Nat) (e : Int)
  deriving DecidableEq, Repr

/-- The value of an encoding; a subnormal has its own value (R221). -/
def Format.decode (f : Format) (n : Nat) : Fp :=
  let neg := decide (n / 2 ^ (f.exp + f.frac) % 2 = 1)
  let e := n / 2 ^ f.frac % 2 ^ f.exp
  let m := n % 2 ^ f.frac
  if e = 2 ^ f.exp - 1 then (if m = 0 then .inf neg else .nan (decide (m < 2 ^ (f.frac - 1))))
  else if e = 0 then .fin neg m f.least
  else .fin neg (2 ^ f.frac + m) (f.least + (e - 1 : Nat))

/-- The rounding modes. -/
inductive Rounding | rne | rtz | rdn | rup | rmm
  deriving DecidableEq, Repr

/-- The flags: invalid, division by zero, overflow, underflow, inexact, as fflags numbers them. -/
abbrev Flags := BitVec 5

/-- NV. -/
def flagNV : Flags := 0x10#5
/-- DZ. -/
def flagDZ : Flags := 0x08#5
/-- OF with NX, which an overflow always brings. -/
def flagOF : Flags := 0x05#5
/-- UF with NX: underflow is raised only for an inexact result (R222). -/
def flagUF : Flags := 0x03#5
/-- NX. -/
def flagNX : Flags := 0x01#5

/-! ### Rounding -/

/-- The magnitude goes up: `n` is the kept integer, `rem` what is lost of `2 ^ d`, and `more` says that something below is lost too. -/
def roundsUp (r : Rounding) (neg : Bool) (n rem d : Nat) (more : Bool) : Bool :=
  let lost := decide (rem ≠ 0) || more
  let half := 2 ^ d
  match r with
  | .rtz => false
  | .rdn => lost && neg
  | .rup => lost && !neg
  | .rne => decide (half < 2 * rem) || (decide (half = 2 * rem) && (more || decide (n % 2 = 1)))
  | .rmm => decide (half ≤ 2 * rem)

/-- `m * 2 ^ e`, with something below where `more`, as a multiple of `2 ^ q`: the integer, and whether it is inexact. -/
def roundTo (r : Rounding) (neg : Bool) (m : Nat) (e : Int) (more : Bool) (q : Int) : Nat × Bool :=
  if q ≤ e then (m * 2 ^ (e - q).toNat, more)
  else
    let d := (q - e).toNat
    let n := m / 2 ^ d
    let rem := m % 2 ^ d
    (n + bit (roundsUp r neg n rem d more), decide (rem ≠ 0) || more)

/-- An overflow's result by the rounding mode. -/
def Format.overflow (f : Format) (r : Rounding) (neg : Bool) : Nat :=
  let down := match r with | .rtz => true | .rdn => !neg | .rup => neg | .rne | .rmm => false
  if down then f.largest neg else f.infinity neg

/-- Rounds a magnitude other than zero: overflow, and underflow where the result is tiny after rounding and inexact (R222). -/
def Format.round (f : Format) (r : Rounding) (neg : Bool) (m : Nat) (e : Int) (more : Bool) : Nat × Flags :=
  let top := e + Nat.log2 m
  let free := top - f.frac
  let q := max free f.least
  let p := roundTo r neg m e more q
  let n := if p.1 = 2 ^ (f.frac + 1) then 2 ^ f.frac else p.1
  let q := if p.1 = 2 ^ (f.frac + 1) then q + 1 else q
  let field := if n < 2 ^ f.frac then 0 else (q - f.least).toNat + 1
  let tiny := decide ((roundTo r neg m e more free).1 = 2 ^ (f.frac + 1) ∧ top + 1 < f.normal) || decide
    ((roundTo r neg m e more free).1 ≠ 2 ^ (f.frac + 1) ∧ top < f.normal)
  if 2 ^ f.exp - 1 ≤ field then (f.overflow r neg, flagOF)
  else (f.signBit neg + field * 2 ^ f.frac + n % 2 ^ f.frac, if p.2 then (if tiny then flagUF else flagNX) else 0)

/-- Encodes a value: a NaN is canonical (R223), an exact zero keeps its sign. -/
def Format.encode (f : Format) (r : Rounding) (x : Fp) (more : Bool) : Nat × Flags :=
  match x with
  | .nan _ => (f.nan, 0)
  | .inf neg => (f.infinity neg, 0)
  | .fin neg m e => if m = 0 then (f.signBit neg, 0) else f.round r neg m e more

/-! ### Arithmetic -/

/-- Some operand is a signalling NaN: NV. -/
def nanFlags (xs : List Fp) : Flags := if xs.any (· == .nan true) then flagNV else 0

/-- The opposite value; a NaN stays one. -/
def Fp.negate : Fp → Fp
  | .nan s => .nan s
  | .inf n => .inf !n
  | .fin n m e => .fin (!n) m e

/-- The signed integer of a finite value at an exponent that is not above its own. -/
def atExp (neg : Bool) (m : Nat) (e q : Int) : Int := (if neg then -1 else 1) * ((m * 2 ^ (e - q).toNat : Nat) : Int)

/-- An exact sum of finite values; an exact zero is positive but towards minus infinity, and keeps a sign that both have. -/
def addFinite (r : Rounding) (n1 : Bool) (m1 : Nat) (e1 : Int) (n2 : Bool) (m2 : Nat) (e2 : Int) : Fp :=
  let q := min e1 e2
  let v := atExp n1 m1 e1 q + atExp n2 m2 e2 q
  if v = 0 then .fin (if n1 = n2 then n1 else decide (r = .rdn)) 0 0 else .fin (decide (v < 0)) v.natAbs q

/-- The sum of two values, exact, with NV where infinities cancel. -/
def addValues (r : Rounding) (a b : Fp) : Fp × Flags :=
  match a, b with
  | .nan _, _ | _, .nan _ => (.nan false, nanFlags [a, b])
  | .inf n1, .inf n2 => if n1 = n2 then (.inf n1, 0) else (.nan false, flagNV)
  | .inf n, _ | _, .inf n => (.inf n, 0)
  | .fin n1 m1 e1, .fin n2 m2 e2 => (addFinite r n1 m1 e1 n2 m2 e2, 0)

/-- The exact product, with NV for zero times infinity. -/
def mulValues (a b : Fp) : Fp × Flags :=
  match a, b with
  | .nan _, _ | _, .nan _ => (.nan false, nanFlags [a, b])
  | .inf n1, .inf n2 => (.inf (n1 != n2), 0)
  | .inf n1, .fin n2 m _ | .fin n2 m _, .inf n1 => if m = 0 then (.nan false, flagNV) else (.inf (n1 != n2), 0)
  | .fin n1 m1 e1, .fin n2 m2 e2 => (.fin (n1 != n2) (m1 * m2) (e1 + e2), 0)

/-- FADD; FSUB adds the opposite. -/
def fpAdd (f : Format) (r : Rounding) (a b : Fp) : Nat × Flags :=
  let p := addValues r a b
  let q := f.encode r p.1 false
  (q.1, p.2 ||| q.2)

/-- FMUL. -/
def fpMul (f : Format) (r : Rounding) (a b : Fp) : Nat × Flags :=
  let p := mulValues a b
  let q := f.encode r p.1 false
  (q.1, p.2 ||| q.2)

/-- FMADD and its relatives: the product is not rounded; zero times infinity is invalid whatever is added. -/
def fpFma (f : Format) (r : Rounding) (a b c : Fp) : Nat × Flags :=
  let p := mulValues a b
  let q := addValues r p.1 c
  let z := f.encode r q.1 false
  (z.1, p.2 ||| q.2 ||| nanFlags [c] ||| z.2)

/-- FDIV: DZ for a finite value but zero by zero. -/
def fpDiv (f : Format) (r : Rounding) (a b : Fp) : Nat × Flags :=
  match a, b with
  | .nan _, _ | _, .nan _ => (f.nan, nanFlags [a, b])
  | .inf _, .inf _ => (f.nan, flagNV)
  | .inf n1, .fin n2 _ _ => (f.infinity (n1 != n2), 0)
  | .fin n1 _ _, .inf n2 => (f.signBit (n1 != n2), 0)
  | .fin n1 m1 e1, .fin n2 m2 e2 =>
    if m2 = 0 then (if m1 = 0 then (f.nan, flagNV) else (f.infinity (n1 != n2), flagDZ))
    else if m1 = 0 then (f.signBit (n1 != n2), 0)
    else
      let k := f.frac + 4 + Nat.log2 m2
      f.round r (n1 != n2) (m1 * 2 ^ k / m2) (e1 - e2 - k) (decide (m1 * 2 ^ k % m2 ≠ 0))

/-- The integer square root, digit by digit; `fuel` bounds half the number's bits. -/
def rootOf : Nat → Nat → Nat
  | 0, _ => 0
  | fuel + 1, n =>
    let r := 2 * rootOf fuel (n / 4)
    if (r + 1) * (r + 1) ≤ n then r + 1 else r

/-- FSQRT. -/
def fpSqrt (f : Format) (r : Rounding) (a : Fp) : Nat × Flags :=
  match a with
  | .nan _ => (f.nan, nanFlags [a])
  | .inf neg => if neg then (f.nan, flagNV) else (f.infinity false, 0)
  | .fin neg m e =>
    if m = 0 then (f.signBit neg, 0)
    else if neg then (f.nan, flagNV)
    else
      let k := 2 * f.frac + 6 + (e % 2).toNat
      let n := m * 2 ^ k
      let z := rootOf (2 * f.frac + 8) n
      f.round r false z ((e - k) / 2) (decide (z * z ≠ n))

/-! ### Comparison -/

/-- `a` is less than `b`, or with `orEqual` equal to it; neither is a NaN. -/
def fpBelow (orEqual : Bool) (a b : Fp) : Bool :=
  match a, b with
  | .nan _, _ | _, .nan _ => false
  | .inf n1, .inf n2 => (n1 && !n2) || (orEqual && n1 == n2)
  | .inf n, .fin _ _ _ => n
  | .fin _ _ _, .inf n => !n
  | .fin n1 m1 e1, .fin n2 m2 e2 =>
    let q := min e1 e2
    let x := atExp n1 m1 e1 q
    let y := atExp n2 m2 e2 q
    decide (x < y) || (orEqual && decide (x = y))

/-- A NaN. -/
def Fp.isNan : Fp → Bool
  | .nan _ => true
  | _ => false

/-- FEQ (2), FLT (1) and FLE (0), by funct3: a quiet comparison is invalid for signalling NaNs, the others for every NaN. -/
def fpCompare (f3 : Nat) (a b : Fp) : Option (Bool × Flags) :=
  let any := a.isNan || b.isNan
  match f3 with
  | 0 => some (fpBelow true a b, if any then flagNV else 0)
  | 1 => some (fpBelow false a b, if any then flagNV else 0)
  | 2 => some (fpBelow true a b && fpBelow true b a, nanFlags [a, b])
  | _ => none

/-- FMIN and FMAX (`max`) on encodings: a NaN gives the other operand, and -0 is below +0. -/
def fpMinMax (f : Format) (max : Bool) (x y : Nat) : Nat × Flags :=
  let a := f.decode x
  let b := f.decode y
  let first := fpBelow false a b || (fpBelow true a b && decide (f.signBit true ≤ x))
  let v := match a.isNan, b.isNan with
    | true, true => f.nan
    | true, false => y
    | false, true => x
    | false, false => if first != max then x else y
  (v, nanFlags [a, b])

/-- FCLASS: one bit of ten. -/
def fpClass (f : Format) (x : Fp) : W64 :=
  match x with
  | .nan s => if s then 0x100 else 0x200
  | .inf n => if n then 0x001 else 0x080
  | .fin n m _ =>
    if m = 0 then (if n then 0x008 else 0x010)
    else if m < 2 ^ f.frac then (if n then 0x004 else 0x020)
    else if n then 0x002 else 0x040

/-! ### Conversion -/

/-- The bounds of an integer type: 0 W, 1 WU, 2 L, 3 LU, as the instruction's rs2 field numbers them. -/
def intBounds (t : Nat) : Int × Int :=
  match t with
  | 0 => (-2 ^ 31, 2 ^ 31 - 1)
  | 1 => (0, 2 ^ 32 - 1)
  | 2 => (-2 ^ 63, 2 ^ 63 - 1)
  | _ => (0, 2 ^ 64 - 1)

/-- An integer of a type as a register holds it: 32-bit ones sign-extended. -/
def intRegister (t : Nat) (v : Int) : W64 := if t < 2 then wide (BitVec.ofInt 32 v) else BitVec.ofInt 64 v

/-- FCVT to an integer: NV and the nearest bound where the rounded value does not fit, the upper one for a NaN. -/
def fpToInt (r : Rounding) (t : Nat) (x : Fp) : W64 × Flags :=
  let b := intBounds t
  match x with
  | .nan _ => (intRegister t b.2, flagNV)
  | .inf neg => (intRegister t (if neg then b.1 else b.2), flagNV)
  | .fin neg m e =>
    let p := roundTo r neg m e false 0
    let v : Int := if neg then -p.1 else p.1
    if v < b.1 then (intRegister t b.1, flagNV)
    else if b.2 < v then (intRegister t b.2, flagNV)
    else (intRegister t v, if p.2 then flagNX else 0)

/-- FCVT from an integer. -/
def fpFromInt (f : Format) (r : Rounding) (t : Nat) (x : W64) : Nat × Flags :=
  let v : Int := match t with
    | 0 => (x.truncate 32 : W32).toInt
    | 1 => ((x.truncate 32 : W32).toNat : Int)
    | 2 => x.toInt
    | _ => (x.toNat : Int)
  f.encode r (.fin (decide (v < 0)) v.natAbs 0) false

/-- FCVT between the formats. -/
def fpConvert (r : Rounding) (dst : Format) (x : Fp) : Nat × Flags :=
  let p := dst.encode r x false
  (p.1, p.2 ||| nanFlags [x])

/-! ### Registers (NaN-boxing) -/

/-- The format of an instruction's fmt field: 0 binary32, 1 binary64. -/
def formatOf (fmt : Nat) : Option Format := if fmt = 0 then some binary32 else if fmt = 1 then some binary64 else none

/-- An operand's encoding: a binary32 value that is not boxed reads as the canonical NaN (R223). -/
def unboxed (f : Format) (v : W64) : Nat :=
  if f = binary32 then (if bits v 32 32 = 0xFFFFFFFF then bits v 0 32 else f.nan) else v.toNat

/-- A result as the register holds it: a binary32 value under upper bits of ones. -/
def boxed (f : Format) (n : Nat) : W64 :=
  if f = binary32 then BitVec.ofNat 64 (n + 0xFFFFFFFF00000000) else BitVec.ofNat 64 n

/-- The rounding mode of an rm field, 7 the one in frm; none for a reserved one. -/
def roundingOf (rm frm : Nat) : Option Rounding :=
  match if rm = 7 then frm else rm with
  | 0 => some .rne
  | 1 => some .rtz
  | 2 => some .rdn
  | 3 => some .rup
  | 4 => some .rmm
  | _ => none

/-! ### The operations of OP-FP and the fused ones -/

/-- What a floating-point instruction writes, an f or an x register, with its flags. -/
structure FpResult where
  toX : Bool
  value : W64
  flags : Flags := 0
  deriving DecidableEq, Repr

/-- A result of a format for an f register. -/
def toF (f : Format) (p : Nat × Flags) : FpResult := ⟨false, boxed f p.1, p.2⟩
/-- A result for an x register. -/
def toX (p : W64 × Flags) : FpResult := ⟨true, p.1, p.2⟩

/-- FSGNJ, FSGNJN and FSGNJX, by funct3: the magnitude of `x` with a sign from `y`. -/
def signInject (f : Format) (f3 x y : Nat) : Option Nat :=
  let top := f.signBit true
  let mag := x % top
  let sx := decide (top ≤ x)
  let sy := decide (top ≤ y)
  match f3 with
  | 0 => some (mag + f.signBit sy)
  | 1 => some (mag + f.signBit !sy)
  | 2 => some (mag + f.signBit (sx != sy))
  | _ => none

/-- The arithmetic operations, by the upper five bits of funct7; FADD's and FSUB's, FMUL's, FDIV's and FSQRT's. -/
def fpArith (f : Format) (r : Rounding) (op : Nat) (a b : Fp) : Option (Nat × Flags) :=
  match op with
  | 0 => some (fpAdd f r a b)
  | 1 => some (fpAdd f r a b.negate)
  | 2 => some (fpMul f r a b)
  | 3 => some (fpDiv f r a b)
  | 11 => some (fpSqrt f r a)
  | _ => none

/-- FMV and FCLASS to an x register. -/
def fpMove (f : Format) (f3 : Nat) (v : W64) : Option FpResult :=
  if f3 = 1 then some (toX (fpClass f (f.decode (unboxed f v)), 0))
  else if f3 = 0 then some (toX (if f = binary32 then wide (v.truncate 32) else v, 0))
  else none

/-- The other format. -/
def otherFormat (f : Format) : Format := if f = binary32 then binary64 else binary32

/-- OP-FP: `u` and `v` are the f registers rs1 and rs2, `x` the x register rs1. -/
def fpOp (w : W32) (frm : Nat) (u v x : W64) : Option FpResult :=
  (formatOf (bits w 25 2)).bind fun f =>
    let op := bits w 27 5
    let f3 := (wFunct3 w).toNat
    let rs2 := (wRs2 w).toNat
    let m := unboxed f u
    let n := unboxed f v
    let mode := roundingOf f3 frm
    match op with
    | 4 => (signInject f f3 m n).map fun z => toF f (z, 0)
    | 5 => if f3 < 2 then some (toF f (fpMinMax f (decide (f3 = 1)) m n)) else none
    | 8 =>
      if rs2 = (if f = binary32 then 1 else 0) then mode.map fun r => toF f (fpConvert r f ((otherFormat f).decode (unboxed (otherFormat f) u)))
      else none
    | 20 => (fpCompare f3 (f.decode m) (f.decode n)).map fun p => toX (flag p.1, p.2)
    | 24 => if rs2 < 4 then mode.map fun r => toX (fpToInt r rs2 (f.decode m)) else none
    | 26 => if rs2 < 4 then mode.map fun r => toF f (fpFromInt f r rs2 x) else none
    | 28 => if rs2 = 0 then fpMove f f3 u else none
    | 30 => if rs2 = 0 ∧ f3 = 0 then some ⟨false, if f = binary32 then boxed f (bits x 0 32) else x, 0⟩ else none
    | 11 => if rs2 = 0 then mode.bind fun r => (fpArith f r 11 (f.decode m) (f.decode n)).map (toF f) else none
    | _ => mode.bind fun r => (fpArith f r op (f.decode m) (f.decode n)).map (toF f)

/-- FMADD, FMSUB, FNMSUB and FNMADD, by bits 3:2 of the opcode. -/
def fpFused (w : W32) (frm : Nat) (u v t : W64) : Option FpResult :=
  (formatOf (bits w 25 2)).bind fun f =>
    (roundingOf (wFunct3 w).toNat frm).map fun r =>
      let a := f.decode (unboxed f u)
      let b := f.decode (unboxed f v)
      let c := f.decode (unboxed f t)
      toF f (match bits w 2 2 with
        | 0 => fpFma f r a b c
        | 1 => fpFma f r a b c.negate
        | 2 => fpFma f r a.negate b c
        | _ => fpFma f r a.negate b c.negate)

end Sys2Proof.Machine
end

