-- ==== Sys2Proof/Machine/Hash.lean ====
section
/-!
DEFINITION. The hash functions, MACs and CRCs that Table 13.1 names: SHA-2 (FIPS 180-4), SHA-3 and SHAKE (FIPS 202), HMAC
(FIPS 198-1), KMAC (SP 800-185), and the CRCs of 02, 16 and 19.
-/

namespace Sys2Proof.Machine

/-! ### CRCs -/

/-- One byte into a reflected CRC-32C register (R751). -/
def crc32cStep (c : W32) (b : Byte) : W32 :=
  (List.range 8).foldl (fun x _ => if x.getLsbD 0 then (x >>> 1) ^^^ 0x82F63B78#32 else x >>> 1) (c ^^^ b.zeroExtend 32)

/-- CRC-32C: initial value and final XOR all ones (R751). -/
def crc32c (bs : List Byte) : W32 := ~~~(bs.foldl crc32cStep 0xFFFFFFFF#32)

/-- One byte, most significant bit first, into a CRC-16 register of the polynomial of R70. -/
def crc16Step (c : BitVec 16) (b : Byte) : BitVec 16 :=
  (List.range 8).foldl (fun x _ => if x.getLsbD 15 then (x <<< 1) ^^^ 0x1021#16 else x <<< 1) (c ^^^ (b.zeroExtend 16 <<< 8))

/-- The CRC-16 of R70. -/
def crc16 (bs : List Byte) : BitVec 16 := bs.foldl crc16Step 0xFFFF#16

/-- One byte into the CRC-8 register of the SMBus PEC. -/
def pecStep (c b : Byte) : Byte :=
  (List.range 8).foldl (fun x _ => if x.getLsbD 7 then (x <<< 1) ^^^ 0x07#8 else x <<< 1) (c ^^^ b)

/-- The PEC of a message (SMBus 3.1). -/
def pecOf (bs : List Byte) : Byte := bs.foldl pecStep 0

/-- A list cut into pieces of `n`; `fuel` bounds their number. -/
def chunks {α : Type} (n : Nat) : Nat → List α → List (List α)
  | 0, _ => []
  | _, [] => []
  | fuel + 1, l => l.take n :: chunks n fuel (l.drop n)

/-- A byte list cut into pieces of `n`. -/
def blocksOf (n : Nat) (bs : List Byte) : List (List Byte) := chunks n (bs.length / n + 1) bs

/-! ### SHA-2 -/

/-- Round constants of SHA-256. -/
def sha256K : List W32 :=
  [0x428A2F98, 0x71374491, 0xB5C0FBCF, 0xE9B5DBA5, 0x3956C25B, 0x59F111F1, 0x923F82A4, 0xAB1C5ED5] ++
  [0xD807AA98, 0x12835B01, 0x243185BE, 0x550C7DC3, 0x72BE5D74, 0x80DEB1FE, 0x9BDC06A7, 0xC19BF174] ++
  [0xE49B69C1, 0xEFBE4786, 0x0FC19DC6, 0x240CA1CC, 0x2DE92C6F, 0x4A7484AA, 0x5CB0A9DC, 0x76F988DA] ++
  [0x983E5152, 0xA831C66D, 0xB00327C8, 0xBF597FC7, 0xC6E00BF3, 0xD5A79147, 0x06CA6351, 0x14292967] ++
  [0x27B70A85, 0x2E1B2138, 0x4D2C6DFC, 0x53380D13, 0x650A7354, 0x766A0ABB, 0x81C2C92E, 0x92722C85] ++
  [0xA2BFE8A1, 0xA81A664B, 0xC24B8B70, 0xC76C51A3, 0xD192E819, 0xD6990624, 0xF40E3585, 0x106AA070] ++
  [0x19A4C116, 0x1E376C08, 0x2748774C, 0x34B0BCB5, 0x391C0CB3, 0x4ED8AA4A, 0x5B9CCA4F, 0x682E6FF3] ++
  [0x748F82EE, 0x78A5636F, 0x84C87814, 0x8CC70208, 0x90BEFFFA, 0xA4506CEB, 0xBEF9A3F7, 0xC67178F2]

/-- Round constants of SHA-384 and SHA-512. -/
def sha512K : List W64 :=
  [0x428A2F98D728AE22, 0x7137449123EF65CD, 0xB5C0FBCFEC4D3B2F, 0xE9B5DBA58189DBBC, 0x3956C25BF348B538] ++
  [0x59F111F1B605D019, 0x923F82A4AF194F9B, 0xAB1C5ED5DA6D8118, 0xD807AA98A3030242, 0x12835B0145706FBE] ++
  [0x243185BE4EE4B28C, 0x550C7DC3D5FFB4E2, 0x72BE5D74F27B896F, 0x80DEB1FE3B1696B1, 0x9BDC06A725C71235] ++
  [0xC19BF174CF692694, 0xE49B69C19EF14AD2, 0xEFBE4786384F25E3, 0x0FC19DC68B8CD5B5, 0x240CA1CC77AC9C65] ++
  [0x2DE92C6F592B0275, 0x4A7484AA6EA6E483, 0x5CB0A9DCBD41FBD4, 0x76F988DA831153B5, 0x983E5152EE66DFAB] ++
  [0xA831C66D2DB43210, 0xB00327C898FB213F, 0xBF597FC7BEEF0EE4, 0xC6E00BF33DA88FC2, 0xD5A79147930AA725] ++
  [0x06CA6351E003826F, 0x142929670A0E6E70, 0x27B70A8546D22FFC, 0x2E1B21385C26C926, 0x4D2C6DFC5AC42AED] ++
  [0x53380D139D95B3DF, 0x650A73548BAF63DE, 0x766A0ABB3C77B2A8, 0x81C2C92E47EDAEE6, 0x92722C851482353B] ++
  [0xA2BFE8A14CF10364, 0xA81A664BBC423001, 0xC24B8B70D0F89791, 0xC76C51A30654BE30, 0xD192E819D6EF5218] ++
  [0xD69906245565A910, 0xF40E35855771202A, 0x106AA07032BBD1B8, 0x19A4C116B8D2D0C8, 0x1E376C085141AB53] ++
  [0x2748774CDF8EEB99, 0x34B0BCB5E19B48A8, 0x391C0CB3C5C95A63, 0x4ED8AA4AE3418ACB, 0x5B9CCA4F7763E373] ++
  [0x682E6FF3D6B2B8A3, 0x748F82EE5DEFB2FC, 0x78A5636F43172F60, 0x84C87814A1F0AB72, 0x8CC702081A6439EC] ++
  [0x90BEFFFA23631E28, 0xA4506CEBDE82BDE9, 0xBEF9A3F7B2C67915, 0xC67178F2E372532B, 0xCA273ECEEA26619C] ++
  [0xD186B8C721C0C207, 0xEADA7DD6CDE0EB1E, 0xF57D4F7FEE6ED178, 0x06F067AA72176FBA, 0x0A637DC5A2C898A6] ++
  [0x113F9804BEF90DAE, 0x1B710B35131C471B, 0x28DB77F523047D84, 0x32CAAB7B40C72493, 0x3C9EBE0A15C9BEBC] ++
  [0x431D67C49C100D4C, 0x4CC5D4BECB3E42B6, 0x597F299CFC657E2A, 0x5FCB6FAB3AD6FAEC, 0x6C44198C4A475817]

/-- Initial hash value of SHA-256. -/
def sha256Init : List W32 :=
  [0x6A09E667, 0xBB67AE85, 0x3C6EF372, 0xA54FF53A, 0x510E527F, 0x9B05688C, 0x1F83D9AB, 0x5BE0CD19]

/-- Initial hash value of SHA-384. -/
def sha384Init : List W64 :=
  [0xCBBB9D5DC1059ED8, 0x629A292A367CD507, 0x9159015A3070DD17, 0x152FECD8F70E5939] ++
  [0x67332667FFC00B31, 0x8EB44A8768581511, 0xDB0C2E0D64F98FA7, 0x47B5481DBEFA4FA4]

/-- Initial hash value of SHA-512. -/
def sha512Init : List W64 :=
  [0x6A09E667F3BCC908, 0xBB67AE8584CAA73B, 0x3C6EF372FE94F82B, 0xA54FF53A5F1D36F1] ++
  [0x510E527FADE682D1, 0x9B05688C2B3E6C1F, 0x1F83D9ABFB41BD6B, 0x5BE0CD19137E2179]

/-- Round constants of Keccak-f[1600]. -/
def keccakRc : List W64 :=
  [0x0000000000000001, 0x0000000000008082, 0x800000000000808A, 0x8000000080008000, 0x000000000000808B, 0x0000000080000001] ++
  [0x8000000080008081, 0x8000000000008009, 0x000000000000008A, 0x0000000000000088, 0x0000000080008009, 0x000000008000000A] ++
  [0x000000008000808B, 0x800000000000008B, 0x8000000000008089, 0x8000000000008003, 0x8000000000008002, 0x8000000000000080] ++
  [0x000000000000800A, 0x800000008000000A, 0x8000000080008081, 0x8000000000008080, 0x0000000080000001, 0x8000000080008008]

/-- The rotation and shift amounts of one SHA-2 word size. -/
structure ShaShape where
  w : Nat
  bigA : Nat × Nat × Nat
  bigE : Nat × Nat × Nat
  smallA : Nat × Nat × Nat
  smallB : Nat × Nat × Nat

/-- SHA-256. -/
def shape256 : ShaShape := ⟨32, (2, 13, 22), (6, 11, 25), (7, 18, 3), (17, 19, 10)⟩
/-- SHA-384 and SHA-512. -/
def shape512 : ShaShape := ⟨64, (28, 34, 39), (14, 18, 41), (1, 8, 7), (19, 61, 6)⟩

/-- A big sigma: three rotations. -/
def bigSigma {w : Nat} (r : Nat × Nat × Nat) (x : BitVec w) : BitVec w :=
  x.rotateRight r.1 ^^^ x.rotateRight r.2.1 ^^^ x.rotateRight r.2.2
/-- A small sigma: two rotations and a shift. -/
def smallSigma {w : Nat} (r : Nat × Nat × Nat) (x : BitVec w) : BitVec w :=
  x.rotateRight r.1 ^^^ x.rotateRight r.2.1 ^^^ (x >>> r.2.2)

/-- The next word of the message schedule, from the last 16, newest first. -/
def schedNext (p : ShaShape) (l : List (BitVec p.w)) : BitVec p.w :=
  smallSigma p.smallB (l.getD 1 0) + l.getD 6 0 + smallSigma p.smallA (l.getD 14 0) + l.getD 15 0

/-- The message schedule of `n` more words, newest first. -/
def schedule (p : ShaShape) : Nat → List (BitVec p.w) → List (BitVec p.w)
  | 0, l => l
  | n + 1, l => schedule p n (schedNext p l :: l)

/-- One round on the working variables a to h. -/
def shaRound (p : ShaShape) (v : List (BitVec p.w)) (kw : BitVec p.w × BitVec p.w) : List (BitVec p.w) :=
  match v with
  | [a, b, c, d, e, f, g, h] =>
    let t1 := h + bigSigma p.bigE e + ((e &&& f) ^^^ (~~~e &&& g)) + kw.1 + kw.2
    let t2 := bigSigma p.bigA a + ((a &&& b) ^^^ (a &&& c) ^^^ (b &&& c))
    [t1 + t2, a, b, c, d + t1, e, f, g]
  | v => v

/-- One message block into the hash value. -/
def shaBlock (p : ShaShape) (ks : List (BitVec p.w)) (h : List (BitVec p.w)) (block : List Byte) : List (BitVec p.w) :=
  let m := (chunks (p.w / 8) 16 block).map fun x => BitVec.ofNat p.w (ofBytesBE x)
  let ws := (schedule p (ks.length - 16) m.reverse).reverse
  (h.zip ((ks.zip ws).foldl (shaRound p) h)).map fun x => x.1 + x.2

/-- SHA-2: padding, the blocks, and the first `outBytes` bytes of the hash value. -/
def sha2 (p : ShaShape) (ks init : List (BitVec p.w)) (outBytes : Nat) (msg : List Byte) : List Byte :=
  let bb := 2 * p.w
  let lb := p.w / 4
  let z := (bb - (msg.length + 1 + lb) % bb) % bb
  let padded := msg ++ [0x80#8] ++ List.replicate z 0 ++ bytesBE lb (8 * msg.length)
  let h := (blocksOf bb padded).foldl (shaBlock p ks) init
  (h.flatMap fun x => bytesBE (p.w / 8) x.toNat).take outBytes

/-- SHA-256. -/
def sha256 (m : List Byte) : List Byte := sha2 shape256 sha256K sha256Init 32 m
/-- SHA-384. -/
def sha384 (m : List Byte) : List Byte := sha2 shape512 sha512K sha384Init 48 m
/-- SHA-512. -/
def sha512 (m : List Byte) : List Byte := sha2 shape512 sha512K sha512Init 64 m

/-! ### Keccak (FIPS 202) -/

/-- Lane (x, y) of a Keccak state, at 5 y + x. -/
def kLane (a : List W64) (x y : Nat) : W64 := a.getD (5 * (y % 5) + x % 5) 0

/-- The rotation of lane (x, y). -/
def kRot (x y : Nat) : Nat :=
  ([[0, 36, 3, 41, 18], [1, 44, 10, 45, 2], [62, 6, 43, 15, 61], [28, 55, 25, 21, 56], [27, 20, 39, 8, 14]].getD x []).getD y 0

/-- Every lane of a state, by a function of its place. -/
def kBuild (f : Nat → Nat → W64) : List W64 := (List.range 25).map fun i => f (i % 5) (i / 5)

/-- One round of Keccak-f[1600]. -/
def kRound (a : List W64) (rc : W64) : List W64 :=
  let c := (List.range 5).map fun x => (List.range 5).foldl (fun t y => t ^^^ kLane a x y) 0
  let d := (List.range 5).map fun x => c.getD ((x + 4) % 5) 0 ^^^ (c.getD ((x + 1) % 5) 0).rotateLeft 1
  let t := kBuild fun x y => kLane a x y ^^^ d.getD x 0
  let b := kBuild fun x y => let u := (x + 3 * y) % 5; (kLane t u x).rotateLeft (kRot u x)
  let e := kBuild fun x y => kLane b x y ^^^ (~~~(kLane b (x + 1) y) &&& kLane b (x + 2) y)
  e.set 0 (e.headD 0 ^^^ rc)

/-- Keccak-f[1600]. -/
def keccakF (a : List W64) : List W64 := keccakRc.foldl kRound a

/-- A block of bytes into the state. -/
def kAbsorb (a : List W64) (block : List Byte) : List W64 :=
  keccakF ((a.zip ((chunks 8 25 (fit 200 block)).map fun x => BitVec.ofNat 64 (ofBytesLE x))).map fun p => p.1 ^^^ p.2)

/-- `n` squeezed blocks of `rate` bytes. -/
def kSqueeze (rate : Nat) : Nat → List W64 → List Byte
  | 0, _ => []
  | n + 1, a => ((a.flatMap fun x => bytesLE 8 x.toNat).take rate) ++ kSqueeze rate n (keccakF a)

/-- The sponge with a domain suffix byte. -/
def sponge (rate : Nat) (suffix : Byte) (msg : List Byte) (out : Nat) : List Byte :=
  let z := rate - 1 - msg.length % rate
  let padded := if z = 0 then msg ++ [suffix ||| 0x80#8] else msg ++ [suffix] ++ List.replicate (z - 1) 0 ++ [0x80#8]
  let a := (blocksOf rate padded).foldl kAbsorb (List.replicate 25 0)
  (kSqueeze rate (out / rate + 1) a).take out

/-- SHA3-256. -/
def sha3_256 (m : List Byte) : List Byte := sponge 136 0x06 m 32
/-- SHA3-512. -/
def sha3_512 (m : List Byte) : List Byte := sponge 72 0x06 m 64
/-- SHAKE128. -/
def shake128 (m : List Byte) (out : Nat) : List Byte := sponge 168 0x1F m out
/-- SHAKE256. -/
def shake256 (m : List Byte) (out : Nat) : List Byte := sponge 136 0x1F m out

/-! ### MACs -/

/-- HMAC (FIPS 198-1) over a hash of block size `b`. -/
def hmacOf (hash : List Byte → List Byte) (b : Nat) (key msg : List Byte) : List Byte :=
  let k := fit b (if key.length ≤ b then key else hash key)
  hash ((k.map (· ^^^ 0x5C#8)) ++ hash ((k.map (· ^^^ 0x36#8)) ++ msg))

/-- Bytes that a number needs, at least one. -/
def numBytes (n : Nat) : Nat := if n < 256 then 1 else if n < 65536 then 2 else if n < 16777216 then 3 else if n < 4294967296 then 4 else 8

/-- left_encode (SP 800-185). -/
def leftEncode (n : Nat) : List Byte := BitVec.ofNat 8 (numBytes n) :: bytesBE (numBytes n) n
/-- right_encode (SP 800-185). -/
def rightEncode (n : Nat) : List Byte := bytesBE (numBytes n) n ++ [BitVec.ofNat 8 (numBytes n)]
/-- encode_string (SP 800-185). -/
def encodeString (s : List Byte) : List Byte := leftEncode (8 * s.length) ++ s
/-- bytepad (SP 800-185). -/
def bytepad (x : List Byte) (w : Nat) : List Byte :=
  let y := leftEncode w ++ x
  y ++ List.replicate ((w - y.length % w) % w) 0

/-- KMAC128 (rate 168) and KMAC256 (rate 136) of `out` bytes. -/
def kmacOf (rate : Nat) (key msg : List Byte) (out : Nat) (s : List Byte) : List Byte :=
  sponge rate 0x04
    (bytepad (encodeString [0x4B#8, 0x4D#8, 0x41#8, 0x43#8] ++ encodeString s) rate ++ bytepad (encodeString key) rate ++ msg ++ rightEncode (8 * out)) out

/-- KMAC256. -/
def kmac256 (key msg : List Byte) (out : Nat) (s : List Byte) : List Byte := kmacOf 136 key msg out s

/-- The ASCII bytes of a string. -/
def ascii (s : String) : List Byte := s.toList.map fun c => BitVec.ofNat 8 c.toNat

end Sys2Proof.Machine
end

