-- ==== Sys2Proof/Machine/Cipher.lean ====
section
/-!
DEFINITION. The ciphers of Table 13.1: AES with its modes CBC, CTR, GCM, XTS, CMAC, KW and KWP, ChaCha20-Poly1305, and the
AES-256 CTR_DRBG of a command (R560).
-/

namespace Sys2Proof.Machine

/-! ### AES (FIPS 197) -/

/-- Multiplication by x in GF(2^8). -/
def xtime (a : Byte) : Byte := if a.getLsbD 7 then (a <<< 1) ^^^ 0x1B#8 else a <<< 1

/-- Multiplication in GF(2^8). -/
def gmul (a b : Byte) : Byte :=
  ((List.range 8).foldl (fun (p : Byte × Byte) i => (if b.getLsbD i then p.1 ^^^ p.2 else p.1, xtime p.2)) (0, a)).1

/-- The inverse in GF(2^8), with 0 for 0: the 254th power. -/
def ginv (a : Byte) : Byte :=
  let a2 := gmul a a
  let a4 := gmul a2 a2
  let a8 := gmul a4 a4
  let a16 := gmul a8 a8
  let a32 := gmul a16 a16
  let a64 := gmul a32 a32
  let a128 := gmul a64 a64
  gmul a2 (gmul a4 (gmul a8 (gmul a16 (gmul a32 (gmul a64 a128)))))

/-- The S-box of one byte. -/
def sboxOf (a : Byte) : Byte :=
  let b := ginv a
  b ^^^ b.rotateLeft 1 ^^^ b.rotateLeft 2 ^^^ b.rotateLeft 3 ^^^ b.rotateLeft 4 ^^^ 0x63#8

/-- The S-box as a table. -/
def sboxTable : Array Byte := ((List.range 256).map fun i => sboxOf (BitVec.ofNat 8 i)).toArray
/-- The inverse S-box as a table. -/
def invTable : Array Byte :=
  (List.range 256).foldl (fun t i => t.set! (sboxTable.getD i 0).toNat (BitVec.ofNat 8 i)) (Array.replicate 256 0)
/-- The S-box. -/
def sbox (a : Byte) : Byte := sboxTable.getD a.toNat 0
/-- The inverse S-box. -/
def invSbox (a : Byte) : Byte := invTable.getD a.toNat 0

/-- XOR of two byte lists. -/
def xorBytes (a b : List Byte) : List Byte := a.zipWith (· ^^^ ·) b

/-- The next key-schedule word at place `i`, from the words so far, newest first, with `nk` key words. -/
def keyWord (nk i : Nat) (rcon : Byte) (ws : List (List Byte)) : List Byte :=
  let t := ws.headD []
  let t := if i % nk = 0 then xorBytes ((t.drop 1 ++ t.take 1).map sbox) [rcon, 0, 0, 0]
    else if 6 < nk ∧ i % nk = 4 then t.map sbox else t
  xorBytes (ws.getD (nk - 1) []) t

/-- Key expansion to `n` more words, newest first. -/
def expandKey (nk : Nat) : Nat → Nat → Byte → List (List Byte) → List (List Byte)
  | 0, _, _, ws => ws
  | n + 1, i, rcon, ws => expandKey nk n (i + 1) (if i % nk = 0 then xtime rcon else rcon) (keyWord nk i rcon ws :: ws)

/-- The round keys, each of 16 bytes. -/
def roundKeys (key : List Byte) : List (List Byte) :=
  let nk := key.length / 4
  let ws := (expandKey nk (4 * (nk + 7) - nk) nk 1 (blocksOf 4 key).reverse).reverse
  (chunks 4 15 ws).map List.flatten

/-- ShiftRows: byte `4 c + r` comes from column `c + r`. -/
def shiftRows (s : List Byte) : List Byte := (List.range 16).map fun i => s.getD ((i / 4 + i % 4) % 4 * 4 + i % 4) 0
/-- Its inverse. -/
def unshiftRows (s : List Byte) : List Byte := (List.range 16).map fun i => s.getD ((i / 4 + 4 - i % 4) % 4 * 4 + i % 4) 0

/-- A column times the circulant matrix with these coefficients. -/
def mixColumn (m : List Byte) (c : List Byte) : List Byte :=
  (List.range 4).map fun r => (List.range 4).foldl (fun t j => t ^^^ gmul (m.getD ((j + 4 - r) % 4) 0) (c.getD j 0)) 0
/-- A transformation of each column. -/
def mixWith (m s : List Byte) : List Byte := (chunks 4 4 s).flatMap (mixColumn m)

/-- AES encryption of one block under expanded round keys. -/
def aesEnc (rks : List (List Byte)) (block : List Byte) : List Byte :=
  match rks with
  | [] => block
  | k0 :: rest =>
    let s := (rest.dropLast).foldl (fun s k => xorBytes (mixWith [2, 3, 1, 1] (shiftRows (s.map sbox))) k) (xorBytes block k0)
    xorBytes (shiftRows (s.map sbox)) (rest.getLastD [])

/-- AES decryption of one block. -/
def aesDec (rks : List (List Byte)) (block : List Byte) : List Byte :=
  match rks.reverse with
  | [] => block
  | kn :: rest =>
    let s := (rest.dropLast).foldl (fun s k => mixWith [14, 11, 13, 9] (xorBytes ((unshiftRows s).map invSbox) k)) (xorBytes block kn)
    xorBytes ((unshiftRows s).map invSbox) (rest.getLastD [])

/-! ### Modes -/

/-- CBC encryption (SP 800-38A). -/
def cbcEnc (key iv bs : List Byte) : List Byte :=
  let ks := roundKeys key
  ((blocksOf 16 bs).foldl (fun (p : List (List Byte) × List Byte) b =>
    let c := aesEnc ks (xorBytes b p.2)
    (c :: p.1, c)) ([], iv)).1.reverse.flatten

/-- CBC decryption. -/
def cbcDec (key iv bs : List Byte) : List Byte :=
  let ks := roundKeys key
  ((blocksOf 16 bs).foldl (fun (p : List (List Byte) × List Byte) b => (xorBytes (aesDec ks b) p.2 :: p.1, b)) ([], iv)).1.reverse.flatten

/-- CTR from a counter block that increments modulo 2^`w` in its low bits (SP 800-38A; 128 for AES_CTR, 32 for GCM). -/
def ctrMode (key : List Byte) (w : Nat) (counter : List Byte) (bs : List Byte) : List Byte :=
  let ks := roundKeys key
  let c := ofBytesBE counter
  ((blocksOf 16 bs).zipIdx.flatMap fun e =>
    xorBytes e.1 (aesEnc ks (bytesBE 16 (c / 2 ^ w * 2 ^ w + (c + e.2) % 2 ^ w))))

/-- Multiplication in the field of GHASH: bit 0 is the most significant. -/
def ghashMul (x y : BitVec 128) : BitVec 128 :=
  ((List.range 128).foldl (fun (p : BitVec 128 × BitVec 128) i =>
    (if x.getMsbD i then p.1 ^^^ p.2 else p.1,
     if p.2.getLsbD 0 then (p.2 >>> 1) ^^^ (0xE1#128 <<< 120) else p.2 >>> 1)) (0, y)).1

/-- Zero-padded to a multiple of 16 bytes. -/
def pad16 (bs : List Byte) : List Byte := bs ++ List.replicate ((16 - bs.length % 16) % 16) 0

/-- GHASH of AAD and ciphertext (SP 800-38D). -/
def ghash (h : BitVec 128) (aad ct : List Byte) : List Byte :=
  let all := pad16 aad ++ pad16 ct ++ bytesBE 8 (8 * aad.length) ++ bytesBE 8 (8 * ct.length)
  bytesBE 16 ((blocksOf 16 all).foldl (fun y b => ghashMul (y ^^^ BitVec.ofNat 128 (ofBytesBE b)) h) 0).toNat

/-- GCM's full tag over AAD and ciphertext. -/
def gcmTag (key nonce aad ct : List Byte) : List Byte :=
  let ks := roundKeys key
  let h := BitVec.ofNat 128 (ofBytesBE (aesEnc ks (List.replicate 16 0)))
  xorBytes (ghash h aad ct) (aesEnc ks (nonce ++ [0, 0, 0, 1]))
/-- GCM's cipher, both directions, for a 12-byte nonce. -/
def gcmCrypt (key nonce bs : List Byte) : List Byte := ctrMode key 32 (nonce ++ [0, 0, 0, 2]) bs

/-- The next XTS tweak: times x, little-endian (IEEE 1619). -/
def xtsNext (t : List Byte) : List Byte :=
  let v := BitVec.ofNat 128 (ofBytesLE t)
  bytesLE 16 (if v.getLsbD 127 then (v <<< 1) ^^^ 0x87#128 else v <<< 1).toNat

/-- One XTS block. -/
def xtsBlock (f : List Byte → List Byte) (t b : List Byte) : List Byte := xorBytes (f (xorBytes b t)) t

/-- The tweaks of successive blocks. -/
def xtsTweaks : Nat → List Byte → List (List Byte)
  | 0, _ => []
  | n + 1, t => t :: xtsTweaks n (xtsNext t)

/-- XTS-AES with ciphertext stealing (SP 800-38E); the key's halves are the data and the tweak key. -/
def xts (enc : Bool) (key tweak bs : List Byte) : List Byte :=
  let ks := roundKeys (key.take (key.length / 2))
  let f := if enc then aesEnc ks else aesDec ks
  let m := bs.length / 16
  let ts := xtsTweaks (m + 1) (aesEnc (roundKeys (key.drop (key.length / 2))) tweak)
  let rest := bs.length % 16
  let whole := fun (n : Nat) => ((chunks 16 n bs).zip ts).flatMap fun e => xtsBlock f e.2 e.1
  if rest = 0 then whole m
  else
    let tm := ts.getD (m - 1) []
    let tn := ts.getD m []
    let last := (bs.drop (16 * (m - 1))).take 16
    let cc := xtsBlock f (if enc then tm else tn) last
    let pp := bs.drop (16 * m) ++ cc.drop rest
    whole (m - 1) ++ xtsBlock f (if enc then tn else tm) pp ++ cc.take rest

/-- Doubling of a CMAC subkey. -/
def cmacDouble (b : List Byte) : List Byte :=
  let v := BitVec.ofNat 128 (ofBytesBE b)
  bytesBE 16 (if v.getLsbD 127 then (v <<< 1) ^^^ 0x87#128 else v <<< 1).toNat

/-- CMAC (SP 800-38B), 16 bytes. -/
def cmac (key msg : List Byte) : List Byte :=
  let ks := roundKeys key
  let k1 := cmacDouble (aesEnc ks (List.replicate 16 0))
  let n := if msg.isEmpty then 0 else (msg.length - 1) / 16
  let last := msg.drop (16 * n)
  let final := if last.length = 16 then xorBytes last k1
    else xorBytes (fit 16 (last ++ [0x80#8])) (cmacDouble k1)
  let x := (chunks 16 n msg).foldl (fun x b => aesEnc ks (xorBytes x b)) (List.replicate 16 0)
  aesEnc ks (xorBytes x final)

/-- The wrapping steps of RFC 3394: A and the 64-bit blocks through 6 n steps. -/
def kwWrap (key a : List Byte) (rs : List (List Byte)) : List Byte :=
  let ks := roundKeys key
  let n := rs.length
  let p := (List.range (6 * n)).foldl (fun (p : List Byte × List (List Byte)) i =>
    let b := aesEnc ks (p.1 ++ p.2.getD (i % n) [])
    (xorBytes (b.take 8) (bytesBE 8 (i + 1)), p.2.set (i % n) (b.drop 8))) (a, rs)
  p.1 ++ p.2.flatten

/-- The unwrapping steps: the recovered A and the blocks. -/
def kwUnwrap (key bs : List Byte) : List Byte × List Byte :=
  let ks := roundKeys key
  let rs := blocksOf 8 (bs.drop 8)
  let n := rs.length
  let p := ((List.range (6 * n)).reverse).foldl (fun (p : List Byte × List (List Byte)) i =>
    let b := aesDec ks (xorBytes p.1 (bytesBE 8 (i + 1)) ++ p.2.getD (i % n) [])
    (b.take 8, p.2.set (i % n) (b.drop 8))) (bs.take 8, rs)
  (p.1, p.2.flatten)

/-- The initial value of RFC 3394. -/
def kwIv : List Byte := List.replicate 8 0xA6#8

/-- AES-KW wrap (RFC 3394). -/
def aesKwWrap (key bs : List Byte) : List Byte := kwWrap key kwIv (blocksOf 8 bs)
/-- AES-KW unwrap: the data, where the integrity check passes. -/
def aesKwUnwrap (key bs : List Byte) : Option (List Byte) :=
  let p := kwUnwrap key bs
  if p.1 = kwIv then some p.2 else none

/-- AES-KWP wrap (RFC 5649). -/
def aesKwpWrap (key bs : List Byte) : List Byte :=
  let a := [0xA6#8, 0x59#8, 0x59#8, 0xA6#8] ++ bytesBE 4 bs.length
  let padded := bs ++ List.replicate ((8 - bs.length % 8) % 8) 0
  if padded.length = 8 then aesEnc (roundKeys key) (a ++ padded) else kwWrap key a (blocksOf 8 padded)

/-- AES-KWP unwrap: the data, where the integrity check passes. -/
def aesKwpUnwrap (key bs : List Byte) : Option (List Byte) :=
  let p := if bs.length = 16 then (let b := aesDec (roundKeys key) bs; (b.take 8, b.drop 8)) else kwUnwrap key bs
  let n := ofBytesBE (p.1.drop 4)
  if p.1.take 4 = [0xA6#8, 0x59#8, 0x59#8, 0xA6#8] ∧ p.2.length < n + 8 ∧ n ≤ p.2.length ∧ (p.2.drop n).all (· = 0) = true then some (p.2.take n) else none

/-! ### ChaCha20-Poly1305 (RFC 8439) -/

/-- The quarter round on four places of the state. -/
def quarter (s : List W32) (i j k l : Nat) : List W32 :=
  let a := s.getD i 0 + s.getD j 0
  let d := (s.getD l 0 ^^^ a).rotateLeft 16
  let c := s.getD k 0 + d
  let b := (s.getD j 0 ^^^ c).rotateLeft 12
  let a := a + b
  let d := (d ^^^ a).rotateLeft 8
  let c := c + d
  let b := (b ^^^ c).rotateLeft 7
  (((s.set i a).set j b).set k c).set l d

/-- A column round and a diagonal round. -/
def doubleRound (s : List W32) : List W32 :=
  let s := quarter (quarter (quarter (quarter s 0 4 8 12) 1 5 9 13) 2 6 10 14) 3 7 11 15
  quarter (quarter (quarter (quarter s 0 5 10 15) 1 6 11 12) 2 7 8 13) 3 4 9 14

/-- A key-stream block. -/
def chachaBlock (key nonce : List Byte) (n : Nat) : List Byte :=
  let w := fun (bs : List Byte) => (blocksOf 4 bs).map fun x => BitVec.ofNat 32 (ofBytesLE x)
  let s := w (ascii "expand 32-byte k") ++ w key ++ [BitVec.ofNat 32 n] ++ w nonce
  let t := (List.range 10).foldl (fun t _ => doubleRound t) s
  (t.zipWith (· + ·) s).flatMap fun x => bytesLE 4 x.toNat

/-- ChaCha20 from block counter `n`. -/
def chacha (key nonce : List Byte) (n : Nat) (bs : List Byte) : List Byte :=
  (blocksOf 64 bs).zipIdx.flatMap fun e => xorBytes e.1 (chachaBlock key nonce (n + e.2))

/-- Poly1305 under a one-time key. -/
def poly1305 (key msg : List Byte) : List Byte :=
  let r := (BitVec.ofNat 128 (ofBytesLE (key.take 16)) &&& 0x0FFFFFFC0FFFFFFC0FFFFFFC0FFFFFFF#128).toNat
  let acc := (blocksOf 16 msg).foldl (fun a b => (a + ofBytesLE (b ++ [1])) * r % (2 ^ 130 - 5)) 0
  bytesLE 16 (acc + ofBytesLE ((key.drop 16).take 16))

/-- The tag of AEAD_CHACHA20_POLY1305 over AAD and ciphertext. -/
def chachaTag (key nonce aad ct : List Byte) : List Byte :=
  poly1305 ((chachaBlock key nonce 0).take 32) (pad16 aad ++ pad16 ct ++ bytesLE 8 aad.length ++ bytesLE 8 ct.length)

/-! ### CTR_DRBG (SP 800-90A, AES-256, R560) -/

/-- A DRBG's key and V. -/
structure Drbg where
  key : List Byte
  v : Nat
  deriving DecidableEq, Repr

/-- `n` blocks of output from V + 1 on. -/
def drbgBlocks (d : Drbg) (n : Nat) : List Byte :=
  let ks := roundKeys d.key
  (List.range n).flatMap fun i => aesEnc ks (bytesBE 16 ((d.v + 1 + i) % 2 ^ 128))

/-- The update function. -/
def Drbg.update (d : Drbg) (n : Nat) (provided : List Byte) : Drbg :=
  let t := xorBytes (drbgBlocks { d with v := d.v + n } 3) provided
  ⟨t.take 32, ofBytesBE (t.drop 32)⟩

/-- Instantiated from 48 bytes of seed material, without derivation function or personalisation string. -/
def Drbg.new (seed : List Byte) : Drbg := Drbg.update ⟨List.replicate 32 0, 0⟩ 0 seed

/-- Generates `n` bytes by one request. -/
def Drbg.generate (d : Drbg) (n : Nat) : List Byte × Drbg :=
  let b := (n + 15) / 16
  ((drbgBlocks d b).take n, d.update b (List.replicate 48 0))

end Sys2Proof.Machine
end

