-- ==== Sys2Proof/Machine/Operands.lean ====
section
/-!
DEFINITION. Operand forms: who a requester is, what the applied light table gives each function, ring and enclave, who
may reach a ring register, and the fields of a descriptor.
-/

namespace Sys2Proof.Machine

/-! ### Worlds and requesters -/

/-- R338: a hart is in the Keeper world in M-mode or with KENC not 0. -/
def Hart.keeper (h : Hart) : Bool := decide (h.priv = .m) || decide (h.kenc ≠ 0)

/-- The mesh requester number of a requester (R295): a PCIe request goes through the I/O node. -/
def meshNumber : Requester → Nat
  | .fn _ => 25
  | .hart h => h.val

/-- The function a requester acts for (Table 8.8). DEDUCED: a hart's current ring context is the domain hkuldisp binds it to.
(DEDUCED, log 11.) -/
def actingFn (s : State) : Requester → Nat
  | .fn f => f.val
  | .hart h => if (s.hart h).bind.en then (s.hart h).bind.domain.toNat else 0

/-- The enclave a requester acts for. (DEDUCED, log 11.) -/
def actingEncl (s : State) : Requester → Nat
  | .fn _ => 0
  | .hart h => (s.hart h).kenc.toNat

/-- Whether a requester is in the Keeper world. -/
def actingKeeper (s : State) : Requester → Bool
  | .fn _ => false
  | .hart h => (s.hart h).keeper

/-- The light table of this boot has been applied (Table 4.3). (DEDUCED, log 12.) -/
def tableUp (s : State) : Bool :=
  match s.pwr.stage with
  | .lightTable | .dram | .replayed | .service => true
  | .none | .rails | .rom | .daymark => false

/-- A register access of a requester reaches the module: over PCIe only with the link up and not before the light table is
applied (§4.4) or Daymark mode entered, and for a VF while it is enabled; a hart in reset makes none. (DEDUCED, log 12.) -/
def visible (s : State) : Requester → Bool
  | .fn f => s.host.linkUp && (tableUp s || (decide (f.val = 0) && decide (s.pwr.stage = .daymark)))
      && (decide (f.val = 0) || (s.host.vfEnable && decide (f.val ≤ s.host.numVfs)))
  | .hart h => !(s.hart h).inReset

/-- The PF through its BAR0, or a hart through the core map, at the same offset (00 §0.4.3): a VF has no view.
(DEDUCED, log 12.) -/
def seesPf (s : State) (w : Requester) : Bool :=
  visible s w && (match w with | .fn f => decide (f.val = 0) | .hart _ => true)

/-- Open-world registers of the PF that a Keeper-only rule hides: only a Keeper-world hart reaches KO registers (R885).
(DEDUCED, log 12.) -/
def reachesKo (s : State) (w : Requester) : Bool := actingKeeper s w

/-! ### What the light table gives -/

/-- An existing function: 0 to VF_COUNT (R118). -/
def LightTable.exists (lt : LightTable) (f : Nat) : Bool := decide (f ≤ lt.vfCount)

/-- The FUNCTIONS entry of a VF, or its defaults (Table 3.3). -/
def LightTable.entry (lt : LightTable) (f : Nat) : FnEntry := tget {} lt.fns f

/-- MSI-X vectors of a function (R450). -/
def LightTable.vectors (lt : LightTable) (f : Nat) : Nat :=
  if f = 0 then 64 else if lt.exists f then (lt.entry f).vectors else 0

/-- The declaration of an enclave, if the table holds one (Table 3.5). -/
def LightTable.enclave (lt : LightTable) (e : Nat) : Option EnclDecl := lt.encl.find? fun d => d.id == e

/-- Enclaves that a function owns, in ascending number. -/
def LightTable.enclavesOf (lt : LightTable) (f : Nat) : List EnclDecl :=
  (List.range 256).filterMap fun e => (lt.enclave e).bind fun d => if d.owner = f then some d else none

/-- The runs of rings beyond ring 3, in the order of R120, with their lengths; the PF's remainder is not listed. -/
def LightTable.runs (lt : LightTable) : List (RingIdent × Nat) :=
  ((List.range lt.vfCount).flatMap fun i =>
    let f := i + 1
    let e := lt.entry f
    [(⟨f, .host, 0⟩, e.hostRings), (⟨f, .module, 0⟩, e.moduleRings)]
      ++ (lt.enclavesOf f).map fun d => (⟨f, .module, d.id⟩, d.rings))
  ++ (lt.enclavesOf 0).map fun d => (⟨0, .module, d.id⟩, d.rings)

/-- The identity at place `n` of the runs; past them, the PF's rings: HOST for the first PF_HOST_RINGS, then MODULE (R120). -/
def identInRuns (pfHost : Nat) : List (RingIdent × Nat) → Nat → RingIdent
  | [], n => if n < pfHost then ⟨0, .host, 0⟩ else ⟨0, .module, 0⟩
  | (i, len) :: rest, n => if n < len then i else identInRuns pfHost rest (n - len)

/-- R120: the identity of ring `r` under the light table. -/
def LightTable.ident (lt : LightTable) (r : Nat) : RingIdent :=
  if r < 4 then ⟨0, if lt.pfMgmtModule then .module else .host, 0⟩
  else identInRuns lt.pfHostRings lt.runs (r - 4)

/-- The rings of a function in ascending number (R121), found in the runs. -/
def LightTable.ringsOf (lt : LightTable) (f : Nat) : List Nat :=
  (List.range 1024).filter fun r => decide ((lt.ident r).fn = f)

/-- The owner of a site (R23) and of a channel (R24). -/
def LightTable.siteFn (lt : LightTable) (n : Nat) : Nat := lt.siteOwner.getD n 0
/-- The site a channel maps to (R24). -/
def LightTable.channelSiteOf (lt : LightTable) (c : Nat) : Nat := lt.channelSite.getD c c
/-- The function a channel belongs to (R24). -/
def LightTable.channelFn (lt : LightTable) (c : Nat) : Nat := lt.siteFn (lt.channelSiteOf c)

/-- The key-slot quota of a function (Table 3.7). -/
def LightTable.keyQuota (lt : LightTable) (f : Nat) : Nat :=
  match lt.slotQuotas.find? fun e => e.1 == f with
  | some e => e.2
  | none => lt.slotQuota

/-- READY_QUOTA, DELAY_QUOTA and AFFINITY of a domain (Table 3.8, R397). -/
def LightTable.domain (lt : LightTable) (d : Nat) : Nat × Nat × BitVec 24 :=
  if !lt.exists d then (0, 0, 0)
  else match lt.disp.find? fun e => e.domain == d with
    | some e => (e.ready, e.delay, e.affinity)
    | none => (256, 128, 0xFFFFFF)

/-! ### Reaching a ring's registers (Table 11.2) -/

/-- What Table 11.2 gives a requester on a ring. -/
inductive RingReach | full | readSome | nothing
  deriving DecidableEq, Repr

/-- R500: who reaches ring `r` how. -/
def ringReach (s : State) (w : Requester) (r : Nat) : RingReach :=
  let i := s.lt.ident r
  match w with
  | .fn f =>
    if i.origin = .host ∧ i.fn = f.val then .full
    else if f.val = 0 ∨ i.fn = f.val then .readSome else .nothing
  | .hart h =>
    if i.encl ≠ 0 then (if (s.hart h).kenc.toNat = i.encl then .full else .nothing)
    else if (s.hart h).keeper then .nothing
    else if i.origin = .module then .full else .readSome

/-- Core physical address of a register block offset (R198). -/
def coreAddr (offset : Nat) : Nat := 0x5000000000 + offset

/-- Offset of a ring block's register (R499). -/
def ringOffset (r reg : Nat) : Nat := 0x40000 + 0x100 * r + reg

/-! ### Descriptor fields (Table 11.4) -/

/-- OPCODE. -/
def dOpcode (d : Line) : Nat := bits d 0 8
/-- CLASS. -/
def dClass (d : Line) : Nat := bits d 8 4
/-- BARRIER. -/
def dBarrier (d : Line) : Bool := d.getLsbD 12
/-- QUIET. -/
def dQuiet (d : Line) : Bool := d.getLsbD 13
/-- FLAGS. -/
def dFlags (d : Line) : Nat := bits d 14 10
/-- CHAIN. -/
def dChain (d : Line) : Bool := d.getLsbD 24
/-- Header bits 31:25, which must be 0. -/
def dReserved (d : Line) : Nat := bits d 25 7
/-- TAG. -/
def dTag (d : Line) : Nat := bits d 32 32
/-- Bytes `i` to `i + n - 1` are all zero. -/
def dZero (d : Line) (i n : Nat) : Bool := decide (lineField d i n = 0)

/-- The first descriptor of a command. -/
def Cmd.first (c : Cmd) : Line := c.descs.headD 0

/-- Accept sequence past the command's last descriptor. -/
def Cmd.next (c : Cmd) : Nat := c.seq + c.descs.length

/-- The command is finished. -/
def Cmd.isFinished (c : Cmd) : Bool :=
  match c.st with
  | .finished _ => true
  | _ => false

/-- The command of a ring with a given first sequence, among those without a completion. -/
def Ring.find (r : Ring) (seq : Nat) : Option Cmd := r.cmds.find? fun c => c.seq == seq

/-- Replaces a command of the ring by its changed form. -/
def Ring.change (r : Ring) (seq : Nat) (f : Cmd → Cmd) : Ring :=
  { r with cmds := r.cmds.map fun c => if c.seq = seq then f c else c }

end Sys2Proof.Machine
end

