-- ==== Sys2Proof/Machine/Signals.lean ====
section
/-!
DEFINITION. What the module tells the outside: violations (01 §1.7, 08 §8.10), APLIC sources (Table 5.8), MSI-X messages
(10 §10.3, R162) and the trouble record's APLIC sources.
-/

namespace Sys2Proof.Machine

/-- KIND codes of Table 8.8. -/
def ViolKind.code : ViolKind → Nat
  | .enclaveRange => 1
  | .worldAttr => 2
  | .functionOwner => 3
  | .ltLock => 4
  | .gate => 5
  | .handover => 6

/-- KP_VLOG_INFO (Table 8.8) of a present entry. -/
def vlogInfo (fn encl : Nat) (keeper write : Bool) (kind : ViolKind) (requester : Nat) : W64 :=
  BitVec.ofNat 64 (fn % 256 + 2 ^ 8 * (encl % 256) + 2 ^ 16 * bit keeper + 2 ^ 17 * bit write
    + 2 ^ 18 * kind.code + 2 ^ 22 * (requester % 32) + 2 ^ 63)

/-- The function of a log entry. -/
def VlogEntry.fn (e : VlogEntry) : Nat := bits e.info 0 8

/-- R57: the log is full, but its newest entry is of this clock and of a higher function, which gives up its place. -/
def yields (s : State) (fn : Nat) : Bool :=
  decide (0 < s.clock.logged) && (match s.kp.vlog.getLast? with | some e => decide (fn < e.fn) | none => false)

/-- R34, R35, R57, R381, R383: one violation. The log takes it while it holds fewer than 64 entries, KP_VLOG_LOST counts it
otherwise, and the function's counter counts it in either case. -/
def violate (s : State) (fn encl : Nat) (keeper write : Bool) (kind : ViolKind) (requester addr : Nat) : State :=
  let counted := { s with viol := tmod 0 s.viol fn satInc, clock := { s.clock with counted := tmod 0 s.clock.counted fn satInc } }
  let e : VlogEntry := ⟨s.ct.now, BitVec.ofNat 64 addr, vlogInfo fn encl keeper write kind requester⟩
  if s.kp.vlog.length < 64 then
    { counted.onKp fun k => { k with vlog := k.vlog ++ [e] } with clock := { counted.clock with logged := s.clock.logged + 1 } }
  else
    counted.onKp fun k =>
      { k with vlog := if yields s fn then k.vlog.dropLast ++ [e] else k.vlog
               vlogLost := satInc k.vlogLost, trouble := setBit k.trouble 4 }

/-- A violation by a requester at a register offset. (DEDUCED, log 11.) -/
def violateBy (s : State) (w : Requester) (write : Bool) (kind : ViolKind) (offset : Nat) : State :=
  violate s (actingFn s w) (actingEncl s w) (actingKeeper s w) write kind (meshNumber w) (coreAddr offset)

/-- R33, R34: one violation by a ring command, which names an object that its ring's identity does not own. The address and
the WRITE bit that its entry carries are open. (DESIGN CHOICE, log 44.) -/
def violateCommand (s : State) (i : RingIdent) (kind : ViolKind) (requester : Nat) : State :=
  let (n, t) := s.draw
  violate t i.fn i.encl (decide (i.encl ≠ 0)) (Config.freeBool n) kind requester (Config.freeBits n 64).toNat

/-! ### Interrupts (05 §5.6) -/

/-- An enabled interrupt is pending, whatever mstatus.MIE and SIE hold (Table 5.4). -/
def Hart.interruptPending (x : Hart) : Bool := decide (x.mip &&& x.mie ≠ 0)

/-- A pending interrupt ends PAUSE, a pending enabled one WFI and DISP.WAIT, which then writes 0 to rd (R195, R415). -/
def Hart.wake (x : Hart) : Hart :=
  match x.stall with
  | .pause _ => if x.mip ≠ 0 then { x with stall := .none } else x
  | .wfi => if x.interruptPending then { x with stall := .none } else x
  | .dispWait rd => if x.interruptPending then { (x.setX rd 0) with stall := .none } else x
  | _ => x

/-- A file has an identity that it would deliver: pending, enabled, and below the threshold, where there is one. -/
def ImsicFile.wants (f : ImsicFile) : Bool :=
  f.delivery && (if f.threshold = 0 then decide (f.pend &&& f.enable ≠ 0)
    else (List.range 256).any fun i => decide (i < f.threshold) && (f.pend &&& f.enable).getLsbD i)

/-- An IMSIC file of a hart (R208). -/
def Hart.file (x : Hart) (n : Nat) : ImsicFile := tget {} x.imsic n

/-- The external interrupts follow the files (Smaia, Ssaia): MEIP 11 the M-level file, SEIP 9 the S-level file, VSEIP 10 the guest
file that VGEIN names, SGEIP 12 any guest file that hgeie enables. (PRESUMED, log 79.) -/
def Hart.externals (x : Hart) : Hart :=
  let guest := fun (n : Nat) => (x.file n).wants
  { x with mip := putBit (putBit (putBit (putBit x.mip 11 (x.file 8).wants) 9 (x.file 0).wants)
      10 (decide (x.vgein ≠ 0) && guest x.vgein.toNat)) 12 ((List.range 7).any fun i => x.hgeie.getLsbD (i + 1) && guest (i + 1)) }

/-- An MSI reaches a file of a hart: its identity, 1-255, pends (R208). The M-level files are disabled while the Keeper world is
down (Table 8.7). -/
def sendMsi (h : HartId) (file identity : Nat) (s : State) : State :=
  if identity = 0 ∨ 255 < identity ∨ 8 < file ∨ (file = 8 ∧ s.kp.down = true) then s
  else (s.emit (.imsic h.val file identity)).onHart h fun x =>
    Hart.wake (Hart.externals { x with imsic := tmod {} x.imsic file fun f => { f with pend := setBit f.pend identity } })

/-! ### The APLIC (R210, R363) -/

/-- R362, R363: a source's domain: the root domain for a Keeper-world source, the child domain for an Open-world one. -/
def rootSource (s : State) (source : Nat) : Bool := s.lt.irqWorld.getLsbD source

/-- Asserts or pulses an APLIC source (R211): it pends in its domain, which forwards it in the next clock. Source 0 does not exist
(R210). (DESIGN CHOICE, log 79.) -/
def aplic (s : State) (source : Nat) : State :=
  let pend := fun (d : AplicDomain) => { d with pend := setBit d.pend source }
  (if source = 0 ∨ 511 < source then s
   else if rootSource s source then { s with aplic := { s.aplic with root := pend s.aplic.root } }
   else { s with aplic := { s.aplic with child := pend s.aplic.child } }).emit (.aplic source)

/-- The sources of a domain that it now delivers. -/
def AplicDomain.ready (d : AplicDomain) : List Nat :=
  if d.ie ∧ d.pend &&& d.enable ≠ 0 then ((List.range 511).map (· + 1)).filter fun n => (d.pend &&& d.enable).getLsbD n else []

/-- A domain delivers its pending enabled sources as MSIs, the root domain to M-level files alone, the child domain to S-level and
guest files alone (R363). (DESIGN CHOICE, log 79.) -/
def forwardMsis (root : Bool) (s : State) : State :=
  let d := if root then s.aplic.root else s.aplic.child
  d.ready.foldl (fun t n =>
    let g := tget {} d.target n
    let t : State := if root then { t with aplic := { t.aplic with root := { t.aplic.root with pend := clearBit t.aplic.root.pend n } } }
      else { t with aplic := { t.aplic with child := { t.aplic.child with pend := clearBit t.aplic.child.pend n } } }
    match allHarts[g.hart]? with
    | some h => sendMsi h (if root then 8 else g.file % 8) g.identity t
    | none => t) s

/-- A register of an APLIC domain, by the names of the AIA specification. -/
inductive AplicReg
  | domaincfg
  | enable (source : Nat)
  | target (source : Nat)
  deriving DecidableEq, Repr

/-- The source a register belongs to. -/
def AplicReg.source : AplicReg → Option Nat
  | .domaincfg => none
  | .enable n => some n
  | .target n => some n

/-- The registers of a Keeper-world source are hidden in the child domain (R363), and the root domain does not hold an Open-world
source. -/
def aplicHides (s : State) (root : Bool) (r : AplicReg) : Bool :=
  match r.source with
  | none => false
  | some n => decide (n = 0 ∨ 511 < n) || (rootSource s n != root)

/-- What a register of a domain reads as: domaincfg has DM at 1 (R210). -/
def aplicRead (s : State) (root : Bool) (r : AplicReg) : W32 :=
  let d := if root then s.aplic.root else s.aplic.child
  if aplicHides s root r then 0
  else match r with
    | .domaincfg => 0x80000004#32 ||| (if d.ie then 0x100#32 else 0)
    | .enable n => if d.enable.getLsbD n then 1 else 0
    | .target n => let g := tget {} d.target n; BitVec.ofNat 32 (g.identity + 4096 * g.file + 2 ^ 18 * g.hart)

/-- A write of a register of a domain; DM ignores writes (R210). -/
def aplicWrite (root : Bool) (r : AplicReg) (v : W32) (s : State) : State :=
  let f := fun (d : AplicDomain) => match r with
    | .domaincfg => { d with ie := v.getLsbD 8 }
    | .enable n => { d with enable := putBit d.enable n (v.getLsbD 0) }
    | .target n => { d with target := tset {} d.target n ⟨bits v 18 14, bits v 12 6, bits v 0 11⟩ }
  if aplicHides s root r then s
  else if root then { s with aplic := { s.aplic with root := f s.aplic.root } }
  else { s with aplic := { s.aplic with child := f s.aplic.child } }

/-! ### MSI-X -/

/-- A function's writes to host memory can go out now (R162); a function in D3hot issues none. (PRESUMED, log 85.) -/
def hostReachable (s : State) (f : Nat) : Bool :=
  s.host.linkUp && (s.fn f).busMaster && !(s.fn f).d3hot && (decide (f = 0) || (s.host.vfEnable && decide (f ≤ s.host.numVfs)))

/-- Sends a message, or sets the vector's PBA bit where the vector, Function Mask or MSI-X Enable forbids it (R453).
(PRESUMED, log 39.) -/
def msixNow (s : State) (f v : Nat) : State :=
  let e := tget {} (s.fn f).msix v
  if e.masked || (s.fn f).fnMask || !(s.fn f).msixEnable then
    s.onFn f fun g => { g with msix := tmod {} g.msix v fun e => { e with pba := true } }
  else s.emit (.msix f v)

/-- A message of a function becomes due on a vector: one at or beyond the vector count is not sent (R90, R452); one that
cannot reach the host waits in order (R162); otherwise R453 applies. (PRESUMED, log 39.) -/
def msix (s : State) (f v : Nat) : State :=
  if s.lt.vectors f ≤ v then s
  else if !hostReachable s f || !(s.fn f).heldMsgs.isEmpty || !(s.fn f).heldWrites.isEmpty then
    s.onFn f fun g => { g with heldMsgs := g.heldMsgs ++ [v] }
  else msixNow s f v

/-- Held messages go out in order, now that the function reaches host memory again (R162). -/
def msixRelease (s : State) (f : Nat) : State :=
  if hostReachable s f then
    ((s.fn f).heldMsgs).foldl (fun t v => msixNow t f v) (s.onFn f fun g => { g with heldMsgs := [] })
  else s

end Sys2Proof.Machine
end

