-- ==== Sys2Proof/Machine/Flags.lean ====
section
/-!
DEFINITION. Status words and flags: the trouble summary (04, Table 18.1) with its APLIC sources, and the status registers
that several units read.
-/

namespace Sys2Proof.Machine

/-- The bits of PS_TROUBLE_SUM, bit 5 KP at its true value, from bit 0 (Table 18.1). -/
def troubleSums (s : State) : List Bool :=
  [decide (s.pwr.trouble ≠ 0), decide (s.ct.trouble ≠ 0), decide (s.up.trouble ≠ 0), decide (s.lb.trouble ≠ 0),
   decide (s.disp.trouble ≠ 0), decide (s.kp.trouble ≠ 0), s.rings.tab.any (fun e => decide (e.2.trouble ≠ 0)),
   decide (s.cx.trouble ≠ 0), decide (s.mu.muTrouble ≠ 0), decide (s.mu.luTrouble ≠ 0),
   s.sd.chans.any (fun e => decide (e.2.trouble ≠ 0)) || decide (s.sd.sat ≠ 0),
   s.ln.tab.any (fun e => decide (e.2.trouble ≠ 0)), decide (s.mesh.trouble ≠ 0), decide (s.up.bcTrouble ≠ 0)]

/-- The APLIC sources that a state asserts as levels: 1-64 and 65-128 by SD_CH_TROUBLE and LN_TROUBLE (R734, R786), 193 by
the violation log (R384), and 194 + b by PS_TROUBLE_SUM bit b (§18.1). -/
def levelSources (s : State) : List Nat :=
  (s.sd.chans.filterMap fun e => if e.2.trouble ≠ 0 then some (e.1 + 1) else none)
    ++ (s.ln.tab.filterMap fun e => if e.2.trouble ≠ 0 then some (65 + e.1) else none)
    ++ (if s.kp.vlog.isEmpty then [] else [193])
    ++ ((troubleSums s).zipIdx.filterMap fun e => if e.1 then some (194 + e.2) else none)

/-- The trouble registers that hold a bit, by their core-map offsets (R838), and the two halves of SD_TROUBLE. -/
def troubleWords (s : State) : Tab Nat :=
  [(0x2008, s.ct.trouble.toNat), (0x3004, s.pwr.trouble.toNat), (0x4004, s.up.trouble.toNat), (0x4880, s.up.bcTrouble.toNat),
   (0x5004, s.lb.trouble.toNat), (0x6100, s.disp.trouble.toNat), (0x10380, bits s.sd.sat 0 32), (0x10384, bits s.sd.sat 32 32)]
    ++ (s.sd.chans.map fun e => (0x10028 + 0x400 * e.1, e.2.trouble.toNat))
    ++ (s.ln.tab.map fun e => (0x20030 + 0x400 * e.1, e.2.trouble.toNat))
    ++ (s.rings.tab.map fun e => (0x40038 + 0x100 * e.1, e.2.trouble.toNat))
    ++ [(0x80004, s.cx.trouble.toNat), (0x90004, s.mu.muTrouble.toNat), (0x90008, s.mu.luTrouble.toNat),
        (0x400018, s.kp.trouble.toNat), (0x410008, s.mesh.trouble.toNat)]

/-- The bits that a trouble register gained from `s` to `t`. -/
def gained (s : State) (e : Nat × Nat) : Option (Nat × Nat) :=
  let old := ((troubleWords s).find? (·.1 == e.1)).elim 0 (·.2)
  if e.2 ||| old = old then none else some (e.1, e.2 ^^^ (e.2 &&& old))

/-- R54: the trouble bits that a command sets are noted for the present clock. -/
def noteRaised (s t : State) : State :=
  if troubleWords t = troubleWords s then t
  else match (troubleWords t).filterMap (gained s) with
  | [] => t
  | es => { t with clock := { t.clock with raised := es.foldl (fun r e => tmod 0 r e.1 (· ||| e.2)) t.clock.raised } }

/-- A source is asserted when its level begins, and the trouble bits set are noted (R54). -/
def troubleEdges (s t : State) : State :=
  ((levelSources t).filter fun n => !(levelSources s).contains n).foldl aplic (noteRaised s t)

/-- The module goes on in state `t`, with the summary's sources asserted. -/
def ok (s t : State) : Host.Outcome State Fault Refusal := .next (troubleEdges s t)

/-- Bits as a number, bit 0 first. -/
def ofBits (bs : List Bool) : Nat := bs.foldr (fun b n => bit b + 2 * n) 0

/-- PS_TROUBLE_SUM with bit 5 at its true value. -/
def troubleSum (s : State) : W32 := BitVec.ofNat 32 (ofBits (troubleSums s) + 2 ^ 31 * bit s.pwr.carried)

/-- PS_STATUS.PHASE (§4.8): LT from ROM start on, DRAM from the application of the light table on, REPLAY once DRAM is trained (R155).
(DESIGN CHOICE, log 21.) -/
def phase (s : State) : Nat :=
  match s.pwr.stage with
  | .none | .rails => 0
  | .rom => 1
  | .lightTable => 2
  | .dram | .replayed => 3
  | .service => 4
  | .daymark => 7

/-- PS_STATUS. -/
def psStatus (s : State) : W32 :=
  BitVec.ofNat 32 (ofBits [s.pwr.feedA.ok, s.pwr.feedB.ok, s.pwr.holdupReady, s.pwr.capping, s.pwr.throttling, s.pwr.thermWarn]
    + 2 ^ 8 * phase s)

/-- CT_STATUS. -/
def ctStatus (c : Ct) : W32 :=
  BitVec.ofNat 32 (ofBits [c.locked, c.coasting, c.holding, c.testerHeld, c.everLocked, c.refOk, c.datInverted, c.aligned])

/-- Module time in milliseconds until an end, rounded down; all ones without one (UP_HEALTH_LEFT). -/
def msLeft (s : State) : W32 :=
  match s.up.health with
  | none => BitVec.allOnes 32
  | some e => BitVec.ofNat 32 ((e.toNat - s.ct.mt.toNat) / 1000000)

end Sys2Proof.Machine

namespace Sys2Proof
open Machine

/-- Slot of a number. -/
def Slot.num : Slot → Nat
  | .a => 0
  | .b => 1

end Sys2Proof

namespace Sys2Proof.Machine

/-- The record of a slot. -/
def Update.slot (u : Update) : Slot → SlotRec
  | .a => u.a
  | .b => u.b
/-- Changes a slot's record. -/
def Update.onSlot (u : Update) (k : Slot) (f : SlotRec → SlotRec) : Update :=
  match k with
  | .a => { u with a := f u.a }
  | .b => { u with b := f u.b }
end Sys2Proof.Machine

namespace Sys2Proof
open Machine

/-- The other slot. -/
def Slot.other : Slot → Slot
  | .a => .b
  | .b => .a

end Sys2Proof

namespace Sys2Proof.Machine

/-- The booted slot. -/
def booted (s : State) : Slot := if s.lt.bootSlotB then .b else .a

/-- UP_STATUS (Table 17.14). -/
def upStatus (s : State) : W32 :=
  let src := match s.up.xfer with
    | none => 0
    | some x => match x.source with | .host => 0 | .chain => 1 | .daymark => 2
  BitVec.ofNat 32 (bit s.lt.bootSlotB + 2 * bit s.up.trial + 4 * bit s.up.revertPending + 8 * bit s.up.xfer.isSome
    + 16 * src + 256 * bit s.up.daymark + 4096 * s.up.daymarkCause)

/-- Lane state codes (LN_STATUS). -/
def LaneSt.code : LaneSt → Nat
  | .disabled => 0
  | .detect => 1
  | .align => 2
  | .hello => 3
  | .up => 4
  | .down => 5

end Sys2Proof.Machine
end

