-- ==== Sys2Proof/Machine/Mesh.lean ====
section
/-!
DEFINITION. The coherent mesh, the shared cache and DRAM (07), and the enclave checks of the home slices (08 §8.2).

The coherent value of DRAM is `mesh.mem` (R241); what the DRAM devices hold differs from it only on lines whose newest
value is still in a cache, and stands in `mesh.stale`. A request takes a tracker and starts a transaction; the snoops,
the data and the acknowledgement are messages of their own, and the operations of the harts run a transaction to its end.
-/

namespace Sys2Proof.Machine

/-! ### Places in the mesh -/

/-- Table 7.1: the position of a cluster. -/
def clusterPos (n : Nat) : Nat × Nat := [(2, 0), (1, 1), (3, 1), (1, 3), (3, 3), (2, 4)].getD n (2, 2)
/-- Table 7.1: the position of a home slice. -/
def slicePos (n : Nat) : Nat × Nat :=
  [(1, 0), (3, 0), (0, 1), (2, 1), (4, 1), (1, 2), (3, 2), (0, 3), (2, 3), (4, 3), (1, 4), (3, 4)].getD n (2, 2)
/-- Table 7.1: the position of a memory controller. -/
def controllerPos (n : Nat) : Nat × Nat := [(0, 0), (4, 0), (0, 4), (4, 4)].getD n (2, 2)
/-- The position of a requester (R295): its cluster, X, IO, K, and the DMA engine at IO. -/
def requesterPos (r : Nat) : Nat × Nat :=
  if r < 24 then clusterPos (r / 4) else if r = 24 then (0, 2) else if r = 26 then (2, 2) else (4, 2)
/-- R294: hops between two positions. -/
def hops (a b : Nat × Nat) : Nat := (a.1 - b.1) + (b.1 - a.1) + ((a.2 - b.2) + (b.2 - a.2))

/-- R297: the home slice of a line. -/
def homeOf (line : Nat) : Nat := line % 12
/-- R298: the memory channel of a line, PA[9:8]. -/
def channelOf (line : Nat) : Nat := line / 4 % 4
/-- DRAM's lines: 128 GiB of 64 bytes (R318). -/
def dramLines : Nat := 2 ^ 31

/-! ### Who accesses memory, and what it may reach (R343, R346, R364) -/

/-- An agent as the home slices check it: the function and enclave it acts for, its world, whether it is the Keeper
monitor's own code, whether its instruction was fetched inside its own ranges, and its requester number. -/
structure Agent where
  fn : Nat
  encl : Nat
  keeper : Bool
  monitor : Bool
  inside : Bool
  requester : Nat
  deriving DecidableEq, Repr

/-- An Open-world device agent. -/
def openAgent (requester : Nat) : Agent := ⟨0, 0, false, false, true, requester⟩
/-- A device agent acting for a ring (R346), through a requester of the mesh: 24 the crypto engine, 25 every other (R295). -/
def agentFor (i : RingIdent) (requester : Nat) : Agent := ⟨i.fn, i.encl, decide (i.encl ≠ 0), false, true, requester⟩
/-- The ring engine, the lanes, the measurement chain and the operand loaders act through the I/O node (R295). -/
def ringAgent (i : RingIdent) : Agent := agentFor i 25
/-- An L2's request or writeback, in the world and enclave it is tagged with (R304, R341). -/
def tagAgent (fn : Nat) (keeper : Bool) (kenc : Byte) (core : Nat) : Agent :=
  ⟨fn, kenc.toNat, keeper, keeper && decide (kenc = 0), true, core⟩

/-- The range-table entry that holds an address, by its enclave (R344). -/
def rangeOf (s : State) (addr : Nat) : Option Nat :=
  (s.kp.ranges.find? fun e => e.2.valid && decide (e.2.base ≤ addr ∧ addr < e.2.base + 4096 * e.2.pages)).map
    fun e => e.2.encl.toNat

/-- An address lies in the monitor region (R343). -/
def inMonitor (s : State) (addr : Nat) : Bool :=
  decide (s.kp.monBase ≤ addr ∧ addr < s.kp.monBase + s.kp.monSize)

/-- R343, R346: the home slice serves this access. -/
def mayReach (s : State) (g : Agent) (addr : Nat) : Bool :=
  if inMonitor s addr then g.monitor
  else match rangeOf s addr with
    | none => true
    | some e => (decide (g.encl = e) && g.inside) || (g.monitor && decide ((s.encl e).st = .building))

/-- A forbidden access: one violation of KIND ENCLAVE_RANGE (R29-R34, R304). -/
def rangeViolation (s : State) (g : Agent) (write : Bool) (addr : Nat) : State :=
  violate s g.fn g.encl g.keeper write .enclaveRange g.requester addr

/-! ### Line contents -/

/-- The coherent value of a DRAM line. (DEDUCED, log 69.) -/
def lineValue (s : State) (l : Nat) : Line := lineOf (readBytes s.mesh.mem (64 * l) 64)

/-- A copy of the line stands in an L2 or in the L3. -/
def LineState.cached (ls : LineState) : Bool := !ls.copies.isEmpty || decide (ls.l3 ≠ .none)

/-- A copy of the line is dirty: DRAM holds an older value. -/
def LineState.dirty (ls : LineState) : Bool := decide (ls.l3 = .dirty) || ls.copies.any fun c => c.st == .m || c.st == .o

/-- Whoever reads the line coherently finds it poisoned (R322): the mark of the cached copies, or else DRAM's. -/
def poisoned (s : State) (l : Nat) : Bool :=
  if (s.lineAt l).cached then (s.lineAt l).bad else s.mesh.poison.contains l

/-- A number put into a rising list of numbers. -/
def addSorted (n : Nat) : List Nat → List Nat
  | [] => [n]
  | m :: t => if n = m then m :: t else if n < m then n :: m :: t else m :: addSorted n t

/-- Records what DRAM still holds of a line that is about to change in a cache, unless it is recorded already.
(DEDUCED, log 69.) -/
def keepStale (l : Nat) (s : State) : State :=
  if (s.mesh.stale.any fun e => e.1 == l) then s
  else s.onMesh fun m => { m with stale := tput (lineValue s l) m.stale l }

/-- Marks or unmarks the cached copies of a line as poisoned. -/
def markLine (l : Nat) (bad : Bool) (s : State) : State := s.onLine l fun ls => { ls with bad := bad }

/-- Writes the masked bytes of a line; the caches hold them, DRAM not yet. A write of all 64 bytes clears poison, a
partial one leaves it (R323). A line that zeroing has not reached counts as written (R327). -/
def putLine (l : Nat) (data : Line) (mask : BitVec 64) (s : State) : State :=
  markLine l (poisoned s l && decide (mask ≠ BitVec.allOnes 64)) ((keepStale l s).onMesh fun m =>
    { m with mem := writeMasked m.mem (64 * l) mask 0 (lineBytes data), written := addSorted l m.written })

/-- The dirty line goes back to DRAM with its poison mark (R322): DRAM now holds its newest value; a sound line leaves no mark,
since all 64 bytes are written. (DEDUCED, log 69.) -/
def writeBack (l : Nat) (s : State) : State :=
  if (s.lineAt l).dirty then s.onMesh fun m =>
    { m with stale := tdel m.stale l
             poison := if (s.lineAt l).bad then addSorted l m.poison else m.poison.filter (· ≠ l) }
  else s

/-- Another agent's write, AMO or CBO to a granule clears the reservations on it (R282); hart `but` keeps its own. -/
def clearReservations (l : Nat) (but : Option HartId) (s : State) : State :=
  forAll allHarts (fun h t =>
    if (t.hart h).reserved = some l ∧ but ≠ some h then
      t.onHart h fun x => { x with reserved := none, deferring := false } else t) s

/-! ### DRAM checks (R319-R325) -/

/-- The register word of a failing device (Table 7.6). -/
def devFailWord (device : Fin 10) (sub rank : Bool) : W32 :=
  BitVec.ofNat 32 (device.val + 2 ^ 8 * bit sub + 2 ^ 9 * bit rank + 2 ^ 31)

/-- The result of a check of a line: a corrected error is counted, and a device with 64 in one pass is marked failing
(R325); an uncorrectable one poisons the line in DRAM (R322). `scrub` says which trouble bit it sets. Each further error of a
device beyond its 64th of the pass sets DEVICE_FAILING again, and MC_DEV_FAILc names the device marked last.
(DESIGN CHOICE, log 77.) -/
def dramCheck (l : Nat) (chk : DramCheck) (scrub : Bool) (s : State) : State :=
  let c := channelOf l
  match chk with
  | .sound => s
  | .corrected d sub rank =>
    let key := 40 * c + 20 * bit sub + 10 * bit rank + d.val
    let n := tget 0 s.mesh.devErrors key + 1
    s.onMesh fun m =>
      let m := { m with ceCount := tmod 0 m.ceCount c satInc, trouble := setBit m.trouble 0,
                        devErrors := tset 0 m.devErrors key n }
      if 64 ≤ n then { m with trouble := setBit m.trouble 1, devFailing := setBit m.devFailing c,
                              devFail := tset 0 m.devFail c (devFailWord d sub rank) } else m
  | .uncorrectable =>
    s.onMesh fun m =>
      { m with ueCount := tmod 0 m.ueCount c satInc, errAddr := BitVec.ofNat 64 (64 * l),
               trouble := setBit m.trouble (if scrub then 3 else 2), poison := addSorted l m.poison }

/-- A consumer met poisoned data (R324). -/
def poisonConsumed (s : State) : State := s.onMesh fun m => { m with trouble := setBit m.trouble 7 }

/-! ### Transactions (R305-R310) -/

/-- The copies of a line in L2s other than a core's. -/
def LineState.others (ls : LineState) (core : Nat) : List Copy := ls.copies.filter (·.core ≠ core)

/-- A dirty owner. -/
def LineState.owner (ls : LineState) (core : Nat) : Option Copy :=
  (ls.others core).find? fun c => c.st == .m || c.st == .o

/-- R307: the nearest clean holder, the L3 winning a tie and then the lowest core; none where the L3 supplies. -/
def nearest (who : Nat) (l : Nat) (cs : List Copy) (l3 : L3) : Option Copy :=
  let here := requesterPos who
  let best : Option (Nat × Copy) := cs.foldl (fun b c =>
    let d := hops here (clusterPos (c.core / 4))
    match b with
    | none => some (d, c)
    | some (e, x) => if d < e ∨ (d = e ∧ c.core < x.core) then some (d, c) else some (e, x)) none
  match best with
  | none => none
  | some (d, c) => if l3 ≠ .none ∧ hops here (slicePos (homeOf l)) ≤ d then none else some c

/-- The snoops a request needs (Table 7.3, R307). -/
def snoopsFor (kind : ReqKind) (core l : Nat) (ls : LineState) : List (Nat × SnoopKind) :=
  let os := ls.others core
  match kind with
  | .rdShared =>
    match ls.owner core with
    | some c => [(c.core, .shared)]
    | none =>
      match os.find? (·.st == .e) with
      | some c => [(c.core, .shared)]
      | none => match nearest core l os ls.l3 with
        | some c => [(c.core, .shared)]
        | none => []
  | .rdUnique =>
    let src := match ls.owner core with
      | some c => some c.core
      | none => (nearest core l os ls.l3).map (·.core)
    os.map fun c => (c.core, if src = some c.core then .unique else .inv)
  | .upgrade => os.map fun c => (c.core, .inv)
  | _ => []

/-- The L3 is the source of a read that other L2s could also serve (R307). -/
def l3Serves (core l : Nat) (ls : LineState) : Bool :=
  (ls.owner core).isNone && decide (ls.l3 ≠ .none) && (nearest core l (ls.others core) ls.l3).isNone

/-- PMC counters count only Open-world requests, and none while FREEZE is 1 (R332). (DESIGN CHOICE, log 74.) -/
def pmc (s : State) (l : Nat) (keeper : Bool) (f : Slice → Slice) : State :=
  if keeper || s.mesh.freeze then s else s.onSlice (homeOf l) f

/-! ### Places in the caches (R214, R299, R301-R303) -/

/-- The hart of a core number. -/
def hartOf (core : Nat) : Option HartId := (List.finRange 24)[core]?

/-- The L1 copies follow their L2 (R214, R305): a core's L1s lose the line. -/
def dropL1 (core l : Nat) (s : State) : State :=
  match hartOf core with
  | some h => s.onHart h fun x => { x with l1i := x.l1i.filter fun e => decide (e.line ≠ l), l1d := x.l1d.filter fun e => decide (e.line ≠ l) }
  | none => s

/-- An L2 gives up its copy, and the core's L1s theirs. -/
def dropCopy (core l : Nat) (s : State) : State :=
  (dropL1 core l s).onLine l fun ls => { ls with copies := ls.copies.filter (·.core ≠ core) }

/-- Every L2 gives up its copy. -/
def dropCopies (l : Nat) (s : State) : State := (s.lineAt l).copies.foldl (fun t c => dropCopy c.core l t) s

/-- Which of the lines that could go does: open, since no rule gives a replacement policy. (DESIGN CHOICE, log 78.) -/
def victim (ls : List Nat) (s : State) : Nat := ls.getD (Config.freeNat s.free % ls.length) 0

/-- Two lines lie in one set of a home slice's L3 or snoop filter, 4,096 sets each (R299, R302). (DESIGN CHOICE, log 78.) -/
def sameHomeSet (k l : Nat) : Bool := decide (homeOf k = homeOf l) && decide (k / 12 % 4096 = l / 12 % 4096)

/-- A line leaves the L3: dirty, it goes back to DRAM. -/
def dropL3 (l : Nat) (s : State) : State :=
  (writeBack l s).onLine l fun ls => { ls with l3 := .none, l3Keeper := false }

/-- The L3 ways of a line's set that its world may use are full of other lines (R299, R301): in Partition mode 4 for the Keeper
world and 12 for the Open world, in Flush mode all 16. -/
def l3Others (s : State) (l : Nat) (keeper : Bool) : List Nat :=
  (s.mesh.lines.filter fun e => decide (e.1 ≠ l) && sameHomeSet e.1 l && decide (e.2.l3 ≠ .none)
    && (s.lt.cacheFlush || (e.2.l3Keeper == keeper))).map (·.1)
/-- The ways a world has. -/
def l3Ways (s : State) (keeper : Bool) : Nat := if s.lt.cacheFlush then 16 else if keeper then 4 else 12

/-- The line takes a place in the L3 (R300), another leaving where none is free. -/
def allocL3 (l : Nat) (v : L3) (keeper : Bool) (s : State) : State :=
  let os := l3Others s l keeper
  let s := if l3Ways s keeper ≤ os.length then dropL3 (victim os s) { s with free := s.free + 1 } else s
  s.onLine l fun ls => { ls with l3 := v, l3Keeper := keeper }

/-- A dirty copy of an L2 goes into the L3, in the copy's world; the L2 and its L1s give it up (Table 7.3). -/
def copyToL3 (core l : Nat) (s : State) : State :=
  match (s.lineAt l).copies.find? (·.core == core) with
  | some c => if c.st = .m ∨ c.st = .o then dropCopy core l (allocL3 l .dirty c.keeper s) else dropCopy core l s
  | none => s

/-- R303, R334: the snoop filter evicts a line's entry: every L2 gives the line up, a dirty copy going into the L3; a
transaction that still waits for a snoop of the line gets its data from the home slice. -/
def evictEntry (l : Nat) (s : State) : State :=
  ((s.lineAt l).copies.foldl (fun t c => copyToL3 c.core l t) s).onLine l fun ls =>
    { ls with txn := ls.txn.map fun t =>
        if t.snoops.isEmpty then t
        else { t with snoops := [], dirtyData := false, into := if t.kind = .rdShared then .e else t.into } }

/-- Other lines of the line's snoop-filter set, 16 ways (R302). -/
def filterOthers (s : State) (l : Nat) : List Nat :=
  (s.mesh.lines.filter fun e => decide (e.1 ≠ l) && sameHomeSet e.1 l && !e.2.copies.isEmpty).map (·.1)

/-- R302, R303: a line that no L2 holds yet needs an entry, another leaving where none is free. -/
def makeFilterEntry (l : Nat) (s : State) : State :=
  if !(s.lineAt l).copies.isEmpty then s
  else
    let os := filterOthers s l
    if 16 ≤ os.length then evictEntry (victim os s) { s with free := s.free + 1 } else s

/-- R337: the line's snoop-filter entry cannot be corrected: all 24 L2s are snooped, and dirty data goes into the L3. -/
def filterError (l : Nat) (keeper : Bool) (s : State) : State :=
  let s := (pmc s l keeper fun x => { x with snoops := x.snoops + 24 }).onMesh fun m => { m with trouble := setBit m.trouble 6 }
  evictEntry l s

/-- Other lines of a core's L2 in the line's set: 2,048 sets of 8 ways (Table 5.9). (DESIGN CHOICE, log 78.) -/
def l2Others (s : State) (core l : Nat) : List Nat :=
  (s.mesh.lines.filter fun e => decide (e.1 ≠ l) && decide (e.1 % 2048 = l % 2048) && e.2.copies.any (·.core == core)).map (·.1)

/-- The core's L2 has a place for the line: another is evicted where none is free, a dirty one into the L3, a clean one without
data (Table 7.3, R300). -/
def makeWay (core l : Nat) (s : State) : State :=
  let os := l2Others s core l
  if 8 ≤ os.length then copyToL3 core (victim os s) { s with free := s.free + 1 } else s

/-- A line of no L2 comes from the L3 or from DRAM. An L3 copy with a double-bit error is dropped and read again from DRAM where
it is clean, and poisoned where it is dirty (R217, R299); a fill from DRAM is checked and allocates in the L3 (R300). -/
def fetchHome (l : Nat) (chk : HomeCheck) (keeper : Bool) (s : State) : State :=
  let s := if (s.lineAt l).l3 = .none then s else
    match chk.l3 with
    | .none => s
    | .single => s.onMesh fun m => { m with trouble := setBit m.trouble 4 }
    | .double =>
      let s := s.onMesh fun m => { m with trouble := setBit m.trouble 5 }
      if (s.lineAt l).l3 = .dirty then markLine l true s else dropL3 l s
  if (s.lineAt l).l3 ≠ .none then pmc s l keeper fun x => { x with l3Hit := x.l3Hit + 1 }
  else
    let s := dramCheck l chk.dram false (pmc s l keeper fun x => { x with l3Miss := x.l3Miss + 1 })
    markLine l (s.mesh.poison.contains l) (allocL3 l .clean keeper s)

/-! ### Transactions of the L2s -/

/-- The world and enclave tag of a core's new copy (R218, R341). -/
def tagOf (s : State) (core : Nat) : Bool × Byte :=
  match hartOf core with
  | some h => ((s.hart h).keeper, (s.hart h).kenc)
  | none => (false, 0)

/-- The function a core acts for. -/
def coreFn (s : State) (core : Nat) : Nat :=
  match hartOf core with
  | some h => actingFn s (.hart h)
  | none => 0

/-- An L2 as the home slice checks its request (R304). -/
def coreAgent (s : State) (core : Nat) : Agent := tagAgent (coreFn s core) (tagOf s core).1 (tagOf s core).2 core

/-- Starts a transaction of a core on an idle line. An UPGRADE by a core that has lost its copy acts as RD_UNIQUE.
(DESIGN CHOICE, log 67.) -/
def startTxn (kind : ReqKind) (core l : Nat) (tr : Tracker) (chk : HomeCheck) (s : State) : State :=
  let keeper := (tagOf s core).1
  let s := if chk.filterUe then filterError l keeper s else s
  let s := makeFilterEntry l s
  let ls := s.lineAt l
  let own := ls.copies.any (·.core == core)
  let kind := if kind = .upgrade ∧ !own then .rdUnique else kind
  let snoops := snoopsFor kind core l ls
  let alone := (ls.others core).isEmpty
  let s := if kind = .upgrade ∨ own then s
    else if alone then fetchHome l chk keeper s
    else if l3Serves core l ls then pmc s l keeper fun x => { x with l3Hit := x.l3Hit + 1 } else s
  let s := pmc s l keeper fun x => { x with snoops := x.snoops + BitVec.ofNat 64 snoops.length }
  let t : Txn :=
    { core := core, kind := kind, tracker := tr, snoops := snoops,
      dirtyData := decide (kind = .rdUnique) && (ls.owner core).isSome,
      delivered := decide (kind = .upgrade), acked := false,
      into := if kind = .rdShared then (if alone then .e else .s) else .m }
  s.onLine l fun x => { x with txn := some t }

/-- Another hart holds the line for its constrained loop and defers requests for it (R285). -/
def deferredBy (s : State) (l : Nat) (but : Nat) : Bool :=
  allHarts.any fun h => decide (h.val ≠ but) && (s.hart h).deferring && decide ((s.hart h).reserved = some l)

/-- An L2's answer to a snoop (Table 7.3): SNP_SHARED leaves M as O and E as S, the others take the copy away. -/
def answerSnoop (core l : Nat) (k : SnoopKind) (s : State) : State :=
  let s := s.onLine l fun ls => { ls with txn := ls.txn.map fun t => { t with snoops := t.snoops.filter (·.1 ≠ core) } }
  match k with
  | .shared => s.onLine l fun ls => { ls with copies := ls.copies.map fun c => if c.core = core then
      { c with st := match c.st with | .m => .o | .e => .s | x => x } else c }
  | _ => forAll allHarts (fun h t =>
      if h.val = core ∧ (t.hart h).reserved = some l then
        t.onHart h fun x => { x with reserved := none, deferring := false } else t) (dropCopy core l s)

/-- A snoop reaches an L2; one that the home slice did not send has no effect, and one for a line that the core holds for its
constrained loop waits (R285). -/
def snoopArrives (core l : Nat) (k : SnoopKind) (s : State) : State :=
  match (s.lineAt l).txn with
  | some t => if t.snoops.contains (core, k) && !deferredBy s l t.core then answerSnoop core l k s else s
  | none => s

/-- The requester's copy takes its state, and for M the L3 gives up its copy (R305). (DESIGN CHOICE, log 67.) -/
def install (core l : Nat) (st : Moes) (s : State) : State :=
  let tag := tagOf s core
  let s := if (s.lineAt l).copies.any (·.core == core) then s else makeWay core l s
  s.onLine l fun ls =>
    { ls with copies := ls.others core ++ [⟨core, st, tag.1, tag.2⟩]
              l3 := if st = .m then .none else ls.l3
              l3Keeper := if st = .m then false else ls.l3Keeper }

/-- The data reaches the requester (DATA or DATA_DIRTY), once every snoop is answered. -/
def deliver (core l : Nat) (dirty : Bool) (s : State) : State :=
  match (s.lineAt l).txn with
  | some t =>
    if t.core = core ∧ t.snoops.isEmpty ∧ t.delivered = false ∧ t.dirtyData = dirty then
      (install core l t.into s).onLine l fun ls => { ls with txn := some { t with delivered := true } }
    else s
  | none => s

/-- The requester has the home slice's ACK: the transaction is complete, and an UPGRADE's copy is M. -/
def acknowledge (core l : Nat) (s : State) : State :=
  match (s.lineAt l).txn with
  | some t =>
    if t.core = core ∧ t.snoops.isEmpty ∧ t.delivered then
      (if t.kind = .upgrade then install core l .m s else s).onLine l fun ls => { ls with txn := some { t with acked := true } }
    else s
  | none => s

/-! ### Device agents' lines, and writebacks -/

/-- A device read's supply (Table 7.3, R306, R307): the dirty owner or the nearest clean holder, the L3 or DRAM; nobody's state
changes, but a line that comes from DRAM is left in the L3 (R300). (DESIGN CHOICE, log 67.) -/
def deviceFetch (who l : Nat) (chk : HomeCheck) (keeper : Bool) (s : State) : State :=
  let s := if chk.filterUe then filterError l keeper s else s
  let ls := s.lineAt l
  if ls.copies.isEmpty then fetchHome l chk keeper s
  else if (ls.copies.find? fun c => c.st == .m || c.st == .o).isNone && decide (ls.l3 ≠ .none) && (nearest who l ls.copies ls.l3).isNone then
    pmc s l keeper fun x => { x with l3Hit := x.l3Hit + 1 }
  else pmc s l keeper fun x => { x with snoops := x.snoops + 1 }

/-- A masked device or combining-buffer write at its home slice (Table 7.3, R255, R276): every cached copy goes, the bytes
merge, and the L3 holds the line dirty. A zero mask changes nothing (§7.8). -/
def mergeAtHome (l : Nat) (data : Line) (mask : BitVec 64) (keeper : Bool) (s : State) : State :=
  if mask = 0 then s
  else allocL3 l .dirty keeper (dropCopies l (putLine l data mask (clearReservations l none s)))

/-- The dirty copy of a core goes into the L3 (R306); it answers a snoop that crosses it (R310). A writeback that the range table
forbids is dropped (R304). -/
def writeDirty (core l : Nat) (s : State) : State :=
  match (s.lineAt l).copies.find? fun c => c.core == core && (c.st == .m || c.st == .o) with
  | none => s
  | some c =>
    let g := tagAgent (coreFn s core) c.keeper c.kenc core
    let s := if mayReach s g (64 * l) then copyToL3 core l s else dropCopy core l (rangeViolation s g true (64 * l))
    s.onLine l fun ls =>
      { ls with
        txn := ls.txn.map fun t =>
          if t.snoops.any (·.1 == core) then
            { t with
              snoops := t.snoops.filter (·.1 ≠ core)
              dirtyData := false
              into := if t.kind = .rdShared ∧ (ls.copies.filter (·.core ≠ t.core)).isEmpty then .e else t.into }
          else t }

/-- A clean copy goes; the L3 takes nothing (R300). (DESIGN CHOICE, log 67.) -/
def evictClean (core l : Nat) (s : State) : State :=
  if (s.lineAt l).copies.any fun c => c.core == core && (c.st == .e || c.st == .s) then dropCopy core l s else s

/-- A DEV_READ is served: checked first (R304), then supplied; poison is consumed (R324). -/
def serveRead (who l : Nat) (chk : HomeCheck) (s : State) : State :=
  let g := openAgent who
  if !mayReach s g (64 * l) then (rangeViolation s g false (64 * l)).emit (.devData who l 0)
  else
    let s := deviceFetch who l chk false s
    if poisoned s l then (poisonConsumed s).emit (.devPoison who l) else s.emit (.devData who l (lineValue s l))

/-- A DEV_WRITE is served: forbidden, it is dropped (R32, R304). -/
def serveWrite (who l : Nat) (data : Line) (mask : BitVec 64) (s : State) : State :=
  let g := openAgent who
  if mayReach s g (64 * l) then mergeAtHome l data mask false s else rangeViolation s g true (64 * l)

/-! ### Trackers, RETRY and credits (§7.4) -/

/-- Trackers in use on a slice. -/
def Slice.inUse (x : Slice) : Nat := x.general.length + x.reserved.length + x.held.length

/-- PMC_TRK_HWM follows the trackers in use (Table 7.7). -/
def noteUse (i : Nat) (s : State) : State :=
  if s.mesh.freeze then s else s.onSlice i fun x => { x with hwm := max x.hwm x.inUse }

/-- The tracker a request holds. -/
def Slice.trackerOf (x : Slice) (q : MeshRequest) : Tracker :=
  if x.general.contains q then .general else if x.reserved.contains q then .reserved else .none

/-- A transaction with nothing left to do but to give its tracker back. -/
def doneTxn (q : MeshRequest) (tr : Tracker) : Txn := ⟨q.who, q.kind, tr, [], false, true, true, .s⟩

/-- A request is served on an idle line: checked against the range table first (R304), a read or upgrade of a core starts its
transaction, the others are done at once. -/
def serve (q : MeshRequest) (s : State) : State :=
  let tr := (s.slice (homeOf q.line)).trackerOf q
  let done := fun (t : State) => t.onLine q.line fun ls => { ls with txn := some (doneTxn q tr) }
  let txn := fun (_ : Unit) =>
    let g := coreAgent s q.who
    if mayReach s g (64 * q.line) then startTxn q.kind q.who q.line tr q.chk s
    else done (rangeViolation s g (decide (q.kind ≠ .rdShared)) (64 * q.line))
  match q.kind with
  | .rdShared => txn ()
  | .rdUnique => txn ()
  | .upgrade => txn ()
  | .wbDirty => done (writeDirty q.who q.line s)
  | .evictClean => done (evictClean q.who q.line s)
  | .devRead => done (serveRead q.who q.line q.chk s)
  | .devWrite d m => done (match q.passed with
    | some keeper => mergeAtHome q.line d m keeper s
    | none => serveWrite q.who q.line d m s)

/-- A device's request for a line that a hart defers waits in its tracker (R285). -/
def mustWait (q : MeshRequest) (s : State) : Bool :=
  (s.lineAt q.line).txn.isSome || (decide (24 ≤ q.who) && deferredBy s q.line q.who)

/-- A request with its tracker is served, or waits in its tracker behind the line's own (R308). -/
def beginOrQueue (q : MeshRequest) (s : State) : State :=
  if mustWait q s then s.onSlice (homeOf q.line) fun x => { x with queued := x.queued ++ [q] } else serve q s

/-- Table 7.4: how many requests a requester may have outstanding (R317). -/
def requestLimit (who : Nat) : Nat := if who < 24 then 32 else if who = 26 then 8 else if who = 27 then 32 else 64

/-- The requests of a requester that hold a tracker or wait. -/
def outstanding (who : Nat) (s : State) : Nat :=
  (s.mesh.slices.flatMap fun e => (e.2.general ++ e.2.reserved ++ e.2.refused ++ e.2.waiting).filter (·.who == who)).length
    + (s.mesh.behind.filter (·.who == who)).length

/-- R276: a DEV_WRITE of the agent has not been served yet. -/
def writesBehind (who : Nat) (s : State) : Bool :=
  let unserved := fun (q : MeshRequest) => q.who == who && (match q.kind with | .devWrite .. => true | _ => false)
  s.mesh.behind.any unserved || s.mesh.slices.any fun e => (e.2.refused ++ e.2.waiting ++ e.2.queued).any unserved

/-- R312: a request takes a general tracker, or its requester's reserved one, or is answered RETRY. -/
def takeTracker (q : MeshRequest) (s : State) : State :=
  let i := homeOf q.line
  let x := s.slice i
  if x.general.length < 36 then
    beginOrQueue q (noteUse i (s.onSlice i fun y => { y with general := y.general ++ [q] }))
  else if !(x.reserved.any (·.who == q.who)) && !x.held.contains q.who then
    beginOrQueue q (noteUse i (s.onSlice i fun y => { y with reserved := y.reserved ++ [q] }))
  else
    let s := s.onSlice i fun y => { y with refused := y.refused ++ [q] }
    (if s.mesh.freeze then s else s.onSlice i fun y => { y with retries := y.retries + 1 }).emit (.retry q.who i)

/-- A request arrives at its home slice (R312): behind the requester's own retried requests for the slice where it has any
(R315), and a device write not before the agent's earlier one is served (R276); a requester at its limit sends none (R317).
A writeback that crosses a snoop for its line answers that snoop (R310). (DESIGN CHOICE, log 67.) -/
def request (q : MeshRequest) (s : State) : State :=
  if dramLines ≤ q.line ∨ requestLimit q.who ≤ outstanding q.who s then s
  else if q.kind = .wbDirty ∧ ((s.lineAt q.line).txn.map fun t => t.snoops.any (·.1 == q.who)) = some true then
    writeDirty q.who q.line s
  else match q.kind with
    | .devWrite .. =>
      if writesBehind q.who s then s.onMesh fun m => { m with behind := m.behind ++ [q] } else takeTracker q s
    | _ =>
      if (s.slice (homeOf q.line)).waiting.any (·.who == q.who) then
        s.onSlice (homeOf q.line) fun y => { y with waiting := y.waiting ++ [q] }
      else takeTracker q s

/-- Adds a count to the counters of a hart that select an event, while the hart is in the Open world (R233, R235).
(DESIGN CHOICE, log 74.) -/
def countEvent (h : HartId) (code n : Nat) (s : State) : State :=
  let x := s.hart h
  if x.keeper then s
  else s.onHart h fun y =>
    { y with counters := (List.range 8).foldl (fun t i =>
        if (tget 0 y.mhpmevent i).toNat = code ∧ !y.mcountinhibit.getLsbD (i + 3) then
          tmod 0 t (i + 2) (· + BitVec.ofNat 64 n) else t) y.counters }

/-- R315: the requester receives RETRY, and its request waits for a grant. -/
def takeRetry (who i : Nat) (s : State) : State :=
  match (s.slice i).refused.find? (·.who == who) with
  | none => s
  | some q =>
    let s := s.onSlice i fun x => { x with refused := x.refused.erase q, waiting := x.waiting ++ [q] }
    match hartOf who with
    | some h => countEvent h 0x0C 1 s
    | none => s

/-- R276: the agent's next held-back write is sent, once its earlier one is served. -/
def sendBehind (who : Nat) (s : State) : State :=
  match s.mesh.behind.find? (·.who == who) with
  | none => s
  | some q =>
    if q.passed.isSome || (s.mesh.slices.any fun e => (e.2.refused ++ e.2.waiting ++ e.2.queued).any fun p =>
        p.who == who && (match p.kind with | .devWrite .. => true | _ => false)) then s
    else takeTracker q (s.onMesh fun m => { m with behind := m.behind.erase q })

/-- The first request that waits in its tracker for an idle line is served (R308, R309). -/
def serveQueued (l : Nat) (s : State) : State :=
  match (s.slice (homeOf l)).queued.find? (·.line == l) with
  | none => s
  | some q => if mustWait q s then s else
    sendBehind q.who (serve q (s.onSlice (homeOf l) fun y => { y with queued := y.queued.erase q }))

/-- A tracker is free again (R313): a reserved one whose requester is owed a grant is held for it, and CREDIT_GRANT is sent. -/
def freeTracker (i : Nat) (t : Txn) (l : Nat) (s : State) : State :=
  let mine := fun (q : MeshRequest) => q.line == l && q.who == t.core
  match t.tracker with
  | .none => s
  | .general => s.onSlice i fun y => { y with general := y.general.eraseP mine }
  | .reserved =>
    let x := s.slice i
    let s := s.onSlice i fun y => { y with reserved := y.reserved.eraseP mine }
    if x.waiting.any (·.who == t.core) ∨ x.refused.any (·.who == t.core) then
      (s.onSlice i fun y => { y with held := y.held ++ [t.core] }).emit (.grant t.core i)
    else s

/-- R313: the tracker of a line's complete transaction becomes free; then the line's next waiting request starts (R308). -/
def releaseTracker (i l : Nat) (s : State) : State :=
  match (s.lineAt l).txn with
  | none => s
  | some t =>
    if !t.acked ∨ homeOf l ≠ i then s
    else serveQueued l (freeTracker i t l (s.onLine l fun ls => { ls with txn := none }))

/-- R314: a requester resends its oldest retried request on CREDIT_GRANT, into its reserved tracker. -/
def takeGrant (who i : Nat) (s : State) : State :=
  let x := s.slice i
  if !x.held.contains who then s
  else match x.waiting.find? (·.who == who) with
    | none => s
    | some q => sendBehind who (beginOrQueue q (s.onSlice i fun y =>
        { y with waiting := y.waiting.erase q, held := y.held.erase who, reserved := y.reserved ++ [q] }))

/-! ### Whole transactions, as the harts and device agents use them -/

/-- Runs a line's transaction to its end: every snoop answered, the data delivered, acknowledged and released. -/
def endTxn (l : Nat) (s : State) : State :=
  match (s.lineAt l).txn with
  | none => s
  | some t =>
    let s := t.snoops.foldl (fun u e => answerSnoop e.1 l e.2 u) s
    let s := if t.delivered then s else deliver t.core l t.dirtyData s
    releaseTracker (homeOf l) l (acknowledge t.core l s)

/-- Runs up to `n` transactions of a line to their end. -/
def endTxns (l : Nat) : Nat → State → State
  | 0, s => s
  | n + 1, s => endTxns l n (endTxn l s)

/-- The line's transaction and those that wait behind it come to their end (R308). -/
def finishTxn (l : Nat) (s : State) : State :=
  endTxns l (((s.slice (homeOf l)).queued.filter (·.line == l)).length + 1) s

/-- A request that is run whole, on an idle line and with no tracker of its own. -/
def runWhole (q : MeshRequest) (s : State) : State := finishTxn q.line (serve q (finishTxn q.line s))

/-- A core's earlier requests that wait for a grant of the line's home slice go before its next one (R315). -/
def runRetried (core l : Nat) (s : State) : State :=
  let i := homeOf l
  let x := s.slice i
  let mine := (x.waiting ++ x.refused).filter (·.who == core)
  if mine.isEmpty then s
  else
    let s := s.onSlice i fun y =>
      { y with waiting := y.waiting.filter (·.who ≠ core), refused := y.refused.filter (·.who ≠ core), held := y.held.erase core }
    mine.foldl (fun t q => runWhole q t) s

/-- A request that finds no tracker free is answered RETRY once (R312, R317). -/
def noteRetry (core l : Nat) (s : State) : State :=
  let x := s.slice (homeOf l)
  if x.general.length < 36 ∨ !(x.reserved.any (·.who == core)) then s
  else
    let s := if s.mesh.freeze then s else s.onSlice (homeOf l) fun y => { y with retries := y.retries + 1 }
    match hartOf core with
    | some h => countEvent h 0x0C 1 s
    | none => s

/-- A core obtains a line, `unique` with the right to write it, behind its own waiting requests (R315); the transactions in
progress on the line end first (R308). An L2 miss counts (Table 5.13). (DESIGN CHOICE, log 67.) -/
def obtain (core l : Nat) (unique : Bool) (chk : HomeCheck) (s : State) : State :=
  let s := finishTxn l (runRetried core l s)
  let mine := (s.lineAt l).copies.find? (·.core == core)
  match mine, unique with
  | some _, false => s
  | some c, true =>
    if c.st = .m then s
    else if c.st = .e then install core l .m s
    else finishTxn l (startTxn .upgrade core l .none chk (noteRetry core l s))
  | none, _ =>
    let s := match hartOf core with
      | some h => countEvent h 0x03 1 s
      | none => s
    finishTxn l (startTxn (if unique then .rdUnique else .rdShared) core l .none chk (noteRetry core l s))

/-- A masked write of an agent that runs whole reaches the home slice. -/
def homeWrite (l : Nat) (data : Line) (mask : BitVec 64) (keeper : Bool) (s : State) : State :=
  mergeAtHome l data mask keeper (finishTxn l s)

/-- A device agent writes bytes to one line (R276): forbidden, the write is dropped (R32); outside DRAM there is nothing to
write. A line that a hart defers is written once its deferral ends (R285), and the agent's later writes behind it. -/
def agentWriteLine (g : Agent) (l : Nat) (data : Line) (mask : BitVec 64) (s : State) : State :=
  if mayReach s g (64 * l) ∧ l < dramLines then
    (if deferredBy s l g.requester || s.mesh.behind.any (fun q => q.who == g.requester && q.passed.isSome) then
       s.onMesh fun m => { m with behind := m.behind ++ [⟨g.requester, l, .devWrite data mask, {}, some g.keeper⟩] }
     else homeWrite l data mask g.keeper s)
  else s

/-- Writes held back for a deferral are performed in order, each once nothing defers its line (R276, R285). -/
def releaseWrites (s : State) : State :=
  s.mesh.behind.foldl (fun t q =>
    match q.passed, q.kind with
    | some k, .devWrite d m =>
      if deferredBy t q.line q.who || (t.mesh.behind.find? fun p => p.who == q.who) != some q then t
      else homeWrite q.line d m k (t.onMesh fun x => { x with behind := x.behind.erase q })
    | _, _ => t) s

/-- The bytes `i` to `i + n - 1` of a line as a mask. -/
def maskOf (i n : Nat) : BitVec 64 := BitVec.ofNat 64 ((2 ^ n - 1) * 2 ^ i)

/-- A device agent writes bytes from an address upward, line by line in ascending order; `fuel` bounds the lines. -/
def agentWriteBytes (g : Agent) : Nat → Nat → List Byte → State → State
  | 0, _, _, s => s
  | _, _, [], s => s
  | fuel + 1, a, bs, s =>
    let off := a % 64
    let n := min bs.length (64 - off)
    let data := lineOf (List.replicate off 0 ++ bs.take n)
    agentWriteBytes g fuel (a + n) (bs.drop n) (agentWriteLine g (a / 64) data (maskOf off n) s)

/-- The lines that `n` bytes from an address touch. -/
def linesOf (a n : Nat) : List Nat := if n = 0 then [] else (List.range ((a + n - 1) / 64 - a / 64 + 1)).map (a / 64 + ·)

/-- R34: an access records at most one violation, for the first line that it may not reach. -/
def checkRange (g : Agent) (write : Bool) (a n : Nat) (s : State) : State :=
  match (linesOf a n).find? fun l => !mayReach s g (64 * l) with
  | some l => rangeViolation s g write (64 * l)
  | none => s

/-- A device agent's write, with the one violation of what it may not reach (R32, R34). -/
def agentWrite (g : Agent) (fuel a : Nat) (bs : List Byte) (s : State) : State :=
  checkRange g true a bs.length (agentWriteBytes g fuel a bs s)

/-- Whether a device agent's read meets poison, with the one violation of what it may not reach (R32, R34); the lines that it
reads from DRAM are left in the L3 (R300). -/
def agentCheck (g : Agent) (a n : Nat) (s : State) : State × Bool :=
  let p := (linesOf a n).foldl (fun (p : State × Bool) l =>
    if mayReach p.1 g (64 * l) ∧ l < dramLines then
      let t := deviceFetch g.requester l {} g.keeper (finishTxn l p.1)
      (t, p.2 || poisoned t l)
    else p) (s, false)
  (checkRange g false a n p.1, p.2)

/-- What a device agent reads: zero from every line it may not reach (R32), and an open value outside DRAM. -/
def agentRead (s : State) (g : Agent) (a n : Nat) : List Byte :=
  (List.range n).map fun i => if 2 ^ 37 ≤ a + i then Config.vacantByte (a + i) else if mayReach s g (a + i) then bget s.mesh.mem (a + i) else 0

/-! ### Cache maintenance -/

/-- CBO.CLEAN's effect on a line: a dirty copy goes back to DRAM, copies stay (Table 5.10); it clears the reservations on the
line (R282). -/
def cleanLine (l : Nat) (s : State) : State :=
  (writeBack l (clearReservations l none (finishTxn l s))).onLine l fun ls =>
    { ls with
      copies := ls.copies.map fun c => { c with st := match c.st with | .m => .e | .o => .s | x => x }
      l3 := if ls.l3 = .dirty then .clean else ls.l3 }

/-- CBO.FLUSH's effect: written back and invalidated everywhere. -/
def flushLine (l : Nat) (s : State) : State :=
  (dropCopies l (writeBack l (clearReservations l none (finishTxn l s)))).onLine l fun _ => {}

/-- CBO.INVAL's effect: every copy goes without writeback, so that the line reads as DRAM holds it. (DEDUCED, log 69.) -/
def dropLine (l : Nat) (s : State) : State :=
  let s := clearReservations l none (finishTxn l s)
  let s := match s.mesh.stale.find? (·.1 == l) with
    | some e => s.onMesh fun m => { m with mem := writeBytes m.mem (64 * l) (lineBytes e.2), stale := tdel m.stale l }
    | none => s
  (dropCopies l s).onLine l fun _ => {}

/-- R335: every dirty line goes back to DRAM, and every cache and snoop filter is emptied. -/
def flushAll (s : State) : State :=
  (s.mesh.lines.foldl (fun t e => writeBack e.1 t) s).onMesh fun m =>
    { m with stale := [], lines := [], behind := [], slices := m.slices.map fun e =>
        (e.1, { e.2 with general := [], reserved := [], held := [], refused := [], waiting := [], queued := [] }) }

/-- What DRAM holds of a line reads as `f` of it from now on; where a cache holds a newer value, that value stays.
(DEDUCED, log 13.) -/
def recodeLine (f : Nat → List Byte → List Byte) (l : Nat) (s : State) : State :=
  match s.mesh.stale.find? (·.1 == l) with
  | some e => s.onMesh fun m => { m with stale := tput (lineOf (f l (lineBytes e.2))) m.stale l }
  | none => s.onMesh fun m => { m with mem := writeBytes m.mem (64 * l) ((f l (readBytes m.mem (64 * l) 64)).take 64) }

/-- The lines of a range that hold data; a zeroed line reads as zero through every key entry (R327). -/
def recodeRange (f : Nat → List Byte → List Byte) (lo hi : Nat) (s : State) : State :=
  (s.mesh.written.filter fun l => decide (lo ≤ 64 * l ∧ 64 * l < hi)).foldl (fun t l => recodeLine f l t) s

/-! ### The rows -/

/-- RD_SHARED (R306): the home slice serves an L2 read miss, or answers RETRY (R312). -/
def execRdShared (core : HartId) (line : LineNo) (chk : HomeCheck) (s : State) : Host.Outcome State Fault Refusal :=
  ok s (request ⟨core.val, line.toNat, .rdShared, chk, none⟩ s)
/-- RD_UNIQUE (R306): a store or AMO miss. -/
def execRdUnique (core : HartId) (line : LineNo) (chk : HomeCheck) (s : State) : Host.Outcome State Fault Refusal :=
  ok s (request ⟨core.val, line.toNat, .rdUnique, chk, none⟩ s)
/-- UPGRADE (R306): a holder in S or O asks for M. -/
def execUpgrade (core : HartId) (line : LineNo) (s : State) : Host.Outcome State Fault Refusal :=
  ok s (request ⟨core.val, line.toNat, .upgrade, {}, none⟩ s)
/-- WB_DIRTY (R306, R310): only a copy in M or O is written back. -/
def execWbDirty (core : HartId) (line : LineNo) (s : State) : Host.Outcome State Fault Refusal :=
  ok s (request ⟨core.val, line.toNat, .wbDirty, {}, none⟩ s)
/-- EVICT_CLEAN (R306): only a copy in E or S; the L3 takes nothing (R300). -/
def execEvictClean (core : HartId) (line : LineNo) (s : State) : Host.Outcome State Fault Refusal :=
  ok s (request ⟨core.val, line.toNat, .evictClean, {}, none⟩ s)

/-- A requester of the mesh that is no core: a device agent (R295). DEV_READ and DEV_WRITE come from these alone, a core's
combining buffer draining by a row of its own. (DESIGN CHOICE, log 67.) -/
def deviceRequest (who l : Nat) (k : ReqKind) (chk : HomeCheck) (s : State) : State := request ⟨who, l, k, chk, none⟩ s

/-- DEV_READ (R306): the owner, the nearest clean source or DRAM supplies; nobody's state changes. Poison is consumed (R324). -/
def execDevRead (who : MeshReq) (line : LineNo) (chk : HomeCheck) (s : State) : Host.Outcome State Fault Refusal :=
  ok s (deviceRequest who.val line.toNat .devRead chk s)

/-- DEV_WRITE (R306, §7.8). -/
def execDevWrite (who : MeshReq) (line : LineNo) (data : Line) (mask : BitVec 64) (s : State) :
    Host.Outcome State Fault Refusal :=
  ok s (deviceRequest who.val line.toNat (.devWrite data mask) {} s)

/-- SNP_SHARED (R306). -/
def execSnpShared (core : HartId) (line : LineNo) (s : State) : Host.Outcome State Fault Refusal :=
  .next (snoopArrives core.val line.toNat .shared s)
/-- SNP_UNIQUE (R306). -/
def execSnpUnique (core : HartId) (line : LineNo) (s : State) : Host.Outcome State Fault Refusal :=
  .next (snoopArrives core.val line.toNat .unique s)
/-- SNP_INV (R306). -/
def execSnpInv (core : HartId) (line : LineNo) (s : State) : Host.Outcome State Fault Refusal :=
  .next (snoopArrives core.val line.toNat .inv s)
/-- DATA (R306): clean data. -/
def execData (core : HartId) (line : LineNo) (s : State) : Host.Outcome State Fault Refusal :=
  .next (deliver core.val line.toNat false s)
/-- DATA_DIRTY (R306): data with ownership of its dirtiness. -/
def execDataDirty (core : HartId) (line : LineNo) (s : State) : Host.Outcome State Fault Refusal :=
  .next (deliver core.val line.toNat true s)
/-- ACK (R306). -/
def execAck (core : HartId) (line : LineNo) (s : State) : Host.Outcome State Fault Refusal :=
  .next (acknowledge core.val line.toNat s)
/-- RETRY (R315). -/
def execRetry (who : MeshReq) (slice : SliceId) (s : State) : Host.Outcome State Fault Refusal :=
  .next (takeRetry who.val slice.val s)
/-- TRACKER_RELEASE (R313). -/
def execTrackerRelease (slice : SliceId) (line : LineNo) (s : State) : Host.Outcome State Fault Refusal :=
  ok s (releaseTracker slice.val line.toNat s)
/-- CREDIT_GRANT (R314). -/
def execCreditGrant (who : MeshReq) (slice : SliceId) (s : State) : Host.Outcome State Fault Refusal :=
  ok s (takeGrant who.val slice.val s)

/-- PATROL_SCRUB (R321, R325): the next line of the channel is read and checked; after the last line of a pass the pass is
counted and the devices' counts of the pass start again. -/
def patrolScrub (c : Nat) (chk : DramCheck) (s : State) : State :=
  let n := tget 0 s.mesh.scrubNext c
  let l := n / 4 * 16 + 4 * c + n % 4
  let s := dramCheck l chk true s
  if n + 1 < dramLines / 4 then s.onMesh fun m => { m with scrubNext := tset 0 m.scrubNext c (n + 1) }
  else s.onMesh fun m =>
    { m with scrubNext := tset 0 m.scrubNext c 0, scrubPass := tmod 0 m.scrubPass c (· + 1)
             devErrors := m.devErrors.filter fun e => decide (e.1 / 40 ≠ c) }
/-- PATROL_SCRUB (R321, R333). -/
def execPatrolScrub (channel : Fin 4) (chk : DramCheck) (s : State) : Host.Outcome State Fault Refusal :=
  ok s (patrolScrub channel.val chk s)

/-- R327: zeroing writes the next line, unless a write came first, and never after that line's first write. -/
def zeroNextLine (s : State) : State :=
  if s.mesh.zeroed ∨ (s.pwr.stage ≠ .dram ∧ s.pwr.stage ≠ .replayed ∧ s.pwr.stage ≠ .service) then s
  else s.onMesh fun m =>
    { m with
      mem := if m.written.contains m.zeroNext then m.mem else writeBytes m.mem (64 * m.zeroNext) (List.replicate 64 0)
      zeroNext := m.zeroNext + 1
      zeroed := decide (dramLines ≤ m.zeroNext + 1) }
/-- DRAM_ZEROING (R326, R327). -/
def execDramZeroing (s : State) : Host.Outcome State Fault Refusal := .next (zeroNextLine s)

/-- PMC_CTRL.CLEAR (Table 7.7): every counter zero. -/
def pmcClear (s : State) : State :=
  s.onMesh fun m => { m with slices := m.slices.map fun e =>
    (e.1, { e.2 with l3Hit := 0, l3Miss := 0, snoops := 0, retries := 0, hwm := 0 }) }
end Sys2Proof.Machine
end

