-- ==== Sys2Proof/Machine/DispatchUnit.lean ====
section
/-!
DEFINITION. The dispatch unit (09): ready and delay lists, device posts, the preemption decision, the trace, and the rows
that are not instructions.
-/

namespace Sys2Proof.Machine

/-- Integer cycles of CT. -/
def ctCycles (s : State) : Nat := s.ct.now.toNat / 4096

/-- Ready entries of a domain. -/
def Domain.readyCount (d : Domain) : Nat := (d.ready.map fun e => e.2.length).sum

/-- A free ready-quota place (R397, R414). -/
def readyFree (s : State) (d : Nat) : Bool := decide ((s.dom d).readyCount < (s.lt.domain d).1)
/-- A free delay-quota place. -/
def delayFree (s : State) (d : Nat) : Bool := decide ((s.dom d).delay.length < (s.lt.domain d).2.1)

/-! ### Trace (§9.6) -/

/-- Bytes 8-15 of a trace record (Table 9.7); hart 31 is the unit itself or a device source. -/
def traceWord (handle : W64) (d hart ev prio : Nat) : W64 :=
  BitVec.ofNat 64 (bits handle 0 32 + 2 ^ 32 * (d % 256) + 2 ^ 40 * (hart % 32) + 2 ^ 48 * (ev % 256) + 2 ^ 56 * (prio % 16))

/-- A record of a domain is lost (R435, R436). -/
def traceLost (d : Nat) (s : State) : State :=
  (s.onDom d fun x => { x with ovf := satInc x.ovf, flags := setBit x.flags 3 }).onDisp
    fun u => { u with trouble := setBit u.trouble 4 }

/-- One scheduling event is recorded, while its domain records (R434-R436). -/
def traceEvent (d hart ev prio : Nat) (payload : W64) (s : State) : State :=
  if !(s.dom d).traceOn then s
  else
    let r : TraceRec := ⟨s.ct.now, traceWord payload d hart ev prio, d, false⟩
    if s.lt.traceStop && decide (4096 ≤ s.disp.written.toNat) then traceLost d s
    else
      let s' := s.onDisp fun u => { u with trace := u.trace ++ [r], written := satInc u.written }
      if s'.disp.trace.length ≤ 4096 then s'
      else match s'.disp.trace with
        | [] => s'
        | old :: rest =>
          let s'' := s'.onDisp fun u => { u with trace := rest }
          if old.read then s'' else traceLost old.domain s''

/-! ### Harts as the unit sees them -/

/-- A hart stalled in DISP.WAIT (Table 9.1, WAITING). -/
def Hart.waiting (h : Hart) : Option Nat :=
  match h.stall with
  | .dispWait rd => some rd
  | _ => none

/-- R427: bound to the domain, EN 1, and inside its AFFINITY. -/
def eligible (s : State) (d : Nat) (h : HartId) : Bool :=
  let b := (s.hart h).bind
  b.en && decide (b.domain.toNat = d) && (s.lt.domain d).2.2.getLsbD h.val && !(s.hart h).inReset

/-- R428: effective priority, shifted up by one so that an idle hart is 0 and priority p is p + 1. -/
def effective (b : DispBind) : Nat :=
  match b.claimed with
  | some p => p + 1
  | none => if 16 ≤ b.runprio then 0 else b.runprio + 1

/-- The eligible hart of the lowest effective priority, the lowest number on a tie (Table 9.5). -/
def lowestHart (s : State) (d : Nat) : Option HartId :=
  (allHarts.filter (eligible s d)).foldl (fun b h =>
    match b with
    | none => some h
    | some x => if effective (s.hart h).bind < effective (s.hart x).bind then some h else some x) none

/-! ### Lists -/

/-- Ready list `p` of a domain. -/
def Domain.list (d : Domain) (p : Nat) : List TaskEntry := tget [] d.ready p

/-- Appends an entry to its ready list (R404). -/
def pushReady (d : Nat) (e : TaskEntry) (s : State) : State :=
  s.onDom d fun x => { x with ready := tset [] x.ready e.prio (x.list e.prio ++ [e]) }

/-- The highest non-empty ready list of a domain. -/
def Domain.highest (d : Domain) : Option Nat := (List.range 16).reverse.find? fun p => !(d.list p).isEmpty

/-- Removes the head of ready list `p`. -/
def popReady (d p : Nat) (s : State) : State :=
  s.onDom d fun x => { x with ready := tset [] x.ready p (x.list p).tail }

/-! ### Errors of the stores (R402, §9.9) -/

/-- A single-bit error of an entry or a trace record is corrected. -/
def correctSram (s : State) : State := s.onDisp fun u => { u with trouble := setBit u.trouble 0 }

/-- An entry with an uncorrectable error has left its list: LOST is recorded, whose HANDLE is open, and the flags are set.
(DESIGN CHOICE, log 84.) -/
def entryLost (d p : Nat) (s : State) : State :=
  let (n, s) := s.draw
  let s := (s.onDom d fun x => { x with flags := setBit x.flags 4 }).onDisp fun u => { u with trouble := setBit u.trouble 1 }
  traceEvent d 31 0x0B p (Config.freeBits n 64) s

/-- What SECDED finds in an entry that is read: corrected, or lost, `drop` taking it from its list. -/
def entryError (d p : Nat) (sram : BitError) (drop : State → State) (s : State) : State :=
  match sram with
  | .none => s
  | .single => correctSram s
  | .double => entryLost d p (drop s)

/-- The head of ready list `p` is read. -/
def readyError (d p : Nat) (sram : BitError) (s : State) : State := entryError d p sram (popReady d p) s

/-- Inserts into a delay list: ascending WAKE_CYC, insertion order among equals (R404). -/
def insertDelay (e : TaskEntry) : List TaskEntry → List TaskEntry
  | [] => [e]
  | x :: t => if e.cyc < x.cyc then e :: x :: t else x :: insertDelay e t

/-- R427-R429: the decision on an entry of priority `p` newly ready in domain `d`. (DEDUCED, log 65.) -/
def decideOn (d : Nat) (e : TaskEntry) (s : State) : State :=
  match (allHarts.filter (eligible s d)).find? fun h => (s.hart h).waiting.isSome with
  | some h =>
    let rd := (s.hart h).waiting.getD 0
    let s := s.onDom d fun x => { x with ready := tset [] x.ready e.prio (x.list e.prio).dropLast }
    let s := s.onHart h fun x =>
      { (x.setX rd e.payload) with stall := .none, bind := { x.bind with runprio := e.prio } }
    traceEvent d h.val 0x04 e.prio e.payload s
  | none =>
    match lowestHart s d with
    | none => s
    | some h =>
      if effective (s.hart h).bind < e.prio + 1 then
        let s := sendMsi h (s.hart h).bind.file.toNat 1 s
        let s := s.onHart h fun x => { x with bind := { x.bind with claimed := some e.prio } }
        traceEvent d h.val 0x06 e.prio e.payload s
      else s

/-- An entry becomes ready: it is placed, traced and decided on. -/
def makeReady (d : Nat) (e : TaskEntry) (hart ev : Nat) (s : State) : State :=
  decideOn d e (traceEvent d hart ev e.prio e.payload (pushReady d e s))

/-! ### Device posts (§9.4) -/

/-- R414, R424: an enqueue or a post is refused with BUSY; `h` is the hart, 31 for a device source. -/
def busyRefused (d h : Nat) (payload : W64) (prio : Nat) (s : State) : State :=
  let s := (s.onDom d fun x => { x with flags := setBit x.flags 0 }).onDisp fun u => { u with trouble := setBit u.trouble 2 }
  traceEvent d h 0x09 prio payload s

/-- R424: the source holds its event. -/
def holdEvent (source d : Nat) (payload : W64) (prio : Nat) (s : State) : State :=
  (s.onDom d fun x => { x with held := x.held ++ [⟨source, payload, prio⟩], flags := setBit x.flags 1 }).onDisp
    fun u => { u with trouble := setBit u.trouble 3 }

/-- The held event that goes first: the lowest source number, and within it the source's own order (R425). -/
def firstHeld (l : List HeldEvent) : Option HeldEvent :=
  l.foldl (fun b e => match b with
    | none => some e
    | some x => if e.source < x.source then some e else some x) none

/-- R425: a held event takes a freed place. (DEDUCED, log 65.) -/
def postHeld (d : Nat) (s : State) : State :=
  if !readyFree s d then s
  else match firstHeld (s.dom d).held with
    | none => s
    | some e =>
      let s := s.onDom d fun x => { x with held := x.held.erase e }
      makeReady d ⟨e.payload, ctCycles s, e.prio, BitVec.ofNat 8 e.source⟩ 31 0x0A s

/-! ### Ticks (§9.2) -/

/-- R406: the cycle at which an entry is due. -/
def dueCycle (k wake : Nat) : Nat :=
  let b := (wake + 2 ^ k - 1) / 2 ^ k * 2 ^ k
  if b < 2 ^ 52 then b else 2 ^ 52 - 1

/-- The delay-list head of a domain, if it is due. -/
def dueHead (s : State) (d : Nat) : Option TaskEntry :=
  match (s.dom d).delay with
  | e :: _ => if dueCycle s.lt.tickExp e.cyc ≤ ctCycles s then some e else none
  | [] => none

/-- The due head of a domain's delay list is read. -/
def delayError (d : Nat) (sram : BitError) (s : State) : State :=
  match dueHead s d with
  | none => s
  | some e => entryError d e.prio sram (fun t => t.onDom d fun x => { x with delay := x.delay.tail }) s

/-- R407-R409: the due head of a domain moves, or stays for want of a place and sets WAKE_HELD. -/
def moveDue (d : Nat) (s : State) : State :=
  match dueHead s d with
  | none => s
  | some e =>
    if readyFree s d then
      makeReady d { e with cyc := ctCycles s } 31 0x03 (s.onDom d fun x => { x with delay := x.delay.tail })
    else s.onDom d fun x => { x with flags := setBit x.flags 2 }

/-- What has the right of the free places goes before what arrives: due delay entries first, then held events (R408, R425, R439);
at most `n` of them. -/
def takePlaces (d : Nat) : Nat → State → State
  | 0, s => s
  | n + 1, s =>
    if !readyFree s d then s
    else if (dueHead s d).isSome then takePlaces d n (moveDue d s)
    else if (s.dom d).held.isEmpty then s
    else takePlaces d n (postHeld d s)

/-- The places of a domain are taken by what waits for them (R408, R425). -/
def settleDomain (d : Nat) (s : State) : State := takePlaces d ((s.dom d).delay.length + (s.dom d).held.length) s

/-- R423-R426: a device source posts an event; refused, it holds the event, and its later ones wait behind. A PAYLOAD of 0 makes no
post. (DEDUCED, log 65.) -/
def post (source d : Nat) (payload : W64) (prio : Nat) (s : State) : State :=
  if payload = 0 then s
  else
    let s := settleDomain d s
    if (s.dom d).held.any (·.source == source) then holdEvent source d payload (prio % 16) s
    else if readyFree s d then makeReady d ⟨payload, ctCycles s, prio % 16, BitVec.ofNat 8 source⟩ 31 0x01 s
    else busyRefused d 31 payload (prio % 16) (holdEvent source d payload (prio % 16) s)

/-- The domain whose movable due head has the lowest WAKE_CYC, the lowest domain on a tie. -/
def nextDue (s : State) : Option Nat :=
  (s.disp.doms.foldl (fun (b : Option (Nat × Nat)) e =>
    match dueHead s e.1 with
    | none => b
    | some t => if !readyFree s e.1 then b else match b with
      | none => some (t.cyc, e.1)
      | some (c, d) => if t.cyc < c then some (t.cyc, e.1) else some (c, d)) none).map (·.2)

/-- R407: every due entry moves that has a place, at most `n` of them. -/
def moveAllDue : Nat → State → State
  | 0, s => s
  | n + 1, s =>
    match nextDue s with
    | none => s
    | some d => moveAllDue n (moveDue d s)

/-- Every due entry that is left has no place: its domain shows WAKE_HELD (R408). -/
def flagHeldWakes (s : State) : State :=
  s.disp.doms.foldl (fun t e => if (dueHead t e.1).isSome then t.onDom e.1 fun x => { x with flags := setBit x.flags 2 } else t) s

/-- TICK_BOUNDARY's effect; `sram` is what the first entry to move meets. -/
def tickBoundary (sram : BitError) (s : State) : State :=
  let s := match nextDue s with | some d => delayError d sram s | none => s
  flagHeldWakes (moveAllDue ((s.disp.doms.map fun e => e.2.delay.length).sum) s)

/-! ### The rows -/

/-- TICK_BOUNDARY (R402, R405-R409). -/
def execTickBoundary (sram : BitError) (s : State) : Host.Outcome State Fault Refusal := ok s (tickBoundary sram s)
/-- WAKE_HELD_MOVE (R402, R408). -/
def execWakeHeldMove (d : FnId) (sram : BitError) (s : State) : Host.Outcome State Fault Refusal :=
  ok s (moveDue d.val (delayError d.val sram s))
/-- DEVICE_POST (R423, R424). -/
def execDevicePost (source : Fin 255) (d : FnId) (payload : W64) (prio : Fin 16) (s : State) :
    Host.Outcome State Fault Refusal := ok s (post source.val d.val payload prio.val s)
/-- HELD_EVENT_POST (R425). -/
def execHeldEventPost (d : FnId) (s : State) : Host.Outcome State Fault Refusal := ok s (postHeld d.val s)

/-- R438: the domain a requester reaches at the per-domain registers: domain 0 from the PF, the bound one from a hart. -/
def dsDomain (s : State) : Requester → Option Nat
  | .fn f => if f.val = 0 then some 0 else none
  | .hart h => if (s.hart h).bind.en then some (s.hart h).bind.domain.toNat else none

/-- An access to a per-domain register: a hart with EN 0 breaks FUNCTION_OWNER (R438), a VF has no view (R12). -/
def onDsDomain (w : Requester) (write : Bool) (offset : Nat) (f : Nat → State → State) (s : State) : State :=
  if !visible s w then s
  else match dsDomain s w, w with
  | some d, _ => f d s
  | none, .hart _ => let t := violateBy s w write .functionOwner offset; if write then t else t.emit (.readData 0)
  | none, .fn _ => s

/-- The oldest unread record of a domain. -/
def oldestUnread (s : State) (d : Nat) : Option TraceRec := s.disp.trace.find? fun r => r.domain == d && !r.read

/-- R437: a read of DS_TRACE_REC_LO latches the reader's oldest unread record. (DEDUCED, log 66.) -/
def readRecLo (w : Requester) (d : Nat) (s : State) : State :=
  match oldestUnread s d with
  | none => (s.onDisp fun u => { u with latched := u.latched.filter (·.1 ≠ w) }).emit (.readData 0)
  | some r => (s.onDisp fun u => { u with latched := (w, r.ct, r.word) :: u.latched.filter (·.1 ≠ w) }).emit (.readData r.ct)

/-- Marks the first unread record equal to a latched one as read. -/
def markRead (ct word : W64) : List TraceRec → List TraceRec
  | [] => []
  | r :: t => if r.ct = ct ∧ r.word = word ∧ r.read = false then { r with read := true } :: t else r :: markRead ct word t

/-- R437: the next read of DS_TRACE_REC_HI returns the latched record's bytes 8-15 and marks it read. (DEDUCED, log 66.) -/
def readRecHi (w : Requester) (s : State) : State :=
  match s.disp.latched.find? (·.1 == w) with
  | none => s.emit (.readData 0)
  | some (_, ct, word) =>
    (s.onDisp fun u => { u with latched := u.latched.filter (·.1 ≠ w), trace := markRead ct word u.trace }).emit (.readData word)

/-- A trace record is read, with a single-bit error corrected where there is one (§9.9). -/
def readTrace (corrected : Bool) (f : State → State) (s : State) : State := f (if corrected then correctSram s else s)

/-- R436: RESTART empties the buffer and resumes recording. -/
def restartTrace (s : State) : State := s.onDisp fun u => { u with trace := [], written := 0, latched := [] }

end Sys2Proof.Machine
end

