-- ==== Sys2Proof/Machine/LineCode.lean ====
section
/-!
DEFINITION. The block coding of the site lanes and chain ports (16 §16.3, R748, R749; R745's training block): a frame as 64b/66b
blocks, the scrambler, and the way back. The lane rows bring blocks, and State.out holds blocks; the scrambler works on the line.

IEEE 802.3 Clause 49 gives the blocks' layout. (PRESUMED, log 89.)
-/

namespace Sys2Proof.Machine

/-! ### Blocks -/

/-- A control block of a type, with the octets after it; what is left holds idle control codes, which are zeros. -/
def controlBlock (type : Byte) (bs : List Byte) : Block := ⟨true, BitVec.ofNat 64 (ofBytesLE (type :: bs))⟩

/-- The start block: frame bytes 0-6. -/
def startType : Byte := 0x78#8
/-- The idle block. -/
def idleBlock : Block := controlBlock 0x1E#8 []
/-- R745: the training block, an ordered set with O code 0. -/
def trainingBlock : Block := controlBlock 0x4B#8 [0x4B, 0x4C, 0x58]
/-- Table 17.10: the training block of a pair of a chain port. Its fourth octet stands where Clause 49 has the O code.
(PRESUMED, log 89.) -/
def chainTraining (pair port : Byte) : Block := controlBlock 0x4B#8 [0x42, 0x59, pair, port]
/-- Table 17.10: the blocks of a chain port alternate over pair 0 and pair 1. -/
def onPair (pair : Nat) (bs : List Block) : List Block := (bs.zipIdx.filter fun e => decide (e.2 % 2 = pair)).map (·.1)

/-- The terminate blocks' types, by how many bytes they carry. -/
def terminateTypes : List Byte := [0x87, 0x99, 0xAA, 0xB4, 0xCC, 0xD2, 0xE1, 0xFF]

/-- Data blocks of eight bytes, and the terminate block with the last 0-7 bytes; `fuel` bounds the blocks. -/
def restBlocks : Nat → List Byte → List Block
  | 0, bs => [controlBlock (terminateTypes.getD bs.length 0) bs]
  | fuel + 1, bs =>
    if bs.length < 8 then [controlBlock (terminateTypes.getD bs.length 0) bs]
    else ⟨false, BitVec.ofNat 64 (ofBytesLE (bs.take 8))⟩ :: restBlocks fuel (bs.drop 8)

/-- R749: the blocks of a frame, with the idle block that separates it from the next one. -/
def frameBlocks (bs : List Byte) : List Block :=
  controlBlock startType (bs.take 7) :: (restBlocks (bs.length / 8) (bs.drop 7) ++ [idleBlock])

/-! ### Scrambling -/

/-- One bit through the scrambler x^58 + x^39 + 1: the bit sent, and the state after it. -/
def scrambleBit (state : BitVec 58) (b : Bool) : Bool × BitVec 58 :=
  let o := b != (state.getLsbD 38 != state.getLsbD 57)
  (o, (state <<< 1) ||| (if o then 1#58 else 0#58))

/-- Bits through the scrambler, bit 0 first. -/
def scrambleBits : BitVec 58 → List Bool → List Bool × BitVec 58
  | st, [] => ([], st)
  | st, b :: t =>
    let p := scrambleBit st b
    let q := scrambleBits p.2 t
    (p.1 :: q.1, q.2)

/-- One bit through the descrambler, whose state is the bits received. -/
def descrambleBits : BitVec 58 → List Bool → List Bool × BitVec 58
  | st, [] => ([], st)
  | st, o :: t =>
    let q := descrambleBits ((st <<< 1) ||| (if o then 1#58 else 0#58)) t
    ((o != (st.getLsbD 38 != st.getLsbD 57)) :: q.1, q.2)

/-- The payload of a block as bits, bit 0 first. -/
def payloadBits (v : W64) : List Bool := (List.range 64).map fun i => v.getLsbD i

/-- The 66 bits of a block as they are sent: the sync header, 01 of data and 10 of control, and the scrambled payload. -/
def wireBlock (st : BitVec 58) (b : Block) : List Bool × BitVec 58 :=
  let p := scrambleBits st (payloadBits b.payload)
  (b.control :: (!b.control) :: p.1, p.2)

/-- The bits of a frame on the wire, from the scrambler's state. -/
def wireBits : BitVec 58 → List Block → List Bool × BitVec 58
  | st, [] => ([], st)
  | st, b :: t =>
    let p := wireBlock st b
    let q := wireBits p.2 t
    (p.1 ++ q.1, q.2)

/-! ### Receiving -/

/-- Bytes of a block's payload. -/
def blockBytes (b : Block) : List Byte := bytesLE 8 b.payload.toNat

/-- The bytes of data blocks up to the terminate block; none where another control block stands there (R753). -/
def readRest : List Block → Option (List Byte)
  | [] => none
  | b :: t =>
    if b.control then (terminateTypes.findIdx? (· == (blockBytes b).headD 0)).map fun n => ((blockBytes b).drop 1).take n
    else (readRest t).map ((blockBytes b) ++ ·)

/-- The frame that blocks from a start block on carry; none where they are no frame (R749). -/
def readFrame : List Block → Option (List Byte)
  | [] => none
  | b :: t => if b.control ∧ (blockBytes b).head? = some startType then (readRest t).map ((blockBytes b).drop 1 ++ ·) else none

/-- R745: a line whose sync headers come swapped and whose training blocks come complemented is inverted. -/
def invertedTraining (bits : List Bool) : Bool := bits.map (!·) == true :: false :: payloadBits trainingBlock.payload

end Sys2Proof.Machine
end

