-- ==== Sys2Proof/Machine/SiteOps.lean ====
section
/-!
DEFINITION. What the measurement chain and the site lanes share with other blocks: the fields of a channel and of a site, the
flags of open windows (R714), a lane's frames, and what the commit of a SITE-class command's COMPLETE record frees.
-/

namespace Sys2Proof.Machine

/-! ### Channels and sites (15 §15.1) -/

/-- Channel `c`. -/
def State.chan (s : State) (c : Nat) : Channel := tget {} s.sd.chans c
/-- Changes channel `c`. -/
def State.onChan (s : State) (c : Nat) (f : Channel → Channel) : State :=
  s.onSd fun m => { m with chans := tmod {} m.chans c f }
/-- Site `n`'s TRIP output. -/
def State.site (s : State) (n : Nat) : TripSite := tget {} s.sd.sites n
/-- Changes site `n`'s TRIP output. -/
def State.onSite (s : State) (n : Nat) (f : TripSite → TripSite) : State :=
  s.onSd fun m => { m with sites := tmod {} m.sites n f }
/-- Lane `n`. -/
def State.lane (s : State) (n : Nat) : Lane := tget {} s.ln.tab n
/-- Changes lane `n`. -/
def State.onLane (s : State) (n : Nat) (f : Lane → Lane) : State := s.onLn fun l => { l with tab := tmod {} l.tab n f }

/-- CHAN[c] (Table 3.9). -/
def LightTable.chanWord (lt : LightTable) (c : Nat) : W32 := lt.chan.getD c 0x01010013#32
/-- ENABLE. -/
def LightTable.chanOn (lt : LightTable) (c : Nat) : Bool := (lt.chanWord c).getLsbD 24
/-- N_Q. -/
def LightTable.chanQual (lt : LightTable) (c : Nat) : Nat := bits (lt.chanWord c) 16 5

/-- The measurement group of a channel, by its block number in PS_GATE and KP_HO_REQ (R689). -/
def groupBlock (c : Nat) : Nat := 8 + c / 8
/-- The group is Keeper-assigned. -/
def groupKeeper (s : State) (c : Nat) : Bool := s.kp.world.getLsbD (groupBlock c)
/-- The group is gated (R370). -/
def groupGated (s : State) (c : Nat) : Bool := s.kp.gated.getLsbD (groupBlock c)
/-- The group is in hand-over (R366). (DEDUCED, log 48.) -/
def groupMoving (s : State) (c : Nat) : Bool := s.kp.handover.any (·.1 == groupBlock c)

/-- The channels mapped to a site (R24). -/
def channelsAt (s : State) (n : Nat) : List Nat := (List.range 64).filter fun c => decide (s.lt.channelSiteOf c = n)

/-- An input fault is present (Table 15.1). -/
def Channel.faulty (h : Channel) : Bool := h.noclk || h.clkRange || h.stuck

/-! ### Flags of open windows (R714) -/

/-- The flags whose condition holds now for channel `c`. -/
def windowFlags (s : State) (c : Nat) : BitVec 16 :=
  BitVec.ofNat 16 (4 * bit s.ct.coasting + 16 * bit s.ct.holding + 64 * bit (s.chan c).faulty + 256 * bit (groupGated s c)
    + 512 * bit (s.site (s.lt.channelSiteOf c)).asserted)

/-- A window is open: CT has reached its open CT and it has not closed; none opens before the first lock (R97). -/
def Window.isOpen (w : Window) (s : State) : Bool := s.ct.running && !w.closed && decide (w.openCt ≤ s.ct.now)

/-- Every open window takes the flags whose conditions hold now, and `more`. -/
def noteWindows (more : BitVec 16) (s : State) : State :=
  s.onSd fun m => { m with chans := m.chans.map fun e =>
    (e.1, { e.2 with wins := e.2.wins.map fun w => if w.isOpen s then { w with flags := w.flags ||| windowFlags s e.1 ||| more } else w }) }

/-! ### Lane frames (16 §16.3) -/

/-- A frame's bytes: header, payload and CRC (Table 16.2, R751). -/
def frameBytes (epoch seq type flags : Nat) (payload : List Byte) : List Byte :=
  let b := bytesBE 2 epoch ++ [0, 0] ++ bytesBE 4 seq ++ bytesBE 1 type ++ bytesBE 1 flags ++ bytesBE 2 payload.length ++ payload
  b ++ bytesBE 4 (crc32c b).toNat

/-- A lane sends a frame. -/
def sendFrame (n epoch seq type flags : Nat) (payload : List Byte) (s : State) : State :=
  s.emit (.laneFrame n (frameBlocks (frameBytes epoch seq type flags payload)))

/-- The CREDIT the module advertises (R783). -/
def Lane.room (l : Lane) : Nat := 32 - l.ins.length

/-- R757, R902: an ACK of the current inbound epoch; a receiver without one, or in another state than UP, sends none.
(DEDUCED, log 55.) -/
def sendAck (n : Nat) (nak : Bool) (s : State) : State :=
  let l := s.lane n
  if l.rxCurrent && decide (l.st = .up) then
    sendFrame n l.rxEpoch l.rxSeq.toNat 0x10 0 (bytesBE 1 l.room ++ bytesBE 1 (bit nak) ++ [0, 0] ++ bytesBE 4 0) s
  else s

/-! ### The commit of a COMPLETE record -/

/-- R707, R723: the command's integrator or TRIP_WAIT place is freed. -/
def freeMeasure (ring seq : Nat) (s : State) : State :=
  s.onSd fun m =>
    { m with
      chans := m.chans.map fun e => (e.1, { e.2 with wins := e.2.wins.filter fun w => !decide (w.ring = ring ∧ w.seq = seq) })
      sites := m.sites.map fun e => (e.1, { e.2 with waits := e.2.waits.filter fun w => !decide (w.ring = ring ∧ w.seq = seq) }) }

/-- R765, R784: the command's outbound entry is freed, unless R782 keeps it, and so is the inbound frame bound to it; the
CREDIT that grows is told to the partner (R757). -/
def freeLane (n ring seq : Nat) (s : State) : State :=
  let l := s.lane n
  let t := s.onLane n fun l =>
    { l with outs := l.outs.filter fun o => o.orphan || !decide (o.ring = ring ∧ o.cmd = seq)
             ins := l.ins.filter fun f => decide (f.bound ≠ some (ring, seq)) }
  if l.ins.any fun f => decide (f.bound = some (ring, seq)) then sendAck n false t else t

/-- R716: the completion of a MEAS_WINDOW that its channel has served posts SD_EVENT. -/
def postWindow (c : Nat) (status : Nat) (s : State) : State :=
  let h := s.chan c
  let unserved := decide (status = 0x10 ∨ status = 0x11 ∨ status = 0x50) || decide (0x340 ≤ status ∧ status ≤ 0x344)
  if c < 64 ∧ h.postEn = true ∧ unserved = false then post (65 + c) (s.lt.channelFn c) h.event h.evprio.toNat s else s

/-- What the COMPLETE record of a SITE-class command frees, and the post of R716. -/
def siteCompleted (ring seq : Nat) (d : Line) (readable : Bool) (status : Nat) (s : State) : State :=
  if dClass d ≠ 3 then s
  else
    let n := lineField d 8 1
    let s := freeMeasure ring seq s
    let s := if dOpcode d = 1 ∨ dOpcode d = 2 then freeLane n ring seq s else s
    if decide (dOpcode d = 0x40) && readable then postWindow n status s else s

end Sys2Proof.Machine
end

