-- ==== Sys2Proof/Machine/LogbookOps.lean ====
section
/-!
DEFINITION. The logbook (12): lines, records, commits, live records, wear and replay's reading of the banks.
-/

namespace Sys2Proof.Machine

/-! ### Banks and lines -/

/-- Lines of a bank (R543). -/
def bankLines : Nat := 67108864

/-- In service and not suspended (R890, LB_STATUS.BANK_x_OK). -/
def BankState.ok (b : BankState) : Bool := !b.failed && !b.suspended

/-- Some bank takes a commit now (R547, R890). -/
def canCommit (s : State) : Bool := s.lb.a.ok || s.lb.b.ok

/-- The line with an LSN as the logbook shows it: bank A's while A answers and holds it, otherwise bank B's (R568).
(DESIGN CHOICE, log 9.) -/
def heldLine (s : State) (lsn : Nat) : Option Line :=
  let get := fun (b : BankState) => if b.failed then none else (b.lines.find? (·.1 == lsn)).map (·.2)
  match get s.lb.a with
  | some l => some l
  | none => get s.lb.b

/-! ### Records (Tables 12.1, 12.2) -/

/-- What a record says, header fields first; `data` is TYPE_DATA, bytes 32-55 as a number. -/
structure Record where
  lsn : Nat := 0
  type : Nat
  flags : Nat := 0
  ring : Nat := 0xFFFF
  seq : Nat := 0
  ct : W64
  data : Nat := 0
  body : List Line := []
  deriving DecidableEq, Repr

/-- CRC-32C over a list of lines. -/
def linesCrc (ls : List Line) : W32 := crc32c (ls.flatMap lineBytes)

/-- R550: the header line of a record. -/
def Record.header (r : Record) : Line :=
  let head := bytesLE 8 r.lsn ++ bytesLE 1 r.type ++ bytesLE 1 (r.body.length + 1) ++ bytesLE 1 r.flags ++ [0]
    ++ bytesLE 2 r.ring ++ [0, 0] ++ bytesLE 8 r.seq ++ bytesLE 8 r.ct.toNat ++ bytesLE 24 r.data
    ++ bytesLE 4 (if r.body.isEmpty then 0 else (linesCrc r.body).toNat)
  lineOf (head ++ bytesLE 4 (crc32c head).toNat)

/-- A line passes the check of a header line at an LSN: its own LSN and HDR_CRC (R569). -/
def headerOk (lsn : Nat) (l : Line) : Bool :=
  decide (lineField l 0 8 = lsn) && decide ((crc32c (lineBytes l |>.take 60)).toNat = lineField l 60 4)

/-- The record whose header line is `l`, with the continuation lines given. -/
def readRecord (l : Line) (body : List Line) : Record :=
  { lsn := lineField l 0 8, type := lineField l 8 1, flags := lineField l 10 1, ring := lineField l 12 2,
    seq := lineField l 16 8, ct := BitVec.ofNat 64 (lineField l 24 8), data := lineField l 32 24, body := body }

/-- Walks the held lines in ascending LSN: each sound header begins a record of LINES lines; `next` is the first LSN past
the record before. A record is adopted when all its lines are held and BODY_CRC matches (R569). -/
def scanRecords (get : Nat → Option Line) : List Nat → Nat → List (Record × Bool)
  | [], _ => []
  | n :: rest, next =>
    if n < next then scanRecords get rest next
    else match get n with
      | none => scanRecords get rest next
      | some l =>
        if headerOk n l then
          let k := lineField l 9 1 - 1
          let body := (List.range k).filterMap fun i => get (n + 1 + i)
          let sound := decide (body.length = k) &&
            decide ((if k = 0 then 0 else (linesCrc body).toNat) = lineField l 56 4)
          (readRecord l body, sound) :: scanRecords get rest (n + 1 + k)
        else scanRecords get rest next

/-- LSNs that some answering bank holds, in ascending order. -/
def heldLsns (s : State) : List Nat :=
  let ls := fun (b : BankState) => if b.failed then [] else b.lines.map (·.1)
  (ls s.lb.b).foldl (fun t n => addSorted n t) (ls s.lb.a)

/-- Every record the logbook holds, with whether replay would adopt it, in LSN order. -/
def allRecords (s : State) : List (Record × Bool) := scanRecords (heldLine s) (heldLsns s) 0

/-- The records that count: adopted ones, in LSN order. (DEDUCED, log 28.) -/
def records (s : State) : List Record := (allRecords s).filterMap fun p => if p.2 then some p.1 else none

/-! ### Live records (R564) -/

/-- LSN of a ring's latest RING_IDENTITY record, 0 where it has none (R891). -/
def identLsn (rs : List Record) (ring : Nat) : Nat :=
  rs.foldl (fun n r => if r.type = 0x09 ∧ r.ring = ring then max n r.lsn else n) 0

/-- The command of an ACCEPT, SEED or START record has a COMPLETE record under the same identity (R571). -/
def hasComplete (rs : List Record) (r : Record) : Bool :=
  rs.any fun c => decide (c.type = 0x03 ∧ c.ring = r.ring ∧ c.seq = r.seq ∧ identLsn rs r.ring ≤ c.lsn)

/-- The latest record of those that agree with it on what `same` compares. -/
def isLatest (rs : List Record) (same : Record → Record → Bool) (r : Record) : Bool :=
  rs.all fun c => !(same c r) || decide (c.lsn ≤ r.lsn)

/-- R564: the record is live. Carried trouble below `restored` has been restored by a completed replay. -/
def isLive (rs : List Record) (restored : Nat) (r : Record) : Bool :=
  match r.type with
  | 0x01 | 0x02 | 0x04 => decide (identLsn rs r.ring ≤ r.lsn) && !hasComplete rs r
  | 0x03 => decide (identLsn rs r.ring ≤ r.lsn) && isLatest rs (fun a b => a.type == 0x03 && a.ring == b.ring) r
  | 0x05 => isLatest rs (fun a b => a.type == 0x05 && a.data % 256 == b.data % 256) r
  | 0x06 | 0x07 => isLatest rs (fun a b => (a.type == 0x06 || a.type == 0x07) && a.data % 256 == b.data % 256) r
  | 0x08 => decide (restored ≤ r.lsn)
  | 0x09 => isLatest rs (fun a b => a.type == 0x09 && a.ring == b.ring) r
  | _ => false

/-- Lines that live records occupy (LB_LIVE). -/
def liveLines (s : State) : Nat :=
  let rs := records s
  ((rs.filter (isLive rs s.lb.restored)).map fun r => r.body.length + 1).sum

/-- R566: live records occupy more than half of a bank's unretired lines. -/
def liveOver (s : State) : Bool :=
  let n := liveLines s
  (!s.lb.a.failed && decide (bankLines - s.lb.a.retired < 2 * n)) ||
    (!s.lb.b.failed && decide (bankLines - s.lb.b.retired < 2 * n))

/-- R566: LIVE_FULL follows the share of live lines; its trouble bit is set when it begins. -/
def noteLive (s : State) : State :=
  let f := liveOver s
  s.onLb fun g => { g with liveFull := f, trouble := setBitIf (f && !g.liveFull) g.trouble 7 }

/-! ### Commits (R545-R547) -/

/-- Writes lines from an LSN upward into a bank: now, or once it answers again when it is suspended (R890). The head goes
over the oldest lines of the circle, but not over lines that `keep` names (R565, R896). (DESIGN CHOICE, log 30.) -/
def BankState.append (b : BankState) (keep : Nat → Bool) (lsn : Nat) (ls : List Line) : BankState :=
  if b.failed then b
  else if b.suspended then { b with missed := b.missed ++ (List.range ls.length).map (lsn + ·) }
  else
    let all := ls.zipIdx.foldl (fun t e => tput e.1 t (lsn + e.2)) b.lines
    let low := lsn + ls.length - (bankLines - b.retired)
    { b with lines := all.filter fun e => decide (low ≤ e.1) || keep e.1, writes := b.writes + ls.length }

/-- LSNs that must not be overwritten: lines of live records, and those kept for Q_RECORDS (R565, R896).
(DESIGN CHOICE, log 30.) -/
def keptLsns (s : State) : List Nat :=
  let rs := records s
  (rs.filter (isLive rs s.lb.restored)).flatMap (fun r => (List.range (r.body.length + 1)).map (r.lsn + ·)) ++ s.lb.kept

/-- Nanoseconds of a day. -/
def dayNs : Nat := 86400000000000

/-- The wear history takes a note, and keeps the last 24 h of module time. (DESIGN CHOICE, log 40.) -/
def noteHistory (mt : W64) (x : WearNote) (h : List WearNote) : List WearNote :=
  x :: h.filter fun y => decide (mt.toNat < y.mt.toNat + dayNs)

/-- R547: commits a record under the next LSNs. The circle of a bank is far longer than any run of one test, so the lines
to keep are looked up only once the head has gone round. (DESIGN CHOICE, log 30.) -/
def commit (r : Record) (s : State) : State :=
  let r := { r with lsn := s.lb.head }
  let ls := r.header :: r.body
  let n := ls.length
  let keep : Nat → Bool := if s.lb.head + n ≤ bankLines / 2 then fun _ => true else (keptLsns s).contains
  s.onLb fun g =>
    { g with a := g.a.append keep r.lsn ls, b := g.b.append keep r.lsn ls, head := g.head + n,
             history := noteHistory s.ct.mt { mt := s.ct.mt, lines := n, writesA := if g.a.ok then n else 0, writesB := if g.b.ok then n else 0 } g.history
             formed := g.formed ++ [(r.lsn, n)] }

/-- CT now, as every record and completion is stamped (R17). -/
def stamp (s : State) : W64 := s.ct.now

/-- The origin code of ACCEPT and RING_IDENTITY records. -/
def Origin.code : Origin → Nat
  | .host => 0
  | .module => 1

/-- Bytes 32-34 of a record that names an identity. -/
def identData (i : RingIdent) : Nat := i.fn % 256 + 256 * (i.encl % 256) + 65536 * i.origin.code

/-- R554: commits an ACCEPT record (Table 12.2). (DEDUCED, log 28.) -/
def commitAccept (ring seq : Nat) (i : RingIdent) (descs : List Line) (unreadable : Bool) (snap : Option Line) (s : State) : State :=
  commit { type := 0x01, ring := ring, seq := seq, ct := stamp s,
           data := identData i + 2 ^ 24 * descs.length + 2 ^ 32 * (bit unreadable + 2 * bit snap.isSome),
           body := descs ++ snap.toList } s

/-- R553: line 1 of a SEED record: the seed under AES-256-GCM with the logbook key, and the tag. The NONCE is the LSN and four zero
bytes; the additional data is header bytes 12-23. (DESIGN CHOICE, log 8.) -/
def sealedSeed (ring seq draw lsn : Nat) : Line :=
  let key := bytesLE 32 Config.logbookKey.toNat
  let nonce := bytesLE 8 lsn ++ [0, 0, 0, 0]
  let c := gcmCrypt key nonce (bytesLE 48 (Config.seed draw).toNat)
  lineOf (c ++ gcmTag key nonce (bytesLE 2 ring ++ [0, 0] ++ bytesLE 8 seq) c)

/-- R553, R555: commits a SEED record. -/
def commitSeed (ring seq draw : Nat) (s : State) : State :=
  commit { type := 0x04, ring := ring, seq := seq, ct := stamp s, data := s.lb.head, body := [sealedSeed ring seq draw s.lb.head] } s

/-- R556, R894: commits a START record. -/
def commitStart (ring seq attempt engine number : Nat) (s : State) : State :=
  commit { type := 0x02, ring := ring, seq := seq, ct := stamp s,
           data := min attempt 255 + 256 * engine + 65536 * number } s

/-- R557: commits a COMPLETE record; its fields form the completion entry (R551). -/
def commitComplete (ring seq tag : Nat) (r : Result) (next : Nat) (s : State) : State :=
  commit { type := 0x03, ring := ring, seq := seq, ct := stamp s,
           data := tag % 2 ^ 32 + 2 ^ 32 * (r.status % 2 ^ 16) + 2 ^ 48 * (r.cflags % 2 ^ 16)
             + 2 ^ 64 * (r.len % 2 ^ 32) + 2 ^ 96 * (r.result32 % 2 ^ 32) + 2 ^ 128 * (next % 2 ^ 64) } s

/-- R558: commits an EPOCH record. -/
def commitEpoch (lane epoch firstSeq : Nat) (s : State) : State :=
  commit { type := 0x05, ct := stamp s, data := lane + 2 ^ 16 * (epoch % 2 ^ 16) + 2 ^ 32 * (firstSeq % 2 ^ 32) } s

/-- R490, R489: commits a MIGRATED_OUT or MIGRATED_IN record. -/
def commitMigrated (out : Bool) (fn : Nat) (id : BitVec 128) (s : State) : State :=
  commit { type := if out then 0x06 else 0x07, ct := stamp s, data := fn + 2 ^ 64 * id.toNat } s

/-- R891: commits a RING_IDENTITY record. -/
def commitIdentity (ring : Nat) (i : RingIdent) (s : State) : State :=
  commit { type := 0x09, ring := ring, ct := stamp s, data := identData i } s

/-- Trouble registers as pairs of core offset and value, eight pairs a line (Table 12.2). -/
def troubleLines : Nat → List (Nat × Nat) → List Line
  | 0, _ => []
  | _, [] => []
  | fuel + 1, ps => lineOf ((ps.take 8).flatMap fun p => bytesLE 4 p.1 ++ bytesLE 4 p.2) :: troubleLines fuel (ps.drop 8)

/-- R552, R53: commits the set trouble bits; END marks the commit's last record. -/
def commitTrouble (ps : List (Nat × Nat)) (s : State) : State :=
  commit { type := 0x08, flags := 1, ct := stamp s, data := ps.length, body := troubleLines 65 ps } s

/-! ### The rows -/

/-- One bank's verify retries and retirements (R546). -/
def BankState.wear (b : BankState) (w : BankWrite) : BankState := { b with retired := b.retired + w.retired }

/-- R579-R582: retries and retirements of one commit. The first retirement of each bank sets FIRST_RETIRE; at 335,545
retired lines WEAR_WARN is set, at 3,355,444 WEAR_LIMIT, and acceptance closes. -/
def noteWear (wa wb : BankWrite) (s : State) : State :=
  let g := s.lb
  let a := if g.a.ok then g.a.wear wa else g.a
  let b := if g.b.ok then g.b.wear wb else g.b
  let first := (decide (g.a.retired = 0) && decide (0 < a.retired)) || (decide (g.b.retired = 0) && decide (0 < b.retired))
  let warn := (decide (g.a.retired < 335545) && decide (335545 ≤ a.retired)) || (decide (g.b.retired < 335545) && decide (335545 ≤ b.retired))
  let limit := (decide (g.a.retired < 3355444) && decide (3355444 ≤ a.retired)) || (decide (g.b.retired < 3355444) && decide (3355444 ≤ b.retired))
  let s := s.onLb fun g =>
    { g with a := a, b := b
             history := if a.retired = g.a.retired ∧ b.retired = g.b.retired then g.history
               else noteHistory s.ct.mt { mt := s.ct.mt, retiredA := a.retired - g.a.retired, retiredB := b.retired - g.b.retired } g.history
             retries := satAdd g.retries (wa.retries + wb.retries),
             trouble := setBitIf limit (setBitIf warn (setBitIf first g.trouble 2) 3) 4, wearClosed := g.wearClosed || limit }
  if limit then s.onRings fun x => { x with closed := true } else s

/-! ### What the wear registers read (§12.8) -/

/-- A bank's mean writes per unretired line, rounded down. (DESIGN CHOICE, log 40.) -/
def BankState.mean (b : BankState) : Nat := b.writes / (bankLines - b.retired)

/-- LB_MEAN_WRITES: of the bank with the higher mean. -/
def meanWrites (g : Logbook) : Nat := max g.a.mean g.b.mean

/-- LB_RATE: lines committed in the last 1 s of module time. -/
def lineRate (s : State) : W32 :=
  BitVec.ofNat 32 ((s.lb.history.filter fun x => decide (s.ct.mt.toNat < x.mt.toNat + 1000000000)).map (·.lines)).sum

/-- Days until WEAR_LIMIT that the last 24 h project for a bank that wrote `w` lines and retired `r`; none without either.
(DESIGN CHOICE, log 40.) -/
def BankState.days (b : BankState) (w r : Nat) : Option Nat :=
  let byWrites := if w = 0 then none else some ((143000000 * (bankLines - b.retired) - b.writes) / w)
  let byRetired := if r = 0 then none else some ((3355444 - b.retired) / r)
  match byWrites, byRetired with
  | some x, some y => some (min x y)
  | some x, none => some x
  | none, y => y

/-- R583: LB_LIFE. (DESIGN CHOICE, log 40.) -/
def logbookLife (s : State) : W32 :=
  let h := s.lb.history.filter fun x => decide (s.ct.mt.toNat < x.mt.toNat + dayNs)
  if s.lb.wearClosed then 0
  else if (h.map (·.lines)).sum = 0 then 0xFFFFFFFF#32
  else
    let a := s.lb.a.days (h.map (·.writesA)).sum (h.map (·.retiredA)).sum
    let b := s.lb.b.days (h.map (·.writesB)).sum (h.map (·.retiredB)).sum
    match a, b with
    | some x, some y => BitVec.ofNat 32 (min 0xFFFFFFFE (min x y))
    | some x, none => BitVec.ofNat 32 (min 0xFFFFFFFE x)
    | none, some y => BitVec.ofNat 32 (min 0xFFFFFFFE y)
    | none, none => 0xFFFFFFFF#32

/-- Bank `b` of the logbook. -/
def Logbook.bank (g : Logbook) : Bank → BankState
  | .a => g.a
  | .b => g.b
/-- Changes a bank. -/
def State.onBank (s : State) (b : Bank) (f : BankState → BankState) : State :=
  s.onLb fun g => match b with
    | .a => { g with a := f g.a }
    | .b => { g with b := f g.b }

/-- R549: a bank is declared failed; with both failed acceptance closes (R48). -/
def failBank (b : Bank) (s : State) : State :=
  let s := (s.onBank b fun x => { x with failed := true, suspended := false }).onLb fun g =>
    { g with trouble := setBit g.trouble (match b with | .a => 0 | .b => 1) }
  if s.lb.a.failed && s.lb.b.failed then s.onRings fun x => { x with closed := true } else s

/-- Lines of a bank that have retired in the last 1 s of module time. -/
def retiredNow (s : State) (b : Bank) : Nat :=
  ((s.lb.history.filter fun x => decide (s.ct.mt.toNat < x.mt.toNat + 1000000000)).map fun x =>
    match b with | .a => x.retiredA | .b => x.retiredB).sum

/-- R549: a bank of which 64 lines have retired within 1 s is declared failed. -/
def failWorn (s : State) : State :=
  [Bank.a, Bank.b].foldl (fun t b => if !(t.lb.bank b).failed && decide (64 ≤ retiredNow t b) then failBank b t else t) s

/-- RECORD_COMMITTED's effect: the oldest record formed has been written and verified in every bank in service.
(DESIGN CHOICE, log 30.) -/
def recordCommitted (wa wb : BankWrite) (s : State) : State :=
  match s.lb.formed with
  | [] => s
  | _ :: rest => noteLive (failWorn (noteWear wa wb (s.onLb fun g => { g with formed := rest })))

/-- RECORD_COMMITTED (R547, R549, R579-R582). -/
def execRecordCommitted (a b : BankWrite) (s : State) : Host.Outcome State Fault Refusal := ok s (recordCommitted a b s)

/-- BANK_SUSPEND (R890): only a bank in service. -/
def execBankSuspend (b : Bank) (s : State) : Host.Outcome State Fault Refusal :=
  .next (if (s.lb.bank b).failed then s else s.onBank b fun x => { x with suspended := true })

/-- R890: a bank that answers again takes the lines it missed from the other bank before any new line. -/
def resumeBank (b : Bank) (s : State) : State :=
  let x := s.lb.bank b
  if x.failed || !x.suspended then s
  else
    let other := s.lb.bank (match b with | .a => .b | .b => .a)
    s.onBank b fun x =>
      { x with suspended := false, missed := [], writes := x.writes + x.missed.length
               lines := x.missed.foldl (fun t n =>
                 match other.lines.find? (·.1 == n) with
                 | some e => tput e.2 t n
                 | none => t) x.lines }

/-- BANK_RESUME (R890). -/
def execBankResume (b : Bank) (s : State) : Host.Outcome State Fault Refusal := .next (resumeBank b s)

/-- BANK_FAIL (R549, R48). -/
def execBankFail (b : Bank) (s : State) : Host.Outcome State Fault Refusal := ok s (failBank b s)

/-- R565: a copy of the record whose header has this LSN is committed with CARRIED set. -/
def carryCopy (lsn : Nat) (s : State) : State :=
  match (records s).find? (·.lsn == lsn) with
  | none => s
  | some r =>
    if canCommit s && isLive (records s) s.lb.restored r then
      commit { r with flags := (BitVec.ofNat 8 r.flags ||| 2#8).toNat } s
    else s

/-- CARRIED_COPY (R565). -/
def execCarriedCopy (lsn : Nat) (s : State) : Host.Outcome State Fault Refusal := ok s (carryCopy lsn s)

end Sys2Proof.Machine
end

