-- ==== Sys2Proof/Machine/Opcodes.lean ====
section
/-!
DEFINITION. The command classes and opcodes (Tables 11.1, 10.12, 13.4, 14.1, 15.4, 16.5, 17.8), the FLAGS bits each opcode
defines, which opcodes consume randomness, and the results that the ring engine gives without an engine.
-/

namespace Sys2Proof.Machine

/-- The FLAGS bits of a CRYPTO opcode, bit 14 of the header first (Tables 13.3, 14.3); none for an unlisted opcode. -/
def cryptoFlags (op : Nat) : Option Nat :=
  if op = 0x01 then some 0b100
  else if op = 0x04 ∨ op = 0x09 then some 0b1111
  else if 0x02 ≤ op ∧ op ≤ 0x0B then some 0b101
  else if op = 0x0C ∨ (0x10 ≤ op ∧ op ≤ 0x16) then some 0
  else if op = 0x83 then some 0b1110000
  else if op = 0x88 then some 0b10110000
  else if op = 0xA8 ∨ op = 0xAC then some 0b110001
  else if (0x80 ≤ op ∧ op ≤ 0x8B) ∨ (0x90 ≤ op ∧ op ≤ 0x92) ∨ (0xA0 ≤ op ∧ op ≤ 0xA3) ∨ (0xA8 ≤ op ∧ op ≤ 0xAC) then some 0b110000
  else none

/-- The FLAGS bits of an opcode in its class; none where the class or the opcode is not listed. -/
def opFlags (cls op : Nat) : Option Nat :=
  match cls with
  | 1 => if (0x20 ≤ op ∧ op ≤ 0x29) ∨ (0x30 ≤ op ∧ op ≤ 0x35) then some 0 else none
  | 2 => cryptoFlags op
  | 3 => if op = 0x01 then some 0b11 else if op = 0x02 ∨ (0x40 ≤ op ∧ op ≤ 0x44) then some 0 else none
  | 4 => if 1 ≤ op ∧ op ≤ 3 then some 0 else none
  | _ => none

/-- R517: reserved header bits and undefined FLAGS bits are zero, for a listed opcode. -/
def headerSound (d : Line) : Bool :=
  decide (dReserved d = 0) &&
    (match opFlags (dClass d) (dOpcode d) with
     | some m => decide ((BitVec.ofNat 10 (dFlags d) &&& ~~~(BitVec.ofNat 10 m)) = 0)
     | none => false)

/-- CONT of a descriptor (Table 13.3). -/
def dCont (d : Line) : Bool := d.getLsbD 16

/-- The commands that a chain does not admit (R603, R644). -/
def singleOnly (op : Nat) : Bool := decide (0x10 ≤ op)

/-- R519, R520, R535: the form of a chain of more than one descriptor. (DEDUCED, log 31.) -/
def chainForm (ds : List Line) : Bool :=
  ds.all (fun d => decide (dClass d = 2)) && ds.all (fun d => decide (dOpcode d ≠ 0))

/-- A descriptor's own form: its header, and for a chain R596, R603 and R644. `prev` is the descriptor before it.
(DEDUCED, log 31.) -/
def descForm (multi : Bool) (prev : Option Line) (d : Line) : Bool :=
  headerSound d && !(multi && singleOnly (dOpcode d)) &&
    (!dCont d || (match prev with
      | none => false
      | some p => decide (dOpcode p = dOpcode d) && dZero d 8 8 && dZero d 28 36))

/-- The first descriptor whose form is broken. (DEDUCED, log 31.) -/
def badDesc (multi : Bool) : Nat → Option Line → List Line → Option Nat
  | _, _, [] => none
  | i, prev, d :: t => if descForm multi prev d then badDesc multi (i + 1) (some d) t else some i

/-- A class that the ring admits (R498). -/
def admitted (r : Nat) (d : Line) : Bool := decide (dClass d ≠ 1) || decide (r < 4)

/-- R895, R573, R517-R522, R535: the results that the ring engine itself gives: an unreadable descriptor, an aborted
command, BAD_OPCODE for a class, header, opcode or chain form, and a chain closed as too long. (DEDUCED, log 31.) -/
def ringEngineResult (_ : RingIdent) (r : Nat) (c : Cmd) : Option Result :=
  let multi := decide (1 < c.descs.length)
  if c.aborted then some { status := 0x40 }
  else if c.unreadable then some { status := 0x70 }
  else if c.tooLong then some { status := 0x10 }
  else if multi then
    if chainForm c.descs && (opFlags (dClass c.first) (dOpcode c.first)).isSome then none else some { status := 0x11 }
  else if dOpcode c.first = 0 ∧ 1 ≤ dClass c.first ∧ dClass c.first ≤ 4 then
    (if admitted r c.first && decide (dReserved c.first = 0) && decide (dFlags c.first = 0) then none else some { status := 0x11 })
  else if admitted r c.first && (badDesc false 0 none c.descs).isNone then none
  else some { status := 0x11 }

/-- The command reads its input from memory: IN_LEN, or a LANE_SEND's LEN, is not zero, and IN_ADDR is not scratch. -/
def readsInput (d : Line) : Bool :=
  match dClass d with
  | 1 => decide ((0x24 ≤ dOpcode d ∧ dOpcode d ≤ 0x27) ∨ dOpcode d = 0x31 ∨ dOpcode d = 0x32) && decide (lineField d 24 4 ≠ 0)
  | 2 => decide (dOpcode d ≠ 0) && decide (lineField d 24 4 ≠ 0 ∧ lineField d 16 8 < 2 ^ 63)
  | 3 => decide (dOpcode d = 1) && decide (lineField d 40 4 ≠ 0)
  | _ => false

/-- The opcodes that consume randomness (R555, R606, R651, R673, R677), among them the migration commands that draw keys,
identifiers, nonces or signatures (§10.8.2). (DEDUCED, log 45.) -/
def consumesSeed (d : Line) : Bool :=
  (decide (dClass d = 1) && decide (0x23 ≤ dOpcode d ∧ dOpcode d ≤ 0x26)) || decide (dClass d = 2) &&
    (let op := dOpcode d
     decide (op = 0x0C ∨ op = 0x11 ∨ op = 0x16 ∨ op = 0x90 ∨ op = 0xA0 ∨ op = 0xA2)
       || (decide (op = 0x04 ∨ op = 0x09) && d.getLsbD 17) || (decide (op = 0x83) && d.getLsbD 20))

end Sys2Proof.Machine
end

