-- ==== Sys2Proof/Machine/RingOps.lean ====
section
/-!
DEFINITION. Rings, descriptors and completions (11): host-memory writes with dirty logging (10 §10.7), acceptance, the start
and the end of a command, its completion and notification, and the ring registers.
-/

namespace Sys2Proof.Machine

/-! ### Memory in the address space of a ring's origin -/

/-- The active bitmap's base address (Table 10.17). -/
def Dirty.base (d : Dirty) : Nat := if d.active then d.base1.toNat else d.base0.toNat

/-- Sets a page's bit in the active bitmap, by a read-modify-write of its byte (R477); a page at or above FN_DIRTY_LIMIT
sets OVERFLOW instead (R479). -/
def logPage (f page : Nat) (s : State) : State :=
  let d := (s.fn f).dirty
  if d.limit.toNat ≤ 4096 * page then s.onFn f fun g => { g with dirty := { g.dirty with overflow := true } }
  else
    let a := d.base + page / 8
    s.onHost fun h => { h with hostMem := bset h.hostMem a (setBit (bget h.hostMem a) (page % 8)) }

/-- The pages that `n` bytes from an address touch. -/
def pagesOf (a n : Nat) : List Nat := if n = 0 then [] else (List.range ((a + n - 1) / 4096 - a / 4096 + 1)).map (a / 4096 + ·)

/-- R445: the requests that a transfer of `n` bytes is cut into: none larger than `size`, and none across a 4 KiB boundary. -/
def hostPieces (size : Nat) : Nat → Nat → Nat → List (Nat × Nat)
  | 0, _, _ => []
  | fuel + 1, a, n =>
    if n = 0 then []
    else
      let m := min n (min size (4096 - a % 4096))
      (a, m) :: hostPieces size fuel (a + m) (n - m)

/-- Bytes of a size code: 128 for code 0, twice as many for each code above it. -/
def sizeOf (code : BitVec 3) : Nat := 128 * 2 ^ code.toNat

/-- R445: the requests of a function's transfer go out, within its Max_Payload_Size or Max_Read_Request_Size. -/
def hostRequests (f : Nat) (write : Bool) (a n : Nat) (s : State) : State :=
  (hostPieces (sizeOf (if write then (s.fn f).maxPayload else (s.fn f).maxRead)) n a n).foldl
    (fun t p => t.emit (.hostRequest f write p.1 p.2)) s

/-- A memory write of a function to host memory now: logged first while logging is enabled for it (R477, R478). -/
def hostWriteNow (f a : Nat) (bs : List Byte) (s : State) : State :=
  let s := if decide (f ≠ 0) && (s.fn f).dirty.enable then (pagesOf a bs.length).foldl (fun t p => logPage f p t) s else s
  (hostRequests f true a bs.length s).onHost fun h => { h with hostMem := writeBytes h.hostMem a bs }

/-- A memory write of a function to host memory; one that cannot reach the host waits, in order (R162). -/
def hostWrite (f a : Nat) (bs : List Byte) (s : State) : State :=
  if hostReachable s f && (s.fn f).heldWrites.isEmpty then hostWriteNow f a bs s
  else s.onFn f fun g => { g with heldWrites := g.heldWrites ++ [(a, bs)] }

/-- R162: what waited for a function's way to host memory goes on: its writes, and then its messages, each in order. -/
def hostRelease (f : Nat) (s : State) : State :=
  if hostReachable s f then
    msixRelease ((s.fn f).heldWrites.foldl (fun t w => hostWriteNow f w.1 w.2 t) (s.onFn f fun g => { g with heldWrites := [] })) f
  else s

/-- A write for a ring by a mesh requester: to host memory, or coherently to module DRAM, by its origin. -/
def ringWriteBy (requester : Nat) (i : RingIdent) (a : Nat) (bs : List Byte) (s : State) : State :=
  match i.origin with
  | .host => hostWrite i.fn a bs s
  | .module => agentWrite (agentFor i requester) (bs.length + 1) a bs s

/-- A write of the ring engine (R295). -/
def ringWrite (i : RingIdent) (a : Nat) (bs : List Byte) (s : State) : State := ringWriteBy 25 i a bs s

/-- A read for a ring by a mesh requester: the bytes, and whether they met poison (Table 7.5). -/
def ringReadBy (requester : Nat) (i : RingIdent) (a n : Nat) (s : State) : State × List Byte × Bool :=
  match i.origin with
  | .host => (hostRequests i.fn false a n s, readBytes s.host.hostMem a n, false)
  | .module =>
    let p := agentCheck (agentFor i requester) a n s
    let t := if p.2 then poisonConsumed p.1 else p.1
    (t, agentRead s (agentFor i requester) a n, p.2)

/-- A read of the ring engine (R295). -/
def ringRead (i : RingIdent) (a n : Nat) (s : State) : State × List Byte × Bool := ringReadBy 25 i a n s

/-! ### Ring state -/

/-- Ring service has begun (Table 4.3). -/
def inService (s : State) : Bool := decide (s.pwr.stage = .service)

/-- The VF of a ring lets it accept: the PF always, a VF only while ACTIVE (R511). -/
def fnActive (s : State) (f : Nat) : Bool := decide (f = 0) || decide ((s.fn f).vf = .active)

/-- HELD (RG_STATUS). -/
def ringHeld (s : State) (r : Nat) : Bool := !inService s || !fnActive s (s.lt.ident r).fn

/-- RG_CONS: the low 32 bits of RG_ACCEPT_SEQ. -/
def Ring.cons (g : Ring) : W32 := BitVec.ofNat 32 g.acceptSeq

/-- Slots of the ring (Table 11.3). -/
def Ring.slots (g : Ring) : Nat := 2 ^ g.size.toNat

/-- Announced and not accepted descriptors (R508). -/
def Ring.announced (g : Ring) : Nat := if g.enabled then (g.prod - g.cons).toNat else 0

/-- What the announced descriptors hold, read once from the ring's slots (R512, R521, R522, R895). -/
inductive Gathered
  | nothing
  | chainWait
  | command (descs : List Line) (unreadable poison tooLong : Bool)
  deriving DecidableEq, Repr

/-- Reads descriptors from sequence `seq` on: the command ends at CHAIN 0 or at an unreadable descriptor (R895), is closed
at the limit (R522), and waits when the announced ones end before it does. -/
def gather (s : State) (r : Nat) (i : RingIdent) (g : Ring) (limit : Nat) : Nat → Nat → List Line → Gathered
  | 0, _, acc => if acc.isEmpty then .nothing else if acc.length = limit then .command acc false false true else .chainWait
  | n + 1, seq, acc =>
    let a := g.base.toNat + 64 * (seq % g.slots)
    let (_, bs, poison) := ringRead i a 64 s
    let failed := decide (i.origin = .host) && decide (g.descError = some seq)
    if poison || failed then .command (acc ++ [0]) true poison false
    else
      let d := lineOf bs
      let acc := acc ++ [d]
      if !dChain d then .command acc false false false
      else if acc.length = limit then .command acc false false true
      else gather s r i g limit n (seq + 1) acc

/-- What ring `r` has to accept next. -/
def gatherRing (s : State) (r : Nat) : Gathered :=
  let g := s.ring r
  let limit := min 64 g.slots
  gather s r (s.lt.ident r) g limit (min g.announced limit) g.acceptSeq []

/-- One command's share of the allowance: it refills by ACCEPT_RATE_CAP of these units in a second of 2 ns clocks (R532). -/
def allowanceUnit : Nat := 500000000

/-- The allowance's size: max(1, cap / 10,000) commands (R532). -/
def allowanceFull (s : State) : Nat := max 1 (s.lt.acceptRateCap / 10000) * allowanceUnit

/-- The allowance refills continuously at the cap; one 2 ns clock's share (R532). (DESIGN CHOICE, log 2.) -/
def refill (s : State) : State :=
  s.onRings fun g => { g with allowance := min (allowanceFull s) (g.allowance + s.lt.acceptRateCap) }

/-- RATE_LIMITED: announced commands wait for the cap, or for the live records (R534, R566). -/
def rateLimited (s : State) (r : Nat) : Bool :=
  !ringHeld s r && decide (0 < (s.ring r).announced) && (decide (s.rings.allowance < allowanceUnit) || s.lb.liveFull)

/-- RG_STATUS (§11.2). -/
def rgStatus (s : State) (r : Nat) : W32 :=
  let g := s.ring r
  BitVec.ofNat 32 (bit g.enabled + 2 * bit g.badcfg + 4 * bit s.rings.closed + 8 * bit (ringHeld s r) + 16 * bit g.draining
    + 32 * bit (decide (gatherRing s r = .chainWait)) + 64 * bit (rateLimited s r))

/-- RG_IDENT (Table 11.3). -/
def rgIdent (s : State) (r : Nat) : W32 :=
  let i := s.lt.ident r
  BitVec.ofNat 32 (r % 1024 + 2 ^ 12 * i.origin.code + 2 ^ 16 * (i.encl % 256) + 2 ^ 24 * (i.fn % 256))

/-! ### Acceptance (§11.4) -/

/-- R511, R533: the ring has a command it could accept now. -/
def wantsAccept (s : State) (r : Nat) : Bool :=
  let g := s.ring r
  g.enabled && !g.former && !ringHeld s r && decide (0 < g.announced) &&
    (match gatherRing s r with | .command .. => true | _ => false) &&
    (decide ((s.lt.ident r).origin = .module) || hostReachable s (s.lt.ident r).fn)

/-- R533: the ring whose turn it is, in ascending number from the one after the last. -/
def turnRing (s : State) : Option Nat :=
  ((s.rings.tab.map (·.1)).filter (wantsAccept s)).foldl (fun b r =>
    match b with
    | none => some r
    | some x => if (r + 1024 - s.rings.turn) % 1024 < (x + 1024 - s.rings.turn) % 1024 then some r else some x) none

/-- Acceptance as a whole may go on: open, inside the allowance, not LIVE_FULL, and some bank answers. -/
def mayAccept (s : State) : Bool :=
  !s.rings.closed && decide (allowanceUnit ≤ s.rings.allowance) && !s.lb.liveFull && canCommit s

/-- The rings that the QUERY command of ring `r` sees: its own identity's, or all from rings 0-3 (R537). RING names the
`n`-th of a VF's rings, or a ring number for the PF. -/
def queryRing (s : State) (r n : Nat) : Option Nat :=
  let i := s.lt.ident r
  if r < 4 then (if n < 1024 then some n else none)
  else
    let t := if i.fn = 0 then (if n < 1024 then some n else none) else (s.lt.ringsOf i.fn)[n]?
    t.bind fun q => if (s.lt.ident q).fn = i.fn ∧ (s.lt.ident q).encl = i.encl then some q else none

/-- The completion entry (Table 11.5). -/
def entryBytes (tag : Nat) (r : Result) (seq : Nat) (ct : W64) : List Byte :=
  bytesLE 4 tag ++ bytesLE 2 r.status ++ bytesLE 2 r.cflags ++ bytesLE 4 r.len ++ bytesLE 4 r.result32
    ++ bytesLE 8 seq ++ bytesLE 8 ct.toNat

/-- Q_RING's output for ring `q` (Table 11.12). -/
def qRingBytes (s : State) (q : Nat) : List Byte :=
  let g := s.ring q
  fit 64 (bytesLE 2 q ++ [0, 0] ++ bytesLE 4 (rgIdent s q).toNat ++ bytesLE 8 g.acceptSeq ++ bytesLE 8 g.doneSeq
    ++ bytesLE 4 (rgStatus s q).toNat ++ bytesLE 4 0 ++ bytesLE 8 g.lastAcceptCt.toNat ++ bytesLE 8 g.lastDoneCt.toNat)

/-- The record of a ring's current identity that accepted the command holding `seq` (R539, R896). -/
def acceptOf (s : State) (q seq : Nat) : Option Record :=
  let rs := records s
  rs.find? fun r => decide (r.type = 0x01 ∧ r.ring = q ∧ identLsn rs q ≤ r.lsn ∧ r.seq ≤ seq ∧ seq < r.seq + r.data / 2 ^ 24 % 256)

/-- The COMPLETE record of a command of a ring's current identity. -/
def completeOf (s : State) (q seq : Nat) : Option Record :=
  let rs := records s
  rs.find? fun r => decide (r.type = 0x03 ∧ r.ring = q ∧ identLsn rs q ≤ r.lsn ∧ r.seq = seq)

/-- The result that a COMPLETE record holds (R551). -/
def Record.result (r : Record) : Result :=
  { status := r.data / 2 ^ 32 % 2 ^ 16, cflags := r.data / 2 ^ 48 % 2 ^ 16, len := r.data / 2 ^ 64 % 2 ^ 32, result32 := r.data / 2 ^ 96 % 2 ^ 32 }

/-- Q_COMMAND's STATE (R539): a command of a moored function shows HELD while it has not finished. -/
def qState (s : State) (q : Nat) (c : Cmd) : Nat :=
  let f := (s.lt.ident q).fn
  let held := decide (f ≠ 0) && (decide ((s.fn f).vf = .moored) || decide ((s.fn f).vf = .exporting) || decide ((s.fn f).vf = .imported))
  if held then 6
  else if c.st = .accepted then (if decide (f ≠ 0) && decide ((s.fn f).vf = .mooring) then 6 else 1) else 2

/-- Q_COMMAND's output for sequence `seq` of ring `q` (Table 11.12, R539). -/
def qCommandBytes (s : State) (q seq : Nat) : List Byte :=
  let g := s.ring q
  let make := fun (st n first : Nat) (ct : W64) (tail : List Byte) =>
    fit 64 (bytesLE 2 q ++ bytesLE 1 st ++ bytesLE 1 n ++ bytesLE 4 0 ++ bytesLE 8 first ++ bytesLE 8 ct.toNat ++ bytesLE 8 0 ++ tail)
  if g.acceptSeq ≤ seq then make 0 0 0 0 []
  else
    match g.cmds.find? (fun c => decide (c.seq ≤ seq ∧ seq < c.next)) with
    | some c => make (qState s q c) c.descs.length c.seq c.ct []
    | none =>
      match acceptOf s q seq with
      | none => make 4 0 0 0 []
      | some a =>
        match completeOf s q a.seq with
        | some k => make 3 (a.data / 2 ^ 24 % 256) a.seq a.ct (entryBytes (k.data % 2 ^ 32) k.result k.seq k.ct)
        | none => make 5 (a.data / 2 ^ 24 % 256) a.seq a.ct []

/-- The reserved bytes of Table 11.11 and the FLAGS bits are zero. (DEDUCED, log 32.) -/
def queryWellFormed (d : Line) : Bool := dZero d 10 6 && dZero d 24 8 && dZero d 44 20 && decide (dFlags d = 0)

/-- R897: the snapshot that acceptance forms for Q_RING and Q_COMMAND; a command with no output to form has none.
(DEDUCED, log 32.) -/
def snapshotFor (s : State) (r : Nat) (d : Line) : Option Line :=
  if queryWellFormed d ∧ headerSound d ∧ dClass d = 4 ∧ (dOpcode d = 1 ∨ dOpcode d = 2) then
    match queryRing s r (lineField d 8 2) with
    | none => none
    | some q => some (lineOf (if dOpcode d = 1 then qRingBytes s q else qCommandBytes s q (lineField d 16 8)))
  else none

/-- The LSNs of the lines that a Q_RECORDS command will report (R896, R578). -/
def qRecordsChosen (s : State) (q seq lines : Nat) : List Record :=
  let rs := records s
  let base := identLsn rs q
  let first := ((acceptOf s q seq).map (·.seq)).getD seq
  let mine := rs.filter fun r => decide (r.ring = q ∧ base ≤ r.lsn ∧ 1 ≤ r.type ∧ r.type ≤ 4 ∧ first ≤ r.seq)
  let once := mine.filter fun r => mine.all fun o =>
    !(decide (o.type = r.type ∧ o.seq = r.seq ∧ o.ct = r.ct ∧ o.data = r.data) && decide (o.lsn < r.lsn))
  (once.foldl (fun (p : List Record × Nat × Bool) r =>
    let n := r.body.length + 1
    if p.2.2 || decide (lines < p.2.1 + n) then (p.1, p.2.1, true) else (p.1 ++ [r], p.2.1 + n, false)) ([], 0, false)).1

/-- R896: the lines a Q_RECORDS command will report are kept from its acceptance on. -/
def keepFor (r : Nat) (d : Line) (s : State) : State :=
  if dClass d = 4 ∧ dOpcode d = 3 then
    match queryRing s r (lineField d 8 2) with
    | none => s
    | some q =>
      let ls := (qRecordsChosen s q (lineField d 16 8) (lineField d 40 4 / 64)).flatMap fun x =>
        (List.range (x.body.length + 1)).map (x.lsn + ·)
      s.onLb fun g => { g with kept := g.kept ++ ls }
  else s

/-- The SEED record of a command that consumes randomness (R555). (DEDUCED, log 45.) -/
def acceptSeed (r seq : Nat) (wants : Bool) (s : State) : State := if wants then commitSeed r seq s.free s.draw.2 else s

/-- The accepted command enters its ring, and its acceptance is counted (R525, R532, R895, R522). -/
def enterCommand (r : Nat) (k : Cmd) (poison : Bool) (s : State) : State :=
  let t := s.onRing r fun g =>
    { g with
      acceptSeq := g.acceptSeq + k.descs.length, lastAcceptCt := s.ct.now, descError := none
      trouble := setBitIf k.tooLong (setBitIf (k.unreadable && !poison) (setBitIf poison g.trouble 1) 2) 3
      cmds := g.cmds ++ [k] }
  t.onRings fun x => { x with allowance := x.allowance - allowanceUnit, turn := (r + 1) % 1024 }

/-- R512, R554, R555, R895, R897: accepts the descriptors gathered as one command of ring `r`. (DEDUCED, log 28.) -/
def acceptCommand (r : Nat) (descs : List Line) (unreadable poison tooLong : Bool) (s : State) : State :=
  let seq := (s.ring r).acceptSeq
  let wants := !unreadable && !tooLong && descs.any consumesSeed
  let snap := if unreadable || decide (descs.length ≠ 1) then none else snapshotFor s r (descs.headD 0)
  let t := commitAccept r seq (s.lt.ident r) descs unreadable snap (if unreadable then s else keepFor r (descs.headD 0) s)
  let k : Cmd := { seq := seq, descs := descs, ct := s.ct.now, unreadable := unreadable, tooLong := tooLong, snapshot := snap, lsn := s.lb.head
                   seed := if wants then some (Config.seed t.free) else none, seedZero := wants && !s.cx.drbgOk }
  let u := acceptSeed r seq wants t
  enterCommand r k poison (if poison then poisonConsumed u else u)

/-- The reads of `n` descriptors from sequence `seq` on: each leaves what a device read leaves (R32, R34, R300, R445). -/
def fetchDescs (i : RingIdent) (g : Ring) : Nat → Nat → State → State
  | 0, _, s => s
  | n + 1, seq, s => fetchDescs i g n (seq + 1) (ringRead i (g.base.toNat + 64 * (seq % g.slots)) 64 s).1

/-- COMMAND_ACCEPT's effect: the ring whose turn it is accepts its next command, while acceptance goes on. -/
def commandAccept (r : Nat) (s : State) : State :=
  if mayAccept s && decide (turnRing s = some r) then
    match gatherRing s r with
    | .command descs unreadable poison tooLong =>
      acceptCommand r descs unreadable poison tooLong (fetchDescs (s.lt.ident r) (s.ring r) descs.length (s.ring r).acceptSeq s)
    | _ => s
  else s

/-- COMMAND_ACCEPT (R511, R512, R533, R554). -/
def execCommandAccept (r : RingId) (s : State) : Host.Outcome State Fault Refusal := ok s (commandAccept r.val s)

/-! ### Start and end of a command (§11.6) -/

/-- SITE- and MGMT-class commands, whose first start is recorded too (R556). -/
def recordsFirstStart (d : Line) : Bool := decide (dClass d = 1) || decide (dClass d = 3)

/-- R894: the ATTEMPT of the next execution. -/
def nextAttempt (c : Cmd) : Nat :=
  if c.attempt ≠ 0 then c.attempt + 1 else if recordsFirstStart c.first then 1 else 2

/-- The function's state lets a command of its ring start (Table 10.8): MOORING only drains MODULE rings under DRAIN_MODULE.
(DEDUCED, log 24.) -/
def fnLetsStart (s : State) (i : RingIdent) : Bool :=
  decide (i.fn = 0) || decide ((s.fn i.fn).vf = .active) ||
    (decide ((s.fn i.fn).vf = .mooring) && (s.fn i.fn).drain && decide (i.origin = .module))

/-- R523: every earlier command of the ring has started, and a BARRIER waits for all of them to complete. -/
def inOrder (g : Ring) (c : Cmd) : Bool :=
  let earlier := g.cmds.filter fun x => decide (x.seq < c.seq)
  earlier.all (fun x => decide (x.st ≠ .accepted)) && (!dBarrier c.first || earlier.isEmpty)

/-- R162: what a command reads can be reached: it reads nothing, or module memory, or the function reaches the host. -/
def inputReachable (s : State) (i : RingIdent) (c : Cmd) : Bool :=
  decide (i.origin = .module) || !(c.descs.any readsInput) || hostReachable s i.fn

/-- An accepted command of ring `r` may start now; one that a former identity of the ring accepted is moored (R172), and one whose
input lies in host memory waits until it can be read (R162). (DEDUCED, log 24; DEDUCED, log 86.) -/
def mayStart (s : State) (r : Nat) (c : Cmd) : Bool :=
  inService s && !s.rings.unreplayed && decide (c.st = .accepted) && inOrder (s.ring r) c && fnLetsStart s (s.lt.ident r) &&
    !(s.ring r).former && (c.prior.isSome || inputReachable s (s.lt.ident r) c) &&
    (canCommit s || !(recordsFirstStart c.first || c.reexec))

/-- The command starts on an engine; its START record comes first where R556 asks for one. (DEDUCED, log 29.) -/
def startCmd (r : Nat) (c : Cmd) (engine number : Nat) (s : State) : State :=
  let recorded := recordsFirstStart c.first || c.reexec
  let s := if recorded then commitStart r c.seq (nextAttempt c) engine number s else s
  s.onRing r fun g => g.change c.seq fun c =>
    { c with st := .started, engine := (engine, number), reexec := false
             attempt := if recorded then min (nextAttempt c) 255 else c.attempt }

/-- A command ends with a result. -/
def finishCmd (r seq : Nat) (res : Result) (s : State) : State :=
  s.onRing r fun g => g.change seq fun c => { c with st := .finished res }

/-- Starts the command a row names, if it is an accepted one of that opcode that may start. A command executed before a
reset gives its earlier result again (R562, R563). `f` is what the started command does. -/
def runCommand (c : CmdRef) (isOp : Line → Bool) (engine number : Nat) (f : Cmd → State → State) (s : State) : State :=
  match (s.ring c.ring).find c.seq with
  | none => s
  | some k =>
    if isOp k.first && (ringEngineResult (s.lt.ident c.ring) c.ring k).isNone && mayStart s c.ring k then
      let s := startCmd c.ring k engine number s
      match k.prior with
      | some r => finishCmd c.ring k.seq r s
      | none => f k s
    else s

/-- A command whose whole execution is one step, with the result it gives. -/
def runAtOnce (c : CmdRef) (isOp : Line → Bool) (engine number : Nat) (f : Cmd → RingIdent → State → State × Result) (s : State) : State :=
  runCommand c isOp engine number (fun k t =>
    let p := f k (t.lt.ident c.ring) t
    finishCmd c.ring k.seq p.2 p.1) s

/-- The opcode and class of a descriptor. -/
def isOpcode (cls op : Nat) (d : Line) : Bool := decide (dClass d = cls) && decide (dOpcode d = op)

/-- A plain status without output. -/
def statusOf (n : Nat) : Result := { status := n }

/-- Delivers output to OUT_ADDR: BAD_LENGTH with the size required where OUT_LEN is too small (Table 11.9). -/
def output (i : RingIdent) (addr outLen : Nat) (bs : List Byte) (s : State) : State × Result :=
  if outLen < bs.length then (s, { status := 0x10, len := bs.length })
  else (ringWrite i addr bs s, { status := 0, len := bs.length })

/-! ### Completion (R525-R528) -/

/-- The result the head command of a ring completes with, when it is ready: finished, or one that the ring engine
completes itself and that may start now. (DEDUCED, log 15.) -/
def headResult (s : State) (r : Nat) : Option (Cmd × Result) :=
  match (s.ring r).cmds with
  | [] => none
  | c :: _ =>
    match c.st with
    | .finished x => some (c, x)
    | .started => none
    | .accepted =>
      match ringEngineResult (s.lt.ident r) r c with
      | some x => if mayStart s r c then some (c, x) else none
      | none => none

/-- R526, Table 11.2: the notification a completion calls for. (DEDUCED, log 27.) -/
def notify (r : Nat) (s : State) : State :=
  let g := s.ring r
  let f := (s.lt.ident r).fn
  if g.notify = 1 then msix s f g.vector.toNat
  else if g.notify = 2 then post 0 f g.event g.evprio.toNat s
  else s

/-- R162, R468, R573: the completion of a ring's head command can be written now. (DESIGN CHOICE, log 4; DEDUCED, log 24.) -/
def canComplete (s : State) (r : Nat) : Bool :=
  let g := s.ring r
  let i := s.lt.ident r
  inService s && canCommit s && !s.rings.unreplayed && (g.enabled || g.draining) && !g.former &&
    (decide (i.origin = .module) || hostReachable s i.fn) &&
    (decide (i.fn = 0) || decide ((s.fn i.fn).vf = .active) || decide ((s.fn i.fn).vf = .mooring) || decide ((s.fn i.fn).vf = .moored))

/-- R525: writes the entry, commits COMPLETE, advances RG_DONE and RG_DONE_SEQ, and notifies unless QUIET.
(DEDUCED, log 15; DEDUCED, log 27.) -/
def completeHead (r : Nat) (c : Cmd) (x : Result) (s : State) : State :=
  let i := s.lt.ident r
  let s := if c.st = .accepted then startCmdIfRecorded r c s else s
  let g := s.ring r
  let tag := dTag c.first
  let s := ringWrite i (g.cplBase.toNat + 32 * (g.done.toNat % g.slots)) (entryBytes tag x c.seq s.ct.now) s
  let s := commitComplete r c.seq tag x c.next s
  let s := s.onRing r fun g =>
    { g with
      cmds := g.cmds.filter fun k => decide (k.seq ≠ c.seq)
      done := g.done + 1, doneSeq := c.next, lastDoneCt := s.ct.now
      draining := g.draining && decide (c.next ≠ g.acceptSeq)
      trouble := setBitIf (decide (x.status = 0x70)) g.trouble 1 }
  let s := siteCompleted r c.seq c.first (!c.unreadable) x.status s
  let s := if isOpcode 4 3 c.first then s.onLb fun b => { b with kept := [] } else s
  if dQuiet c.first then s else notify r s
where
  /-- A command that the ring engine completes itself: engine 8 (R894). R573 aborts without an execution. -/
  startCmdIfRecorded (r : Nat) (c : Cmd) (s : State) : State :=
    if !c.aborted && (recordsFirstStart c.first || c.reexec) then commitStart r c.seq (nextAttempt c) 8 0 s else s

/-- COMMAND_COMPLETE's effect. -/
def commandComplete (r : Nat) (s : State) : State :=
  match headResult s r with
  | some (c, x) => if canComplete s r then completeHead r c x s else s
  | none => s

/-- COMMAND_COMPLETE (R525). -/
def execCommandComplete (r : RingId) (s : State) : Host.Outcome State Fault Refusal := ok s (commandComplete r.val s)

/-! ### NOP and QUERY (§11.10) -/

/-- NOP (R535): bytes 8-63 must be zero. -/
def nopResult (d : Line) : Result := statusOf (if dZero d 8 56 then 0 else 0x11)

/-- NOP (R535, R894: the ring engine completes it). -/
def execNop (c : CmdRef) (s : State) : Host.Outcome State Fault Refusal :=
  ok s (runAtOnce c (fun d => dOpcode d == 0) 8 0 (fun k _ t => (t, nopResult k.first)) s)

/-- R33: RING names an existing ring that the command's identity does not own. -/
def foreignRing (s : State) (r n : Nat) : Bool :=
  let i := s.lt.ident r
  (queryRing s r n).isNone && (if i.fn = 0 then decide (n < 1024) else ((s.lt.ringsOf i.fn)[n]?).isSome)

/-- NO_RING (Table 11.12); a ring of another identity is a violation too (R33, R34). -/
def noRing (r : Nat) (d : Line) (i : RingIdent) (s : State) : State × Result :=
  (if foreignRing s r (lineField d 8 2) then violateCommand s i .functionOwner 25 else s, statusOf 0x400)

/-- Q_RING and Q_COMMAND write their snapshot (R897); the command that formed none names no ring of its view. -/
def queryRun (r : Nat) (k : Cmd) (i : RingIdent) (s : State) : State × Result :=
  let d := k.first
  if !queryWellFormed d then (s, statusOf 0x11)
  else if lineField d 40 4 < 64 then (s, { status := 0x10, len := 64 })
  else match k.snapshot with
    | none => noRing r d i s
    | some l => output i (lineField d 32 8) (lineField d 40 4) (lineBytes l) s

/-- Q_RING (R897). -/
def execQRing (c : CmdRef) (s : State) : Host.Outcome State Fault Refusal :=
  ok s (runAtOnce c (isOpcode 4 1) 6 0 (queryRun c.ring) s)
/-- Q_COMMAND (R539, R897). -/
def execQCommand (c : CmdRef) (s : State) : Host.Outcome State Fault Refusal :=
  ok s (runAtOnce c (isOpcode 4 2) 6 0 (queryRun c.ring) s)

/-- Q_RECORDS (R536, R578, R896): whole records with header LSN below the command's own ACCEPT record. -/
def qRecordsRun (r : Nat) (k : Cmd) (i : RingIdent) (s : State) : State × Result :=
  let d := k.first
  if !queryWellFormed d then (s, statusOf 0x11)
  else match queryRing s r (lineField d 8 2) with
    | none => noRing r d i s
    | some q =>
      let recs := (qRecordsChosen s q (lineField d 16 8) (lineField d 40 4 / 64)).filter fun x => decide (x.lsn < k.lsn)
      let bs := recs.flatMap fun x => lineBytes x.header ++ x.body.flatMap lineBytes
      output i (lineField d 32 8) (lineField d 40 4) bs s

/-- Q_RECORDS (R896). -/
def execQRecords (c : CmdRef) (s : State) : Host.Outcome State Fault Refusal :=
  ok s (runAtOnce c (isOpcode 4 3) 6 0 (qRecordsRun c.ring) s)

/-! ### Ring registers (§11.2, §11.3) -/

/-- R463, R464: a VF's state decides what a write to its ring registers does: 2 all of it, 1 only RG_PROD is kept, 0 nothing. -/
def ringWriteLevel (s : State) (r : Nat) : Nat :=
  let f := (s.lt.ident r).fn
  if f = 0 then 2
  else match (s.fn f).vf with
    | .active => 2
    | .mooring | .moored | .exporting => 1
    | .disabled | .imported => 0

/-- A write to a ring register by a requester (R500): without full access it is one violation. -/
def onRingReg (w : Requester) (r reg level : Nat) (f : State → State) (s : State) : State :=
  if !visible s w then s
  else match ringReach s w r with
  | .full => if level ≤ ringWriteLevel s r then f s else s
  | _ => violateBy s w true (match w with | .fn _ => .functionOwner | .hart _ => .enclaveRange) (ringOffset r reg)

/-- R501: the NOTIFY value that is stored. -/
def storedNotify (o : Origin) (v : Nat) : BitVec 2 :=
  if v = 1 ∧ o = .host then 1 else if v = 2 ∧ o = .module then 2 else 0

/-- R504, R505: an enable. -/
def Ring.enable (g : Ring) : Ring :=
  if g.enabled || g.draining then g
  else if 4 ≤ g.size.toNat ∧ g.size.toNat ≤ 16 then { g with prod := g.cons, done := 0, badcfg := false, enabled := true }
  else { g with badcfg := true }

/-- R507: a disable. -/
def Ring.disable (g : Ring) : Ring :=
  if g.enabled then { g with enabled := false, draining := decide (g.doneSeq ≠ g.acceptSeq) } else g

/-- A write of RG_CTRL: NOTIFY, VECTOR and EVPRIO are stored, and ENABLE acts (R501, R504, R507). -/
def writeCtrl (r : Nat) (v : W32) (s : State) : State :=
  s.onRing r fun g =>
    let g := { g with notify := storedNotify (s.lt.ident r).origin (bits v 4 2), vector := v.extractLsb' 8 6, evprio := v.extractLsb' 16 4 }
    if v.getLsbD 0 then g.enable else g.disable

/-- R506: RG_BASE, RG_CPL_BASE and RG_SIZE take effect only while the ring is neither ENABLED nor DRAINING. -/
def writeConfig (r reg : Nat) (part : Part) (v : W64) (s : State) : State :=
  s.onRing r fun g =>
    if g.enabled || g.draining then g
    else match reg with
      | 0 => { g with base := putPart part g.base v &&& ~~~0xFFF#64 }
      | 1 => { g with cplBase := putPart part g.cplBase v &&& ~~~0xFFF#64 }
      | _ => { g with size := v.extractLsb' 0 5 }

/-- R508-R510, R893: a doorbell write. -/
def Ring.doorbell (g : Ring) (v : W32) : Ring :=
  if !g.enabled then { g with prod := v }
  else if (v - g.cons).toNat ≤ g.slots ∧ (v - BitVec.ofNat 32 g.doneSeq).toNat ≤ g.slots then { g with prod := v }
  else { g with trouble := setBit g.trouble 0 }

end Sys2Proof.Machine
end

