-- ==== Sys2Proof/Machine/Measure.lean ====
section
/-!
DEFINITION. The measurement chain (15): input faults, the decimation chain, windows, the fast trip path, and the TRIP outputs
with their commands.
-/

namespace Sys2Proof.Machine

/-! ### Channel settings (Table 3.9) -/

/-- M. -/
def LightTable.chanM (lt : LightTable) (c : Nat) : Nat := 8 * 2 ^ bits (lt.chanWord c) 0 3
/-- H. -/
def LightTable.chanH (lt : LightTable) (c : Nat) : Nat := bits (lt.chanWord c) 4 2
/-- f. -/
def LightTable.chanF (lt : LightTable) (c : Nat) : Nat := 1 + bits (lt.chanWord c) 6 1
/-- The 64 taps of the channel's coefficient set, in units of 2^-30; tap 63 - i equals tap i. -/
def LightTable.chanTaps (lt : LightTable) (c : Nat) : List Int :=
  let half := ((lt.coef.drop (32 * bits (lt.chanWord c) 8 3)).take 32).map BitVec.toInt
  half ++ half.reverse

/-! ### TRIP outputs (§15.7) -/

/-- The 16 bytes of a TRIP_WAIT (R723). -/
def tripRecord (t : TripSite) : List Byte := fit 16 (bytesLE 8 t.ct.toNat ++ bytesLE 1 t.cause ++ bytesLE 1 t.channel)

/-- The lines of `n` bytes that a ring's output would cover in part are poisoned: the output cannot be written (Table 7.5,
§15.10). -/
def partPoisoned (s : State) (i : RingIdent) (a n : Nat) : Bool :=
  decide (i.origin = .module) && (linesOf a n).any fun l => poisoned s l && !decide (a ≤ 64 * l ∧ 64 * l + 64 ≤ a + n)

/-- A SITE-class command ends with its output written. -/
def siteFinish (ring seq : Nat) (bs : List Byte) (res : Result) (s : State) : State :=
  let i := s.lt.ident ring
  match (s.ring ring).find seq with
  | none => s
  | some k =>
    let a := lineField k.first 32 8
    if partPoisoned s i a bs.length then finishCmd ring seq (statusOf 0x70) (poisonConsumed s)
    else finishCmd ring seq res (ringWrite i a bs s)

/-- A TRIP_WAIT that the assertion record `t` satisfies: its result is stored and written. -/
def waitDone (n ring seq : Nat) (s : State) : State :=
  let t := s.site n
  let bs := tripRecord t
  let s := s.onSite n fun x => { x with waits := x.waits.map fun w => if w.ring = ring ∧ w.seq = seq then { w with bytes := bs } else w }
  siteFinish ring seq bs { status := 0, len := 16, result32 := t.cause + 256 * t.channel } s

/-- R721, R724: a source asserts site `n`'s TRIP output; an asserted one stays as it is. The waiting TRIP_WAITs complete. -/
def assertTrip (n cause channel : Nat) (s : State) : State :=
  if (s.site n).asserted then s
  else
    let s := noteWindows 0 s
    let s := s.onSite n fun t => { t with asserted := true, cause := cause, channel := channel, ct := s.ct.now }
    let s := noteWindows 0 (s.onChan n fun h => { h with trouble := setBit h.trouble 4 })
    ((s.site n).waits.filter fun w => w.bytes.isEmpty).foldl (fun t w => waitDone n w.ring w.seq t) s

/-- A trip by a channel (R719, R720). -/
def channelTrips (c cause : Nat) (s : State) : State := assertTrip (s.lt.channelSiteOf c) cause c s

/-! ### Input faults (Table 15.1) -/

/-- The channel has a chain, a fast path and fault detection. -/
def channelOn (s : State) (c : Nat) : Bool := s.lt.applied && s.lt.chanOn c

/-- An input fault is declared: its trouble bit is set, and with FAULT_TRIP the site trips at once (R720). -/
def declareFault (c bitNo : Nat) (f : Channel → Channel) (s : State) : State :=
  let s := noteWindows 0 s
  let s := noteWindows 0 (s.onChan c fun h => { f h with trouble := setBit h.trouble bitNo })
  if (s.chan c).faultTrip then channelTrips c 2 s else s

/-- NOCLK_DECLARED (R695). (DEDUCED, log 49.) -/
def execNoclkDeclared (c : SiteId) (s : State) : Host.Outcome State Fault Refusal :=
  ok s (if channelOn s c.val && !(s.chan c.val).noclk then declareFault c.val 0 (fun h => { h with noclk := true }) s else s)

/-- NOCLK_CLEARED (R695). -/
def execNoclkCleared (c : SiteId) (s : State) : Host.Outcome State Fault Refusal :=
  ok s (if (s.chan c.val).noclk then (noteWindows 0 s).onChan c.val fun h => { h with noclk := false } else s)

/-- CLK_RANGE_MEASUREMENT (R695): judged only while clock edges arrive; the range is 4.5-27.5 MHz. (DEDUCED, log 49.) -/
def execClkRangeMeasurement (c : SiteId) (tenKHz : BitVec 16) (s : State) : Host.Outcome State Fault Refusal :=
  let h := s.chan c.val
  let bad := decide (tenKHz.toNat < 450 ∨ 2750 < tenKHz.toNat)
  ok s (if !channelOn s c.val || h.noclk then s
    else
      let s := (noteWindows 0 s).onChan c.val fun h => { h with fmod := tenKHz }
      if bad && !h.clkRange then declareFault c.val 1 (fun h => { h with clkRange := true }) s
      else s.onChan c.val fun h => { h with clkRange := bad })

/-- STUCK_DECLARED (R695). -/
def execStuckDeclared (c : SiteId) (s : State) : Host.Outcome State Fault Refusal :=
  ok s (if channelOn s c.val && !(s.chan c.val).noclk && !(s.chan c.val).stuck then
      declareFault c.val 2 (fun h => { h with stuck := true }) s else s)

/-- STUCK_CLEARED (R695). -/
def execStuckCleared (c : SiteId) (s : State) : Host.Outcome State Fault Refusal :=
  ok s (if (s.chan c.val).stuck then (noteWindows 0 s).onChan c.val fun h => { h with stuck := false } else s)

/-! ### The decimation chain (§15.3) -/

/-- +1 for a bit of 1 and -1 for a bit of 0 (R692). -/
def bitValue (b : Bool) : Int := if b then 1 else -1

/-- The running sums of a list. -/
def sums : Int → List Int → List Int
  | _, [] => []
  | a, x :: t => (a + x) :: sums (a + x) t

/-- A list convolved with `m` ones. -/
def boxConv (m : Nat) (l : List Int) : List Int :=
  let p := sums 0 (l ++ List.replicate (m - 1) 0)
  p.zipWith (· - ·) (List.replicate m 0 ++ p)

/-- The impulse response of a CIC of order `n`, differential delay 1 and decimation `m`. -/
def cicTaps (m : Nat) : Nat → List Int
  | 0 => [1]
  | n + 1 => boxConv m (cicTaps m n)

/-- The half-band taps in units of 2^-15 (Table 15.2). -/
def halfBand1 : List Int :=
  [-49, 0, 210, 0, -593, 0, 1380, 0, -2969, 0, 10213, 16384, 10213, 0, -2969, 0, 1380, 0, -593, 0, 210, 0, -49]
/-- The second stage. -/
def halfBand2 : List Int := [200, 0, -1615, 0, 9607, 16384, 9607, 0, -1615, 0, 200]

/-- The sum of products. -/
def dotInt (a b : List Int) : Int := (a.zipWith (· * ·) b).foldl (· + ·) 0

/-- A filter followed by decimation by `d`: its memory, its phase, and its output when one falls due. -/
def decimate (taps : List Int) (d : Nat) (hist : List Int) (phase : Nat) (x : Int) : List Int × Nat × Option Int :=
  let h := (x :: hist).take taps.length
  if d ≤ phase + 1 then (h, 0, some (dotInt taps h)) else (h, phase + 1, none)

/-- A half-band stage, where the channel has it. -/
def halfStage (on : Bool) (taps : List Int) (hist : List Int) (phase : Nat) (x : Int) : List Int × Nat × Option Int :=
  if on then decimate taps 2 hist phase x else (hist, phase, some x)

/-- One input bit through the chain (R696), with every value kept exact: the CIC output is its plain sum, and each later
stage's output is in units of its taps. -/
def chainBit (cic taps : List Int) (m h f : Nat) (c : Chain) (b : Bool) : Chain × Option Int :=
  let bs := (b :: c.bits).take cic.length
  if c.bitPhase + 1 < m then ({ c with bits := bs, bitPhase := c.bitPhase + 1 }, none)
  else
    let c := { c with bits := bs, bitPhase := 0 }
    let x := dotInt cic (bs.map bitValue)
    match halfStage (decide (1 ≤ h)) halfBand1 c.half1 c.half1Phase x with
    | (h1, p1, none) => ({ c with half1 := h1, half1Phase := p1 }, none)
    | (h1, p1, some x) =>
      let c := { c with half1 := h1, half1Phase := p1 }
      match halfStage (decide (h = 2)) halfBand2 c.half2 c.half2Phase x with
      | (h2, p2, none) => ({ c with half2 := h2, half2Phase := p2 }, none)
      | (h2, p2, some x) =>
        let r := decimate taps f c.fir c.firPhase x
        ({ c with half2 := h2, half2Phase := p2, fir := r.1, firPhase := r.2.1 }, r.2.2)

/-- R698: the FIR output, rounded to the nearest integer with ties toward +infinity. -/
def roundSample (m h : Nat) (x : Int) : Int :=
  let den : Int := (m : Int) ^ 5 * 2 ^ (15 * h + 30)
  (2 * x * 2 ^ 23 + den) / (2 * den)

/-- R698: the clipped value. -/
def clip24 (v : Int) : Int := max (-8388608) (min 8388607 v)

/-- A window takes a sample (R708, R711, R712). -/
def Window.add (w : Window) (v : Int) (clipped : Bool) (ct : W64) : Window :=
  if w.closed || decide (ct < w.openCt) || decide (w.closeCt ≤ ct) then w
  else
    let t := w.sum + v
    let bound : Int := 2 ^ 55 - 1
    let sat := w.flags.getLsbD 1 || decide (bound < t ∨ t < -bound)
    { w with
      sum := if w.flags.getLsbD 1 then w.sum else max (-bound) (min bound t)
      flags := setBitIf clipped (setBitIf sat w.flags 1) 7
      count := w.count + 1, firstCt := if w.count = 0 then ct else w.firstCt, lastCt := ct }

/-- R700: a sample leaves the chain, stamped with CT, and the windows integrate it. -/
def takeSample (c : Nat) (raw : Int) (s : State) : State :=
  let v := clip24 raw
  let clipped := decide (v ≠ raw)
  let before := s
  let s := noteWindows 0 s
  let s := s.onChan c fun h =>
    { h with
      seq := h.seq + 1, hist := (⟨v, h.seq, s.ct.now⟩ :: h.hist).take 16, trouble := setBitIf clipped h.trouble 3
      wins := if s.ct.running then h.wins.map fun w => w.add v clipped s.ct.now else h.wins }
  if satCount before < satCount s then s.onSd fun m => { m with sat := setBit m.sat c } else s
where
  /-- Windows of the channel that have saturated. -/
  satCount (s : State) : Nat := ((s.chan c).wins.filter fun w => w.flags.getLsbD 1).length

/-- The bits that arrived, oldest first, through the chain. -/
def pushBits (c m h f : Nat) (cic taps : List Int) : List Bool → State → State
  | [], s => s
  | b :: bs, s =>
    let p := chainBit cic taps m h f (s.chan c).chain b
    let s := s.onChan c fun x => { x with chain := p.1 }
    pushBits c m h f cic taps bs (match p.2 with | none => s | some x => takeSample c (roundSample m h x) s)

/-- The chain takes bits: enabled, with a clock, neither gated nor in hand-over (Table 15.1, R370, R368), and not held in a
MODULE reset (Table 15.13). (DESIGN CHOICE, log 19; DEDUCED, log 52.) -/
def chainRuns (s : State) (c : Nat) : Bool :=
  channelOn s c && !s.pwr.moduleReset && !(s.chan c).noclk && !groupGated s c && !groupMoving s c

/-- SAMPLE_OUTPUT (R696-R700, R708, R711-R714). -/
def execSampleOutput (c : SiteId) (bits : List Bool) (s : State) : Host.Outcome State Fault Refusal :=
  let m := s.lt.chanM c.val
  ok s (if chainRuns s c.val then
      pushBits c.val m (s.lt.chanH c.val) (s.lt.chanF c.val) (cicTaps m 5) (s.lt.chanTaps c.val) bits s else s)

/-! ### The fast path (R717-R719) -/

/-- R717: the output of the fast CIC over its last bits. -/
def fastValue (bs : List Bool) : Int := min 8388607 (dotInt (cicTaps 16 3) (bs.map bitValue) * 2048)

/-- The qualification count after an output (R719); the field holds 5 bits. (DEDUCED, log 51.) -/
def Channel.qualify (h : Channel) : Channel :=
  if h.armed then { h with qual := if h.hi < h.fast ∨ h.fast < h.lo then min 31 (h.qual + 1) else 0 } else h

/-- FAST_PATH_OUTPUT (R717, R719, R721): the 16 bits since the output before, the first in bit 0. -/
def execFastPathOutput (c : SiteId) (bits : BitVec 16) (s : State) : Host.Outcome State Fault Refusal :=
  ok s (if channelOn s c.val && !(s.chan c.val).noclk then
      let s := s.onChan c.val fun h =>
        let bs := (((List.range 16).map fun i => bits.getLsbD (15 - i)) ++ h.fastBits).take 46
        ({ h with fastBits := bs, fast := fastValue bs }).qualify
      let h := s.chan c.val
      if h.armed && decide (0 < h.qual ∧ s.lt.chanQual c.val ≤ h.qual) then channelTrips c.val 1 s else s
    else s)

/-! ### Output faults (R727-R729) -/

/-- TRIP_SHORT_DETECT (R727). (DEDUCED, log 50.) -/
def execTripShortDetect (n : SiteId) (high : Bool) (s : State) : Host.Outcome State Fault Refusal :=
  ok s (if (s.site n.val).asserted then
      (s.onChan n.val fun h => { h with trouble := setBit h.trouble 6 }).onSite n.val fun t => { t with landHigh := high }
    else s)

/-- TRIP_OPEN_DETECT (R728): an asserted output that sinks too little, or a released one whose land stays low.
(DEDUCED, log 50.) -/
def execTripOpenDetect (n : SiteId) (land : TripLand) (s : State) : Host.Outcome State Fault Refusal :=
  ok s (if (s.site n.val).asserted = land.asserted ∧ (land.asserted = true ∨ land.high = false) then
      (s.onChan n.val fun h => { h with trouble := setBit h.trouble 5 }).onSite n.val fun t => { t with landHigh := land.high }
    else s)

/-! ### Commands (§15.5) -/

/-- TARGET. -/
def sTarget (d : Line) : Nat := lineField d 8 1
/-- OPTS: FAULT_TRIP. -/
def sFaultTrip (d : Line) : Bool := d.getLsbD 72
/-- OPTS: DISARM. -/
def sDisarm (d : Line) : Bool := d.getLsbD 73
/-- OPEN_CT. -/
def sOpen (d : Line) : W64 := BitVec.ofNat 64 (lineField d 16 8)
/-- CLOSE_CT. -/
def sClose (d : Line) : W64 := BitVec.ofNat 64 (lineField d 24 8)
/-- HI of a TRIP_ARM. -/
def sHi (d : Line) : Int := (BitVec.ofNat 32 (lineField d 16 4)).toInt
/-- LO of a TRIP_ARM. -/
def sLo (d : Line) : Int := (BitVec.ofNat 32 (lineField d 20 4)).toInt

/-- R703: the fields an opcode does not use are zero. -/
def measFieldsOk (d : Line) : Bool :=
  dZero d 10 6 && dZero d 44 20 &&
    (match dOpcode d with
     | 0x40 => dZero d 9 1
     | 0x41 => decide (lineField d 9 1 < 4) && dZero d 24 20 && (!sDisarm d || (dZero d 16 8 && !sFaultTrip d))
     | 0x44 => dZero d 9 1 && dZero d 16 16
     | _ => dZero d 9 1 && dZero d 16 28)

/-- Bytes of output. -/
def measOut (d : Line) : Nat := if dOpcode d = 0x40 then 32 else if dOpcode d = 0x44 then 16 else 0

/-- BAD_THRESHOLD (Table 15.6). -/
def badThreshold (d : Line) : Bool :=
  decide (dOpcode d = 0x41) && !sDisarm d &&
    !decide (-8388608 ≤ sLo d ∧ sLo d ≤ sHi d ∧ sHi d ≤ 8388607)

/-- The opcode names a channel, not a site (Table 15.4). -/
def namesChannel (d : Line) : Bool := decide (dOpcode d = 0x40 ∨ dOpcode d = 0x41)

/-- What stands between a command and its target: a status, and the KIND of a violation (R690, R691, R34). -/
def targetCheck (s : State) (i : RingIdent) (d : Line) : Option (Nat × Option ViolKind) :=
  let n := sTarget d
  if namesChannel d then
    if 64 ≤ n then some (0x340, none)
    else if groupKeeper s n ≠ decide (i.encl ≠ 0) then some (0x340, some .worldAttr)
    else if s.lt.channelFn n ≠ i.fn then some (0x340, some .functionOwner)
    else if !s.lt.chanOn n then some (0x342, none) else none
  else if 64 ≤ n then some (0x341, none)
  else if s.lt.siteFn n ≠ i.fn then some (0x341, some .functionOwner) else none

/-- R530 of a measurement command: the status that ends it before it is served (R703-R706). -/
def measCheck (s : State) (i : RingIdent) (d : Line) : Option (Result × Option ViolKind) :=
  if !measFieldsOk d then some (statusOf 0x11, none)
  else if lineField d 40 4 < measOut d then some (badLength (measOut d), none)
  else if dOpcode d = 0x40 ∧ sClose d < sOpen d then some (statusOf 0x343, none)
  else if badThreshold d then some (statusOf 0x344, none)
  else match targetCheck s i d with
    | some (st, v) => some (statusOf st, v)
    | none => if s.kp.down && decide (i.encl ≠ 0) then some (statusOf 0x50, none) else none
where
  /-- BAD_LENGTH with the size that would do. -/
  badLength (n : Nat) : Result := { status := 0x10, len := n }

/-- The window's 32 bytes (Table 15.7). -/
def Window.bytes (w : Window) : List Byte :=
  let flags := setBitIf (decide (w.count = 0)) w.flags 0
  bytesLE 8 (BitVec.ofInt 64 w.sum).toNat ++ bytesLE 4 w.count ++ bytesLE 2 (min 0xFFFF (w.count / 2 ^ 32)) ++ bytesLE 2 flags.toNat
    ++ bytesLE 8 w.firstCt.toNat ++ bytesLE 8 w.lastCt.toNat

/-- The window's completion (R713). -/
def Window.result (w : Window) : Result :=
  { status := 0, cflags := (setBitIf (decide (w.count = 0)) w.flags 0).toNat, len := 32, result32 := w.count % 2 ^ 32 }

/-- The window of a command on channel `c`. -/
def ownWindow (s : State) (c ring seq : Nat) : Option Window := (s.chan c).wins.find? fun w => decide (w.ring = ring ∧ w.seq = seq)

/-- R707-R709, R715: a MEAS_WINDOW starts. `again` says that an execution before this one was recorded.
(DEDUCED, log 48; DEDUCED, log 51.) -/
def startWindow (ring : Nat) (k : Cmd) (again : Bool) (s : State) : State :=
  let d := k.first
  let c := sTarget d
  let o := sOpen d
  let cl := sClose d
  match ownWindow s c ring k.seq with
  | some w => siteFinish ring k.seq w.bytes w.result s
  | none =>
    if again && decide (o ≤ s.ct.now) then
      finishCmd ring k.seq (statusOf 0x346) (s.onChan c fun h => { h with trouble := setBit h.trouble 7 })
    else
      let late := decide (o < s.ct.now)
      let now := decide (o = cl) || decide (cl ≤ s.ct.now)
      let w : Window :=
        { ring := ring, seq := k.seq, openCt := if late then s.ct.now else o, closeCt := cl
          flags := if late && decide (o ≠ cl) then 0x20 else if now && decide (o ≠ cl) then 0x20 else 0, closed := now }
      let s := s.onChan c fun h => { h with wins := h.wins ++ [w] }
      if now then siteFinish ring k.seq w.bytes w.result s else noteWindows 0 s

/-- R710: the windows of a channel that CT has reached the end of close, and their results are stored. -/
def closeWindows (c : Nat) (s : State) : State :=
  let s := noteWindows 0 s
  let due := (s.chan c).wins.filter fun w => !w.closed && decide (w.closeCt ≤ s.ct.now) && s.ct.running
  let s := s.onChan c fun h => { h with wins := h.wins.map fun w => if due.contains w then { w with closed := true } else w }
  due.foldl (fun t w => siteFinish w.ring w.seq w.bytes w.result t) s

/-- WINDOW_CLOSE (R710, R713). -/
def execWindowClose (c : SiteId) (s : State) : Host.Outcome State Fault Refusal := ok s (closeWindows c.val s)

/-- R718: TRIP_ARM writes the thresholds, or disarms. -/
def armTrip (d : Line) (s : State) : State :=
  s.onChan (sTarget d) fun h =>
    if sDisarm d then { h with armed := false }
    else { h with hi := sHi d, lo := sLo d, faultTrip := sFaultTrip d, armed := true, qual := 0 }

/-- R722: a channel of the site holds its trip. -/
def tripPersists (s : State) (n : Nat) : Bool :=
  (channelsAt s n).any fun c =>
    let h := s.chan c
    (h.armed && decide (s.lt.chanQual c ≤ h.qual)) || (h.faultTrip && h.faulty)

/-- R722: TRIP_RELEASE. -/
def releaseTrip (n : Nat) (s : State) : State × Result :=
  if !(s.site n).asserted then (s, statusOf 0)
  else if tripPersists s n then (s, statusOf 0x345)
  else
    let s := (noteWindows 0 s).onSite n fun t => { t with asserted := false }
    ((channelsAt s n).foldl (fun t c => t.onChan c fun h => { h with qual := 0 }) s, statusOf 0)

/-- R723: a TRIP_WAIT starts. -/
def startWait (ring : Nat) (k : Cmd) (s : State) : State :=
  let n := sTarget k.first
  let t := s.site n
  match t.waits.find? fun w => decide (w.ring = ring ∧ w.seq = k.seq) with
  | some w =>
    if w.bytes.isEmpty then s
    else siteFinish ring k.seq w.bytes { status := 0, len := 16, result32 := ofBytesLE ((w.bytes.drop 8).take 2) } s
  | none =>
    let s := s.onSite n fun t => { t with waits := t.waits ++ [⟨ring, k.seq, []⟩] }
    if t.asserted then waitDone n ring k.seq s else s

/-- What a measurement command waits for: an integrator (R707), a place (R723), or its group's gate and hand-over (R370,
R367). (DEDUCED, log 48.) -/
def measWaits (s : State) (ring : Nat) (k : Cmd) : Bool :=
  let d := k.first
  let n := sTarget d
  (namesChannel d && decide (n < 64) && groupMoving s n) ||
    ((measCheck s (s.lt.ident ring) d).isNone &&
      ((namesChannel d && groupGated s n)
        || (decide (dOpcode d = 0x40) && decide (4 ≤ (s.chan n).wins.length) && (ownWindow s n ring k.seq).isNone)
        || (decide (dOpcode d = 0x44) && decide (4 ≤ (s.site n).waits.length) &&
            !(s.site n).waits.any fun w => decide (w.ring = ring ∧ w.seq = k.seq))))

/-- A measurement command starts: engine 7, the engine number being its TARGET (R894). `f` serves it. -/
def onChain (c : CmdRef) (op : Nat) (f : Cmd → State → State) (s : State) : State :=
  match (s.ring c.ring).find c.seq with
  | none => s
  | some k =>
    if measWaits s c.ring k then s
    else runCommand c (isOpcode 3 op) 7 (sTarget k.first) (fun k t =>
      match measCheck t (t.lt.ident c.ring) k.first with
      | some (r, v) =>
        let t := match v with | some kind => violateCommand t (t.lt.ident c.ring) kind 25 | none => t
        finishCmd c.ring k.seq r t
      | none => f k t) s

/-- MEAS_WINDOW (R707-R709, R715). -/
def execMeasWindow (c : CmdRef) (s : State) : Host.Outcome State Fault Refusal :=
  ok s (onChain c 0x40 (fun k t => startWindow c.ring k (decide (k.attempt ≠ 0)) t) s)
/-- TRIP_ARM (R718). (DESIGN CHOICE, log 5.) -/
def execTripArm (c : CmdRef) (s : State) : Host.Outcome State Fault Refusal :=
  ok s (onChain c 0x41 (fun k t => finishCmd c.ring k.seq (statusOf 0) (armTrip k.first t)) s)
/-- TRIP_RELEASE (R722). -/
def execTripRelease (c : CmdRef) (s : State) : Host.Outcome State Fault Refusal :=
  ok s (onChain c 0x42 (fun k t => let p := releaseTrip (sTarget k.first) t; finishCmd c.ring k.seq p.2 p.1) s)
/-- TRIP_ASSERT (R723). -/
def execTripAssert (c : CmdRef) (s : State) : Host.Outcome State Fault Refusal :=
  ok s (onChain c 0x43 (fun k t => finishCmd c.ring k.seq (statusOf 0) (assertTrip (sTarget k.first) 3 0xFF t)) s)
/-- TRIP_WAIT (R723). -/
def execTripWait (c : CmdRef) (s : State) : Host.Outcome State Fault Refusal := ok s (onChain c 0x44 (startWait c.ring) s)

/-! ### Reach of an SD block (R732) and SD_HIST -/

/-- Whether a requester reaches the channel fields of block `c`: none, or the KIND of the violation. -/
def channelReach (s : State) (w : Requester) (c : Nat) : Option ViolKind :=
  if actingKeeper s w ≠ groupKeeper s c then some .worldAttr
  else if groupMoving s c then some .handover else none

/-- R100, R733: a latch of a requester for the second half of a read. (DEDUCED, log 66.) -/
def setLatch (w : Requester) (offset : Nat) (v : W64) (s : State) : State :=
  s.onHost fun h => { h with latches := (w, offset, v) :: h.latches.filter fun l => !decide (l.1 = w ∧ l.2.1 = offset) }

/-- The sample whose SEQ is k modulo 16 (R733). -/
def Channel.sample (h : Channel) (k : Nat) : Option Sample := h.hist.find? fun x => decide (x.seq.toNat % 16 = k)

/-- Word 0 of SD_HISTk (Table 15.12). -/
def histWord (h : Channel) (k : Nat) : W64 :=
  match h.sample k with
  | none => 0
  | some x => BitVec.ofNat 64 ((BitVec.ofInt 32 x.value).toNat + 2 ^ 32 * x.seq.toNat)

/-- Word 1. -/
def histStamp (h : Channel) (k : Nat) : W64 := ((h.sample k).map (·.stamp)).getD 0

/-- A read of word 0 of SD_HISTk latches word 1 (R732, R733). -/
def histRead (who : Requester) (c k : Nat) (s : State) : State :=
  let off := 0x10000 + 0x400 * c + 0x100 + 16 * k
  if !seesPf s who then s
  else match channelReach s who c with
    | some kind => (violateBy s who false kind off).emit (.readData 0)
    | none => (setLatch who (off + 1) (histStamp (s.chan c) k) s).emit (.readData (histWord (s.chan c) k))

end Sys2Proof.Machine
end

