-- ==== Sys2Proof/Machine/Lanes.lean ====
section
/-!
DEFINITION. The site lanes (16): training, frames and their checks, delivery and acknowledgement, epochs and resumption, and
the lane commands.
-/

namespace Sys2Proof.Machine

/-! ### Frames (§16.3) -/

/-- A frame as received. -/
structure Frame where
  epoch : Nat
  seq : W32
  type : Nat
  flags : Nat
  payload : List Byte
  deriving DecidableEq, Repr

/-- What a receiver makes of the bytes of a frame (R753). -/
inductive Parsed
  | good (f : Frame)
  /-- A bad CRC, or bytes that are no whole frame. -/
  | crc
  | malformed
  deriving DecidableEq, Repr

/-- The big-endian field of `n` bytes at `i` (R750). -/
def beField (bs : List Byte) (i n : Nat) : Nat := ofBytesBE ((bs.drop i).take n)

/-- The payload bytes that Table 16.3 marks zero. -/
def reservedPayloadOk (type : Nat) (p : List Byte) : Bool :=
  if type = 0x10 then decide ((p.getD 1 0).toNat < 2) && decide (beField p 2 2 = 0)
  else if type = 0x12 then decide ((p.getD 0 0).toNat < 2) && decide ((p.getD 1 0).toNat < 2) && decide (beField p 11 5 = 0)
  else true

/-- The form of a frame whose CRC is good (R753). (DEDUCED, log 56.) -/
def frameSound (f : Frame) (reserved : Nat) : Bool :=
  let n := f.payload.length
  decide (n ≤ 2048) && decide (reserved = 0) && decide (f.flags < 2)
    && (if 0x40 ≤ f.type then decide (f.flags = 0 ∨ (8 ≤ n ∧ beField f.payload 0 8 % 4096 = 0))
        else decide (f.flags = 0) && (match f.type with
          | 0x01 | 0x11 => decide (n = 0)
          | 0x10 => decide (n = 8)
          | 0x12 => decide (n = 16)
          | _ => false)) && reservedPayloadOk f.type f.payload

/-- R750, R751, R753: reads a frame whose form `sound` judges, from its fields and the reserved one. -/
def parseBytes (sound : Frame → Nat → Bool) (bs : List Byte) : Parsed :=
  let n := bs.length
  if n < 16 ∨ n ≠ 16 + beField bs 10 2 ∨ (crc32c (bs.take (n - 4))).toNat ≠ beField bs (n - 4) 4 then .crc
  else
    let f : Frame := ⟨beField bs 0 2, BitVec.ofNat 32 (beField bs 4 4), beField bs 8 1, beField bs 9 1, (bs.drop 12).take (n - 16)⟩
    if sound f (beField bs 2 2) then .good f else .malformed

/-- R749, R753: reads a frame from its blocks; blocks that carry no frame are a code error. -/
def parseBy (sound : Frame → Nat → Bool) (bs : List Block) : Parsed := (readFrame bs).elim .crc (parseBytes sound)

/-- A site-lane frame. (DEDUCED, log 56.) -/
def parseFrame (bs : List Block) : Parsed := parseBy frameSound bs

/-! ### States (Table 16.1) -/

/-- Where a lane stands in its training; one in DOWN retrains behind that state. -/
def Lane.phase (l : Lane) : LaneSt := if l.st = .down then l.train else l.st
/-- Moves a lane on in its training. -/
def Lane.setPhase (l : Lane) (p : LaneSt) : Lane := if l.st = .down then { l with train := p } else { l with st := p }
/-- R742: the lane's commands complete as for a lane in DOWN. -/
def Lane.out (l : Lane) : Bool := decide (l.st = .down ∨ l.st = .disabled)

/-- Sets a bit of LN_TROUBLE. -/
def laneTrouble (n b : Nat) (s : State) : State := s.onLane n fun l => { l with trouble := setBit l.trouble b }

/-! ### Sending (R758, R760, R764) -/

/-- How far sequence `b` lies beyond `a`, modulo 2^32. -/
def seqDist (a b : W32) : Nat := (b - a).toNat

/-- The entry still has to be delivered in the current outbound epoch. -/
def OutFrame.open (o : OutFrame) (l : Lane) : Bool := o.result.isNone && decide (o.epoch = l.txEpoch)

/-- The lane may send frames of its epoch: UP, and the epoch acknowledged (R767). -/
def Lane.sends (l : Lane) : Bool := decide (l.st = .up) && l.starting.isNone && decide (l.txEpoch ≠ 0)

/-- Sends one entry's frame. -/
def sendEntry (n : Nat) (o : OutFrame) (s : State) : State := sendFrame n o.epoch o.seq.toNat o.type o.flags o.payload s

/-- R758, R764: the frames within CREDIT that have not been sent go out, in sequence order. -/
def transmit (n : Nat) (s : State) : State :=
  let l := s.lane n
  if !l.sends then s
  else
    let due := l.outs.filter fun o => o.open l && !o.sent && decide (seqDist l.txAcked o.seq ≤ l.credit)
    let s := due.foldl (fun t o => sendEntry n o t) s
    s.onLane n fun l => { l with outs := l.outs.map fun o => if due.contains o then { o with sent := true } else o }

/-- R760, R771: every unacknowledged frame sent before is sent again, from the oldest. -/
def retransmit (n : Nat) (s : State) : State :=
  let l := s.lane n
  if !l.sends then s
  else
    let due := l.outs.filter fun o => o.open l && o.sent
    let s := due.foldl (fun t o => sendEntry n o t) s
    transmit n (s.onLane n fun l => { l with retransmits := satAdd l.retransmits due.length })

/-- The result of an entry is fixed; its command completes with it once it has started. An orphan's own completion is not
this one (R782). -/
def settle (n : Nat) (o : OutFrame) (r : Result) (s : State) : State :=
  let s := if r.status = 0x302 then laneTrouble n 7 s else s
  let s := s.onLane n fun l => { l with outs := l.outs.map fun x => if x = o then { x with result := some r } else x }
  match (s.ring o.ring).find o.cmd with
  | some k => if k.st = .started ∧ o.orphan = false then finishCmd o.ring o.cmd r s else s
  | none => s

/-- CFLAGS of a LANE_SEND (R779). -/
def sendFlags (sent acked : Bool) : Nat := bit sent + 2 * bit acked

/-- R782: the ABORTED completion of an orphan is formed. (DEDUCED, log 54.) -/
def formOrphan (o : OutFrame) (acked : Bool) (s : State) : State :=
  match (s.ring o.ring).find o.cmd with
  | some k => if k.st = .started then finishCmd o.ring o.cmd { status := 0x40, cflags := sendFlags o.sent acked, result32 := o.seq.toNat } s else s
  | none => s

/-! ### Epochs (§16.5) -/

/-- Renumbers entries into an epoch from a sequence on. (DEDUCED, log 54.) -/
def renumber (epoch : Nat) : W32 → List OutFrame → List OutFrame
  | _, [] => []
  | q, o :: t => if o.result.isNone then { o with epoch := epoch, seq := q } :: renumber epoch (q + 1) t else o :: renumber epoch q t

/-- R766, R767: a new outbound epoch: its EPOCH record is committed, then EPOCH_START is sent. The spec does not give
FIRST_SEQ beyond the first epoch: the lane's sequence goes on. (DEDUCED, log 54.) -/
def newEpoch (n : Nat) (s : State) : State :=
  let l := s.lane n
  let live := l.outs.filter fun o => o.result.isNone
  let first := match live with | o :: _ => o.seq | [] => l.txNext
  let epoch := l.txEpoch % 65535 + 1
  let s := commitEpoch n epoch first.toNat s
  let s := s.onLane n fun l =>
    { l with txEpoch := epoch, starting := some first, txAcked := first - 1, txNext := first + BitVec.ofNat 32 live.length
             txUsed := live.length, outs := renumber epoch first l.outs, timeouts := 0 }
  if (s.lane n).st = .up then sendFrame n epoch first.toNat 0x11 0 [] s else s

/-- R772: the lane enters DOWN: LANE_SENDs that hold an entry and waiting LANE_RECVs complete with LANE_DOWN; orphans go
(R782). (DEDUCED, log 53.) -/
def enterDown (n : Nat) (s : State) : State :=
  let l := s.lane n
  let live := l.outs.filter fun o => o.result.isNone
  let s := live.foldl (fun t o =>
    if o.orphan then formOrphan o false t
    else settle n o { status := 0x60, cflags := sendFlags o.sent false, result32 := o.seq.toNat } t) s
  let s := l.recvs.foldl (fun t c => finishCmd c.1 c.2 (statusOf 0x60) t) s
  s.onLane n fun l =>
    { l with st := .down, train := .detect, blockLock := false, starting := none, timeouts := 0, recvs := [], trouble := setBit l.trouble 0
             outs := l.outs.filter fun o => !o.orphan }

/-! ### Training rows -/

/-- R744: a termination leads to ALIGN. (DEDUCED, log 56.) -/
def laneProbe (n : Nat) (far : FarEnd) (s : State) : State :=
  if (s.lane n).phase = .detect ∧ far = .termination then s.onLane n fun l => { l.setPhase .align with swapped := false } else s

/-- R744: a driving source at the far end. -/
def laneSwapped (n : Nat) (s : State) : State :=
  if (s.lane n).phase = .detect then laneTrouble n 3 (s.onLane n fun l => { l with swapped := true }) else s

/-- Table 16.1, R745: locked with training blocks, inverted or not. (DEDUCED, log 56.) -/
def laneLock (n : Nat) (inverted : Bool) (s : State) : State :=
  if (s.lane n).phase = .align then
    let s := s.onLane n fun l => { l.setPhase .hello with blockLock := true, rxInverted := inverted }
    if inverted then laneTrouble n 4 s else s
  else s

/-- Table 16.1: a lane in UP leaves for ALIGN. -/
def laneLockLoss (n : Nat) (s : State) : State :=
  let t := s.onLane n fun l => { l with blockLock := false }
  if (s.lane n).st = .up then laneTrouble n 1 (t.onLane n fun l => { l with st := .align, rxCurrent := false }) else t

/-- The HELLO of R768. -/
def helloPayload (l : Lane) : List Byte :=
  [0, 0] ++ bytesBE 2 l.rxEpoch ++ bytesBE 4 l.rxSeq.toNat ++ bytesBE 2 l.txEpoch ++ bytesBE 1 l.room ++ List.replicate 5 0

/-- Table 16.1, R768: HELLO is sent every 10 us. (DEDUCED, log 53.) -/
def laneHello (n : Nat) (s : State) : State :=
  if (s.lane n).phase = .hello then sendFrame n 0 0 0x12 0 (helloPayload (s.lane n)) s else s

/-- R770: the outbound frames when the partner holds no state of the current epoch. (DEDUCED, log 54.) -/
def partnerReset (n : Nat) (s : State) : State :=
  let sent := (s.lane n).outs.filter fun o => o.result.isNone && o.sent
  let s := sent.foldl (fun t o =>
    if o.orphan then t else settle n o { status := 0x303, cflags := sendFlags true false, result32 := o.seq.toNat } t) s
  let s := s.onLane n fun l => { l with outs := l.outs.filter fun o => !(o.orphan && o.sent && o.result.isNone) }
  if sent.any fun o => !o.orphan then laneTrouble n 5 s else s

/-- A valid HELLO of the partner brings the lane UP (R766, R770, R771, R782). (DEDUCED, log 53; DEDUCED, log 54.) -/
def helloUp (n : Nat) (p : List Byte) (s : State) : State :=
  let l := s.lane n
  let rxe := beField p 2 2
  let rxs := BitVec.ofNat 32 (beField p 4 4)
  let txe := beField p 8 2
  let reset := decide ((p.getD 1 0).toNat = 1) || decide (rxe ≠ l.txEpoch)
  let wasDown := decide (l.st = .down)
  let covered := fun (o : OutFrame) => o.sent && decide (rxe = o.epoch) && decide (seqDist o.seq rxs < 2 ^ 31)
  let s := (l.outs.filter fun o => o.orphan && o.result.isNone).foldl (fun t o => formOrphan o (covered o) t) s
  let s := s.onLane n fun l =>
    { l with st := .up, train := .detect, timeouts := 0, credit := min 32 (p.getD 10 0).toNat
             outs := l.outs.filter fun o => !(o.orphan && o.result.isNone && covered o)
             rxCurrent := decide (txe ≠ 0 ∧ txe = l.rxEpoch), rxEpoch := if txe = l.rxEpoch then l.rxEpoch else 0 }
  let s := if reset then partnerReset n s else s
  if reset || wasDown || decide (l.txEpoch = 0) then newEpoch n s
  else match l.starting with
    | some q => sendFrame n l.txEpoch q.toNat 0x11 0 [] s
    | none => retransmit n s

/-- LANE_HELLO_RECEIVED (R769-R771): in HELLO only (R903); a new epoch waits until a bank can commit (R767). -/
def execLaneHelloReceived (n : SiteId) (blocks : List Block) (s : State) : Host.Outcome State Fault Refusal :=
  ok s (if (s.lane n.val).phase ≠ .hello then s
    else match parseFrame blocks with
      | .good f =>
        if f.type ≠ 0x12 then s
        else if (f.payload.getD 0 0).toNat = 0 then laneTrouble n.val 6 s
        else if canCommit s then helloUp n.val f.payload s else s
      | _ => s)

/-- R746: the time to reach UP has passed. -/
def laneTimeout (n : Nat) (s : State) : State :=
  match (s.lane n).st with
  | .detect | .align | .hello => enterDown n s
  | .disabled | .up | .down => s

/-! ### Receiving -/

/-- The output of a LANE_RECV (R780). -/
def recvBytes (f : InFrame) : List Byte :=
  bytesBE 2 f.epoch ++ [0, 0] ++ bytesBE 4 f.seq.toNat ++ bytesBE 1 f.type ++ bytesBE 1 f.flags ++ bytesBE 2 f.payload.length
    ++ [0, 0, 0, 0] ++ bytesLE 8 f.ct.toNat ++ f.payload

/-- A LANE_RECV bound to a frame completes with it; one whose buffer is too small leaves it (R780). -/
def recvDone (n ring seq : Nat) (f : InFrame) (s : State) : State :=
  match (s.ring ring).find seq with
  | none => s
  | some k =>
    let size := 24 + f.payload.length
    if lineField k.first 40 4 < size then
      finishCmd ring seq { status := 0x10, len := size }
        (s.onLane n fun l => { l with ins := l.ins.map fun x => if x.bound = some (ring, seq) then { x with bound := none } else x })
    else siteFinish ring seq (recvBytes f) { status := 0, cflags := f.type, len := size, result32 := f.seq.toNat } s

/-- R784: the waiting LANE_RECVs take the oldest unbound frames, in the order they started. -/
def bindRecvs (n : Nat) : Nat → State → State
  | 0, s => s
  | fuel + 1, s =>
    let l := s.lane n
    match l.recvs, l.ins.find? fun f => f.bound.isNone with
    | (r, q) :: rest, some f =>
      let g := { f with bound := some (r, q) }
      let s := s.onLane n fun l => { l with recvs := rest, ins := l.ins.map fun x => if x = f then g else x }
      bindRecvs n fuel (recvDone n r q g s)
    | _, _ => s

/-- R785: the inbound store goes from empty to holding a frame. -/
def postInbound (n : Nat) (s : State) : State :=
  let l := s.lane n
  if l.postEn then post (1 + n) (s.lt.siteFn n) l.event l.evprio.toNat s else s

/-- R754-R757, R904: a sequenced frame. -/
def receiveSequenced (n : Nat) (f : Frame) (s : State) : State :=
  let l := s.lane n
  if !l.rxCurrent || decide (f.epoch ≠ l.rxEpoch) then s
  else
    let d := seqDist l.rxSeq f.seq
    if d = 1 then
      if f.type = 0x01 then sendAck n false (s.onLane n fun l => { l with rxSeq := f.seq })
      else if 32 ≤ l.ins.length then sendAck n false (laneTrouble n 6 s)
      else
        let s := s.onLane n fun l =>
          { l with rxSeq := f.seq, ins := l.ins ++ [⟨f.epoch, f.seq, f.type, f.flags, f.payload, s.ct.now, none⟩] }
        let s := if l.ins.isEmpty then postInbound n s else s
        bindRecvs n l.recvs.length (sendAck n false s)
    else if d = 0 ∨ 2 ^ 31 ≤ d then sendAck n false s
    else sendAck n true s

/-- A frame of one of the types `p` names, received in UP (R903). -/
def onFrame (n : Nat) (blocks : List Block) (p : Nat → Bool) (f : Frame → State → State) (s : State) : State :=
  if (s.lane n).st ≠ .up then s
  else match parseFrame blocks with
    | .good g => if p g.type then f g s else s
    | _ => s

/-- DATA_FRAME_RECEIVED (R754-R756, R904). -/
def execDataFrameReceived (n : SiteId) (blocks : List Block) (s : State) : Host.Outcome State Fault Refusal :=
  ok s (onFrame n.val blocks (fun t => decide (0x40 ≤ t)) (receiveSequenced n.val) s)
/-- A VOID frame (Table 16.3). (DEDUCED, log 55.) -/
def laneVoid (n : Nat) (blocks : List Block) (s : State) : State := onFrame n blocks (· == 0x01) (receiveSequenced n) s

/-- The result of an entry that an ACK acknowledges for the first time (R759, R775, R779). (DEDUCED, log 55.) -/
def ackedResult (o : OutFrame) (ack : W32) (lateMask : Nat) : Result :=
  let i := seqDist o.seq ack
  let late := decide (i < 32) && (BitVec.ofNat 32 lateMask).getLsbD i && decide (o.flags = 1)
  { status := match o.decided with | some st => st | none => if late then 0x302 else 0
    cflags := sendFlags true true, result32 := o.seq.toNat }

/-- R758-R760, R765, R767, R787: an ACK of the current outbound epoch. -/
def receiveAck (n : Nat) (f : Frame) (s : State) : State :=
  let l := s.lane n
  if f.epoch ≠ l.txEpoch then s
  else
    let d := seqDist l.txAcked f.seq
    if seqDist l.txAcked (l.txNext - 1) < d then s
    else
      let acked := l.outs.filter fun o => o.open l && o.sent && decide (1 ≤ seqDist l.txAcked o.seq ∧ seqDist l.txAcked o.seq ≤ d)
      let s := acked.foldl (fun t o => settle n o (ackedResult o f.seq (beField f.payload 4 4)) t) s
      let s := s.onLane n fun l =>
        { l with txAcked := f.seq, credit := min 32 (f.payload.getD 0 0).toNat, starting := none
                 timeouts := if d = 0 ∧ l.starting.isNone = true then l.timeouts else 0
                 outs := l.outs.filter fun o => !(o.orphan && o.result.isSome) }
      if 2 ^ 32 ≤ (s.lane n).txUsed ∧ (s.lane n).txAcked = (s.lane n).txNext - 1 ∧ canCommit s = true then newEpoch n s
      else if (f.payload.getD 1 0).toNat = 1 then retransmit n s else transmit n s

/-- An ACK frame (R757-R760). -/
def laneAck (n : Nat) (blocks : List Block) (s : State) : State := onFrame n blocks (· == 0x10) (receiveAck n) s

/-- R902: an EPOCH_START. -/
def receiveEpochStart (n : Nat) (f : Frame) (s : State) : State :=
  let l := s.lane n
  if f.epoch = 0 then s
  else if l.rxCurrent ∧ f.epoch = l.rxEpoch then sendAck n false s
  else sendAck n false (s.onLane n fun l => { l with rxCurrent := true, rxEpoch := f.epoch, rxSeq := f.seq - 1 })

/-- EPOCH_START_RECEIVED (R902). -/
def execEpochStartReceived (n : SiteId) (blocks : List Block) (s : State) : Host.Outcome State Fault Refusal :=
  ok s (onFrame n.val blocks (· == 0x11) (receiveEpochStart n.val) s)

/-- R753: a malformed frame. (DEDUCED, log 53.) -/
def receiveBad (n : Nat) (crc : Bool) (s : State) : State :=
  let s := if crc then laneTrouble n 2 (s.onLane n fun l => { l with crcErrors := satInc l.crcErrors }) else laneTrouble n 6 s
  sendAck n true s

/-- R753, R903: a frame that is malformed, or came with a code error. -/
def laneBad (n : Nat) (blocks : List Block) (codeError : Bool) (s : State) : State :=
  if (s.lane n).st ≠ .up then s
  else if codeError then receiveBad n true s
  else match parseFrame blocks with
    | .crc => receiveBad n true s
    | .malformed => receiveBad n false s
    | .good _ => s

/-- Something of the lane is unacknowledged, so that its timeout runs (R760, R767). -/
def Lane.unacked (l : Lane) : Bool := l.starting.isSome || l.outs.any fun o => o.open l && o.sent

/-- R760, R761, R767: ACK_TIMEOUT_US without progress. (DEDUCED, log 56.) -/
def ackTimeout (n : Nat) (s : State) : State :=
  let l := s.lane n
  if l.st ≠ .up ∨ l.unacked = false then s
  else if s.lt.retryLimit ≤ l.timeouts + 1 then enterDown n s
  else
    let s := s.onLane n fun l => { l with timeouts := l.timeouts + 1 }
    match l.starting with
    | some q => sendFrame n l.txEpoch q.toNat 0x11 0 [] s
    | none => retransmit n s

/-! ### Commands (§16.8) -/

/-- FTYPE. -/
def nType (d : Line) : Nat := lineField d 9 1
/-- EXEC_AT. -/
def nExecAt (d : Line) : Bool := d.getLsbD 14
/-- TRIP_OK. -/
def nTripOk (d : Line) : Bool := d.getLsbD 15
/-- AT_CT. -/
def nAt (d : Line) : W64 := BitVec.ofNat 64 (lineField d 16 8)
/-- ADDR. -/
def nAddr (d : Line) : Nat := lineField d 32 8
/-- LEN. -/
def nLen (d : Line) : Nat := lineField d 40 4

/-- R530 of a lane command, up to NO_SITE and SERVICE_DOWN (R777, R781). -/
def laneCheck (s : State) (i : RingIdent) (d : Line) : Option (Result × Option ViolKind) :=
  let send := decide (dOpcode d = 1)
  let n := sTarget d
  if !(dZero d 10 6 && dZero d 24 8 && dZero d 44 20 && (send || dZero d 9 1) && ((send && nExecAt d) || dZero d 16 8)) then
    some (statusOf 0x11, none)
  else if send && decide ((if nExecAt d then 2040 else 2048) < nLen d) then some (statusOf 0x10, none)
  else if send && decide (nType d < 0x40) then some (statusOf 0x300, none)
  else if send && nExecAt d && decide ((nAt d).toNat % 4096 ≠ 0) then some (statusOf 0x301, none)
  else if 64 ≤ n then some (statusOf 0x341, none)
  else if s.lt.siteFn n ≠ i.fn then some (statusOf 0x341, some .functionOwner)
  else if s.kp.down && decide (i.encl ≠ 0) then some (statusOf 0x50, none)
  else none

/-- The outbound entry of a command. -/
def ownEntry (s : State) (n ring seq : Nat) : Option OutFrame := (s.lane n).outs.find? fun o => decide (o.ring = ring ∧ o.cmd = seq)

/-- What a first start sends: the status that a VOID frame decides, or the DATA frame's payload (R774, R778).
(DEDUCED, log 55.) -/
def sendDecision (s : State) (d : Line) : Option Nat :=
  if (s.site (sTarget d)).asserted && !nTripOk d then some 0x61
  else if nExecAt d && decide (nAt d ≤ s.ct.now) then some 0x302 else none

/-- R763: the entry of a first start, written before the START record. -/
def makeEntry (r seq : Nat) (d : Line) (decided : Option Nat) (data : List Byte) (s : State) : State :=
  s.onLane (sTarget d) fun l =>
    { l with
      outs := l.outs ++ [{ epoch := l.txEpoch, seq := l.txNext, type := if decided.isSome then 1 else nType d
                           flags := if decided.isSome then 0 else bit (nExecAt d)
                           payload := if decided.isSome then [] else (if nExecAt d then bytesBE 8 (nAt d).toNat else []) ++ data
                           ring := r, cmd := seq, decided := decided }]
      txNext := l.txNext + 1, txUsed := l.txUsed + 1 }

/-- A LANE_SEND starts: engine 4, the lane's number (R894). (DEDUCED, log 29; DEDUCED, log 55.) -/
def laneSend (c : CmdRef) (s : State) : State :=
  let r := c.ring.val
  let i := s.lt.ident r
  match (s.ring r).find c.seq with
  | none => s
  | some k =>
    let d := k.first
    let n := sTarget d
    let start := fun (f : State → State) (t : State) => runCommand c (isOpcode 3 1) 4 n (fun _ v => f v) t
    if !isOpcode 3 1 d || !mayStart s r k || (ringEngineResult i r k).isSome then s
    else match laneCheck s i d with
      | some (e, v) =>
        start (fun t => finishCmd r k.seq e (match v with | some kind => violateCommand t i kind 25 | none => t)) s
      | none =>
        match ownEntry s n r k.seq with
        | some o => start (fun t => match o.result with | some e => finishCmd r k.seq e t | none => t) s
        | none =>
          if (s.lane n).out then start (finishCmd r k.seq (statusOf 0x60)) s
          else if 32 ≤ (s.lane n).outs.length ∨ 2 ^ 32 ≤ (s.lane n).txUsed then s
          else
            let decided := sendDecision s d
            let (t, data, poison) := if decided.isSome then (s, [], false) else ringRead i (nAddr d) (nLen d) s
            if poison then finishCmd r k.seq (statusOf 0x70) t
            else transmit n (start (fun v => v) (makeEntry r k.seq d decided data t))

/-- LANE_SEND (R763, R764, R774, R778). -/
def execLaneSend (c : CmdRef) (s : State) : Host.Outcome State Fault Refusal := ok s (laneSend c s)

/-- A LANE_RECV is served: a frame bound to it comes again, else the oldest unbound one, else it waits or finds the lane
DOWN (R772, R784). -/
def laneRecv (r : Nat) (k : Cmd) (s : State) : State :=
  let n := sTarget k.first
  let l := s.lane n
  match l.ins.find? fun f => decide (f.bound = some (r, k.seq)) with
  | some f => recvDone n r k.seq f s
  | none =>
    if l.out && !(l.ins.any fun f => f.bound.isNone) then finishCmd r k.seq (statusOf 0x60) s
    else bindRecvs n (l.recvs.length + 1) (s.onLane n fun l => { l with recvs := l.recvs ++ [(r, k.seq)] })

/-- LANE_RECV (R780, R784). -/
def execLaneRecv (c : CmdRef) (s : State) : Host.Outcome State Fault Refusal :=
  let target := ((s.ring c.ring).find c.seq).map fun k => sTarget k.first
  ok s (runCommand c (isOpcode 3 2) 4 (target.getD 0) (fun k t =>
    match laneCheck t (t.lt.ident c.ring) k.first with
    | some (e, v) => finishCmd c.ring k.seq e (match v with | some kind => violateCommand t (t.lt.ident c.ring) kind 25 | none => t)
    | none => laneRecv c.ring k t) s)

end Sys2Proof.Machine
end

