-- ==== Sys2Proof/Machine/PublicKey.lean ====
section
/-!
DEFINITION. The public-key algorithms of 14: modular powers and inverses, P-384 (FIPS 186-5, SP 800-56A), and the lattice
schemes ML-KEM (FIPS 203) and ML-DSA (FIPS 204) with their polynomial building blocks.
-/

namespace Sys2Proof.Machine

/-! ### Modular arithmetic -/

/-- `a` to the low `n` bits of `e`, modulo `m`. -/
def powMod (m a e : Nat) : Nat → Nat
  | 0 => 1 % m
  | n + 1 => let r := powMod m (a * a % m) (e / 2) n; if e % 2 = 1 then a * r % m else r

/-- The inverse modulo a prime. -/
def invPrime (p a : Nat) : Nat := powMod p (a % p) (p - 2) p.log2.succ

/-- The extended Euclidean steps: the gcd and the coefficient of the first number modulo `m`. -/
def euclid (m : Nat) : Nat → Nat → Nat → Int → Int → Nat × Int
  | 0, a, _, x, _ => (a, x)
  | n + 1, a, b, x, y => if b = 0 then (a, x) else euclid m n b (a % b) y (x - (a / b : Nat) * y)

/-- The inverse of `a` modulo `m`, where it has one. -/
def invMod (m a : Nat) : Option Nat :=
  let p := euclid m (2 * (m.log2 + 2)) (a % m) m 1 0
  if p.1 = 1 then some (p.2 % (m : Int)).toNat else none

/-! ### P-384 -/

/-- The field prime. -/
def ecP : Nat := 2 ^ 384 - 2 ^ 128 - 2 ^ 96 + 2 ^ 32 - 1
/-- The group order. -/
def ecN : Nat := 0xFFFFFFFFFFFFFFFFFFFFFFFFFFFFFFFFFFFFFFFFFFFFFFFFC7634D81F4372DDF581A0DB248B0A77AECEC196ACCC52973
/-- The curve's b. -/
def ecB : Nat := 0xB3312FA7E23EE7E4988E056BE3F82D19181D9C6EFE8141120314088F5013875AC656398D8A2ED19D2A85C8EDD3EC2AEF
/-- The base point. -/
def ecG : Nat × Nat :=
  (0xAA87CA22BE8B05378EB1C71EF320AD746E1D3B628BA79B9859F741E082542A385502F25DBF55296C3A545E3872760AB7,
   0x3617DE4A96262C6F5D9E98BF9292DC29F8F41DBD289A147CE9DA3113B5F0B8C00A60B1CE1D7E819D7A431D7C90EA0E5F)

/-- The sum of two points; none is the point at infinity. -/
def ecAdd : Option (Nat × Nat) → Option (Nat × Nat) → Option (Nat × Nat)
  | none, q => q
  | p, none => p
  | some (x1, y1), some (x2, y2) =>
    if x1 = x2 ∧ (y1 + y2) % ecP = 0 then none
    else
      let l := if x1 = x2 then (3 * x1 * x1 + ecP - 3) * invPrime ecP (2 * y1) % ecP
        else (y2 + ecP - y1) * invPrime ecP (x2 + ecP - x1) % ecP
      let x := (l * l + 2 * ecP - x1 - x2) % ecP
      some (x, (l * (x1 + ecP - x) + ecP - y1) % ecP)

/-- A multiple of a point by the low `n` bits of `k`. -/
def ecMul (p : Option (Nat × Nat)) (k : Nat) : Nat → Option (Nat × Nat)
  | 0 => none
  | n + 1 => let r := ecMul (ecAdd p p) (k / 2) n; if k % 2 = 1 then ecAdd p r else r

/-- A point in 97 bytes, uncompressed. -/
def ecEncode : Option (Nat × Nat) → List Byte
  | none => [0]
  | some (x, y) => 4 :: bytesBE 48 x ++ bytesBE 48 y

/-- A valid point, not the point at infinity, from its 97 bytes (R674). -/
def ecDecode (bs : List Byte) : Option (Nat × Nat) :=
  let x := ofBytesBE ((bs.drop 1).take 48)
  let y := ofBytesBE ((bs.drop 49).take 48)
  if bs.length = 97 ∧ bs.head? = some 4 ∧ x < ecP ∧ y < ecP ∧ y * y % ecP = (x * x * x + (ecP - 3) * x + ecB) % ecP then some (x, y) else none

/-- A scalar from drawn bytes (FIPS 186-5 A.2.1, R673). -/
def ecScalar (drawn : List Byte) : Nat := ofBytesBE drawn % (ecN - 1) + 1

/-- The public point of a private scalar. -/
def ecPublic (d : Nat) : Option (Nat × Nat) := ecMul (some ecG) d 384

/-- The digest as a number, truncated to 384 bits. -/
def ecDigest (digest : List Byte) : Nat := ofBytesBE (digest.take 48)

/-- An ECDSA signature with per-message secret `k`: r and s. -/
def ecdsaSign (d k : Nat) (digest : List Byte) : Nat × Nat :=
  let r := ((ecPublic k).map (·.1)).getD 0 % ecN
  (r, invPrime ecN k * (ecDigest digest + r * d) % ecN)

/-- ECDSA verification. -/
def ecdsaVerify (q : Nat × Nat) (r s : Nat) (digest : List Byte) : Bool :=
  if r = 0 ∨ s = 0 ∨ ecN ≤ r ∨ ecN ≤ s then false
  else
    let w := invPrime ecN s
    match ecAdd (ecMul (some ecG) (ecDigest digest * w % ecN) 384) (ecMul (some q) (r * w % ecN) 384) with
    | none => false
    | some (x, _) => decide (x % ecN = r)

/-- The x-coordinate that ECDH shares (SP 800-56A). -/
def ecdh (d : Nat) (q : Nat × Nat) : List Byte := bytesBE 48 (((ecMul (some q) d 384).map (·.1)).getD 0)

/-! ### Polynomials modulo q in the NTT (FIPS 203, FIPS 204) -/

/-- A polynomial: 256 coefficients. -/
abbrev Poly := List Nat

/-- The two lattice moduli with a root of unity and the NTT's depth. -/
structure Ring4 where
  q : Nat
  z : Nat
  depth : Nat

/-- ML-KEM's ring. -/
def kemRing : Ring4 := ⟨3329, 17, 7⟩
/-- ML-DSA's ring. -/
def dsaRing : Ring4 := ⟨8380417, 1753, 8⟩

/-- Bit reversal of `n` bits. -/
def bitRev : Nat → Nat → Nat
  | 0, _ => 0
  | n + 1, i => i % 2 * 2 ^ n + bitRev n (i / 2)

/-- The twiddle factor of node `i`. -/
def twiddle (r : Ring4) (i : Nat) : Nat := powMod r.q r.z (bitRev r.depth i) 9

/-- The NTT from node `i` down, `n` layers. -/
def nttNode (r : Ring4) : Nat → Nat → List Nat → List Nat
  | 0, _, f => f
  | n + 1, i, f =>
    let a := f.take (f.length / 2)
    let b := (f.drop (f.length / 2)).map fun x => x * twiddle r i % r.q
    nttNode r n (2 * i) (a.zipWith (fun x y => (x + y) % r.q) b) ++ nttNode r n (2 * i + 1) (a.zipWith (fun x y => (x + r.q - y) % r.q) b)

/-- The inverse from node `i` down, without the final factor. -/
def inttNode (r : Ring4) : Nat → Nat → List Nat → List Nat
  | 0, _, f => f
  | n + 1, i, f =>
    let a := inttNode r n (2 * i) (f.take (f.length / 2))
    let b := inttNode r n (2 * i + 1) (f.drop (f.length / 2))
    let w := invPrime r.q (twiddle r i)
    a.zipWith (fun x y => (x + y) % r.q) b ++ a.zipWith (fun x y => (x + r.q - y) * w % r.q) b

/-- NTT. -/
def ntt (r : Ring4) (f : Poly) : Poly := nttNode r r.depth 1 f
/-- Inverse NTT. -/
def intt (r : Ring4) (f : Poly) : Poly :=
  let w := invPrime r.q (2 ^ r.depth)
  (inttNode r r.depth 1 f).map fun x => x * w % r.q

/-- Products of degree-one pieces modulo X^2 - gamma, gamma by the piece's number. -/
def baseMul (r : Ring4) : Nat → List Nat → List Nat → List Nat
  | i, a0 :: a1 :: as, b0 :: b1 :: bs =>
    let g := powMod r.q r.z (2 * bitRev 7 i + 1) 9
    ((a0 * b0 + a1 * b1 % r.q * g) % r.q) :: ((a0 * b1 + a1 * b0) % r.q) :: baseMul r (i + 1) as bs
  | _, _, _ => []

/-- The product in the NTT domain. -/
def nttMul (r : Ring4) (a b : Poly) : Poly :=
  if r.depth = 7 then baseMul r 0 a b else a.zipWith (fun x y => x * y % r.q) b

/-- Sum and difference. -/
def polyAdd (r : Ring4) (a b : Poly) : Poly := a.zipWith (fun x y => (x + y) % r.q) b
/-- Difference. -/
def polySub (r : Ring4) (a b : Poly) : Poly := a.zipWith (fun x y => (x + r.q - y) % r.q) b
/-- The zero polynomial. -/
def polyZero : Poly := List.replicate 256 0
/-- The inner product of two vectors in the NTT domain. -/
def dot (r : Ring4) (a b : List Poly) : Poly := (a.zipWith (nttMul r) b).foldl (polyAdd r) polyZero

/-- Candidates that rejection sampling accepts: 12-bit pairs for ML-KEM, 23-bit triples for ML-DSA. -/
def acceptFrom (r : Ring4) : List Byte → List Nat
  | b0 :: b1 :: b2 :: t =>
    let v := ofBytesLE [b0, b1, b2]
    (if r.depth = 7 then ([v % 4096, v / 4096].filter (· < r.q)) else ([v % 2 ^ 23].filter (· < r.q))) ++ acceptFrom r t
  | _ => []

/-- Keccak blocks squeezed at first (R682). -/
def firstBlocks (r : Ring4) : Nat := if r.depth = 7 then 5 else 7

/-- SampleNTT or RejNTTPoly, with whether the first blocks were too few (R682). -/
def sampleNtt (r : Ring4) (seed : List Byte) : Poly × Bool :=
  let l := acceptFrom r (shake128 seed (168 * firstBlocks r))
  if 256 ≤ l.length then (l.take 256, false)
  else ((acceptFrom r (shake128 seed (168 * (firstBlocks r + 16)))).take 256, true)

/-- The bits of bytes, least significant first. -/
def bytesToBits (bs : List Byte) : List Nat := bs.flatMap fun b => (List.range 8).map fun i => bit (b.getLsbD i)
/-- Numbers of `d` bits packed into bytes, least significant bit first. -/
def packBits (d : Nat) (xs : List Nat) : List Byte :=
  bytesLE (d * xs.length / 8) (xs.foldr (fun x t => x % 2 ^ d + t * 2 ^ d) 0)
/-- The inverse. -/
def unpackBits (d n : Nat) (bs : List Byte) : List Nat :=
  let v := ofBytesLE bs
  (List.range n).map fun i => v / 2 ^ (d * i) % 2 ^ d

/-! ### ML-KEM (FIPS 203) -/

/-- A parameter set: k, du, dv. -/
structure KemSet where
  k : Nat
  du : Nat
  dv : Nat

/-- The sets of ALG 0x30 and 0x31. -/
def kemSet (alg : Nat) : KemSet := if alg = 0x30 then ⟨3, 10, 4⟩ else ⟨4, 11, 5⟩

/-- Compress_d. -/
def compress (d x : Nat) : Nat := (2 ^ d * x + 1664) / 3329 % 2 ^ d
/-- Decompress_d. -/
def decompress (d y : Nat) : Nat := (y * 3329 + 2 ^ (d - 1)) / 2 ^ d
/-- ByteEncode_d of one polynomial. -/
def byteEncode (d : Nat) (f : Poly) : List Byte := packBits d f
/-- ByteDecode_d of one polynomial. -/
def byteDecode (d : Nat) (bs : List Byte) : Poly := (unpackBits d 256 bs).map fun x => if d = 12 then x % 3329 else x

/-- A noise polynomial of eta 2. -/
def cbd2 (bs : List Byte) : Poly :=
  (chunks 4 256 (bytesToBits bs)).map fun b => (b.getD 0 0 + b.getD 1 0 + 3329 - b.getD 2 0 - b.getD 3 0) % 3329
/-- The n-th noise polynomial of a seed. -/
def kemNoise (seed : List Byte) (n : Nat) : Poly := cbd2 (shake256 (seed ++ [BitVec.ofNat 8 n]) 128)

/-- The matrix entry of row i, column j. -/
def kemA (rho : List Byte) (i j : Nat) : Poly := (sampleNtt kemRing (rho ++ [BitVec.ofNat 8 j, BitVec.ofNat 8 i])).1

/-- Key generation from d: the encapsulation key and the secret vector in the NTT domain. -/
def kemKeys (p : KemSet) (d : List Byte) : List Byte × List Poly :=
  let g := sha3_512 (d ++ [BitVec.ofNat 8 p.k])
  let rho := g.take 32
  let s := (List.range p.k).map fun i => ntt kemRing (kemNoise (g.drop 32) i)
  let t := (List.range p.k).map fun i =>
    polyAdd kemRing (dot kemRing ((List.range p.k).map (kemA rho i)) s) (ntt kemRing (kemNoise (g.drop 32) (p.k + i)))
  (t.flatMap (byteEncode 12) ++ rho, s)

/-- K-PKE encryption of m with coins r. -/
def kemEncrypt (p : KemSet) (ek m r : List Byte) : List Byte :=
  let t := (chunks 384 p.k ek).map (byteDecode 12)
  let rho := ek.drop (384 * p.k)
  let y := (List.range p.k).map fun i => ntt kemRing (kemNoise r i)
  let u := (List.range p.k).map fun j =>
    polyAdd kemRing (intt kemRing (dot kemRing ((List.range p.k).map fun i => kemA rho i j) y)) (kemNoise r (p.k + j))
  let mu := (unpackBits 1 256 m).map (decompress 1)
  let v := polyAdd kemRing (polyAdd kemRing (intt kemRing (dot kemRing t y)) (kemNoise r (2 * p.k))) mu
  (u.flatMap fun f => byteEncode p.du (f.map (compress p.du))) ++ byteEncode p.dv (v.map (compress p.dv))

/-- The input check of an encapsulation key: its length and its modulus check (R678). -/
def kemEkOk (p : KemSet) (ek : List Byte) : Bool :=
  decide (ek.length = 384 * p.k + 32) && (chunks 384 p.k ek).all fun c => (unpackBits 12 256 c).all (· < 3329)

/-- Encaps with m: the shared secret and the ciphertext. -/
def kemEncaps (p : KemSet) (ek m : List Byte) : List Byte × List Byte :=
  let g := sha3_512 (m ++ sha3_256 ek)
  (g.take 32, kemEncrypt p ek m (g.drop 32))

/-- Decaps with implicit rejection, from the seed (d, z). -/
def kemDecaps (p : KemSet) (d z ct : List Byte) : List Byte :=
  let ks := kemKeys p d
  let u := (chunks (32 * p.du) p.k ct).map fun c => (byteDecode p.du c).map (decompress p.du)
  let v := (byteDecode p.dv (ct.drop (32 * p.du * p.k))).map (decompress p.dv)
  let w := polySub kemRing v (intt kemRing (dot kemRing ks.2 (u.map (ntt kemRing))))
  let m := byteEncode 1 (w.map (compress 1))
  let g := sha3_512 (m ++ sha3_256 ks.1)
  if kemEncrypt p ks.1 m (g.drop 32) = ct then g.take 32 else shake256 (z ++ ct) 32

/-- Ciphertext bytes. -/
def kemCtLen (p : KemSet) : Nat := 32 * (p.du * p.k + p.dv)

/-! ### ML-DSA (FIPS 204) -/

/-- A parameter set. -/
structure DsaSet where
  k : Nat
  l : Nat
  eta : Nat
  tau : Nat
  beta : Nat
  omega : Nat
  cLen : Nat

/-- The sets of ALG 0x32 and 0x33. -/
def dsaSet (alg : Nat) : DsaSet := if alg = 0x32 then ⟨6, 5, 4, 49, 196, 55, 48⟩ else ⟨8, 7, 2, 60, 120, 75, 64⟩

/-- q, gamma1 and gamma2. -/
def dsaQ : Nat := 8380417
/-- gamma1. -/
def dsaG1 : Nat := 2 ^ 19
/-- gamma2. -/
def dsaG2 : Nat := (8380417 - 1) / 32

/-- The absolute value of a coefficient taken about zero. -/
def centred (x : Nat) : Nat := if 2 * x > dsaQ then dsaQ - x else x
/-- The infinity norm of polynomials. -/
def normInf (v : List Poly) : Nat := v.foldl (fun m f => f.foldl (fun m x => max m (centred x)) m) 0

/-- The nibbles that RejBoundedPoly accepts, as coefficients. -/
def boundedFrom (eta : Nat) (bs : List Byte) : List Nat :=
  (bs.flatMap fun b => [b.toNat % 16, b.toNat / 16]).filterMap fun z =>
    if eta = 2 then (if z < 15 then some ((dsaQ + 2 - z % 5) % dsaQ) else none)
    else (if z < 9 then some ((dsaQ + 4 - z) % dsaQ) else none)

/-- RejBoundedPoly for the n-th secret polynomial. -/
def dsaSecret (eta : Nat) (seed : List Byte) (n : Nat) : Poly := (boundedFrom eta (shake256 (seed ++ bytesLE 2 n) 1088)).take 256

/-- ExpandA's entry of row i, column j. -/
def dsaA (rho : List Byte) (i j : Nat) : Poly := (sampleNtt dsaRing (rho ++ [BitVec.ofNat 8 j, BitVec.ofNat 8 i])).1

/-- Power2Round: high part, and low part modulo q. -/
def power2Round (x : Nat) : Nat × Nat :=
  let r := x % 8192
  let lo : Int := if 4096 < r then (r : Int) - 8192 else r
  (((x : Int) - lo).toNat / 8192, (lo % dsaQ).toNat)

/-- Decompose: high part, and low part as an integer. -/
def decompose (x : Nat) : Nat × Int :=
  let m := 2 * dsaG2
  let r := x % m
  let lo : Int := if dsaG2 < r then (r : Int) - m else r
  if (x : Int) - lo = dsaQ - 1 then (0, lo - 1) else (((x : Int) - lo).toNat / m, lo)

/-- The expanded key: rho, K, tr, and s1, s2, t0 in the NTT domain, with the public key. -/
structure DsaKey where
  rho : List Byte
  bigK : List Byte
  tr : List Byte
  s1 : List Poly
  s2 : List Poly
  t0 : List Poly
  pk : List Byte

/-- The matrix times a vector in the NTT domain, back in the normal one. -/
def dsaMatMul (p : DsaSet) (rho : List Byte) (v : List Poly) : List Poly :=
  (List.range p.k).map fun i => intt dsaRing (dot dsaRing ((List.range p.l).map (dsaA rho i)) v)

/-- Key generation from the seed xi. -/
def dsaKeys (p : DsaSet) (xi : List Byte) : DsaKey :=
  let h := shake256 (xi ++ [BitVec.ofNat 8 p.k, BitVec.ofNat 8 p.l]) 128
  let rho := h.take 32
  let rp := (h.drop 32).take 64
  let s1 := (List.range p.l).map fun i => ntt dsaRing (dsaSecret p.eta rp i)
  let s2 := (List.range p.k).map fun i => dsaSecret p.eta rp (p.l + i)
  let t := (dsaMatMul p rho s1).zipWith (polyAdd dsaRing) s2
  let pk := rho ++ t.flatMap fun f => packBits 10 (f.map fun x => (power2Round x).1)
  { rho := rho, bigK := h.drop 96, tr := shake256 pk 64, s1 := s1, s2 := s2.map (ntt dsaRing),
    t0 := t.map fun f => ntt dsaRing (f.map fun x => (power2Round x).2), pk := pk }

/-- SampleInBall: the places and signs that the bytes after the first eight give. -/
def ballStep (signs : Nat) (tau : Nat) : Nat → List Byte → Poly → Poly
  | 0, _, c => c
  | _, [], c => c
  | n + 1, b :: bs, c =>
    let i := 256 - (n + 1)
    if b.toNat ≤ i then
      ballStep signs tau n bs ((c.set i (c.getD b.toNat 0)).set b.toNat (if signs / 2 ^ (i + tau - 256) % 2 = 1 then dsaQ - 1 else 1))
    else ballStep signs tau (n + 1) bs c
  termination_by structural _ bs _ => bs

/-- SampleInBall. -/
def sampleInBall (tau : Nat) (c : List Byte) : Poly :=
  let h := shake256 c 1096
  ballStep (ofBytesLE (h.take 8)) tau tau (h.drop 8) polyZero

/-- ExpandMask's n-th polynomial. -/
def dsaMask (rho : List Byte) (n : Nat) : Poly :=
  (unpackBits 20 256 (shake256 (rho ++ bytesLE 2 n) 640)).map fun x => (dsaG1 + dsaQ - x) % dsaQ

/-- w1Encode. -/
def w1Encode (w : List Poly) : List Byte := w.flatMap (packBits 4)

/-- HintBitPack. -/
def packHint (omega : Nat) (h : List (List Nat)) : List Byte :=
  let places := h.map fun f => (List.range 256).filter fun i => f.getD i 0 = 1
  let ends := (places.foldl (fun (p : List Nat × Nat) x => (p.1 ++ [p.2 + x.length], p.2 + x.length)) ([], 0)).1
  fit omega (places.flatten.map (BitVec.ofNat 8)) ++ ends.map (BitVec.ofNat 8)

/-- One pass of the rejection loop at counter kappa: the signature, where it is accepted. -/
def dsaTry (p : DsaSet) (k : DsaKey) (mu rhop : List Byte) (kappa : Nat) : Option (List Byte) :=
  let y := (List.range p.l).map fun i => dsaMask rhop (kappa + i)
  let w := dsaMatMul p k.rho (y.map (ntt dsaRing))
  let ct := shake256 (mu ++ w1Encode (w.map fun f => f.map fun x => (decompose x).1)) p.cLen
  let c := ntt dsaRing (sampleInBall p.tau ct)
  let times := fun (v : List Poly) => v.map fun f => intt dsaRing (nttMul dsaRing c f)
  let z := y.zipWith (polyAdd dsaRing) (times k.s1)
  let r := w.zipWith (polySub dsaRing) (times k.s2)
  let r0 := r.foldl (fun m f => f.foldl (fun m x => max m (decompose x).2.natAbs) m) 0
  let ct0 := times k.t0
  let h := r.zipWith (fun f g => f.zipWith (fun x y => if (decompose x).1 = (decompose ((x + y) % dsaQ)).1 then 0 else 1) g) ct0
  if dsaG1 - p.beta ≤ normInf z ∨ dsaG2 - p.beta ≤ r0 ∨ dsaG2 ≤ normInf ct0 ∨ p.omega < (h.map List.sum).sum then none
  else some (ct ++ (z.flatMap fun f => packBits 20 (f.map fun x => (dsaG1 + dsaQ - x) % dsaQ)) ++ packHint p.omega h)

/-- The rejection loop: the signature and its iteration count, within `fuel` passes. (DESIGN CHOICE, log 47.) -/
def dsaLoop (p : DsaSet) (k : DsaKey) (mu rhop : List Byte) : Nat → Nat → Option (List Byte × Nat)
  | 0, _ => none
  | fuel + 1, n => match dsaTry p k mu rhop (n * p.l) with
    | some s => some (s, n + 1)
    | none => dsaLoop p k mu rhop fuel (n + 1)

/-- The message representative of pure ML-DSA with a context string. -/
def dsaMu (tr ctx msg : List Byte) : List Byte := shake256 (tr ++ [0, BitVec.ofNat 8 ctx.length] ++ ctx ++ msg) 64

/-- ML-DSA signing with hedging value rnd. -/
def dsaSign (p : DsaSet) (xi ctx msg rnd : List Byte) (fuel : Nat) : Option (List Byte × Nat) :=
  let k := dsaKeys p xi
  let mu := dsaMu k.tr ctx msg
  dsaLoop p k mu (shake256 (k.bigK ++ rnd ++ mu) 64) fuel 0

/-- Signature and public-key bytes. -/
def dsaSigLen (p : DsaSet) : Nat := p.cLen + 640 * p.l + p.omega + p.k
/-- Public-key bytes. -/
def dsaPkLen (p : DsaSet) : Nat := 32 + 320 * p.k

/-- The hint places of one polynomial rise strictly. -/
def risesNat : List Nat → Bool
  | a :: b :: t => decide (a < b) && risesNat (b :: t)
  | _ => true

/-- HintBitUnpack. -/
def unpackHint (p : DsaSet) (bs : List Byte) : Option (List (List Nat)) :=
  let ends := (bs.drop p.omega).map (·.toNat)
  let starts := 0 :: ends
  let parts := (List.range p.k).map fun i => ((bs.take (ends.getD i 0)).drop (starts.getD i 0)).map (·.toNat)
  if (ends.zip starts).all (fun e => decide (e.2 ≤ e.1 ∧ e.1 ≤ p.omega)) && parts.all risesNat
      && ((bs.take p.omega).drop (ends.getLastD 0)).all (· = 0) then some parts else none

/-- UseHint. -/
def useHint (h x : Nat) : Nat :=
  let d := decompose x
  if h = 0 then d.1 else if 0 < d.2 then (d.1 + 1) % 16 else (d.1 + 15) % 16

/-- ML-DSA verification. -/
def dsaVerify (p : DsaSet) (pk ctx msg sig : List Byte) : Bool :=
  if sig.length ≠ dsaSigLen p ∨ pk.length ≠ dsaPkLen p then false
  else
    let ct := sig.take p.cLen
    let z := (chunks 640 p.l (sig.drop p.cLen)).map fun c => (unpackBits 20 256 c).map fun x => (dsaG1 + dsaQ - x) % dsaQ
    match unpackHint p (sig.drop (p.cLen + 640 * p.l)) with
    | none => false
    | some hs =>
      let rho := pk.take 32
      let t1 := (chunks 320 p.k (pk.drop 32)).map fun c => ntt dsaRing ((unpackBits 10 256 c).map (· * 8192 % dsaQ))
      let mu := dsaMu (shake256 pk 64) ctx msg
      let c := ntt dsaRing (sampleInBall p.tau ct)
      let w := (dsaMatMul p rho (z.map (ntt dsaRing))).zipWith (polySub dsaRing) (t1.map fun f => intt dsaRing (nttMul dsaRing c f))
      let w1 := (w.zip hs).map fun e => (List.range 256).map fun i => useHint (bit (e.2.contains i)) (e.1.getD i 0)
      decide (normInf z < dsaG1 - p.beta) && decide (shake256 (mu ++ w1Encode w1) p.cLen = ct)

end Sys2Proof.Machine
end

