-- ==== Sys2Proof/Machine/LightTable.lean ====
section
/-!
DEFINITION. The light table (03): its sections, the checks of Table 3.14 in their order, and the fields that a table which
passes them sets.
-/

namespace Sys2Proof.Machine

/-- A little-endian field of `n` bytes at `i`. -/
def leField (bs : List Byte) (i n : Nat) : Nat := ofBytesLE ((bs.drop i).take n)

/-- `n` bytes at `i` are zero. -/
def zeroAt (bs : List Byte) (i n : Nat) : Bool := ((bs.drop i).take n).all fun b => decide (b = 0)

/-- ASCII "KLXLT" and "KLXUP": the magic and context strings of a light table and of a package. -/
def klxlt : List Byte := [0x4B, 0x4C, 0x58, 0x4C, 0x54]
/-- See `klxlt`. -/
def klxup : List Byte := [0x4B, 0x4C, 0x58, 0x55, 0x50]

/-- Bytes of a signature block (Table 3.13). -/
def sigLen : Nat := 4736

/-- R123-R125, R799: which signatures of a block verify over `msg`: ML-DSA-87 with a context string, ECDSA P-384 over
SHA-384. -/
def sigsOf (key : List Byte × List Byte) (ctx msg sig : List Byte) : Bool × Bool :=
  (dsaVerify (dsaSet 0x33) key.1 ctx msg ((sig.drop 8).take 4627),
   match ecDecode key.2 with
   | some q => ecdsaVerify q (ofBytesBE ((sig.drop 4640).take 48)) (ofBytesBE ((sig.drop 4688).take 48)) (sha384 msg)
   | none => false)

/-! ### Sections (§3.3) -/

/-- One section TLV. -/
structure Tlv where
  code : Nat
  optional : Bool
  version : Nat
  reserved : Nat
  value : List Byte
  padding : List Byte
  deriving DecidableEq, Repr

/-- R112, R113: the TLVs of the bytes past the header; none where they do not end exactly at the last one. -/
def tlvs : Nat → List Byte → Option (List Tlv)
  | _, [] => some []
  | 0, _ :: _ => none
  | fuel + 1, bs =>
    let len := leField bs 4 4
    let size := 8 + (len + 7) / 8 * 8
    if bs.length < size then none
    else
      let t : Tlv := ⟨leField bs 0 2 % 2 ^ 15, decide (2 ^ 15 ≤ leField bs 0 2), leField bs 2 1, leField bs 3 1, (bs.drop 8).take len,
        ((bs.take size).drop (8 + len))⟩
      (tlvs fuel (bs.drop size)).map (t :: ·)

/-- R115: a section is known. -/
def Tlv.known (t : Tlv) : Bool := decide (1 ≤ t.code ∧ t.code ≤ 12) && decide (t.version ≤ 1)

/-- Table 3.2: the LENGTH of a section. -/
def Tlv.lengthDue (t : Tlv) : Nat :=
  match t.code with
  | 1 => 8 + 8 * leField t.value 4 2
  | 2 => 136
  | 3 => 16 + 8 * leField t.value 8 2
  | 4 => 72
  | 5 => 56 + 4 * leField t.value 50 2
  | 6 => 8 + 16 * leField t.value 2 2
  | 7 => 1280
  | 8 => 16
  | _ => 8

/-- R117. -/
def Tlv.lengthOk (t : Tlv) : Bool := !t.known || t.value.isEmpty || decide (t.value.length = t.lengthDue)

/-- The value of a section that sets its fields; none where it takes its defaults (R116). -/
def sectionOf (ts : List Tlv) (code : Nat) : Option (List Byte) :=
  (ts.find? fun t => t.known && decide (t.code = code) && !t.value.isEmpty).map (·.value)

/-- The entries of a section: `n` of `size` bytes from `i` on. -/
def entriesOf (v : List Byte) (i size n : Nat) : List (List Byte) := (List.range n).map fun k => (v.drop (i + size * k)).take size

/-- No number twice. -/
def noRepeat : List Nat → Bool
  | [] => true
  | a :: t => !t.contains a && noRepeat t

/-! ### Section contents (§3.4): each gives the fields, or none where R118 rejects -/

/-- Table 3.3. -/
def readFunctions (v : List Byte) (lt : LightTable) : Option LightTable :=
  let vf := leField v 0 1
  let es := entriesOf v 8 8 (leField v 4 2)
  let entryOk := fun (e : List Byte) =>
    decide (1 ≤ leField e 0 1 ∧ leField e 0 1 ≤ vf) && decide (leField e 1 1 ≤ 16 ∧ leField e 2 1 ≤ 16 ∧ leField e 3 1 ≤ 16)
      && decide (leField e 4 1 < 2) && zeroAt e 5 3
  if decide (leField v 1 1 < 2) && decide (leField v 2 2 ≤ 1020) && decide (leField v 4 2 ≤ 255) && zeroAt v 6 2 && es.all entryOk
      && noRepeat (es.map fun e => leField e 0 1) then
    some { lt with
      vfCount := vf, pfMgmtModule := decide (leField v 1 1 = 1), pfHostRings := leField v 2 2
      fns := es.foldl (fun t e => tset {} t (leField e 0 1)
        ⟨leField e 1 1, leField e 2 1, leField e 3 1, decide (leField e 4 1 = 1)⟩) [] }
  else none

/-- Table 3.4. -/
def readSites (v : List Byte) (lt : LightTable) : Option LightTable :=
  let owners := (v.take 64).map BitVec.toNat
  let sites := ((v.drop 64).take 64).map BitVec.toNat
  if owners.all (fun f => decide (f ≤ lt.vfCount)) && sites.all (fun n => decide (n < 64)) then
    some { lt with siteOwner := owners, channelSite := sites, failsafe := BitVec.ofNat 64 (leField v 128 8) }
  else none

/-- Table 3.5. -/
def readWorld (v : List Byte) (lt : LightTable) : Option LightTable :=
  let es := entriesOf v 16 8 (leField v 8 2)
  let entryOk := fun (e : List Byte) =>
    decide (1 ≤ leField e 0 1) && decide (leField e 1 1 ≤ lt.vfCount) && decide (leField e 2 1 ≤ 16) && zeroAt e 3 1
      && decide (1 ≤ leField e 4 2 ∧ leField e 4 2 ≤ 1024) && zeroAt e 6 2
  let ms := leField v 4 4
  if decide (leField v 0 1 < 2) && decide (leField v 1 1 < 2) && zeroAt v 2 2 && decide (1 ≤ ms ∧ ms ≤ 10000)
      && decide (leField v 8 2 ≤ 255) && zeroAt v 10 6 && es.all entryOk && noRepeat (es.map fun e => leField e 0 1) then
    some { lt with
      cacheFlush := decide (leField v 0 1 = 1), wdHard := decide (leField v 1 1 = 1), wdTimeoutMs := ms
      encl := es.map fun e => ⟨leField e 0 1, leField e 1 1, leField e 2 1, leField e 4 2⟩ }
  else none

/-- Table 3.6. -/
def readAttrib (v : List Byte) (lt : LightTable) : Option LightTable :=
  if leField v 69 1 < 16 ∧ leField v 70 1 < 4 then
    some { lt with
      irqWorld := BitVec.ofNat 512 (leField v 0 64), dmaWorld := BitVec.ofNat 32 (leField v 64 4)
      gpioWorld := BitVec.ofNat 8 (leField v 68 1), muInitial := BitVec.ofNat 4 (leField v 69 1)
      luInitial := BitVec.ofNat 2 (leField v 70 1), sdInitial := BitVec.ofNat 8 (leField v 71 1) }
  else none

/-- Table 3.7. -/
def readCrypto (v : List Byte) (lt : LightTable) : Option LightTable :=
  let es := entriesOf v 56 4 (leField v 50 2)
  let entryOk := fun (e : List Byte) => decide (leField e 0 1 ≤ lt.vfCount) && zeroAt e 1 1 && decide (leField e 2 2 ≤ 8192)
  if decide (leField v 48 2 ≤ 8192) && decide (leField v 50 2 ≤ 256) && zeroAt v 52 4 && es.all entryOk
      && noRepeat (es.map fun e => leField e 0 1) then
    some { lt with
      kekSalt := BitVec.ofNat 256 (leField v 0 32), trustDomain := BitVec.ofNat 128 (leField v 32 16), slotQuota := leField v 48 2
      slotQuotas := es.map fun e => (leField e 0 1, leField e 2 2) }
  else none

/-- Table 3.8. -/
def readDispatch (v : List Byte) (lt : LightTable) : Option LightTable :=
  let es := entriesOf v 8 16 (leField v 2 2)
  let entryOk := fun (e : List Byte) =>
    decide (leField e 0 1 ≤ lt.vfCount) && zeroAt e 1 1 && decide (leField e 4 2 ≤ 32768) && zeroAt e 6 2 && zeroAt e 11 5
  if decide (leField v 0 1 ≤ 20) && decide (leField v 1 1 < 2) && decide (leField v 2 2 ≤ 256) && zeroAt v 4 4 && es.all entryOk
      && noRepeat (es.map fun e => leField e 0 1) then
    some { lt with
      tickExp := leField v 0 1, traceStop := decide (leField v 1 1 = 1)
      disp := es.map fun e => ⟨leField e 0 1, leField e 2 2, leField e 4 2, BitVec.ofNat 24 (leField e 8 3)⟩ }
  else none

/-- The range of a CHAN word (Table 3.9). -/
def chanWordOk (w : W32) : Bool :=
  decide (bits w 0 3 ≤ 5) && !w.getLsbD 3 && decide (bits w 4 2 ≤ 2) && !w.getLsbD 7 && decide (bits w 11 5 = 0)
    && decide (1 ≤ bits w 16 5 ∧ bits w 16 5 ≤ 16) && decide (bits w 21 3 = 0) && decide (bits w 25 7 = 0)

/-- Table 3.9. -/
def readMeasure (v : List Byte) (lt : LightTable) : Option LightTable :=
  let words := fun (i n : Nat) => (entriesOf v i 4 n).map fun e => BitVec.ofNat 32 (ofBytesLE e)
  let ch : List W32 := words 1024 64
  if ch.all chanWordOk then some { lt with coef := words 0 256, chan := ch } else none

/-- Table 3.10. -/
def readLanes (v : List Byte) (lt : LightTable) : Option LightTable :=
  if decide (1 ≤ leField v 8 2 ∧ leField v 8 2 ≤ 1000) && decide (1 ≤ leField v 10 1) && zeroAt v 11 5 then
    some { lt with laneEnable := BitVec.ofNat 64 (leField v 0 8), ackTimeoutUs := leField v 8 2, retryLimit := leField v 10 1 }
  else none

/-- Table 3.11, LOGBOOK. -/
def readLogbook (v : List Byte) (lt : LightTable) : Option LightTable :=
  if decide (1000 ≤ leField v 0 4 ∧ leField v 0 4 ≤ 8000000) && zeroAt v 4 4 then some { lt with acceptRateCap := leField v 0 4 } else none

/-- Table 3.11, UPDATE. -/
def readUpdate (v : List Byte) (lt : LightTable) : Option LightTable :=
  if decide (10 ≤ leField v 0 2 ∧ leField v 0 2 ≤ 1800) && decide (leField v 2 1 < 16) && zeroAt v 3 5 then
    some { lt with healthWindowS := leField v 0 2, updFlags := BitVec.ofNat 4 (leField v 2 1) }
  else none

/-- Table 3.12, POWER. -/
def readPower (v : List Byte) (lt : LightTable) : Option LightTable :=
  if decide (190 ≤ leField v 0 2 ∧ leField v 0 2 ≤ 320) && decide (leField v 2 1 < 2) && zeroAt v 3 5 then
    some { lt with powerCapW := leField v 0 2, singleFeedTrouble := decide (leField v 2 1 = 1) }
  else none

/-- Table 3.12, THERMAL. -/
def readThermal (v : List Byte) (lt : LightTable) : Option LightTable :=
  if decide (70 ≤ leField v 0 1 ∧ leField v 0 1 ≤ 105) && decide (80 ≤ leField v 1 1 ∧ leField v 1 1 ≤ 110) && zeroAt v 2 6 then
    some { lt with warnC := leField v 0 1, throttleC := leField v 1 1 }
  else none

/-- Every section in the order of its code, each with its reader. -/
def sectionReaders : List (Nat × (List Byte → LightTable → Option LightTable)) :=
  [(1, readFunctions), (2, readSites), (3, readWorld), (4, readAttrib), (5, readCrypto), (6, readDispatch), (7, readMeasure),
   (8, readLanes), (9, readLogbook), (10, readUpdate), (11, readPower), (12, readThermal)]

/-- R116, R118: the fields that the sections set over the defaults; none where one is rejected. -/
def readSections (ts : List Tlv) : Option LightTable :=
  sectionReaders.foldl (fun lt r =>
    match lt, sectionOf ts r.1 with
    | some t, some v => r.2 v t
    | t, none => t
    | none, _ => none) (some {})

/-- R116: FN_LT_STATUS.DEFAULTED. -/
def defaultedOf (ts : List Tlv) : BitVec 12 :=
  BitVec.ofNat 12 (ofBits ((List.range 12).map fun i => (sectionOf ts (i + 1)).isNone))

/-- R119: the fields conflict. -/
def conflicting (lt : LightTable) : Bool :=
  let vfs := (List.range lt.vfCount).map (· + 1)
  let ringsOfVf := fun f => (lt.entry f).hostRings + (lt.entry f).moduleRings
  let enclRings := fun f => ((lt.encl.filter fun d => decide (d.owner = f)).map (·.rings)).sum
  let fns := List.range (lt.vfCount + 1)
  decide (1024 < 4 + (vfs.map ringsOfVf).sum + (lt.encl.map (·.rings)).sum)
    || vfs.any (fun f => decide (16 < ringsOfVf f + enclRings f))
    || decide (2048 < 64 + (vfs.map fun f => (lt.entry f).vectors).sum)
    || decide (1024 < (lt.encl.map (·.quota)).sum)
    || decide (8192 < (fns.map lt.keyQuota).sum)
    || decide (65536 < (fns.map fun f => (lt.domain f).1).sum)
    || decide (32768 < (fns.map fun f => (lt.domain f).2.1).sum)
    || fns.any (fun f => decide ((lt.domain f).2.2 = 0 ∧ 0 < (lt.domain f).1))
    || decide (lt.throttleC < lt.warnC)

/-! ### The checks (Table 3.14) -/

/-- What a check of a light table gives: a result code, and for OK the table with its fields. -/
inductive LightCheck
  | code (n : Nat)
  | good (lt : LightTable)
  deriving DecidableEq, Repr

/-- Table 3.14's result code. -/
def LightCheck.result : LightCheck → Nat
  | .code n => n
  | .good _ => 0

/-- R118, R119 and what is left once the form is sound (orders 10 to 12). `body` is the signed region. (DEDUCED, log 26.) -/
def checkFields (ts : List Tlv) (body : List Byte) (keyId : Nat) : LightCheck :=
  if ts.any fun t => !t.known && !t.optional then .code 0x0A
  else match readSections ts with
    | none => .code 0x0B
    | some lt =>
      if conflicting lt then .code 0x0C
      else .good { lt with
        applied := true, defaulted := defaultedOf ts, serial := BitVec.ofNat 64 (leField body 0x18 8), keyId := BitVec.ofNat 2 keyId
        digest := BitVec.ofNat 384 (ofBytesLE (sha384 body)) }

/-- The order-9 conditions on the header, the TLVs and the signature block. -/
def structureOk (body sig : List Byte) (ts : List Tlv) : Bool :=
  decide (leField body 0x0C 2 ≤ 12) && decide (ts.length = leField body 0x0C 2) && zeroAt body 7 1 && zeroAt body 0x0E 2 && zeroAt body 0x14 4
    && zeroAt sig 4 4 && zeroAt sig 4635 5
    && ts.all (fun t => decide (t.reserved = 0) && t.padding.all (fun b => decide (b = 0)) && t.lengthOk)
    && rises (ts.map fun t => (t.code, ()))

/-- R126: orders 2 to 12 over the bytes of a LIGHT_TABLE component, under the key pairs of its slot. Of a component shorter than the
64-byte header (R111) the missing bytes are absent, so that NO_MAGIC, FORMAT, PART or LENGTH says so. (DEDUCED, log 26.) -/
def checkLightTable (keys : List (List Byte × List Byte)) (bs : List Byte) : LightCheck :=
  let n := leField bs 8 4
  if bs.take 5 ≠ klxlt then .code 0x02
  else if leField bs 5 1 ≠ 1 then .code 0x03
  else if leField bs 0x10 4 ≠ 0x4B640128 then .code 0x04
  else if n % 8 ≠ 0 ∨ n < 64 ∨ 1043840 < n ∨ bs.length < n + sigLen then .code 0x05
  else
    let body := bs.take n
    let sig := (bs.drop n).take sigLen
    match keys[leField sig 2 2]? with
    | none => .code 0x06
    | some key =>
      if leField sig 0 2 ≠ 1 then .code 0x06
      else
        let v := sigsOf key klxlt body sig
        if !v.1 then .code 0x07
        else if !v.2 then .code 0x08
        else match tlvs 12 (body.drop 64) with
          | none => .code 0x09
          | some ts => if structureOk body sig ts then checkFields ts body (leField sig 2 2) else .code 0x09

end Sys2Proof.Machine
end

