-- ==== Sys2Proof/Machine/Packages.lean ====
section
/-!
DEFINITION. The attached NOR and update packages (17 §17.1, §17.2): its layout, what a slot's regions hold, and the checks of
a package and of a whole slot.
-/

namespace Sys2Proof.Machine

/-! ### The NOR (Table 17.2) -/

/-- Where a slot's region of a kind begins; `light` is the light-table region. -/
def regionBase (k : Slot) (light : Bool) : Nat := 0x4000000 * k.num + (if light then 0x2000000 else 0)
/-- The size of a region of a kind. -/
def regionSize (light : Bool) : Nat := if light then 0x200000 else 0x2000000

/-- `n` bytes of the NOR; an erased byte is 0xFF. -/
def norRead (s : State) (a n : Nat) : List Byte := (List.range n).map fun i => tget 0xFF s.up.nor (a + i)

/-- `n` bytes at an offset of a region. (DESIGN CHOICE, log 9.) -/
def regionRead (s : State) (k : Slot) (light : Bool) (i n : Nat) : List Byte := norRead s (regionBase k light + i) n

/-- Bytes from `a` up to `b` erased. -/
def norErase (a b : Nat) (s : State) : State :=
  s.onUp fun u => { u with nor := u.nor.filter fun e => !decide (a ≤ e.1 ∧ e.1 < b) }

/-- Table 17.1: Write Enable, then a command that changes the NOR. -/
def norChange (command : BitVec 16) (a : Nat) (s : State) : State := (s.emit (.nor 0x06F9 0)).emit (.nor command a)

/-- Page Program of the 256-byte pages that `n` bytes at `a` touch. -/
def programPages (a n : Nat) (s : State) : State :=
  (List.range ((a + n + 255) / 256 - a / 256)).foldl (fun t i => norChange 0x12ED (256 * (a / 256 + i)) t) s

/-- Reset Enable and Reset (R792). -/
def norReset (s : State) : State := (s.emit (.nor 0x6699 0)).emit (.nor 0x9966 0)

/-- Bytes programmed from `a` on. -/
def norProgram (a : Nat) (bs : List Byte) (s : State) : State :=
  (programPages a bs.length s).onUp fun u => { u with nor := bs.zipIdx.foldl (fun t e => tset 0xFF t (a + e.2) e.1) u.nor }

/-- The 64 KiB Block Erase at an address of a slot, with its count (R794). -/
def countErase (k : Slot) (a : Nat) (s : State) : State :=
  (norChange 0xDC23 a s).onUp fun u => u.onSlot k fun r => { r with erases := tmod 0 r.erases (a % 0x4000000 / 65536) (· + 1) }

/-- Erases the first `n` blocks of a region. -/
def eraseBlocks (k : Slot) (light : Bool) (n : Nat) (s : State) : State :=
  (List.range n).foldl (fun t i => countErase k (regionBase k light + 65536 * i) t)
    (norErase (regionBase k light) (regionBase k light + 65536 * n) s)

/-- R814 step 5: a region of the target takes the other slot's content, its blocks erased first. -/
def copyRegion (src dst : Slot) (light : Bool) (s : State) : State :=
  let t := eraseBlocks dst light (regionSize light / 65536) s
  let lo := regionBase src light
  let held := t.up.nor.filter fun e => decide (lo ≤ e.1 ∧ e.1 < lo + regionSize light)
  let pages := (held.map fun e => (e.1 - lo + regionBase dst light) / 256).eraseDups
  (pages.foldl (fun t p => norChange 0x12ED (256 * p) t) t).onUp fun u =>
    { u with nor := held.foldl (fun n e => tset 0xFF n (e.1 - lo + regionBase dst light) e.2) u.nor }

/-- UP_SLOTs_ERASES: the most-erased block (R794). -/
def SlotRec.eraseMax (r : SlotRec) : Nat := r.erases.foldl (fun m e => max m e.2) 0

/-- R793: the slot is WORN for good; a transfer into it is over. -/
def wearOut (k : Slot) (s : State) : State :=
  s.onUp fun u => { (u.onSlot k fun r => { r with st := .worn }) with
    trouble := setBit u.trouble 2, xfer := u.xfer.filter fun x => decide (x.target ≠ k) }

/-! ### Packages (Tables 17.3, 17.4) -/

/-- A component entry. -/
structure Component where
  type : Nat
  optional : Bool
  offset : Nat
  length : Nat
  hash : List Byte
  deriving DecidableEq, Repr

/-- A package as its header describes it. -/
structure Package where
  signer : Nat
  len : Nat
  version : Nat
  build : W64
  parts : List Component
  deriving DecidableEq, Repr

/-- One component entry; none where Table 17.4 is broken. -/
def readComponent (e : List Byte) : Option Component :=
  if decide (leField e 2 2 < 2) && decide (leField e 4 4 % 4096 = 0) && decide (1 ≤ leField e 8 4) && zeroAt e 12 4 then
    some ⟨leField e 0 2, decide (leField e 2 2 = 1), leField e 4 4, leField e 8 4, (e.drop 16).take 48⟩
  else none

/-- R796: the components lie in ascending order without overlap, from `lo` up to `hi`, with zeros between them.
(DEDUCED, log 57.) -/
def partsLie (rd : Nat → Nat → List Byte) (hi : Nat) : Nat → Bool → List Component → Bool
  | _, _, [] => true
  | lo, gap, c :: t =>
    decide (lo ≤ c.offset ∧ c.offset + c.length ≤ hi)
      && (!gap || (rd lo (c.offset - lo)).all fun b => decide (b = 0)) && partsLie rd hi (c.offset + c.length) true t

/-- R797: the component types suit the kind of package. -/
def typesOk (light : Bool) (cs : List Component) : Bool :=
  let count := fun n => (cs.filter fun c => decide (c.type = n)).length
  cs.all (fun c => c.optional || decide (1 ≤ c.type ∧ c.type ≤ 4) || decide (c.type = 0x10))
    && (if light then decide (count 0x10 = 1) && [1, 2, 3, 4].all (fun n => decide (count n = 0))
          && cs.all (fun c => decide (c.type = 0x10 → c.length ≤ 1048576))
        else [1, 2, 3, 4].all (fun n => decide (count n = 1)) && decide (count 0x10 = 0))

/-- The package at the start of a region of a kind; none where Table 17.3, R796 or R797 is broken, or the SIGNER does not
suit the kind. (DEDUCED, log 26.) -/
def readPackage (rd : Nat → Nat → List Byte) (light : Bool) : Option Package :=
  let h := rd 0 4096
  let n := leField h 0x0C 2
  let len := leField h 8 4
  let es := entriesOf h 0x40 64 n
  let cs := es.filterMap readComponent
  let signer := leField h 7 1
  if decide (h.take 5 = klxup) && decide (leField h 5 1 = 1) && decide (1 ≤ n ∧ n ≤ 16) && zeroAt h 0x0E 2
      && decide (leField h 0x10 4 = 0x4B640128) && zeroAt h (0x40 + 64 * n) (64 * (16 - n)) && zeroAt h 0x440 3008
      && decide (len % 8 = 0 ∧ 4096 + sigLen ≤ len ∧ len ≤ regionSize light)
      && (if light then decide (1 ≤ signer ∧ signer ≤ 4) else decide (signer = 0) && decide (leField h 0x14 4 ≤ 64))
      && decide (cs.length = n) && partsLie rd (len - sigLen) 0x1000 false cs && typesOk light cs then
    some ⟨signer, len, leField h 0x14 4, BitVec.ofNat 64 (leField h 0x18 8), cs⟩
  else none

/-- The component of a type. -/
def Package.part (p : Package) (type : Nat) : Option Component := p.parts.find? fun c => c.type == type

/-- R798: the key pairs of an LT_KEYS component. -/
def readKeys (bs : List Byte) : List (List Byte × List Byte) :=
  let n := leField bs 0 1
  if decide (1 ≤ n ∧ n ≤ 4) && zeroAt bs 1 15 && decide (16 + 2720 * n ≤ bs.length) then
    (entriesOf bs 16 2720 n).map fun e => (e.take 2592, (e.drop 2592).take 97)
  else []

/-- The key pairs that the firmware region of a slot holds (R108, R109). (DEDUCED, log 26.) -/
def slotKeys (s : State) (k : Slot) : List (List Byte × List Byte) :=
  match (readPackage (regionRead s k false) false).bind (·.part 4) with
  | some c => readKeys (regionRead s k false c.offset c.length)
  | none => []

/-- Key pair `n` of LT_KEYS in the booted slot. -/
def ltKey (s : State) (n : Nat) : Option (List Byte × List Byte) := (slotKeys s (booted s))[n]?

/-- R799: both signatures of a package verify, under the key that its SIGNER names. -/
def packageSigned (s : State) (k : Slot) (light : Bool) (p : Package) : Bool :=
  let sig := regionRead s k light (p.len - sigLen) sigLen
  let key := if p.signer = 0 then some (Config.dexrovUpdateKey ()) else (slotKeys s k)[p.signer - 1]?
  decide (leField sig 0 2 = 1) && decide (leField sig 2 2 = p.signer - 1) && zeroAt sig 4 4 && zeroAt sig 4635 5
    && (match key with
        | some q => let v := sigsOf q klxup (regionRead s k light 0 (p.len - sigLen)) sig; v.1 && v.2
        | none => false)

/-- The first component whose SHA-384 differs. -/
def badHash (s : State) (k : Slot) (light : Bool) (p : Package) : Option Nat :=
  p.parts.findIdx? fun c => decide (sha384 (regionRead s k light c.offset c.length) ≠ c.hash)

/-- R810, R811: the version is too low. -/
def tooOld (s : State) (light : Bool) (version : Nat) : Bool :=
  if light then decide (version < s.up.floor) else decide (version < s.up.fuses)

/-- Table 3.14, orders 2 to 12, over the LIGHT_TABLE that a slot's package holds; a region without a sound package holds no
magic. -/
def slotLight (s : State) (k : Slot) : LightCheck :=
  match (readPackage (regionRead s k true) true).bind (·.part 0x10) with
  | some c => checkLightTable (slotKeys s k) (regionRead s k true c.offset (min c.length 1048576))
  | none => .code 0x02

/-- R816 steps 4 to 8: a region's package is sound, signed, whole and new enough, and its light table passes.
(DEDUCED, log 26.) -/
def packageCheck (s : State) (k : Slot) (light : Bool) (total : Option Nat) : Except Result Package :=
  match readPackage (regionRead s k light) light with
  | none => .error { status := 0x115 }
  | some p =>
    if total.any fun n => decide (n ≠ p.len) then .error { status := 0x115 }
    else if !packageSigned s k light p then .error { status := 0x116 }
    else match badHash s k light p with
      | some i => .error { status := 0x115, result32 := i }
      | none =>
        if tooOld s light p.version then .error { status := 0x117 }
        else if light then
          (match slotLight s k with
           | .good _ => .ok p
           | .code n => .error { status := 0x118, result32 := n })
        else .ok p

/-- R801 step 4: the slot's firmware package verifies. -/
def firmwareVerifies (s : State) (k : Slot) : Bool :=
  match readPackage (regionRead s k false) false with
  | none => false
  | some p => packageSigned s k false p && (badHash s k false p).isNone

/-- R817: the whole slot, as a boot verifies it and R810 and R811 ask for. -/
def slotCheck (s : State) (k : Slot) : Option Result :=
  match packageCheck s k false none with
  | .error e => some e
  | .ok _ =>
    match readPackage (regionRead s k true) true with
    | none => some { status := 0x115 }
    | some p =>
      if tooOld s true p.version then some { status := 0x117 }
      else match slotLight s k with
        | .good _ => none
        | .code n => some { status := 0x118, result32 := n }

end Sys2Proof.Machine
end

