-- ==== Sys2Proof/Machine/Buoy.lean ====
section
/-!
DEFINITION. The buoy chain's two ports (17 §17.7, R820-R823): training, frames and acknowledgement as on a site lane, with the
differences of Table 17.10, and what a port's leaving UP does to a transfer (R828).
-/

namespace Sys2Proof

/-- The number of a port: 0 UP, 1 DOWN (Table 17.14). -/
def Port.num : Port → Nat
  | .up => 0
  | .down => 1

end Sys2Proof

namespace Sys2Proof.Machine

/-- A port of the chain. -/
def State.bc (s : State) (p : Port) : ChainPort := match p with | .up => s.up.portUp | .down => s.up.portDown
/-- Changes a port of the chain. -/
def State.onBc (s : State) (p : Port) (f : ChainPort → ChainPort) : State :=
  s.onUp fun u => match p with
    | .up => { u with portUp := f u.portUp }
    | .down => { u with portDown := f u.portDown }

/-- Sets a bit of BC_TROUBLE. -/
def bcSet (b : Nat) (s : State) : State := s.onUp fun u => { u with bcTrouble := setBit u.bcTrouble b }

/-- Where a port stands in its training. -/
def ChainPort.phase (c : ChainPort) : LaneSt := if c.st = .down then c.train else c.st
/-- Moves a port on in its training. -/
def ChainPort.setPhase (c : ChainPort) (q : LaneSt) : ChainPort := if c.st = .down then { c with train := q } else { c with st := q }

/-! ### Frames (Tables 17.10, 17.11) -/

/-- The form of a chain frame: its length and the bytes that must be zero (Table 17.11, R753). -/
def chainSound (f : Frame) (reserved : Nat) : Bool :=
  let p := f.payload
  let n := p.length
  decide (reserved = 0) && decide (f.flags = 0) &&
    (match f.type with
     | 0x01 => decide (n = 0)
     | 0x10 => decide (n = 8) && decide ((p.getD 1 0).toNat < 2) && decide (beField p 2 2 = 0)
     | 0x12 => decide (n = 16) && decide ((p.getD 0 0).toNat < 2) && decide ((p.getD 1 0).toNat < 64)
         && decide ((p.getD 2 0).toNat < 2) && decide (beField p 3 5 = 0)
     | 0x40 => decide (n = 64) && decide (beField p 6 2 = 0) && decide (beField p 56 8 = 0)
     | 0x41 | 0x44 => decide (n = 8) && decide (beField p 2 2 = 0)
     | 0x42 => decide (n = 56)
     | 0x43 => decide (1 ≤ n ∧ n ≤ 2048)
     | 0x45 => decide (n = 24)
     | _ => false)

/-- A frame of the chain as received. -/
def parseChain (bs : List Block) : Parsed := parseBy chainSound bs

/-- A port sends a frame of epoch 1. -/
def sendChain (p : Port) (seq type : Nat) (payload : List Byte) (s : State) : State :=
  s.emit (.chainFrame p.num (frameBlocks (frameBytes 1 seq type 0 payload)))

/-- R757, R758: an ACK; a port keeps no store, so it always has room for 32 frames. -/
def chainAck (p : Port) (nak : Bool) (s : State) : State :=
  sendChain p (s.bc p).rxSeq.toNat 0x10 ([32] ++ bytesBE 1 (bit nak) ++ [0, 0, 0, 0, 0, 0]) s

/-- R758: the frames within CREDIT go out, in sequence order. -/
def chainTransmit (p : Port) (s : State) : State :=
  let c := s.bc p
  if c.st ≠ .up then s
  else
    let due := c.outs.filter fun o => !o.sent && decide (seqDist c.txAcked o.seq ≤ c.credit)
    let s := due.foldl (fun t o => sendChain p o.seq.toNat o.type o.payload t) s
    s.onBc p fun c => { c with outs := c.outs.map fun o => if due.contains o then { o with sent := true } else o }

/-- R760: every unacknowledged frame sent before is sent again. -/
def chainRetransmit (p : Port) (s : State) : State :=
  let c := s.bc p
  if c.st ≠ .up then s
  else chainTransmit p ((c.outs.filter (·.sent)).foldl (fun t o => sendChain p o.seq.toNat o.type o.payload t) s)

/-- Frames to deliver, in order; a port that is not UP sends none. -/
def chainQueue (p : Port) (fs : List (Nat × List Byte)) (s : State) : State :=
  if (s.bc p).st ≠ .up then s
  else chainTransmit p (s.onBc p fun c =>
    { c with outs := c.outs ++ fs.zipIdx.map fun e => { seq := c.txNext + BitVec.ofNat 32 e.2, type := e.1.1, payload := e.1.2 }
             txNext := c.txNext + BitVec.ofNat 32 fs.length })

/-! ### Leaving UP (R828) -/

/-- The open transfer ends and its target is EMPTY. -/
def abandon (s : State) : State :=
  match s.up.xfer with
  | none => s
  | some x => s.onUp fun u => { (u.onSlot x.target fun r => { r with st := .empty }) with xfer := none }

/-- R828: what a port's leaving UP does to a transfer over it. (DESIGN CHOICE, log 59.) -/
def chainLost (p : Port) (s : State) : State :=
  let s := s.onBc p fun c => { c with outs := [], timeouts := 0 }
  match p with
  | .up => if s.up.xfer.any fun x => decide (x.source = .chain) then abandon s else s
  | .down => s.onUp fun u => { u with fwd := u.fwd.map fun f => { f with stage := .port } }

/-- A port in UP loses its link and leaves for ALIGN. -/
def chainLockLoss (p : Port) (s : State) : State :=
  if (s.bc p).st = .up then chainLost p (s.onBc p fun c => { c with st := .align }) else s

/-- A port enters DOWN (R746, R761). -/
def chainDown (p : Port) (s : State) : State := bcSet 0 (chainLost p (s.onBc p fun c => { c with st := .down, train := .detect }))

/-! ### Training (R821, R822) -/

/-- R744 on a port. -/
def chainProbe (p : Port) (far : FarEnd) (s : State) : State :=
  if (s.bc p).phase = .detect ∧ far = .termination then s.onBc p fun c => { c.setPhase .align with swapped := false } else s

/-- A swapped cable (R822). -/
def chainSwapped (p : Port) (s : State) : State :=
  if (s.bc p).phase = .detect then bcSet 1 (s.onBc p fun c => { c with swapped := true }) else s

/-- Alignment on training blocks: an inverted pair is corrected and reported, crossed pairs are swapped back. -/
def chainLock (p : Port) (inverted crossed : Bool) (s : State) : State :=
  if (s.bc p).phase = .align then
    let s := s.onBc p fun c => { c.setPhase .hello with inverted := inverted, crossed := crossed }
    if inverted then bcSet 2 s else s
  else s

/-- The HELLO of Table 17.11. (DESIGN CHOICE, log 59.) -/
def chainHelloPayload (s : State) (p : Port) : List Byte :=
  bytesBE 1 p.num ++ bytesBE 1 s.pwr.modId.toNat ++ bytesBE 1 (bit s.up.daymark) ++ [0, 0, 0, 0, 0] ++ bytesBE 8 Config.deviceSerial.toNat

/-- HELLO is sent every 10 us. -/
def chainHello (p : Port) (s : State) : State :=
  if (s.bc p).phase = .hello then s.emit (.chainFrame p.num (frameBlocks (frameBytes 0 0 0x12 0 (chainHelloPayload s p)))) else s

/-- R746 on a port. -/
def chainTimeout (p : Port) (s : State) : State :=
  match (s.bc p).st with
  | .detect | .align | .hello => chainDown p s
  | .disabled | .up | .down => s

/-- R821, R822: a HELLO of the other role brings the port UP, with EPOCH 1 and SEQ 0. -/
def chainHelloReceived (p : Port) (blocks : List Block) (s : State) : State :=
  if (s.bc p).phase ≠ .hello then s
  else match parseChain blocks with
    | .good f =>
      if f.type ≠ 0x12 then s
      else if (f.payload.getD 0 0).toNat = p.num then bcSet 3 s
      else s.onBc p fun c =>
        { c with st := .up, train := .detect, peer := BitVec.ofNat 6 (f.payload.getD 1 0).toNat
                 peerSerial := BitVec.ofNat 64 (beField f.payload 8 8)
                 txNext := 0, txAcked := 0xFFFFFFFF#32, rxSeq := 0xFFFFFFFF#32, credit := 32, timeouts := 0, outs := [] }
    | _ => s

/-! ### Receiving -/

/-- R754-R757: a sequenced frame of a type, received in UP; `f` is what its delivery does. -/
def onChainFrame (p : Port) (type : Nat) (blocks : List Block) (f : List Byte → State → State) (s : State) : State :=
  if (s.bc p).st ≠ .up then s
  else match parseChain blocks with
    | .good g =>
      if g.type ≠ type ∨ g.epoch ≠ 1 then s
      else
        let d := seqDist (s.bc p).rxSeq g.seq
        if d = 1 then f g.payload (chainAck p false (s.onBc p fun c => { c with rxSeq := g.seq }))
        else if d = 0 ∨ 2 ^ 31 ≤ d then chainAck p false s
        else chainAck p true s
    | _ => s

/-- A VOID frame: acknowledged, and nothing is delivered. -/
def chainVoid (p : Port) (blocks : List Block) (s : State) : State := onChainFrame p 0x01 blocks (fun _ t => t) s

/-- R758-R760: an ACK. -/
def chainAckReceived (p : Port) (blocks : List Block) (s : State) : State :=
  let c := s.bc p
  if c.st ≠ .up then s
  else match parseChain blocks with
    | .good g =>
      let d := seqDist c.txAcked g.seq
      if g.type ≠ 0x10 ∨ g.epoch ≠ 1 ∨ seqDist c.txAcked (c.txNext - 1) < d then s
      else
        let s := s.onBc p fun c =>
          { c with txAcked := g.seq, credit := min 32 (g.payload.getD 0 0).toNat, timeouts := if d = 0 then c.timeouts else 0
                   outs := c.outs.filter fun o => !decide (1 ≤ seqDist c.txAcked o.seq ∧ seqDist c.txAcked o.seq ≤ d) }
        if (g.payload.getD 1 0).toNat = 1 then chainRetransmit p s else chainTransmit p s
    | _ => s

/-- R753: a malformed frame. -/
def chainBad (p : Port) (blocks : List Block) (codeError : Bool) (s : State) : State :=
  if (s.bc p).st ≠ .up then s
  else if codeError then chainAck p true (bcSet 4 s)
  else match parseChain blocks with
    | .crc => chainAck p true (bcSet 4 s)
    | .malformed => chainAck p true s
    | .good _ => s

/-- R760, R761: 100 us without progress; 16 in a row end the link (Table 17.10). -/
def chainAckTimeout (p : Port) (s : State) : State :=
  let c := s.bc p
  if c.st ≠ .up ∨ (c.outs.any (·.sent)) = false then s
  else if 16 ≤ c.timeouts + 1 then chainDown p s
  else chainRetransmit p (s.onBc p fun c => { c with timeouts := c.timeouts + 1 })

end Sys2Proof.Machine
end

