-- ==== Sys2Proof/Machine/ConfigSpace.lean ====
section
/-!
DEFINITION. Configuration space (10 §10.1, §10.2): the identifiers of Table 10.1, the BARs of R449, and the capabilities of
Tables 10.2 and 10.3. Their register layouts are those of the PCI Express Base and SR-IOV specifications; where a capability
stands, and every field that the tables do not give, is open. (PRESUMED, log 85; DESIGN CHOICE, log 8.)
-/

namespace Sys2Proof.Machine

/-- The capabilities of Table 10.2, in its order. -/
inductive Capability
  | power | express | msix | aer | serial | ari | sriov | secondary | dataLink | phy16 | phy32 | margining
  deriving DecidableEq, Repr

/-- By their places in Table 10.2; the last row holds five. -/
def capabilities : List Capability :=
  [.power, .express, .msix, .aer, .serial, .ari, .sriov, .secondary, .dataLink, .phy16, .phy32, .margining]

/-- R444, R451: the functions that implement a capability. -/
def hasCapability (s : State) (f : Nat) : Capability → Bool
  | .express | .ari => true
  | .msix => decide (s.lt.vectors f ≠ 0)
  | _ => decide (f = 0)

/-- Its identifier and version, as the first double word of the capability has them: a mask of the bits given, and the bits. -/
def capabilityHeader : Capability → W32 × W32
  | .power => (0xFF#32, 0x01#32)
  | .express => (0xFF#32, 0x10#32)
  | .msix => (0xFF#32, 0x11#32)
  | .aer => (0xFFFF#32, 0x0001#32)
  | .serial => (0xFFFF#32, 0x0003#32)
  | .ari => (0xFFFF#32, 0x000E#32)
  | .sriov => (0xFFFF#32, 0x0010#32)
  | .secondary => (0xFFFF#32, 0x0019#32)
  | .dataLink => (0xFFFF#32, 0x0025#32)
  | .phy16 => (0xFFFF#32, 0x0026#32)
  | .phy32 => (0xFFFF#32, 0x002A#32)
  | .margining => (0xFFFF#32, 0x0027#32)

/-- The SR-IOV capability (Table 10.3), by double word. -/
def sriovWord (s : State) (i : Nat) : W32 × W32 :=
  match i with
  | 1 => (0x1#32, 0)
  | 2 => (0x11#32, BitVec.ofNat 32 (bit s.host.vfEnable + 16 * bit s.host.ariHierarchy))
  | 3 => (0xFFFFFFFF#32, BitVec.ofNat 32 (s.lt.vfCount + 65536 * s.lt.vfCount))
  | 4 => (0xFFFF#32, BitVec.ofNat 32 s.host.numVfs)
  | 5 => (0xFFFFFFFF#32, 0x00010001#32)
  | 6 => (0xFFFF0000#32, 0x4B650000#32)
  | 7 => (0xFFFFFFFF#32, 0x0000001F#32)
  | 9 => (0xFFFF#32, 0x0004#32)
  | 11 | 12 | 13 | 14 => (0xFFFFFFFF#32, 0)
  | _ => (0, 0)

/-- The PCI Express capability (Table 10.2, R442): 512 bytes of payload, FLR, 32 GT/s and x16 at most, no ASPM, Completion Timeout
ranges B and C, 10-bit tags, and neither LTR nor TPH. -/
def expressWord (g : Fn) (i : Nat) : W32 × W32 :=
  match i with
  | 1 => (0x10000007#32, 0x10000002#32)
  | 2 => (0x70E0#32, BitVec.ofNat 32 (32 * g.maxPayload.toNat + 4096 * g.maxRead.toNat))
  | 3 => (0xFFF#32, 0x105#32)
  | 9 => (0x3380F#32, 0x30006#32)
  | _ => (0, 0)

/-- The MSI-X capability of a function (R450, R453, Tables 10.4 and 10.5). -/
def msixWord (s : State) (f i : Nat) : W32 × W32 :=
  let g := s.fn f
  match i with
  | 0 => (0xC7FF00FF#32, BitVec.ofNat 32 (0x11 + 65536 * (s.lt.vectors f - 1) + 2 ^ 30 * bit g.fnMask + 2 ^ 31 * bit g.msixEnable))
  | 1 => (0xFFFFFFFF#32, if f = 0 then 0x3E0000#32 else 0xE000#32)
  | 2 => (0xFFFFFFFF#32, if f = 0 then 0x3F0000#32 else 0xF000#32)
  | _ => (0, 0)

/-- What Table 10.2 gives of a double word of a capability: a mask and the bits. -/
def capabilityWord (s : State) (f : Nat) (c : Capability) (i : Nat) : W32 × W32 :=
  match c with
  | .msix => msixWord s f i
  | c =>
    if i = 0 then capabilityHeader c
    else match c with
      | .power => if i = 1 then (0xB#32, BitVec.ofNat 32 (8 + 3 * bit (s.fn f).d3hot)) else (0, 0)
      | .express => expressWord (s.fn f) i
      | .serial =>
        if i = 1 then (0xFFFFFFFF#32, Config.deviceSerial.extractLsb' 0 32)
        else if i = 2 then (0xFFFFFFFF#32, Config.deviceSerial.extractLsb' 32 32) else (0, 0)
      | .sriov => sriovWord s i
      | _ => (0, 0)

/-- What the spec gives of a double word of a function's configuration space: the identifiers (Table 10.1), Bus Master Enable, the one
BAR (R449), and the capabilities, wherever they stand. -/
def knownWord (s : State) (f d : Nat) : W32 × W32 :=
  match d with
  | 0 => (0xFFFFFFFF#32, if f = 0 then 0x4B641F3C#32 else 0xFFFFFFFF#32)
  | 1 => (0x4#32, BitVec.ofNat 32 (4 * bit (s.fn f).busMaster))
  | 2 => (0xFFFFFFFF#32, 0x12000010#32)
  | 3 => (0xFF0000#32, 0)
  | 4 => if f = 0 then (0xF#32, 0x4#32) else (0xFFFFFFFF#32, 0)
  | 5 => if f = 0 then (0, 0) else (0xFFFFFFFF#32, 0)
  | 6 | 7 | 8 | 9 => (0xFFFFFFFF#32, 0)
  | 11 => (0xFFFFFFFF#32, 0x01281F3C#32)
  | _ =>
    match Config.capabilityAt f d with
    | some (n, i) =>
      match capabilities[n]? with
      | some c => if hasCapability s f c then capabilityWord s f c i else (0, 0)
      | none => (0, 0)
    | none => (0, 0)

/-- A configuration read: the bits that the spec gives, the others being PCIe's own. -/
def configWord (s : State) (f d : Nat) : W32 :=
  let k := knownWord s f d
  (k.2 &&& k.1) ||| (Config.configWord f d &&& ~~~k.1)

end Sys2Proof.Machine
end

