-- ==== Sys2Proof/Machine/CycleTime.lean ====
section
/-!
DEFINITION. Cycle time and the tester cycle bus (02): the measurement clock, TCB frames, coasting, alarms and the CT
registers that have a row of their own.
-/

namespace Sys2Proof.Machine

/-- CT and its phase accumulator as one number, in units of 2^-32 of the fraction (R60). -/
def Ct.full (c : Ct) : Nat := c.now.toNat * 2 ^ 32 + c.acc.toNat

/-- Sets CT and accumulator from one number; CT stops at all ones and does not wrap (R102). -/
def Ct.setFull (c : Ct) (n : Nat) : Ct :=
  if 2 ^ 96 ≤ n then { c with now := BitVec.allOnes 64, acc := BitVec.allOnes 32 }
  else { c with now := BitVec.ofNat 64 (n / 2 ^ 32), acc := BitVec.ofNat 32 n }

/-- R60: what one measurement clock of 2 ns adds at a period of `p` fs: 2,000,000 / p cycles. -/
def clockStep (p : Nat) : Nat := 2000000 * 2 ^ 44 / p

/-- The period CT runs at (R81, R82). -/
def Ct.rate (c : Ct) : Nat := if c.coasting then c.coastPeriod.toNat else c.period.toNat

/-- R78: how much of what a slew has to remove goes in this clock. The rate stays within 0.9 and 1.1 of nominal and the
clocks left can still remove the rest; inside that band the spec leaves the profile open, and `pick` is free. Where the rest is
more than the clocks left can remove, each removes what the rate allows. -/
def slewPart (err : Int) (left : Nat) (nominal : Nat) (pick : Nat) : Int :=
  let band : Int := nominal / 10
  let rest : Int := (left - 1 : Nat) * band
  let lo := max (-band) (err - rest)
  let hi := min band (err + rest)
  if hi < lo then max (-band) (min band err) else lo + (pick : Int) % (hi - lo + 1)

/-- One measurement clock: CT advances while it runs and does not hold (R60, R79, R97), a slew goes on (R78), and MT
advances by 2 ns (R62). (DESIGN CHOICE, log 2.) -/
def measurementClock (s : State) : State :=
  let c := s.ct
  let mt := if c.mtRunning then c.mt + 2 else c.mt
  let past := (c.full :: c.past).take 40
  let age := min 41 (c.coastAge + 1)
  if c.running && !c.holding && decide (c.rate ≠ 0) then
    let d := clockStep c.rate
    let part := if c.slewLeft = 0 then 0 else slewPart c.slewErr c.slewLeft d (Config.freeNat s.free)
    let next := (c.full + d : Int) + part
    { s with
      ct := { c.setFull next.toNat with mt := mt, past := past, coastAge := age, slewErr := c.slewErr - part, slewLeft := c.slewLeft - 1 }
      free := s.free + 1 }
  else { s with ct := { c with mt := mt, past := past, coastAge := age } }

/-! ### TCB frames -/

end Sys2Proof.Machine

namespace Sys2Proof
open Machine

/-- COUNT of a frame (Table 2.1). -/
def TcbFrame.count (fr : TcbFrame) : W64 := fr.bits.extractLsb' 48 64

/-- PERIOD of a frame. -/
def TcbFrame.period (fr : TcbFrame) : W32 := fr.bits.extractLsb' 16 32

/-- STATE of a frame: 1 RUNNING, 2 HELD. -/
def TcbFrame.state (fr : TcbFrame) : Nat := Machine.bits fr.bits 116 4

/-- R73: the conditions of a valid frame, alignment and REF_OK apart. -/
def TcbFrame.sound (fr : TcbFrame) (fresh : Bool) : Bool :=
  fr.codeOk && decide (Machine.bits fr.bits 120 8 = 0xC5)
    && decide ((crc16 (bytesBE 14 (Machine.bits fr.bits 16 112))).toNat = Machine.bits fr.bits 0 16)
    && (decide (fr.state = 1) || decide (fr.state = 2))
    && decide (200000 ≤ fr.period.toNat) && (fresh || fr.onGrid)

end Sys2Proof

namespace Sys2Proof.Machine

/-- R75: two valid frames at adjacent boundaries agree. -/
def framesAgree (prevCount : W64) (prevPeriod : W32) (count : W64) : Bool :=
  let p : Int := prevPeriod.toNat
  let d : Int := ((count.toNat : Int) - prevCount.toNat) * p - 4096 * 10 ^ 9
  decide (d.natAbs ≤ 4 * prevPeriod.toNat + 4096 * 2000000)

/-- R73: no boundary stands before the frame's, to which its own must keep the grid: it is the first since alignment, or no frame
has been valid. (DEDUCED, log 80.) -/
def Ct.offGrid (c : Ct) : Bool := c.fresh || c.prev.isNone

/-- R105: a frame taken at a boundary that is not after the coast limit shows that CT does not coast: the module was at most 80 ns
late to know it (R888). (DEDUCED, log 80.) -/
def Ct.judge (c : Ct) (fr : TcbFrame) : Ct :=
  match c.beforeCoast with
  | some (locked, trouble) =>
    if c.coasting ∧ c.coastAge ≤ fr.clocks.val then { c with coasting := false, locked := locked, trouble := trouble, beforeCoast := none } else c
  | none => c

/-- R74: a discarded frame is counted and sets BADFRAME. -/
def Ct.discard (c : Ct) : Ct := { c with badFrames := satInc c.badFrames, trouble := setBit c.trouble 4 }

/-- The frame is remembered as the previous valid frame, with its place in a run of agreeing frames (R76). -/
def Ct.remember (c : Ct) (fr : TcbFrame) (agrees : Bool) : Ct :=
  { c with prev := some (fr.count, fr.period), agree := if agrees then c.agree + 1 else 1, fresh := false }

/-- A frame that is taken updates CT_LAST_COUNT, CT_PERIOD and TESTER_HELD (R74, R82). -/
def Ct.take (c : Ct) (fr : TcbFrame) : Ct :=
  { c with lastCount := fr.count, period := fr.period, testerHeld := decide (fr.state = 2) }

/-- R888: CT takes COUNT plus the time since the boundary, converted at the frame's PERIOD. -/
def Ct.toCount (c : Ct) (fr : TcbFrame) : Ct :=
  { c.setFull (fr.count.toNat * 2 ^ 32 + fr.clocks.val * clockStep fr.period.toNat) with slewErr := 0, slewLeft := 0 }

/-- CT at the frame's boundary, from the last measurement clocks (R888). -/
def Ct.atBoundary (c : Ct) (clocks : Nat) : Nat := (c.full :: c.past).getD clocks (c.past.getLastD c.full)

/-- Table 2.2: the response to a valid frame while locked, not coasting and not holding. -/
def Ct.track (c : Ct) (fr : TcbFrame) (agrees : Bool) : Ct :=
  let e : Int := (fr.count.toNat * 2 ^ 32 : Int) - c.atBoundary fr.clocks.val
  let big := decide (e.natAbs * fr.period.toNat > 10 ^ 8 * 4096 * 2 ^ 32)
  if !big then { c.take fr with slewErr := e, slewLeft := 500 }
  else if !agrees then c.discard
  else if e > 0 then { (c.take fr).toCount fr with trouble := setBit c.trouble 0 }
  else { c.take fr with holding := true, slewErr := 0, slewLeft := 0, trouble := setBit c.trouble 1 }

/-- R79: a valid frame while holding and locked. -/
def Ct.whileHolding (c : Ct) (fr : TcbFrame) (agrees : Bool) : Ct :=
  if fr.count < c.now then c.take fr
  else if agrees then { (c.take fr).toCount fr with holding := false }
  else c.discard

/-- R59, R76, R85: lock is declared at the third agreeing frame; the first lock takes the received count, and a lock out
of coasting goes on with Table 2.2 or R79. -/
def Ct.lock (c : Ct) (fr : TcbFrame) : Ct :=
  if c.running then
    let l := { c with locked := true, everLocked := true, coasting := false }
    if l.holding then l.whileHolding fr true else l.track fr true
  else { (c.take fr).toCount fr with locked := true, everLocked := true, running := true }

/-- A valid frame (R76, R78, R79, R82). -/
def Ct.valid (c : Ct) (fr : TcbFrame) : Ct :=
  let agrees := match c.prev with
    | some (n, p) => decide (fr.gap = 1) && framesAgree n p fr.count
    | none => false
  let r := c.remember fr agrees
  if r.locked then (if r.holding then r.whileHolding fr agrees else r.track fr agrees)
  else if 3 ≤ r.agree then r.lock fr
  else r.take fr

/-- CT takes a value that a clock would not bring (R78, R79): its STEP, or the end of a hold. -/
def ctStepped (c d : Ct) : Bool := c.running && !c.holding && decide (c.full < d.full)

/-- TCB_FRAME: before alignment nothing is recognised (R889); an invalid frame is discarded (R74). Open windows see the
state of CT before and after it, and a step (R714). -/
def tcbFrame (fr : TcbFrame) (s : State) : State :=
  if !s.ct.aligned || decide (s.pwr.supply ≠ .on) then s
  else if s.ct.refOk && fr.sound s.ct.offGrid then
    let s := s.onCt fun c => c.judge fr
    let t := (noteWindows 0 s).onCt fun c => c.valid fr
    noteWindows 0 (if ctStepped s.ct t.ct then stepWindows s t else t)
  else s.onCt fun c => { c.discard with fresh := false }
where
  /-- The windows that a step finds open before it, or passes over, take STEPPED (R714, R95). -/
  stepWindows (s t : State) : State :=
    let mark := fun (w : Window) => if w.isOpen s || w.isOpen t then { w with flags := w.flags ||| 8 } else w
    t.onSd fun m => { m with chans := m.chans.map fun e => (e.1, { e.2 with wins := e.2.wins.map mark }) }

/-- TCB_FRAME (R73-R79, R85, R888). -/
def execTcbFrame (fr : TcbFrame) (s : State) : Host.Outcome State Fault Refusal := ok s (tcbFrame fr s)

/-- R80: no frame taken for 16 us. A module that has not locked does not coast. -/
def Ct.coast (c : Ct) : Ct :=
  if c.running && !c.coasting then
    { c with coasting := true, locked := false, coastPeriod := c.period, trouble := setBit c.trouble 2
             coastAge := 0, beforeCoast := some (c.locked, c.trouble) }
  else c

/-- TCB_COAST_LIMIT (R80, R84). (DESIGN CHOICE, log 4.) -/
def execTcbCoastLimit (s : State) : Host.Outcome State Fault Refusal :=
  ok s (noteWindows 0 ((noteWindows 0 s).onCt Ct.coast))

/-- TCB_ALIGNMENT_CHANGE (R68, R889): no frame is recognised while not aligned, and the next is the first since alignment. -/
def execTcbAlignmentChange (aligned inverted : Bool) (s : State) : Host.Outcome State Fault Refusal :=
  .next (if s.pwr.supply ≠ .on then s else s.onCt fun c => { c with aligned := aligned, datInverted := aligned && inverted, fresh := true })

/-- TCB_REF_TOLERANCE_CHANGE (R64): REF_OK follows the tolerance, and its fall sets REF_BAD. -/
def execTcbRefToleranceChange (within : Bool) (s : State) : Host.Outcome State Fault Refusal :=
  ok s (s.onCt fun c => { c with refOk := within, trouble := setBitIf (c.refOk && !within) c.trouble 3 })

/-! ### Timers of the harts (05 §5.6) -/

/-- R93, R212: the compare value has been reached. -/
def timerDue (s : State) (h : HartId) (k : TimerKind) : Bool :=
  let x := s.hart h
  match k with
  | .machine => decide (tget (BitVec.allOnes 64) s.ct.mtimecmp h.val ≤ s.ct.now)
  | .supervisor => decide (x.stimecmp ≤ s.ct.now)
  | .virtual => decide (x.vstimecmp ≤ s.ct.now + x.htimedelta)

end Sys2Proof.Machine

namespace Sys2Proof
open Machine

/-- The bit of mip a timer pends on: MTIP 7, STIP 5, VSTIP 6. -/
def TimerKind.bit : TimerKind → Nat
  | .machine => 7
  | .supervisor => 5
  | .virtual => 6

end Sys2Proof

namespace Sys2Proof.Machine

/-- A timer interrupt pends while its compare value has been reached, and then wakes the hart (R212, R93, R95). -/
def setTimer (h : HartId) (k : TimerKind) (s : State) : State :=
  s.onHart h fun x => Hart.wake { x with mip := putBit x.mip k.bit (timerDue s h k) }

/-- TIMER_INTERRUPT (R212, R93, R95). -/
def execTimerInterrupt (h : HartId) (k : TimerKind) (s : State) : Host.Outcome State Fault Refusal := .next (setTimer h k s)

/-! ### Alarms -/

/-- Alarm `a` of function `f`. -/
def State.alarm (s : State) (f : Nat) (a : Fin 4) : Alarm := tget {} s.ct.alarms (4 * f + a.val)
/-- Changes alarm `a` of function `f`. -/
def State.onAlarm (s : State) (f : Nat) (a : Fin 4) (g : Alarm → Alarm) : State :=
  s.onCt fun c => { c with alarms := tmod {} c.alarms (4 * f + a.val) g }

/-- R88: an alarm's firing condition. (DESIGN CHOICE, log 4.) -/
def alarmDue (s : State) (f : Nat) (a : Fin 4) : Bool :=
  (s.alarm f a).enable && decide ((s.alarm f a).cmp ≤ s.ct.now)

/-- R89, R90: the alarm fires: FIRED is set, ENABLE cleared, and one message sent. -/
def fireAlarm (f : Nat) (a : Fin 4) (s : State) : State :=
  msix (s.onAlarm f a fun x => { x with fired := true, enable := false }) f (s.alarm f a).vector.toNat

/-- ALARM_FIRE (R88-R91); an alarm whose condition does not hold does not fire. -/
def execAlarmFire (f : FnId) (a : Fin 4) (s : State) : Host.Outcome State Fault Refusal :=
  .next (if alarmDue s f.val a then fireAlarm f.val a s else s)

/-- R99: the function whose alarms a requester reaches; none for a hart with hkuldisp.EN 0. -/
def alarmFn (s : State) : Requester → Option Nat
  | .fn f => some f.val
  | .hart h => if (s.hart h).bind.en then some (s.hart h).bind.domain.toNat else none

/-- A write of an alarm register by its function; from a hart with hkuldisp.EN 0 it is a violation (R99). -/
def onOwnAlarm (who : Requester) (a : Fin 4) (offset : Nat) (g : Alarm → Alarm) (s : State) : State :=
  if !visible s who then s
  else match alarmFn s who with
    | none => violateBy s who true .functionOwner (offset + 0x10 * a.val)
    | some f => s.onAlarm f a g

end Sys2Proof.Machine
end

