-- ==== Sys2Proof/Machine/Functions.lean ====
section
/-!
DEFINITION. Functions (10): configuration, mailboxes, the VF lifecycle, mooring and custody, dirty-page logging and
held host accesses. Migration is in Machine/Migration.lean.
-/

namespace Sys2Proof.Machine

/-! ### Resets of a function -/

/-- R465: configuration space, MSI-X table, PBA and mailbox of a function return to reset values. -/
def resetConfig (f : Nat) (s : State) : State :=
  s.onFn f fun g => { g with busMaster := false, msixEnable := false, fnMask := false, msix := [], mbx := {}, maxPayload := 0, maxRead := 2, d3hot := false }

/-- Table 2.6: the function's four alarms are cleared. -/
def clearAlarms (f : Nat) (s : State) : State :=
  s.onCt fun c => { c with alarms := c.alarms.filter fun e => decide (e.1 / 4 ≠ f) }

/-- Table 9.10, FUNCTION: lists emptied, held events discarded, unread records marked read, ON cleared; harts bound to the
domain get RUNPRIO 16 and CLAIMED 0, and WAITING harts keep waiting. -/
def resetDomain (d : Nat) (s : State) : State :=
  let s := s.onDom d fun x => { x with ready := [], delay := [], held := [], traceOn := false }
  let s := s.onDisp fun u => { u with trace := u.trace.map fun r => if r.domain = d then { r with read := true } else r }
  forAll allHarts (fun h t =>
    if (t.hart h).bind.en && decide ((t.hart h).bind.domain.toNat = d) then
      t.onHart h fun x => { x with bind := { x.bind with runprio := 16, claimed := none } }
    else t) s

/-- R165, R465: a FUNCTION reset. -/
def functionReset (f : Nat) (s : State) : State := resetDomain f (clearAlarms f (resetConfig f s))

/-- The rings of a function that hold something, and every ring of the table, by number. -/
def listedRingsOf (s : State) (f : Nat) : List Nat := (s.rings.tab.map (·.1)).filter fun r => decide ((s.lt.ident r).fn = f)

/-- A ring's registers at their reset values, its sequences, its trouble (R52, Table 4.5) and its persistent
record kept (R465). -/
def Ring.toReset (g : Ring) : Ring := 
  { acceptSeq := g.acceptSeq, doneSeq := g.doneSeq, trouble := g.trouble, recIdent := g.recIdent, former := g.former, cmds := g.cmds }

/-- The command has been executed: it is finished, or was before a reset. -/
def Cmd.executed (c : Cmd) : Bool := c.isFinished || c.prior.isSome

/-- R465, R643: every transition into DISABLED. -/
def toDisabled (f : Nat) (s : State) : State :=
  let s := functionReset f s
  let s := (listedRingsOf s f).foldl (fun t r => t.onRing r Ring.toReset) s
  let s := s.onMu fun m => { m with sessions := m.sessions.filter fun e => decide (e.2.fn ≠ f) }
  s.onFn f fun g => { g with vf := .disabled, drain := false }

/-- §10.5: some accepted command of the function's rings has no completion. -/
def unfinished (s : State) (f : Nat) : Bool := (listedRingsOf s f).any fun r => !(s.ring r).cmds.isEmpty

/-- Table 10.9: an ACTIVE VF leaves ACTIVE: MOORING while work is unfinished, DISABLED otherwise. -/
def leaveActive (f : Nat) (cause : MoorCause) (s : State) : State :=
  if (s.fn f).vf ≠ .active then s
  else if unfinished s f then s.onFn f fun g => { g with vf := .mooring, cause := cause, drain := false }
  else toDisabled f s

/-- The VF numbers 1 to `n`. -/
def vfsUpTo (n : Nat) : List Nat := (List.range n).map (· + 1)

/-! ### Configuration and messages -/

/-- CONFIG_REQUEST's effect: CRS until the light table has been applied (R156), then it is served. -/
def configRequest (f : Nat) (op : ConfigOp) (s : State) : State :=
  if !tableUp s && decide (s.pwr.stage ≠ .daymark) then s.emit (.config f true)
  else
    let s := s.emit (.config f false)
    match op with
    | .read d => s.emit (.readData ((configWord s f d).zeroExtend 64))
    | .busMaster on => s.onFn f fun g => { g with busMaster := on }
    | .deviceControl p r => s.onFn f fun g => { g with maxPayload := if 2 < p.toNat then 2 else p, maxRead := if 5 < r.toNat then 5 else r }
    | .msixControl e m => s.onFn f fun g => { g with msixEnable := e, fnMask := m }
    | .powerState d3 => if f = 0 then s.onFn 0 fun g => { g with d3hot := d3 } else s
    | .ariHierarchy on => if f = 0 then s.onHost fun h => { h with ariHierarchy := on } else s

/-- CONFIG_REQUEST (R156, R443). -/
def execConfigRequest (f : FnId) (op : ConfigOp) (s : State) : Host.Outcome State Fault Refusal :=
  .next (configRequest f.val op s)

/-- MSIX_DELIVER_PENDING (R453): one message, and the bit is cleared. -/
def deliverPending (f v : Nat) (s : State) : State :=
  let e := tget {} (s.fn f).msix v
  if e.pba && !e.masked && !(s.fn f).fnMask && (s.fn f).msixEnable && hostReachable s f then
    (s.onFn f fun g => { g with msix := tmod {} g.msix v fun e => { e with pba := false } }).emit (.msix f v)
  else s

/-- MSIX_DELIVER_PENDING (R163, R453). -/
def execMsixDeliverPending (f : FnId) (v : Nat) (s : State) : Host.Outcome State Fault Refusal :=
  .next (deliverPending f.val v s)

/-- HOST_ACCESS_RESUME (R162): what waited for the host goes on, in order. -/
def execHostAccessResume (f : FnId) (s : State) : Host.Outcome State Fault Refusal := .next (hostRelease f.val s)

/-- HOST_READ_COMPLETION's effect (R446). (DEDUCED, log 15.) -/
def hostReadCompletion (x : HostRead) (s : State) : State :=
  match x with
  | .data a bs => s.onHost fun h => { h with hostMem := writeBytes h.hostMem a.toNat bs }
  | .commandError r seq =>
    match (s.ring r).find seq with
    | some k =>
      if k.isFinished || decide ((s.lt.ident r).origin = .module) then s
      else (finishCmd r seq (statusOf 0x70) s).onRing r fun g => { g with trouble := setBit g.trouble 2 }
    | none => s
  | .descriptorError r seq =>
    if (s.ring r).acceptSeq ≤ seq ∧ (s.lt.ident r).origin = .host then s.onRing r fun g => { g with descError := some seq } else s

/-- HOST_READ_COMPLETION (R446, R895). -/
def execHostReadCompletion (r : HostRead) (s : State) : Host.Outcome State Fault Refusal := ok s (hostReadCompletion r s)

/-! ### Mailboxes (§10.4) -/

/-- R457: the PF is notified by APLIC source 191 and its MBX_CTRL.VECTOR. -/
def notifyPf (s : State) : State := msix (aplic s 191) 0 s.host.mbxVector.toNat
/-- R457: a VF is notified on its MBX_VF_CTRL.VECTOR. -/
def notifyVf (f : Nat) (s : State) : State := msix s f (s.fn f).mbx.vector.toNat

/-- A function that has a mailbox: an existing VF. (DEDUCED, log 38.) -/
def hasMailbox (s : State) (f : Nat) : Bool := decide (f ≠ 0) && s.lt.exists f

/-- R454, R455: SEND in one direction; while PENDING is 1 it has no effect. -/
def mbxSend (f : Nat) (toPf : Bool) (s : State) : State :=
  if !hasMailbox s f then s
  else if toPf then
    (if (s.fn f).mbx.outPending then s else notifyPf (s.onFn f fun g => { g with mbx := { g.mbx with outPending := true } }))
  else
    (if (s.fn f).mbx.inPending then s else notifyVf f (s.onFn f fun g => { g with mbx := { g.mbx with inPending := true } }))

/-- R456: ACK of the message in one direction, `ofPf` the PF's to the VF; the sender is notified. -/
def mbxAck (f : Nat) (ofPf : Bool) (s : State) : State :=
  if !hasMailbox s f then s
  else if ofPf then
    (if (s.fn f).mbx.inPending then notifyPf (s.onFn f fun g => { g with mbx := { g.mbx with inPending := false } }) else s)
  else
    (if (s.fn f).mbx.outPending then notifyVf f (s.onFn f fun g => { g with mbx := { g.mbx with outPending := false } }) else s)

/-- MBX_VF_SEND (R454). -/
def execMbxVfSend (f : FnId) (s : State) : Host.Outcome State Fault Refusal :=
  .next (if visible s (.fn f) then mbxSend f.val true s else s)
/-- MBX_VF_ACK (R456). -/
def execMbxVfAck (f : FnId) (s : State) : Host.Outcome State Fault Refusal :=
  .next (if visible s (.fn f) then mbxAck f.val true s else s)
/-- R455: a message register of the writer's direction takes a write unless PENDING is 1. -/
def mbxWrite (f : Nat) (toPf : Bool) (n : Fin 16) (part : Part) (v : W64) (s : State) : State :=
  if !hasMailbox s f then s
  else s.onFn f fun g =>
    { g with mbx :=
        if toPf then (if g.mbx.outPending then g.mbx else { g.mbx with out := tmod 0 g.mbx.out n.val fun o => putPart part o v })
        else (if g.mbx.inPending then g.mbx else { g.mbx with inn := tmod 0 g.mbx.inn n.val fun o => putPart part o v }) }

/-! ### VF lifecycle (§10.5) -/

/-- Configuration writes reach the SR-IOV capability once the light table is applied (R156). -/
def configOpen (s : State) : Bool := tableUp s

/-- A configuration write to a function: CRS until the light table has been applied (R156). -/
def configWrite (f : Nat) (g : State → State) (s : State) : State :=
  if !tableUp s && decide (s.pwr.stage ≠ .daymark) then s.emit (.config f true) else g s

/-- A write of VF Enable that changes it (R461, Table 10.9). -/
def vfEnableWrite (on : Bool) (s : State) : State :=
  if !configOpen s || on == s.host.vfEnable then s
  else
    let s := s.onHost fun h => { h with vfEnable := on }
    if on then (vfsUpTo s.host.numVfs).foldl (fun t f =>
        if (t.fn f).vf = .disabled then t.onFn f fun g => { g with vf := .active } else t) s
    else (vfsUpTo s.lt.vfCount).foldl (fun t f => leaveActive f .vfDisable t) s

/-- VF_ENABLE_WRITE (R460, R461). -/
def execVfEnableWrite (enable : Bool) (s : State) : Host.Outcome State Fault Refusal :=
  ok s (configWrite 0 (vfEnableWrite enable) s)

/-- R448: a write of NumVFs, with the transition "NumVFs below f". -/
def numVfsWrite (n : Nat) (s : State) : State :=
  if !configOpen s || s.host.vfEnable || decide (s.lt.vfCount < n) then s
  else
    let s := s.onHost fun h => { h with numVfs := n }
    (vfsUpTo s.lt.vfCount).foldl (fun t f => if n < f then leaveActive f .vfDisable t else t) s

/-- NUMVFS_WRITE (R448, R460). -/
def execNumvfsWrite (n : BitVec 16) (s : State) : Host.Outcome State Fault Refusal :=
  ok s (configWrite 0 (numVfsWrite n.toNat) s)

/-- VF_FLR's effect (R465, R466, R493). -/
def vfFlr (f : Nat) (s : State) : State :=
  if f = 0 ∨ s.lt.exists f = false then s
  else (leaveActive f .flr (functionReset f s)).onFn f fun g => { g with flrBusy := true }

/-- VF_FLR (R465, R466). -/
def execVfFlr (f : FnId) (s : State) : Host.Outcome State Fault Refusal := ok s (configWrite f.val (vfFlr f.val) s)

/-- R466: at an FLR's completion a DISABLED VF that is enabled and has no offer outstanding becomes ACTIVE. -/
def vfFlrComplete (f : Nat) (s : State) : State :=
  if !(s.fn f).flrBusy then s
  else
    s.onFn f fun g =>
      { g with flrBusy := false
               vf := if g.vf = .disabled ∧ s.host.vfEnable = true ∧ f ≤ s.host.numVfs ∧ g.offer = none then .active else g.vf }

/-- VF_FLR_COMPLETE (R466). -/
def execVfFlrComplete (f : FnId) (s : State) : Host.Outcome State Fault Refusal := .next (vfFlrComplete f.val s)

/-- R467: a PF FLR resets the PF's configuration and SR-IOV capability, and every VF takes the VF Enable transition. -/
def pfFlr (s : State) : State :=
  let s := (functionReset 0 s).onHost fun h => { h with vfEnable := false, numVfs := 0, ariHierarchy := false }
  (vfsUpTo s.lt.vfCount).foldl (fun t f => leaveActive f .pfFlr t) s

/-- PF_FLR (R467). -/
def execPfFlr (s : State) : Host.Outcome State Fault Refusal := ok s (configWrite 0 pfFlr s)

/-! ### Custody (§10.5.1) -/

/-- CAUSE codes of Table 10.10. -/
def MoorCause.code : MoorCause → Nat
  | .none => 0
  | .pfQuiesce => 1
  | .flr => 2
  | .vfDisable => 3
  | .pfFlr => 4
  | .ltChange => 5
  | .import => 6

/-- VF state codes of Table 10.8. -/
def VfState.code : VfState → Nat
  | .disabled => 0
  | .active => 1
  | .mooring => 2
  | .moored => 3
  | .exporting => 4
  | .imported => 5

/-- The commands of a function's rings without a completion. -/
def heldCmds (s : State) (rings : List Nat) : List Cmd := rings.flatMap fun r => (s.ring r).cmds

/-- R470: the 64 bytes of a custody report. (DEDUCED, log 33.) -/
def custodyReport (s : State) (f : Nat) (cause : MoorCause) (rings : List Nat) : CustodyReport :=
  let cs := heldCmds s rings
  let done := (cs.filter Cmd.executed).length
  lineOf (bytesLE 1 f ++ bytesLE 1 cause.code ++ bytesLE 2 (min rings.length 16) ++ bytesLE 4 done ++ bytesLE 4 (cs.length - done)
    ++ bytesLE 4 0 ++ bytesLE 8 s.ct.now.toNat ++ ((List.range 16).flatMap fun i => bytesLE 2 (rings.getD i 0xFFFF)) ++ bytesLE 8 0)

/-- R469: a transition into MOORED produces one custody report. -/
def enterMoored (f : Nat) (cause : MoorCause) (rings : List Nat) (s : State) : State :=
  let s := s.onFn f fun g => { g with vf := .moored, cause := cause, drain := false }
  s.onHost fun h => { h with reports := h.reports ++ [custodyReport s f cause rings] }

/-- Table 10.9, MOORING: no command of the VF executes, and DRAIN_MODULE has emptied its MODULE rings. -/
def moorDone (s : State) (f : Nat) : Bool :=
  (listedRingsOf s f).all fun r =>
    (s.ring r).cmds.all (fun c => decide (c.st ≠ .started)) &&
      (!(s.fn f).drain || decide ((s.lt.ident r).origin = .host) || (s.ring r).cmds.isEmpty)

/-- VF_MOORED's effect. (DEDUCED, log 33.) -/
def vfMoored (f : Nat) (s : State) : State :=
  if (s.fn f).vf = .mooring ∧ moorDone s f = true then enterMoored f (s.fn f).cause (s.lt.ringsOf f) s else s

/-- VF_MOORED (R460, R469). -/
def execVfMoored (f : FnId) (s : State) : Host.Outcome State Fault Refusal := .next (vfMoored f.val s)

/-! ### Lifecycle commands (Tables 10.11, 10.12) -/

/-- A command that starts, and ends when something it waits for is there: `check` may end it at once with a status, and
`try` gives the end, if it has come. -/
def runWaiting (c : CmdRef) (isOp : Line → Bool) (engine number : Nat) (check : Cmd → State → Option Result)
    (begin : Cmd → State → State) (try_ : Cmd → RingIdent → State → Option (State × Result)) (s : State) : State :=
  let tryEnd := fun (k : Cmd) (t : State) =>
    match try_ k (t.lt.ident c.ring) t with
    | some (u, r) => finishCmd c.ring k.seq r u
    | none => t
  match (s.ring c.ring).find c.seq with
  | none => s
  | some k =>
    if k.st = .started && isOp k.first then tryEnd k s
    else runCommand c isOp engine number (fun k t =>
      match check k t with
      | some r => finishCmd c.ring k.seq r t
      | none => tryEnd k (begin k t)) s

/-- Reserved bytes of Table 10.11 are zero, and ARG has no bits but those of `args` (R11, Table 11.7). (DEDUCED, log 33.) -/
def lifeForm (args : List Nat) (d : Line) : Bool :=
  args.contains (lineField d 9 1) && dZero d 10 6 && dZero d 28 4 && dZero d 44 20

/-- R475: no lifecycle command for the same function that was accepted earlier is still to execute; CUSTODY_WAIT names none.
(DEDUCED, log 33.) -/
def lifeTurn (c : CmdRef) (s : State) : Bool :=
  match (s.ring c.ring).find c.seq with
  | none => true
  | some k =>
    [0, 1, 2, 3].all fun r => (s.ring r).cmds.all fun e =>
      !(decide (dClass e.first = 1 ∧ 0x20 ≤ dOpcode e.first ∧ dOpcode e.first ≤ 0x29 ∧ dOpcode e.first ≠ 0x21)
        && decide (lineField e.first 8 1 = lineField k.first 8 1) && decide (e.lsn < k.lsn) && !e.isFinished
        && (ringEngineResult (s.lt.ident r) r e).isNone)

/-- FUNCTION of a lifecycle command. -/
def mFn (d : Line) : Nat := lineField d 8 1
/-- ARG. -/
def mArg (d : Line) : Nat := lineField d 9 1
/-- IN_ADDR and IN_LEN. -/
def mIn (d : Line) : Nat × Nat := (lineField d 16 8, lineField d 24 4)
/-- OUT_ADDR and OUT_LEN. -/
def mOut (d : Line) : Nat × Nat := (lineField d 32 8, lineField d 40 4)

/-- CUSTODY_WAIT (R469, R474). -/
def execCustodyWait (c : CmdRef) (s : State) : Host.Outcome State Fault Refusal :=
  ok s (runWaiting c (isOpcode 1 0x21) 5 0
    (fun k _ =>
      if !lifeForm [0] k.first then some (statusOf 0x11)
      else if (mOut k.first).2 < 64 then some { status := 0x10, len := 64 }
      else if c.ring.val ≠ 3 then some (statusOf 0x108) else none)
    (fun _ t => t)
    (fun k i t => match t.host.reports with
      | [] => none
      | r :: rest => some (output i (mOut k.first).1 (mOut k.first).2 (lineBytes r) (t.onHost fun h => { h with reports := rest })))
    s)

/-- VF_QUIESCE (R473, R460): ACTIVE becomes MOORING, and the command completes when the VF is MOORED. -/
def execVfQuiesce (c : CmdRef) (s : State) : Host.Outcome State Fault Refusal :=
  ok s (if lifeTurn c s then runWaiting c (isOpcode 1 0x20) 5 0
    (fun k t => if !lifeForm [0, 1] k.first then some (statusOf 0x11) else if (t.fn (mFn k.first)).vf = .active ∧ mFn k.first ≠ 0 then none else some (statusOf 0x100))
    (fun k t => t.onFn (mFn k.first) fun g => { g with vf := .mooring, cause := .pfQuiesce, drain := (mArg k.first) % 2 == 1 })
    (fun k _ t => if (t.fn (mFn k.first)).vf = .moored then some (t, statusOf 0) else none)
    s else s)

/-- R472: RELEASE needs the VF enabled and its cause not LT_CHANGE. -/
def disposeRelease (f : Nat) (s : State) : State × Result :=
  let g := s.fn f
  if g.vf = .moored ∧ g.cause ≠ .ltChange ∧ s.host.vfEnable = true ∧ f ≤ s.host.numVfs then
    (s.onFn f fun g => { g with vf := .active }, statusOf 0)
  else (s, statusOf 0x100)

/-- VF_DISPOSE_RELEASE (R472); an ARG that is neither RELEASE nor RESET is BAD_OPCODE (R13). -/
def execVfDisposeRelease (c : CmdRef) (s : State) : Host.Outcome State Fault Refusal :=
  ok s (if lifeTurn c s then runAtOnce c (fun d => isOpcode 1 0x22 d && decide (mArg d ≠ 2)) 5 0
    (fun k _ t => if lifeForm [1] k.first then disposeRelease (mFn k.first) t else (t, statusOf 0x11)) s else s)

/-- The entry a held command gets in the PF manager's buffer: its own status where it was executed, CANCELLED_BY_PF
otherwise (R471). -/
def heldResult (c : Cmd) : Result :=
  match c.st with
  | .finished r => r
  | _ => c.prior.getD (statusOf 0x41)

/-- R471: the buffer of VF_DISPOSE RESET. -/
def disposeBuffer (s : State) (rings : List Nat) : List Byte :=
  ((List.range 16).flatMap fun i => bytesLE 4 (match rings[i]? with | some r => (s.ring r).cmds.length | none => 0))
    ++ rings.flatMap fun r => (s.ring r).cmds.flatMap fun c => entryBytes (dTag c.first) (heldResult c) c.seq s.ct.now

/-- R503, R670: a ring whose identity changed restarts once its former commands are gone; a session on it ends. -/
def restartIdentity (r : Nat) (s : State) : State :=
  let i := s.lt.ident r
  let s := s.onMu fun m => { m with sessions := m.sessions.filter fun e => decide (e.2.ring ≠ r) }
  commitIdentity r i (s.onRing r fun g => { recIdent := some i, trouble := g.trouble })

/-- Every held command of a ring has its one completion; RG_DONE_SEQ passes them (R471). -/
def disposeRing (r : Nat) (s : State) : State :=
  let s := ((s.ring r).cmds).foldl (fun t c => commitComplete r c.seq (dTag c.first) (heldResult c) c.next t) s
  let s := s.onRing r fun g => { g with cmds := [], doneSeq := (g.cmds.getLast?.map Cmd.next).getD g.doneSeq, draining := false }
  if (s.ring r).former then restartIdentity r s else s

/-- The rings whose held work a function has: its own, and those a former light table gave it (R172, R503). -/
def custodyRings (s : State) (f : Nat) : List Nat :=
  (s.rings.tab.map (·.1)).filter fun r =>
    if (s.ring r).former then decide (((s.ring r).recIdent.map (·.fn)) = some f) else decide ((s.lt.ident r).fn = f)

/-- The function whose held work is gone becomes DISABLED; the PF, whose work R172 moored, only loses that mark. -/
def leaveCustody (f : Nat) (s : State) : State := if f = 0 then s.onFn 0 fun g => { g with vf := .disabled } else toDisabled f s

/-- VF_DISPOSE RESET (R471, R474). (DEDUCED, log 33.) -/
def disposeReset (i : RingIdent) (f : Nat) (out : Nat × Nat) (s : State) : State × Result :=
  if (s.fn f).vf ≠ .moored then (s, statusOf 0x100)
  else
    let rings := (custodyRings s f).filter fun r => !(s.ring r).cmds.isEmpty
    let places := if (s.fn f).cause = .ltChange then rings else s.lt.ringsOf f
    let bs := disposeBuffer s places
    if out.2 < bs.length then (s, { status := 0x10, len := bs.length })
    else
      let s := ringWrite i out.1 bs s
      (leaveCustody f (rings.foldl (fun t r => disposeRing r t) s), { status := 0, len := bs.length })

/-- VF_DISPOSE_RESET (R471). -/
def execVfDisposeReset (c : CmdRef) (s : State) : Host.Outcome State Fault Refusal :=
  ok s (if lifeTurn c s then runAtOnce c (fun d => isOpcode 1 0x22 d && decide (mArg d = 2)) 5 0
    (fun k i t => if lifeForm [2] k.first then disposeReset i (mFn k.first) (mOut k.first) t else (t, statusOf 0x11)) s else s)

/-! ### Dirty-page logging (§10.7) -/

/-- R480: SWITCH makes the other bitmap active and sets SWITCHED; every bitmap write already issued is complete. -/
def dirtySwitch (f : Nat) (s : State) : State :=
  s.onFn f fun g => { g with dirty := { g.dirty with active := !g.dirty.active, switched := true } }

/-- R481: a write to the base of the active bitmap has no effect; bits 11:0 stay zero. -/
def dirtyBase (f : Nat) (bitmap : Bool) (part : Part) (v : W64) (s : State) : State :=
  s.onFn f fun g =>
    if g.dirty.active == bitmap then g
    else if bitmap then { g with dirty := { g.dirty with base1 := putPart part g.dirty.base1 v &&& ~~~0xFFF#64 } }
    else { g with dirty := { g.dirty with base0 := putPart part g.dirty.base0 v &&& ~~~0xFFF#64 } }

end Sys2Proof.Machine
end

