-- ==== Sys2Proof/Machine/KeyStore.lean ====
section
/-!
DEFINITION. The key store (13 §13.6, §13.7): slots, their owners and usages, key creation, the tenant KEK and the KEYBLOB, the
fields of a CRYPTO descriptor, and a command's own DRBG.
-/

namespace Sys2Proof.Machine

/-! ### Descriptor fields (Table 13.2) -/

/-- SLOT. -/
def xSlot (d : Line) : Nat := lineField d 8 2
/-- SLOT2. -/
def xSlot2 (d : Line) : Nat := lineField d 10 2
/-- ALG. -/
def xAlg (d : Line) : Nat := lineField d 12 1
/-- TAG_LEN. -/
def xTagLen (d : Line) : Nat := lineField d 13 1
/-- USAGE. -/
def xUsage (d : Line) : BitVec 16 := BitVec.ofNat 16 (lineField d 14 2)
/-- IN_ADDR. -/
def xIn (d : Line) : Nat := lineField d 16 8
/-- IN_LEN. -/
def xInLen (d : Line) : Nat := lineField d 24 4
/-- PARAM. -/
def xParam (d : Line) : Nat := lineField d 28 4
/-- OUT_ADDR. -/
def xOut (d : Line) : Nat := lineField d 32 8
/-- OUT_LEN. -/
def xOutLen (d : Line) : Nat := lineField d 40 4
/-- S_LEN. -/
def xSLen (d : Line) : Nat := lineField d 44 1
/-- IV16. -/
def xIv (d : Line) : List Byte := (lineBytes d).drop 48
/-- DIR. -/
def xDir (d : Line) : Bool := d.getLsbD 14

/-- Which fields of Table 13.2 an opcode uses; `iv` is how many bytes of IV16. -/
structure Uses where
  slot : Bool := false
  slot2 : Bool := false
  alg : Bool := false
  tag : Bool := false
  usage : Bool := false
  inp : Bool := false
  param : Bool := false
  out : Bool := false
  sLen : Bool := false
  iv : Nat := 0

/-- R592: every field that the opcode does not use holds its unused value. -/
def unusedOk (u : Uses) (d : Line) : Bool :=
  (u.slot || decide (xSlot d = 0xFFFF)) && (u.slot2 || decide (xSlot2 d = 0xFFFF)) && (u.alg || decide (xAlg d = 0))
    && (u.tag || decide (xTagLen d = 0)) && (u.usage || decide (xUsage d = 0)) && (u.inp || dZero d 16 12)
    && (u.param || decide (xParam d = 0)) && (u.out || dZero d 32 12) && (u.sLen || decide (xSLen d = 0)) && dZero d 45 3
    && ((xIv d).drop u.iv).all (· = 0)

/-! ### Statuses -/

/-- BAD_LENGTH with the size that would do. -/
def badLength (size : Nat) : Result := { status := 0x10, len := size }

/-! ### Slots -/

/-- The key in a slot. -/
def slotAt (s : State) (n : Nat) : Option KeySlot := (s.cx.slots.find? (·.1 == n)).map (·.2)

/-- R612, Table 8.7: the slot a command of a ring uses: SERVICE_DOWN for an enclave's slot while the Keeper world is down,
and NO_KEY for an empty slot and for one of another owner alike. -/
def useSlot (s : State) (i : RingIdent) (n : Nat) : Except Result KeySlot :=
  match slotAt s n with
  | none => .error (statusOf 0x20)
  | some k =>
    if s.kp.down && decide (k.encl ≠ 0) && decide (k.fn = i.fn) then .error (statusOf 0x50)
    else if k.fn = i.fn ∧ k.encl = i.encl then .ok k else .error (statusOf 0x20)

/-- The key slots that a descriptor names. -/
def namedSlots (d : Line) : List Nat :=
  if dOpcode d = 0x85 then [xSlot d] else if 0x80 ≤ dOpcode d ∧ dOpcode d < 0x90 then [] else [xSlot d, xSlot2 d]

/-- §13.11: what the check code finds in the slots that a command reads. A single-bit error is corrected and sets KEYSTORE_CE; an
uncorrectable one sets KEYSTORE_UE and stays with the slot. -/
def slotErrors (e : BitError) (k : Cmd) (i : RingIdent) (s : State) : State :=
  let hit := fun (n : Nat) (x : KeySlot) => (k.descs.any fun d => (namedSlots d).contains n) && decide (x.fn = i.fn ∧ x.encl = i.encl)
  if !(s.cx.slots.any fun x => hit x.1 x.2) then s
  else match e with
    | .none => s
    | .single => s.onCx fun c => { c with trouble := setBit c.trouble 3 }
    | .double => s.onCx fun c =>
        { c with trouble := setBit c.trouble 4, slots := c.slots.map fun x => if hit x.1 x.2 then (x.1, { x.2 with bad := true }) else x }

/-- A command of this descriptor names a slot in use that another (function, enclave) owns. (DESIGN CHOICE, log 44.) -/
def namesForeign (s : State) (i : RingIdent) (d : Line) : Bool :=
  (namedSlots d).any fun n => match slotAt s n with
    | some k => !decide (k.fn = i.fn ∧ k.encl = i.encl)
    | none => false

/-- R33, R34, R612: a command that completes with NO_KEY for a slot of another owner is one violation, with KIND
FUNCTION_OWNER (Table 8.8); `requester` is the mesh requester that serves it (R295). (DESIGN CHOICE, log 44.) -/
def noKeyViolation (requester : Nat) (k : Cmd) (i : RingIdent) (r : Result) (s : State) : State :=
  if r.status = 0x20 ∧ k.descs.any (namesForeign s i) = true then violateCommand s i .functionOwner requester else s

/-- The slot must have an ALG and every bit of a usage, else KEY_USAGE (R900, R594). -/
def demand (k : KeySlot) (alg : Nat) (usage : BitVec 16) : Except Result Unit :=
  if k.alg = alg ∧ k.usage &&& usage = usage then .ok () else .error (statusOf 0x21)

/-- §13.11: a slot with an uncorrectable error gives DATA_POISONED. -/
def material (k : KeySlot) : Except Result (List Byte) := if k.bad then .error (statusOf 0x70) else .ok k.key

/-- The operational usages that Table 13.5 lists for an ALG, without EXPORTABLE. -/
def allowedUsage (alg : Nat) : BitVec 16 :=
  if 1 ≤ alg ∧ alg ≤ 3 then 0x006F
  else if 4 ≤ alg ∧ alg ≤ 6 then 0x0003
  else if 8 ≤ alg ∧ alg ≤ 0xB then 0x000C
  else if alg = 0xC then 0x008C
  else if alg = 0x20 then 0x3A10
  else if alg = 0x21 then 0x1A00
  else if alg = 0x30 ∨ alg = 0x31 then 0x0100
  else if alg = 0x32 ∨ alg = 0x33 then 0x0010
  else 0

/-- The key lengths that Table 13.5 allows for an ALG. -/
def allowedLength (alg n : Nat) : Bool :=
  match alg with
  | 0x01 => n == 16
  | 0x02 => n == 24
  | 0x03 => n == 32
  | 0x04 => n == 32
  | 0x05 => n == 64
  | 0x06 => n == 32
  | 0x08 | 0x09 | 0x0A => decide (16 ≤ n ∧ n ≤ 128)
  | 0x0B => decide (16 ≤ n ∧ n ≤ 64)
  | 0x0C => decide (32 ≤ n ∧ n ≤ 64)
  | 0x20 => n == 48
  | 0x21 => decide (32 ≤ n ∧ n ≤ 1024 ∧ n % 8 = 0)
  | 0x30 | 0x31 => n == 64
  | 0x32 | 0x33 => n == 32
  | _ => false

/-- R611: ALG, length and USAGE that the tables allow. -/
def keyAllowed (alg n : Nat) (usage : BitVec 16) : Bool :=
  allowedLength alg n && decide (usage &&& ~~~(allowedUsage alg ||| 0x0400#16) = 0)

/-- Table 13.5: the halves of an XTS key differ, and a P-384 private scalar lies in its range. (DEDUCED, log 43.) -/
def materialAllowed (alg : Nat) (key : List Byte) : Bool :=
  if alg = 4 ∨ alg = 5 then decide (key.take (key.length / 2) ≠ key.drop (key.length / 2))
  else if alg = 0x20 then decide (1 ≤ ofBytesBE key ∧ ofBytesBE key < ecN) else true

/-- Slots a function owns, over all its enclaves. -/
def slotsOf (s : State) (f : Nat) : Nat := (s.cx.slots.filter fun e => decide (e.2.fn = f)).length

/-- The lowest number from `n` on that no entry of a rising table lists. -/
def firstFree {α : Type} : Nat → Tab α → Nat
  | n, [] => n
  | n, (k, _) :: t => if k = n then firstFree (n + 1) t else n

/-- R611, R613, R616: a key-creating command makes its slot, or finds the one its first execution made. -/
def createSlot (i : RingIdent) (ring seq alg : Nat) (usage : BitVec 16) (key : List Byte) (s : State) :
    Except Result (State × Nat) :=
  match s.cx.slots.find? fun e => decide (e.2.ring = ring ∧ e.2.seq = seq) with
  | some e => .ok (s, e.1)
  | none =>
    if !keyAllowed alg key.length usage || !materialAllowed alg key then .error (statusOf 0x206)
    else if s.lt.keyQuota i.fn ≤ slotsOf s i.fn ∨ 8192 ≤ s.cx.slots.length then .error (statusOf 0x203)
    else
      let n := firstFree 0 s.cx.slots
      .ok (s.onCx fun c => { c with slots := tput ⟨i.fn, i.encl, alg, usage, key, s.ct.now, ring, seq, false⟩ c.slots n }, n)

/-! ### Tenant KEK and KEYBLOB (R618, R619) -/

/-- The tenant KEK of an owner. (DESIGN CHOICE, log 76.) -/
def tenantKek (s : State) (i : RingIdent) : List Byte :=
  kmac256 (bytesLE 32 Config.kdr.toNat)
    ([BitVec.ofNat 8 i.fn, BitVec.ofNat 8 i.encl] ++ bytesLE 32 s.lt.kekSalt.toNat) 32 (ascii "KLXKEK")

/-- Bytes of a KEYBLOB for a key of `n` bytes. -/
def blobLen (n : Nat) : Nat := 8 + 8 * ((16 + n + 7) / 8)

/-- The plaintext of a KEYBLOB. -/
def blobPlain (k : KeySlot) : List Byte :=
  bytesLE 1 k.alg ++ [1] ++ bytesLE 2 k.usage.toNat ++ bytesLE 2 k.key.length ++ List.replicate 10 0 ++ k.key

/-- The header fields and material of an unwrapped KEYBLOB, where they keep R619. -/
def blobParse (p : List Byte) : Option (Nat × BitVec 16 × List Byte) :=
  let n := ofBytesLE ((p.drop 4).take 2)
  if 16 ≤ p.length ∧ p.getD 1 0 = 1 ∧ p.length = 16 + n ∧ ((p.drop 6).take 10).all (· = 0) = true then
    some ((p.getD 0 0).toNat, BitVec.ofNat 16 (ofBytesLE ((p.drop 2).take 2)), p.drop 16)
  else none

/-- The key under which a KEYBLOB is wrapped: a slot of a usage, or the tenant KEK (Table 13.2, SLOT2).
(DESIGN CHOICE, log 76.) -/
def wrappingKey (s : State) (i : RingIdent) (slot2 : Nat) (usage : BitVec 16) : Except Result (List Byte) :=
  if slot2 = 0xFFFF then .ok (tenantKek s i)
  else (useSlot s i slot2).bind fun k => (demand k k.alg usage).bind fun _ => material k

/-! ### Randomness of a command -/

/-- R608: a command whose logged seed is 48 zero bytes. (DEDUCED, log 45.) -/
def seedless (c : Cmd) : Bool := c.seed.isNone || c.seedZero

/-- R560: the command's DRBG. (DEDUCED, log 45.) -/
def cmdDrbg (c : Cmd) : Drbg := Drbg.new (bytesLE 48 (c.seed.getD 0).toNat)

end Sys2Proof.Machine
end

