-- ==== Sys2Proof/Machine/Crypto.lean ====
section
/-!
DEFINITION. The crypto engine (13): the symmetric operations and their chains, the key commands, the entropy source and the
DRBG, and the lanes.
-/

namespace Sys2Proof.Machine

/-! ### Operations of a chain (R596) -/

/-- One operation: the index of its first descriptor, that descriptor, and its segments in order, the first included. -/
structure ChainOp where
  index : Nat
  first : Line
  segs : List Line
  deriving DecidableEq, Repr

/-- The operations of a chain: each descriptor with CONT 0 begins one. -/
def chainOps : Nat → List Line → List ChainOp
  | _, [] => []
  | i, d :: t =>
    match chainOps (i + 1) t with
    | [] => [⟨i, d, [d]⟩]
    | o :: os => if dCont o.first then ⟨i, d, d :: o.segs⟩ :: os else ⟨i, d, [d]⟩ :: o :: os

/-- AAD of a segment. -/
def segAad (d : Line) : Bool := d.getLsbD 15
/-- NONCE_GEN. -/
def nonceGen (d : Line) : Bool := d.getLsbD 17
/-- Bytes of the data input: the segments with AAD 0. -/
def ChainOp.dataLen (o : ChainOp) : Nat := ((o.segs.filter fun d => !segAad d).map xInLen).sum

/-- The opcode. -/
def ChainOp.op (o : ChainOp) : Nat := dOpcode o.first
/-- DIR of the operation. -/
def ChainOp.dir (o : ChainOp) : Bool := xDir o.first
/-- AES_GCM or CHACHA_POLY. -/
def ChainOp.isAead (o : ChainOp) : Bool := decide (o.op = 0x04) || decide (o.op = 0x09)
/-- AES_CMAC, HMAC or KMAC. -/
def ChainOp.isMac (o : ChainOp) : Bool := decide (o.op = 0x06) || decide (o.op = 0x0A) || decide (o.op = 0x0B)

/-- The fields that each opcode uses (Tables 13.1, 13.2, 13.4). -/
def symUses (o : ChainOp) : Uses :=
  match o.op with
  | 0x01 => { alg := true, inp := true, out := true, param := decide (0x45 ≤ xAlg o.first) }
  | 0x02 | 0x03 | 0x05 => { slot := true, alg := true, inp := true, out := true, iv := 16 }
  | 0x04 | 0x09 => { slot := true, alg := true, tag := true, inp := true, out := true, iv := if nonceGen o.first then 0 else 12 }
  | 0x06 | 0x0A => { slot := true, alg := true, tag := true, inp := true, out := !o.dir }
  | 0x07 | 0x08 => { slot := true, alg := true, inp := true, out := true }
  | 0x0B => { slot := true, alg := true, tag := true, inp := true, out := !o.dir, param := true, sLen := true, iv := min 16 (xSLen o.first) }
  | _ => { param := true, out := true }

/-- The ALG codes that an opcode takes (Table 13.1). -/
def symAlg (op alg : Nat) : Bool :=
  match op with
  | 0x01 => decide (0x40 ≤ alg ∧ alg ≤ 0x46)
  | 0x05 => decide (alg = 4 ∨ alg = 5)
  | 0x09 => decide (alg = 6)
  | 0x0A => decide (8 ≤ alg ∧ alg ≤ 0xA)
  | 0x0B => decide (alg = 0xB ∨ alg = 0xC)
  | 0x0C => true
  | _ => decide (1 ≤ alg ∧ alg ≤ 3)

/-- Digest bytes of a hash code, SHAKE giving PARAM. -/
def digestLen (alg param : Nat) : Nat :=
  match alg with
  | 0x40 | 0x43 => 32
  | 0x41 => 48
  | 0x42 | 0x44 => 64
  | _ => param

/-- Digest bytes of an HMAC's hash. -/
def hmacLen (alg : Nat) : Nat := if alg = 8 then 32 else if alg = 9 then 48 else 64

/-- The tag lengths that Table 13.1 allows. -/
def tagOk (op alg tag : Nat) : Bool :=
  match op with
  | 0x04 => decide (12 ≤ tag ∧ tag ≤ 16)
  | 0x06 => decide (8 ≤ tag ∧ tag ≤ 16)
  | 0x09 => decide (tag = 16)
  | 0x0A => decide (16 ≤ tag ∧ tag ≤ hmacLen alg)
  | _ => true

/-- The tag's bytes of an operation. -/
def ChainOp.tagLen (o : ChainOp) : Nat := xTagLen o.first

/-- Output bytes of an operation, as its descriptors give them; an unwrapped KWP key is known only when it is unwrapped. -/
def ChainOp.outSize (o : ChainOp) : Nat :=
  let n := o.dataLen
  match o.op with
  | 0x01 => digestLen (xAlg o.first) (xParam o.first)
  | 0x02 | 0x03 | 0x05 => n
  | 0x04 | 0x09 => if o.dir then n - o.tagLen else n + o.tagLen + (if nonceGen o.first then 12 else 0)
  | 0x06 | 0x0A | 0x0B => if o.dir then 0 else o.tagLen
  | 0x07 => if o.dir then n - 8 else n + 8
  | 0x08 => if o.dir then n - 8 else 8 + (n + 7) / 8 * 8
  | _ => xParam o.first

/-- R591, R595: the lengths that Table 13.1 allows. (DEDUCED, log 43.) -/
def lengthOk (o : ChainOp) : Bool :=
  let n := o.dataLen
  let p := xParam o.first
  match o.op with
  | 0x01 => decide (xAlg o.first < 0x45 ∨ 0x46 < xAlg o.first) || decide (1 ≤ p ∧ p ≤ 65536)
  | 0x02 => decide (n % 16 = 0)
  | 0x04 | 0x09 => !o.dir || decide (o.tagLen ≤ n)
  | 0x05 => decide (n = 0 ∨ (16 ≤ n ∧ n ≤ 262144))
  | 0x06 | 0x0A => !o.dir || decide (o.tagLen ≤ n)
  | 0x07 => if o.dir then decide (n % 8 = 0 ∧ 24 ≤ n ∧ n ≤ 65544) else decide (n % 8 = 0 ∧ 16 ≤ n ∧ n ≤ 65536)
  | 0x08 => if o.dir then decide (n % 8 = 0 ∧ 16 ≤ n ∧ n ≤ 65544) else decide (1 ≤ n ∧ n ≤ 65536)
  | 0x0B => decide (16 ≤ p ∧ p ≤ 64) && (!o.dir || decide (o.tagLen ≤ n))
  | 0x0C => decide (1 ≤ p ∧ p ≤ 65536)
  | _ => true

/-- The output is larger than OUT_LEN; what an unwrapped KWP key needs is checked when it is known. -/
def outTooSmall (o : ChainOp) : Bool :=
  decide (xOutLen o.first < o.outSize) && !(decide (o.op = 0x08) && o.dir)

/-- R599: an address that names scratch has bits 62:18 zero. -/
def scratchOk (a : Nat) : Bool := decide (a < 2 ^ 63) || decide (a - 2 ^ 63 < 262144)

/-- R597: every segment with AAD 1 comes before every segment with AAD 0. -/
def aadFirst (o : ChainOp) : Bool := ((o.segs.dropWhile segAad).all fun d => !segAad d)

/-- R592, R593, R595, R597, R599: the class check BAD_PARAM of an operation. -/
def paramOk (o : ChainOp) : Bool :=
  unusedOk (symUses o) o.first && symAlg o.op (xAlg o.first) && tagOk o.op (xAlg o.first) o.tagLen
    && decide (xSLen o.first ≤ 16) && !(nonceGen o.first && o.dir) && aadFirst o
    && (decide (o.op ≠ 0x0B) || decide (o.tagLen = xParam o.first))
    && o.segs.all (fun d => scratchOk (xIn d)) && scratchOk (xOut o.first)

/-- The usage bits an operation needs (Table 13.4). -/
def symUsage (o : ChainOp) : BitVec 16 :=
  match o.op with
  | 0x06 | 0x0A | 0x0B => if o.dir then 0x8 else 0x4
  | 0x07 | 0x08 => if o.dir then 0x40 else 0x20
  | _ => if o.dir then 0x2 else 0x1

/-- The operation names a key slot. -/
def ChainOp.keyed (o : ChainOp) : Bool := decide (o.op ≠ 0x01 ∧ o.op ≠ 0x0C)

/-! ### Checks before any data (R898) -/

/-- R530 steps 1 to 3 of one operation. -/
def earlyCheck (o : ChainOp) : Option Result :=
  if !lengthOk o then some (badLength 0)
  else if outTooSmall o then some (badLength o.outSize)
  else if !paramOk o then some (statusOf 0x200)
  else none

/-- The highest scratch offset plus one that a segment or an output of a chain names. -/
def scratchTop (o : ChainOp) : Nat :=
  let top := fun (a n : Nat) => if 2 ^ 63 ≤ a then a - 2 ^ 63 + max n 1 else 0
  (o.segs.map fun d => if xInLen d = 0 then 0 else top (xIn d) (xInLen d)).foldl max
    (if o.outSize = 0 then 0 else top (xOut o.first) o.outSize)

/-- R602: the staged memory output plus the scratch that the chain names. -/
def chainBytes (os : List ChainOp) : Nat :=
  ((os.filter fun o => decide (xOut o.first < 2 ^ 63)).map ChainOp.outSize).sum + (os.map scratchTop).foldl max 0

/-- R530 step 4 of one operation: SERVICE_DOWN, NO_KEY and KEY_USAGE. -/
def keyCheck (s : State) (i : RingIdent) (o : ChainOp) : Option Result :=
  if s.kp.down && decide (i.encl ≠ 0) then some (statusOf 0x50)
  else if !o.keyed then none
  else match (useSlot s i (xSlot o.first)).bind fun k => demand k (xAlg o.first) (symUsage o) with
    | .error r => some r
    | .ok _ => none

/-- A chain's failure carries the index of the descriptor; a command of one descriptor carries 0 (R604). -/
def atIndex (multi : Bool) (o : ChainOp) (r : Result) : Result := if multi then { r with result32 := o.index } else r

/-- R898 steps 1 to 4. (DEDUCED, log 43.) -/
def chainCheck (s : State) (i : RingIdent) (ds : List Line) : Option Result :=
  let multi := decide (1 < ds.length)
  let os := chainOps 0 ds
  let firstOf := fun (f : ChainOp → Option Result) => os.findSome? fun o => (f o).map (atIndex multi o)
  match badDesc multi 0 none ds with
  | some n => some { status := 0x11, result32 := n }
  | none =>
    match firstOf earlyCheck with
    | some r => some r
    | none => if 262144 < chainBytes os then some (badLength (chainBytes os)) else firstOf (keyCheck s i)

/-! ### Execution -/

/-- What a chain carries from one operation to the next: its scratch, the staged output, its DRBG, whether every operation
so far was empty, and whether poison was met. -/
structure ChainRun where
  scratch : List (Nat × Byte) := []
  staged : List (Nat × List Byte) := []
  drbg : Drbg
  empty : Bool := true

/-- The bytes of a segment: from scratch, or from the memory of the ring's origin; none on poison. -/
def segRead (i : RingIdent) (r : ChainRun) (d : Line) (s : State) : State × Option (List Byte) :=
  let a := xIn d
  if 2 ^ 63 ≤ a then (s, some (readBytes r.scratch (a - 2 ^ 63) (xInLen d)))
  else
    let (t, bs, poison) := ringReadBy 24 i a (xInLen d) s
    (t, if poison then none else some bs)

/-- The bytes of several segments in order. -/
def segsRead (i : RingIdent) (r : ChainRun) : List Line → State → State × Option (List Byte)
  | [], s => (s, some [])
  | d :: t, s =>
    let p := segRead i r d s
    let q := segsRead i r t p.1
    (q.1, p.2.bind fun a => q.2.map fun b => a ++ b)

/-- The digest of a hash code. -/
def hashBy (alg param : Nat) (m : List Byte) : List Byte :=
  match alg with
  | 0x40 => sha256 m
  | 0x41 => sha384 m
  | 0x42 => sha512 m
  | 0x43 => sha3_256 m
  | 0x44 => sha3_512 m
  | 0x45 => shake128 m param
  | _ => shake256 m param

/-- The MAC of an operation over a message, `n` bytes. -/
def macBy (o : ChainOp) (key m : List Byte) (n : Nat) : List Byte :=
  match o.op with
  | 0x06 => (cmac key m).take n
  | 0x0A => ((match xAlg o.first with
      | 8 => hmacOf sha256 64 key m
      | 9 => hmacOf sha384 128 key m
      | _ => hmacOf sha512 128 key m)).take n
  | _ => kmacOf (if xAlg o.first = 0xB then 168 else 136) key m (xParam o.first) ((xIv o.first).take (xSLen o.first))

/-- What an operation makes of its inputs: AAD and data; the output, or a failure's status. -/
def symResult (o : ChainOp) (key nonce aad m : List Byte) : Except Result (List Byte) :=
  let t := o.tagLen
  let body := m.take (m.length - t)
  let tag := m.drop (m.length - t)
  match o.op with
  | 0x01 => .ok (hashBy (xAlg o.first) (xParam o.first) m)
  | 0x02 => .ok (if o.dir then cbcDec key (xIv o.first) m else cbcEnc key (xIv o.first) m)
  | 0x03 => .ok (ctrMode key 128 (xIv o.first) m)
  | 0x05 => .ok (xts (!o.dir) key (xIv o.first) m)
  | 0x04 =>
    if o.dir then (if (gcmTag key nonce aad body).take t = tag then .ok (gcmCrypt key nonce body) else .error (statusOf 0x201))
    else let c := gcmCrypt key nonce m; .ok (c ++ (gcmTag key nonce aad c).take t)
  | 0x09 =>
    if o.dir then (if chachaTag key nonce aad body = tag then .ok (chacha key nonce 1 body) else .error (statusOf 0x201))
    else let c := chacha key nonce 1 m; .ok (c ++ chachaTag key nonce aad c)
  | 0x07 =>
    if o.dir then (match aesKwUnwrap key m with | some p => .ok p | none => .error (statusOf 0x202))
    else .ok (aesKwWrap key m)
  | 0x08 =>
    if o.dir then (match aesKwpUnwrap key m with
      | some p => if xOutLen o.first < p.length then .error (badLength p.length) else .ok p
      | none => .error (statusOf 0x202))
    else .ok (aesKwpWrap key m)
  | _ =>
    if o.dir then (if macBy o key body t = tag then .ok [] else .error (statusOf 0x201))
    else .ok (macBy o key m t)

/-- A non-AEAD cipher of 0 bytes: OK_EMPTY (Table 11.9). -/
def isEmptyOp (o : ChainOp) : Bool := decide (o.op = 0x02 ∨ o.op = 0x03 ∨ o.op = 0x05) && decide (o.dataLen = 0)

/-- An output goes to scratch at once, or is staged for memory (R600, R601). -/
def stage (o : ChainOp) (bs : List Byte) (r : ChainRun) : ChainRun :=
  let a := xOut o.first
  if 2 ^ 63 ≤ a then { r with scratch := writeBytes r.scratch (a - 2 ^ 63) bs, empty := r.empty && isEmptyOp o }
  else { r with staged := r.staged ++ [(a, bs)], empty := r.empty && isEmptyOp o }

/-- One operation runs. -/
def runOp (i : RingIdent) (o : ChainOp) (r : ChainRun) (s : State) : State × Except Result ChainRun :=
  let key := if o.keyed then (useSlot s i (xSlot o.first)).bind material else .ok []
  let pa := segsRead i r (o.segs.filter segAad) s
  let pd := segsRead i r (o.segs.filter fun d => !segAad d) pa.1
  match key, pa.2, pd.2 with
  | .error e, _, _ => (pd.1, .error e)
  | .ok k, some aad, some m =>
    if o.op = 0x0C then
      let g := r.drbg.generate (xParam o.first)
      (pd.1, .ok (stage o g.1 { r with drbg := g.2 }))
    else
      let g := if nonceGen o.first then r.drbg.generate 12 else ((xIv o.first).take 12, r.drbg)
      (pd.1, (symResult o k g.1 aad m).map fun out =>
        stage o (if nonceGen o.first then g.1 ++ out else out) { r with drbg := g.2 })
  | _, _, _ => (pd.1, .error (statusOf 0x70))

/-- The operations in order (R600), up to the first that fails. -/
def runOps (i : RingIdent) (multi : Bool) : List ChainOp → ChainRun → State → State × Except Result ChainRun
  | [], r, s => (s, .ok r)
  | o :: os, r, s =>
    match runOp i o r s with
    | (t, .ok r') => runOps i multi os r' t
    | (t, .error e) => (t, .error (atIndex multi o e))

/-- R601: the staged output is written once the last operation has succeeded. -/
def release (i : RingIdent) (staged : List (Nat × List Byte)) (s : State) : State :=
  staged.foldl (fun t e => ringWriteBy 24 i e.1 e.2 t) s

/-- Some lane is in service (§13.11). (DEDUCED, log 42.) -/
def anyLane (s : State) : Bool := decide (s.cx.laneOk ≠ 0)

/-- A chain counts in CX_CHAINS. -/
def countChain (s : State) : State := s.onCx fun c => { c with chains := c.chains + 1 }

/-- A whole chain of symmetric operations (R898). (DEDUCED, log 41.) -/
def runChain (k : Cmd) (i : RingIdent) (s : State) : State × Result :=
  let multi := decide (1 < k.descs.length)
  match chainCheck s i k.descs with
  | some r => (s, r)
  | none =>
    if !anyLane s then (s, statusOf 0x207)
    else if k.descs.any consumesSeed && seedless k then (s, statusOf 0x205)
    else
      match runOps i multi (chainOps 0 k.descs) { drbg := cmdDrbg k } s with
      | (t, .error e) => (countChain t, e)
      | (t, .ok r) =>
        (countChain (release i r.staged t),
          { status := if r.empty then 1 else 0, len := (r.staged.map fun e => e.2.length).sum })

/-! ### Lanes -/

/-- R588, R373: the lane a command takes: the lowest in service that may take its world's work. (DEDUCED, log 42.) -/
def freeCryptoLane (s : State) (keeper : Bool) : Option Nat :=
  (List.range 16).find? fun n => s.cx.laneOk.getLsbD n && (keeper || !s.kp.hint.getLsbD n)

/-- A CRYPTO command of this chapter runs on a lane; with no lane in service it ends all the same (NO_LANE), and where
every lane in service is hinted an Open-world command waits (R373). The lane's APLIC source pulses as the command ends (Table 5.8).
(DEDUCED, log 41; DEDUCED, log 42; DESIGN CHOICE, log 79.) -/
def onLane (c : CmdRef) (op : Nat) (f : Cmd → RingIdent → State → State × Result) (s : State) : State :=
  let keeper := decide ((s.lt.ident c.ring).encl ≠ 0)
  let f := fun k i t => let p := f k i (slotErrors c.store k i t); (noKeyViolation 24 k i p.2 p.1, p.2)
  match freeCryptoLane s keeper with
  | some n => runAtOnce c (isOpcode 2 op) 1 n (fun k i t => let p := f k i t; (aplic p.1 (169 + n), p.2)) s
  | none => if anyLane s then s else runAtOnce c (isOpcode 2 op) 8 0 f s

/-- HASH. -/
def execHash (c : CmdRef) (s : State) : Host.Outcome State Fault Refusal := ok s (onLane c 0x01 runChain s)
/-- AES_CBC. -/
def execAesCbc (c : CmdRef) (s : State) : Host.Outcome State Fault Refusal := ok s (onLane c 0x02 runChain s)
/-- AES_CTR. -/
def execAesCtr (c : CmdRef) (s : State) : Host.Outcome State Fault Refusal := ok s (onLane c 0x03 runChain s)
/-- AES_GCM. -/
def execAesGcm (c : CmdRef) (s : State) : Host.Outcome State Fault Refusal := ok s (onLane c 0x04 runChain s)
/-- AES_XTS. -/
def execAesXts (c : CmdRef) (s : State) : Host.Outcome State Fault Refusal := ok s (onLane c 0x05 runChain s)
/-- AES_CMAC. -/
def execAesCmac (c : CmdRef) (s : State) : Host.Outcome State Fault Refusal := ok s (onLane c 0x06 runChain s)
/-- AES_KW. -/
def execAesKw (c : CmdRef) (s : State) : Host.Outcome State Fault Refusal := ok s (onLane c 0x07 runChain s)
/-- AES_KWP. -/
def execAesKwp (c : CmdRef) (s : State) : Host.Outcome State Fault Refusal := ok s (onLane c 0x08 runChain s)
/-- CHACHA_POLY. -/
def execChachaPoly (c : CmdRef) (s : State) : Host.Outcome State Fault Refusal := ok s (onLane c 0x09 runChain s)
/-- HMAC. -/
def execHmac (c : CmdRef) (s : State) : Host.Outcome State Fault Refusal := ok s (onLane c 0x0A runChain s)
/-- KMAC. -/
def execKmac (c : CmdRef) (s : State) : Host.Outcome State Fault Refusal := ok s (onLane c 0x0B runChain s)
/-- RANDOM. -/
def execRandom (c : CmdRef) (s : State) : Host.Outcome State Fault Refusal := ok s (onLane c 0x0C runChain s)

/-! ### Key commands (§13.7) -/

/-- The checks that every key command makes before its own: BAD_LENGTH where `size` is given and OUT_LEN is too small,
BAD_PARAM, SERVICE_DOWN, and NO_LANE. -/
def keyCommand (u : Uses) (lenOk : Bool) (size : Nat) (needsSeed : Bool) (f : Line → Except Result (State × Result)) (k : Cmd)
    (i : RingIdent) (s : State) : State × Result :=
  let d := k.first
  if !lenOk then (s, badLength 0)
  else if xOutLen d < size then (s, badLength size)
  else if !unusedOk u d || !scratchOk (xIn d) || !scratchOk (xOut d) then (s, statusOf 0x200)
  else if s.kp.down && decide (i.encl ≠ 0) then (s, statusOf 0x50)
  else if !anyLane s then (s, statusOf 0x207)
  else if needsSeed && seedless k then (s, statusOf 0x205)
  else match f d with
    | .error r => (s, r)
    | .ok p => p

/-- The input bytes of a single command, read by a mesh requester; scratch is zero at its start (R599). -/
def keyInput (requester : Nat) (i : RingIdent) (d : Line) (s : State) : Except Result (State × List Byte) :=
  if 2 ^ 63 ≤ xIn d then .ok (s, List.replicate (xInLen d) 0)
  else
    let (t, bs, poison) := ringReadBy requester i (xIn d) (xInLen d) s
    if poison then .error (statusOf 0x70) else .ok (t, bs)

/-- The output bytes of a single command; output into scratch vanishes with the chain. -/
def keyOutput (i : RingIdent) (d : Line) (bs : List Byte) (res : Nat) (s : State) : State × Result :=
  if 2 ^ 63 ≤ xOut d then (s, { status := 0, result32 := res })
  else (ringWriteBy 24 i (xOut d) bs s, { status := 0, len := bs.length, result32 := res })

/-- KEY_IMPORT (R620). -/
def keyImport (r : Nat) (k : Cmd) (i : RingIdent) (s : State) : State × Result :=
  let n := xInLen k.first
  keyCommand { slot2 := true, inp := true } (decide (n % 8 = 0 ∧ 32 ≤ n ∧ n ≤ 1048)) 0 false (fun d => do
    let w ← wrappingKey s i (xSlot2 d) 0x40
    let (s, blob) ← keyInput 24 i d s
    match (aesKwpUnwrap w blob).bind blobParse with
    | none => .error (statusOf 0x202)
    | some (alg, usage, key) =>
      let (s, n) ← createSlot i r k.seq alg usage key s
      .ok (s, { status := 0, result32 := n })) k i s

/-- The public key that KEY_GENERATE writes (R621). -/
def publicOf (alg : Nat) (key : List Byte) : List Byte :=
  match alg with
  | 0x20 => ecEncode (ecPublic (ofBytesBE key))
  | 0x30 | 0x31 => (kemKeys (kemSet alg) (key.take 32)).1
  | 0x32 | 0x33 => (dsaKeys (dsaSet alg) key).pk
  | _ => []

/-- Its length. -/
def publicLen (alg : Nat) : Nat :=
  match alg with
  | 0x20 => 97
  | 0x30 => 1184
  | 0x31 => 1568
  | 0x32 => 1952
  | 0x33 => 2592
  | _ => 0

/-- Key material from a DRBG: a P-384 scalar from 64 bytes (R673), otherwise PARAM bytes. -/
def drawKey (alg n : Nat) (g : Drbg) : List Byte :=
  if alg = 0x20 then bytesBE 48 (ecScalar (g.generate 64).1) else (g.generate n).1

/-- The unit a key generation needs: an MU for a P-384 key, an LU for a lattice key, of the ring's world (R621, R634). -/
def unitFor (s : State) (alg : Nat) (keeper : Bool) : Bool :=
  if publicLen alg = 0 then true
  else (if alg = 0x20 then [0, 1, 2, 3] else [4, 5]).any fun u => s.mu.ok.getLsbD u && (s.kp.world.getLsbD u == keeper)

/-- KEY_GENERATE (R621, R661). A slot that demands TWIN needs a twin pair in service. (DEDUCED, log 43.) -/
def keyGenerate (r : Nat) (k : Cmd) (i : RingIdent) (s : State) : State × Result :=
  let alg := xAlg k.first
  let twinLost := decide (alg = 0x20) && (xUsage k.first).getLsbD 12 &&
    ([0, 2].all fun u => !(s.mu.ok.getLsbD u && s.mu.ok.getLsbD (u + 1) &&
      (s.kp.world.getLsbD u == decide (i.encl ≠ 0)) && (s.kp.world.getLsbD (u + 1) == decide (i.encl ≠ 0))))
  keyCommand { alg := true, usage := true, param := true, out := decide (publicLen alg ≠ 0) } true (publicLen alg) true (fun d =>
    if !keyAllowed alg (xParam d) (xUsage d) then .error (statusOf 0x206)
    else if twinLost then .error (statusOf 0x31)
    else if !unitFor s alg (decide (i.encl ≠ 0)) then .error (statusOf 0x241)
    else do
      let key := drawKey alg (xParam d) (cmdDrbg k)
      let (s, n) ← createSlot i r k.seq alg (xUsage d) key s
      .ok (if publicLen alg = 0 then (s, { status := 0, result32 := n }) else keyOutput i d (publicOf alg key) n s)) k i s

/-- KEY_DERIVE (R622). -/
def keyDerive (r : Nat) (k : Cmd) (i : RingIdent) (s : State) : State × Result :=
  keyCommand { slot := true, alg := true, usage := true, param := true, inp := true } (decide (xInLen k.first ≤ 4096)) 0 false (fun d => do
    let g ← useSlot s i (xSlot d)
    demand g 0x0C 0x80
    let m ← material g
    let usage := if g.usage.getLsbD 10 then xUsage d else clearBit (xUsage d) 10
    if !keyAllowed (xAlg d) (xParam d) (xUsage d) then .error (statusOf 0x206)
    else
      let (s, bs) ← keyInput 24 i d s
      let (s, n) ← createSlot i r k.seq (xAlg d) usage (kmac256 m bs (xParam d) (ascii "KLXKDF")) s
      .ok (s, { status := 0, result32 := n })) k i s

/-- KEY_EXPORT (R623). -/
def keyExport (k : Cmd) (i : RingIdent) (s : State) : State × Result :=
  keyCommand { slot := true, slot2 := true, out := true } true 0 false (fun d => do
    let g ← useSlot s i (xSlot d)
    let w ← wrappingKey s i (xSlot2 d) 0x20
    if !g.usage.getLsbD 10 then .error (statusOf 0x204)
    else if xOutLen d < blobLen g.key.length then .error (badLength (blobLen g.key.length))
    else
      let _ ← material g
      .ok (keyOutput i d (aesKwpWrap w (blobPlain g)) 0 s)) k i s

/-- KEY_DESTROY (R624); executed again after its own success, it finds the slot gone and completes OK (R563). -/
def keyDestroy (k : Cmd) (i : RingIdent) (s : State) : State × Result :=
  keyCommand { slot := true } true 0 false (fun d => do
    let _ ← useSlot s i (xSlot d)
    .ok (s.onCx fun c => { c with slots := tdel c.slots (xSlot d) }, statusOf 0)) k i s

/-- KEY_INFO (R625). -/
def keyInfo (k : Cmd) (i : RingIdent) (s : State) : State × Result :=
  keyCommand { slot := true, out := true } true 32 false (fun d => do
    let g ← useSlot s i (xSlot d)
    let _ ← material g
    .ok (keyOutput i d (fit 32 (bytesLE 2 (xSlot d) ++ bytesLE 1 g.alg ++ [0] ++ bytesLE 2 g.usage.toNat ++ bytesLE 2 g.key.length
      ++ fit 8 (bytesLE 1 g.encl) ++ bytesLE 8 g.ct.toNat)) 0 s)) k i s

/-- KEK_RELEASE (R626-R628). (DEDUCED, log 43.) -/
def kekRelease (k : Cmd) (i : RingIdent) (s : State) : State × Result :=
  keyCommand { inp := true, out := true } (decide (xInLen k.first = 1665)) 1712 true (fun d => do
    let (s, bs) ← keyInput 24 i d s
    let ek := bs.take 1568
    match ecDecode (bs.drop 1568) with
    | none => .error (statusOf 0x247)
    | some q =>
      if !kemEkOk (kemSet 0x31) ek then .error (statusOf 0x247)
      else if !unitFor s 0x31 (decide (i.encl ≠ 0)) || !unitFor s 0x20 (decide (i.encl ≠ 0)) then .error (statusOf 0x241)
      else
        let g := (cmdDrbg k).generate 32
        let e := ecScalar (g.2.generate 64).1
        let c := kemEncaps (kemSet 0x31) ek g.1
        let w := kmac256 (c.1 ++ ecdh e q) (sha384 bs) 32 (ascii "KLXKEKREL")
        .ok (keyOutput i d (c.2 ++ ecEncode (ecPublic e) ++ List.replicate 7 0 ++ aesKwWrap w (tenantKek s i)) 0 s)) k i s

/-- KEY_IMPORT. -/
def execKeyImport (c : CmdRef) (s : State) : Host.Outcome State Fault Refusal := ok s (onLane c 0x10 (keyImport c.ring) s)
/-- KEY_GENERATE. -/
def execKeyGenerate (c : CmdRef) (s : State) : Host.Outcome State Fault Refusal := ok s (onLane c 0x11 (keyGenerate c.ring) s)
/-- KEY_DERIVE. -/
def execKeyDerive (c : CmdRef) (s : State) : Host.Outcome State Fault Refusal := ok s (onLane c 0x12 (keyDerive c.ring) s)
/-- KEY_EXPORT. -/
def execKeyExport (c : CmdRef) (s : State) : Host.Outcome State Fault Refusal := ok s (onLane c 0x13 keyExport s)
/-- KEY_DESTROY. -/
def execKeyDestroy (c : CmdRef) (s : State) : Host.Outcome State Fault Refusal := ok s (onLane c 0x14 keyDestroy s)
/-- KEY_INFO. -/
def execKeyInfo (c : CmdRef) (s : State) : Host.Outcome State Fault Refusal := ok s (onLane c 0x15 keyInfo s)
/-- KEK_RELEASE. -/
def execKekRelease (c : CmdRef) (s : State) : Host.Outcome State Fault Refusal := ok s (onLane c 0x16 kekRelease s)

/-! ### Entropy and lanes -/

/-- ENTROPY_HEALTH_FAIL (R607): the source restarts; the DRBG goes on until it needs a reseed. -/
def execEntropyHealthFail (s : State) : Host.Outcome State Fault Refusal :=
  ok s (s.onCx fun c => { c with esOk := false, trouble := setBit c.trouble 2 })

/-- ENTROPY_RESTART_DONE (R607): the start-up tests have passed, and the DRBG reseeds at once. -/
def execEntropyRestartDone (s : State) : Host.Outcome State Fault Refusal :=
  .next (s.onCx fun c => { c with esOk := true, drbgOk := true })

/-- DRBG_RESEED (R605, R607): a due reseed succeeds while the source passes; without it the DRBG produces nothing. -/
def execDrbgReseed (s : State) : Host.Outcome State Fault Refusal := .next (s.onCx fun c => { c with drbgOk := c.esOk })

/-- R630: a lane that fails a check leaves service. -/
def laneFails (n : LaneNo) (s : State) : State :=
  s.onCx fun c => { c with laneOk := clearBit c.laneOk n.val, trouble := setBit c.trouble 0 }

/-- CRYPTO_LANE_SELF_TEST (R630): only a lane in service is tested, and one that fails leaves service. -/
def execCryptoLaneSelfTest (lane : LaneNo) (passed : Bool) (s : State) : Host.Outcome State Fault Refusal :=
  ok s (if s.cx.laneOk.getLsbD lane.val && !passed then laneFails lane s else s)

/-- R631: the chain that was in flight on the failed lane has started there, and restarts: it is marked for execution again,
so that its next start commits a START record (R894). (DEDUCED, log 41.) -/
def restartChain (c : CmdRef) (lane : LaneNo) (s : State) : State :=
  match (s.ring c.ring).find c.seq with
  | none => s
  | some k =>
    if decide (dClass k.first = 2) && decide (dOpcode k.first < 0x80) && (ringEngineResult (s.lt.ident c.ring) c.ring k).isNone
        && mayStart s c.ring k then
      let s := startCmd c.ring k 1 lane.val s
      (s.onRing c.ring fun g => g.change c.seq fun k => { k with st := .accepted, reexec := true }).onCx
        fun x => { x with trouble := setBit x.trouble 1 }
    else s

/-- CRYPTO_LANE_FAIL (R630, R631), with the chain that was in flight on the lane. (DEDUCED, log 41.) -/
def execCryptoLaneFail (lane : LaneNo) (chain : Option CmdRef) (s : State) : Host.Outcome State Fault Refusal :=
  ok s (if s.cx.laneOk.getLsbD lane.val then
      match chain with
      | some c => laneFails lane (restartChain c lane s)
      | none => laneFails lane s
    else s)

end Sys2Proof.Machine
end

