-- ==== Sys2Proof/Machine/ModUnits.lean ====
section
/-!
DEFINITION. The modular and lattice units (14): sessions and operand tags, the arithmetic commands, the P-384 and lattice
commands, a unit's end of a command, abort, failure and self-test.

A row that names a command starts it; UNIT_COMMAND_END ends it. The operands are read at the start (R614), and everything
the command writes is written at its end (R637, R662).
-/

namespace Sys2Proof.Machine

/-! ### Fields (Table 14.2) -/

/-- SESSION. -/
def uSession (d : Line) : Nat := lineField d 10 2
/-- RD, RA, RB and RN. -/
def uRd (d : Line) : Nat := lineField d 12 1
/-- RA. -/
def uRa (d : Line) : Nat := lineField d 13 1
/-- RB. -/
def uRb (d : Line) : Nat := lineField d 14 1
/-- RN. -/
def uRn (d : Line) : Nat := lineField d 15 1
/-- LBITS. -/
def uL (d : Line) : Nat := lineField d 28 2
/-- EBITS. -/
def uE (d : Line) : Nat := lineField d 30 2
/-- CHECK (Table 14.3). -/
def fCheck (d : Line) : Bool := d.getLsbD 18
/-- TWIN. -/
def fTwin (d : Line) : Bool := d.getLsbD 19
/-- RANDOM. -/
def fRandom (d : Line) : Bool := d.getLsbD 20
/-- RELEASE. -/
def fRelease (d : Line) : Bool := d.getLsbD 21

/-- The arithmetic opcodes MADD to MEXP. -/
def isArith (op : Nat) : Bool := decide (0x86 ≤ op ∧ op ≤ 0x8B)
/-- An opcode that draws its value (R651). -/
def isDraw (d : Line) : Bool := decide (dOpcode d = 0x83) && fRandom d
/-- The commands that use LBITS (R647). -/
def usesL (d : Line) : Bool := isArith (dOpcode d) || decide (dOpcode d = 0x84) || isDraw d
/-- The command uses RD. -/
def usesRd (op : Nat) : Bool := isArith op || decide (op = 0x83) || decide (op = 0x85)
/-- The command uses RA. -/
def usesRa (op : Nat) : Bool := isArith op || decide (op = 0x84)
/-- The command uses RB. -/
def usesRb (op : Nat) : Bool := decide (op = 0x86 ∨ op = 0x87 ∨ op = 0x88 ∨ op = 0x8B)
/-- The command uses RN. -/
def usesRn (d : Line) : Bool := isArith (dOpcode d) || isDraw d

/-- R647: a declared operand length. -/
def lengthL (n : Nat) : Bool := decide (256 ≤ n ∧ n ≤ 8192 ∧ n % 64 = 0)

/-- R645, R647: the fields that a session command leaves unused are zero, and CHECK and TWIN stand in MOPEN alone. -/
def sessionFieldsOk (d : Line) : Bool :=
  let op := dOpcode d
  (decide (op = 0x85) || dZero d 8 2) && (decide (op ≠ 0x80) || dZero d 10 2) && (usesRd op || dZero d 12 1)
    && (usesRa op || dZero d 13 1) && (usesRb op || dZero d 14 1) && (usesRn d || dZero d 15 1)
    && ((decide (op = 0x83) && !fRandom d) || dZero d 16 12) && (usesL d || dZero d 28 2) && (decide (op = 0x8B) || dZero d 30 2)
    && (decide (op = 0x84) || dZero d 32 12) && dZero d 44 20 && (decide (op = 0x80) || !(fCheck d || fTwin d))

/-- R647: a register number that the command uses lies above 55. -/
def badRegister (d : Line) : Bool :=
  let op := dOpcode d
  (usesRd op && decide (55 < uRd d)) || (usesRa op && decide (55 < uRa d)) || (usesRb op && decide (55 < uRb d))
    || (usesRn d && decide (55 < uRn d))

/-- R530 steps 2 and 3 of a session command (R645-R648, R685). -/
def sessionCheck (d : Line) : Option Result :=
  let op := dOpcode d
  if usesL d && !lengthL (uL d) then some (badLength 0)
  else if op = 0x8B ∧ 8192 < uE d then some (badLength 0)
  else if decide (op = 0x83) && !fRandom d && !decide (1 ≤ xInLen d ∧ xInLen d ≤ 1024) then some (badLength 0)
  else if op = 0x84 ∧ xOutLen d < uL d / 8 then some (badLength (uL d / 8))
  else if !sessionFieldsOk d then some (statusOf 0x200)
  else if badRegister d then some (statusOf 0x242)
  else none

/-! ### Units and sessions -/

/-- The ring's world: Keeper for an enclave's ring (R634). -/
def ringKeeper (i : RingIdent) : Bool := decide (i.encl ≠ 0)

/-- The unit is in service for a world, and not handed over (R634, R366). -/
def unitServes (s : State) (keeper : Bool) (u : Nat) : Bool :=
  s.mu.ok.getLsbD u && (s.kp.world.getLsbD u == keeper) && !s.kp.handover.any (·.1 == u)

/-- The command a unit runs. -/
def runOn (s : State) (u : Nat) : Option UnitRun := (s.mu.busy.find? (·.1 == u)).map (·.2)

/-- The unit takes a command now: idle and not gated (R635, R370). -/
def unitIdle (s : State) (u : Nat) : Bool := (runOn s u).isNone && !s.kp.gated.getLsbD u

/-- The session that holds a unit, by its lower unit. -/
def sessionOn (s : State) (u : Nat) : Option (Nat × Session) :=
  s.mu.sessions.find? fun e => e.1 == u || (e.2.twin && e.1 + 1 == u)

/-- A hand-over into a world of a unit of the kind is in progress (R635). -/
def arriving (s : State) (keeper lattice : Bool) : Bool :=
  s.kp.handover.any fun e => (e.2 == keeper) && (if lattice then decide (e.1 = 4 ∨ e.1 = 5) else decide (e.1 < 4))

/-- The twin pairs of a world in service, by their lower unit (R660). -/
def pairsOf (s : State) (keeper : Bool) : List Nat := [0, 2].filter fun u => unitServes s keeper u && unitServes s keeper (u + 1)

/-- The session a command names, where its ring may name it (R639). -/
def namedSession (s : State) (r : Nat) (i : RingIdent) (d : Line) : Option (Nat × Session) :=
  s.mu.sessions.find? fun e => e.2.num == uSession d &&
    (if dOpcode d = 0x82 then decide (e.2.fn = i.fn ∧ e.2.encl = i.encl) else decide (e.2.ring = r))

/-- R33, R34: a command that finds no session names one of another identity: a violation. -/
def noSessionViolation (k : Cmd) (i : RingIdent) (e : Result) (s : State) : State :=
  if e.status = 0x240 ∧ (s.mu.sessions.any fun x => x.2.num == uSession k.first && !decide (x.2.fn = i.fn ∧ x.2.encl = i.encl)) = true then
    violateCommand s i .functionOwner 25
  else s

/-- What the start of a unit's command comes to: it waits, it ends at once, or it runs on a unit. -/
inductive UnitStart
  | wait
  | now (r : Result)
  | run (unit : Nat) (x : UnitRun) (t : State)

/-! ### Operand tags (§14.4) and arithmetic -/

/-- A register of a session. -/
def Session.reg (x : Session) (n : Nat) : MuReg := tget {} x.regs n
/-- Writes a register of a session. -/
def Session.setReg (x : Session) (n : Nat) (v : MuReg) : Session := { x with regs := tset {} x.regs n v }

/-- R654: the operands that RELEASE names. -/
def releasable (a b : MuReg) : Bool :=
  a.secret && b.secret && ((!a.key && decide (a.draw ≠ 0) && b.key && decide (b.draw = 0)) ||
    (!b.key && decide (b.draw ≠ 0) && a.key && decide (a.draw = 0)))

/-- The operand registers of an arithmetic command, RN apart. -/
def operandsOf (x : Session) (d : Line) : List MuReg :=
  [x.reg (uRa d)] ++ (if usesRb (dOpcode d) then [x.reg (uRb d)] else [])

/-- R655: the operands that an arithmetic command may not have. -/
def secretOperand (x : Session) (d : Line) : Bool :=
  let draws := ((operandsOf x d).map (·.draw)).filter (· ≠ 0)
  (x.reg (uRn d)).secret || draws.any (fun n => draws.any (· ≠ n))
    || (fRelease d && !releasable (x.reg (uRa d)) (x.reg (uRb d)))

/-- R652, R653: the tag of an arithmetic result, with its value. -/
def tagged (x : Session) (d : Line) (v : Nat) : MuReg :=
  let os := operandsOf x d
  if fRelease d || os.all (fun o => !o.secret) || (decide (dOpcode d = 0x8B) && !(x.reg (uRa d)).secret) then { val := v }
  else { val := v, secret := true, key := os.any (·.key), draw := (os.map (·.draw)).foldl max 0 }

/-- The result of an arithmetic command over the low L bits of its operands (R649, Table 14.1); none where MINV finds no
inverse. -/
def arith (d : Line) (a b n : Nat) : Option Nat :=
  match dOpcode d with
  | 0x86 => some ((a + b) % n)
  | 0x87 => some (((a : Int) - b) % n).toNat
  | 0x88 => some (a * b % n)
  | 0x89 => some (a * a % n)
  | 0x8A => invMod n (a % n)
  | _ => some (powMod n (a % n) b (uE d))

/-- R654: after a RELEASE every register of the released draw is zero and PUBLIC. -/
def Session.forget (x : Session) (draw : Nat) : Session := { x with regs := x.regs.filter fun e => decide (e.2.draw ≠ draw) }

/-- The low L bits. -/
def lowBits (n v : Nat) : Nat := v % 2 ^ n

/-- R649: the modulus is odd and at least 3. -/
def modulusOk (n : Nat) : Bool := decide (3 ≤ n ∧ n % 2 = 1)

/-- An arithmetic command of a session: the session afterwards and the result. -/
def arithRun (x : Session) (d : Line) : Option Session × Result :=
  let l := uL d
  let n := lowBits l (x.reg (uRn d)).val
  let b := (x.reg (uRb d)).val
  if !modulusOk n then (none, statusOf 0x243)
  else if secretOperand x d then (none, statusOf 0x244)
  else
    let v := arith d (lowBits l (x.reg (uRa d)).val) (if dOpcode d = 0x8B then lowBits (uE d) b else lowBits l b) n
    let y := x.setReg (uRd d) (tagged x d (v.getD 0))
    let y := if fRelease d then y.forget (max (x.reg (uRa d)).draw (x.reg (uRb d)).draw) else y
    (some y, statusOf (if v.isNone then 0x245 else 0))

/-- R651: MLOAD with RANDOM. -/
def drawRun (x : Session) (k : Cmd) : Option Session × Result :=
  let d := k.first
  let n := lowBits (uL d) (x.reg (uRn d)).val
  if !modulusOk n then (none, statusOf 0x243)
  else if (x.reg (uRn d)).secret then (none, statusOf 0x244)
  else
    let v := ofBytesBE ((cmdDrbg k).generate ((uL d + 7) / 8 + 8)).1 % (n - 1) + 1
    (some { x.setReg (uRd d) { val := v, secret := true, draw := x.draws + 1 } with draws := x.draws + 1 }, statusOf 0)

/-! ### Session commands -/

/-- MLDKEY's key (R650): the slot's owner, ALG and MU_LOAD usage. -/
def loadKey (s : State) (i : RingIdent) (d : Line) : Except Result KeySlot :=
  (useSlot s i (xSlot d)).bind fun k =>
    if (k.alg = 0x20 ∨ k.alg = 0x21) ∧ k.usage.getLsbD 9 = true then .ok k else .error (statusOf 0x21)

/-- R650: the slot demands a mode that the session lacks. -/
def lacksMode (k : KeySlot) (x : Session) : Bool := (k.usage.getLsbD 11 && !x.check) || (k.usage.getLsbD 12 && !x.twin)

/-- A session command's run, once its session is found. (DEDUCED, log 46.) -/
def sessionRun (r : Nat) (k : Cmd) (i : RingIdent) (u : Nat) (x : Session) (s : State) : UnitStart :=
  let d := k.first
  let base : UnitRun := { ring := r, seq := k.seq, pair := x.twin, check := x.check, twin := x.twin, session := some u }
  let put := fun (y : Session) => UnitStart.run u { base with after := some y } s
  match dOpcode d with
  | 0x81 => .run u { base with closes := true } s
  | 0x83 =>
    if fRandom d then
      (if seedless k then .now (statusOf 0x205)
      else let p := drawRun x k; .run u { base with after := p.1, result := p.2 } s)
    else
      let (t, bs, poison) := ringRead i (xIn d) (xInLen d) s
      if poison then .run u { base with result := statusOf 0x70 } t
      else .run u { base with after := some (x.setReg (uRd d) { val := ofBytesBE bs }) } t
  | 0x84 =>
    let v := x.reg (uRa d)
    if v.secret then .run u { base with result := statusOf 0x244 } s
    else
      let bs := bytesBE (uL d / 8) (lowBits (uL d) v.val)
      .run u { base with result := { status := 0, len := bs.length }, writes := [(xOut d, bs)] } s
  | 0x85 =>
    match loadKey s i d with
    | .error e => .now e
    | .ok g =>
      if lacksMode g x then .now (statusOf 0x21)
      else match material g with
        | .error e => .run u { base with result := e } s
        | .ok m => put (x.setReg (uRd d) { val := ofBytesBE m, secret := true, key := true })
  | _ => let p := arithRun x d; .run u { base with after := p.1, result := p.2 } s

/-- Every earlier command of the ring has completed (R640). -/
def earlierCompleted (s : State) (r : Nat) (k : Cmd) : Bool := (s.ring r).cmds.all fun c => decide (k.seq ≤ c.seq)

/-- MOPEN (R638): the lowest free unit, or the lowest pair whose units are both free. (DEDUCED, log 46.) -/
def openRun (r : Nat) (k : Cmd) (i : RingIdent) (s : State) : UnitStart :=
  let d := k.first
  let free := fun u => (sessionOn s u).isNone
  let candidates := if fTwin d then (pairsOf s (ringKeeper i)).filter fun u => free u && free (u + 1)
    else [0, 1, 2, 3].filter fun u => unitServes s (ringKeeper i) u && free u
  if fTwin d && (pairsOf s (ringKeeper i)).isEmpty then .now (statusOf 0x31)
  else match candidates with
    | [] => .now (statusOf 0x241)
    | u :: _ =>
      if unitIdle s u && (!fTwin d || unitIdle s (u + 1)) then
        let g := (tget 0 s.mu.gens u + 1) % 2 ^ 14
        let num := u + 4 * g
        let x : Session := { ring := r, fn := i.fn, encl := i.encl, num := num, check := fCheck d, twin := fTwin d }
        .run u { ring := r, seq := k.seq, pair := fTwin d, session := some u, result := { status := 0, result32 := num } }
          (s.onMu fun m => { m with gens := tset 0 m.gens u g, sessions := tput x m.sessions u })
      else .wait

/-- MABORT (R663): what it stops completes with ABORTED, and the session ends. -/
def stopSession (u : Nat) (s : State) : State :=
  let s := match runOn s u with
    | some x => if x.session = some u then
        (finishCmd x.ring x.seq (statusOf 0x40) s).onMu fun m => { m with busy := m.busy.filter fun e => decide (e.2 ≠ x) }
      else s
    | none => s
  s.onMu fun m => { m with sessions := tdel m.sessions u }

/-- The start of a session command (R639-R641, R665, R668). -/
def sessionStart (r : Nat) (k : Cmd) (i : RingIdent) (s : State) : UnitStart :=
  let d := k.first
  let op := dOpcode d
  match sessionCheck d with
  | some e => .now e
  | none =>
    if s.kp.down && ringKeeper i then .now (statusOf 0x50)
    else if op = 0x80 then openRun r k i s
    else if !earlierCompleted s r k then .wait
    else
      let keyError := if op = 0x85 then (match loadKey s i d with | .error e => some e | .ok _ => none) else none
      match keyError, namedSession s r i d with
      | some e, _ => .now e
      | none, none => .now (statusOf 0x240)
      | none, some (u, x) =>
        if x.broken then (if op = 0x81 then .run u { ring := r, seq := k.seq, session := some u, closes := true } s
          else .now (statusOf (if x.twin then 0x31 else 0x40)))
        else if op = 0x82 then (if s.kp.gated.getLsbD u then .wait else .run u { ring := r, seq := k.seq } s)
        else if unitIdle s u && (!x.twin || unitIdle s (u + 1)) then sessionRun r k i u x s
        else .wait

/-! ### Sessionless commands (§14.9, §14.10) -/

/-- The shape of a sessionless command: the fields it uses, its input and output lengths, the ALGs and usage it needs. -/
structure LoneForm where
  uses : Uses
  inOk : Nat → Bool
  outLen : Nat
  algs : List Nat
  usage : BitVec 16 := 0
  lattice : Bool := true

/-- P384_AGREE, MLKEM_ENCAPS and MLKEM_DECAPS with USAGE not 0 make a slot (R675). -/
def makesSlot (d : Line) : Bool := decide (dOpcode d = 0x92 ∨ dOpcode d = 0xA0 ∨ dOpcode d = 0xA1) && decide (xUsage d ≠ 0)

/-- Bytes of k polynomials, k from 1 to 8 (R683). -/
def polysOk (size n : Nat) : Bool := decide (n % size = 0 ∧ 1 ≤ n / size ∧ n / size ≤ 8)

/-- The forms of Tables 14.6, 14.7 and 14.9. -/
def loneForm (d : Line) : LoneForm :=
  let n := xInLen d
  let alg := xAlg d
  let slot := makesSlot d
  match dOpcode d with
  | 0x90 => { uses := { slot := true, alg := true, inp := true, out := true }, inOk := fun n => decide (1 ≤ n ∧ n ≤ 64), outLen := 96,
              algs := [0x20], usage := 0x10, lattice := false }
  | 0x91 => { uses := { inp := true }, inOk := fun n => decide (194 ≤ n ∧ n ≤ 257), outLen := 0, algs := [0], lattice := false }
  | 0x92 => { uses := { slot := true, alg := true, usage := true, param := slot, inp := true, out := !slot }, inOk := (· == 97),
              outLen := if slot then 0 else 48, algs := [0x20], usage := 0x2000, lattice := false }
  | 0xA0 => { uses := { alg := true, usage := true, param := slot, inp := true, out := true }, inOk := (· == 384 * (kemSet alg).k + 32),
              outLen := kemCtLen (kemSet alg) + (if slot then 0 else 32), algs := [0x30, 0x31] }
  | 0xA1 => { uses := { slot := true, alg := true, usage := true, param := slot, inp := true, out := !slot },
              inOk := (· == kemCtLen (kemSet alg)), outLen := if slot then 0 else 32, algs := [0x30, 0x31], usage := 0x100 }
  | 0xA2 => { uses := { slot := true, alg := true, inp := true, out := true, sLen := true, iv := min 16 (xSLen d) }, inOk := fun _ => true,
              outLen := dsaSigLen (dsaSet alg), algs := [0x32, 0x33], usage := 0x10 }
  | 0xA3 => { uses := { alg := true, inp := true, sLen := true, iv := min 16 (xSLen d) },
              inOk := fun n => decide (dsaPkLen (dsaSet alg) + dsaSigLen (dsaSet alg) ≤ n), outLen := 0, algs := [0x32, 0x33] }
  | 0xA8 | 0xA9 => { uses := { inp := true, param := true, out := true }, inOk := polysOk 1024, outLen := n, algs := [0] }
  | 0xAA => { uses := { inp := true, param := true, out := true }, inOk := polysOk 2048, outLen := n / 2, algs := [0] }
  | 0xAB => { uses := { inp := true, param := true, out := true }, inOk := (· == 34), outLen := 1024, algs := [0] }
  | _ =>
    let e := 32 * max 1 (xSLen d)
    { uses := { inp := true, param := true, out := true, sLen := true }, inOk := if xDir d then polysOk e else polysOk 1024,
      outLen := if xDir d then 1024 * (n / e) else e * (n / 1024), algs := [0] }

/-- An LU primitive (Table 14.9). -/
def isPrimitive (op : Nat) : Bool := decide (0xA8 ≤ op ∧ op ≤ 0xAC)

/-- BAD_PARAM of a sessionless command (R645, R675, R677, R679, R683). -/
def loneParamOk (d : Line) : Bool :=
  let f := loneForm d
  let op := dOpcode d
  unusedOk f.uses d && scratchOk (xIn d) && scratchOk (xOut d) && f.algs.contains (xAlg d)
    && !(f.lattice && (fCheck d || fTwin d)) && decide (xSLen d ≤ 16) && (!makesSlot d || decide (xParam d < 256))
    && (!isPrimitive op || decide (xParam d = 3329) || (decide (op ≠ 0xAC) && decide (xParam d = 8380417)))
    && (decide (op ≠ 0xAC) || [1, 4, 5, 10, 11].contains (xSLen d))

/-- The ring of an LU primitive's PARAM. -/
def primRing (d : Line) : Ring4 := if xParam d = 3329 then kemRing else dsaRing

/-- Polynomials from bytes, 32 bits a coefficient, and back (R683). A coefficient stands for its residue modulo q. -/
def polysOf (q : Nat) (bs : List Byte) : List Poly :=
  (chunks 1024 (bs.length / 1024) bs).map fun c => (unpackBits 32 256 c).map (· % q)
/-- The bytes of polynomials. -/
def polyBytes (fs : List Poly) : List Byte := fs.flatMap (packBits 32)

/-- The output of an LU primitive, and whether its sampling was extended (R682). (DESIGN CHOICE, log 47.) -/
def primitive (d : Line) (bs : List Byte) : List Byte × Bool :=
  let r := primRing d
  let fs := polysOf r.q bs
  match dOpcode d with
  | 0xA8 => (polyBytes (fs.map (if xDir d then intt r else ntt r)), false)
  | 0xA9 => (polyBytes (fs.map (intt r)), false)
  | 0xAA => (polyBytes ((fs.take (fs.length / 2)).zipWith (nttMul r) (fs.drop (fs.length / 2))), false)
  | 0xAB => let p := sampleNtt r bs; (polyBytes [p.1], p.2)
  | _ =>
    let w := xSLen d
    if xDir d then (polyBytes ((chunks (32 * w) (bs.length / (32 * w)) bs).map fun c => (byteDecode w c).map (decompress w)), false)
    else (fs.flatMap fun f => byteEncode w (f.map (compress w)), false)

/-- A sampling of the matrix from a public seed was extended (R682). -/
def matrixExtended (r : Ring4) (rho : List Byte) (rows cols : Nat) : Bool :=
  (List.range rows).any fun i => (List.range cols).any fun j => (sampleNtt r (rho ++ [BitVec.ofNat 8 j, BitVec.ofNat 8 i])).2

/-- The secret goes to the output or into a new slot (R675). -/
def secretTo (d : Line) (base : UnitRun) (before secret : List Byte) : UnitRun :=
  let out := if makesSlot d then before else before ++ secret
  { base with result := { status := 0, len := out.length }, writes := if out.isEmpty then [] else [(xOut d, out)]
              slot := if makesSlot d then some (xParam d % 256, xUsage d, secret) else none }

/-- Passes of the rejection loop that the model looks through; a signature that needs more has not ended.
(DESIGN CHOICE, log 47.) -/
def signFuel : Nat := 4096

/-- What a sessionless command writes and completes with, from its input and key; none while its rejection loop has not
ended (R681). -/
def loneResult (k : Cmd) (key bs : List Byte) (base : UnitRun) : Option UnitRun :=
  let d := k.first
  let alg := xAlg d
  let out := fun (o : List Byte) => { base with result := { status := 0, len := o.length }, writes := [(xOut d, o)] }
  let bad := fun (n : Nat) => { base with result := statusOf n }
  let ctx := (xIv d).take (xSLen d)
  match dOpcode d with
  | 0x90 =>
    let p := ecdsaSign (ofBytesBE key) (ecScalar ((cmdDrbg k).generate 64).1) bs
    some (out (bytesBE 48 p.1 ++ bytesBE 48 p.2))
  | 0x91 =>
    match ecDecode (bs.take 97) with
    | none => some (bad 0x247)
    | some q =>
      if ecdsaVerify q (ofBytesBE ((bs.drop 97).take 48)) (ofBytesBE ((bs.drop 145).take 48)) (bs.drop 193) then some base else some (bad 0x246)
  | 0x92 =>
    match ecDecode bs with
    | none => some (bad 0x247)
    | some q => some (secretTo d base [] (ecdh (ofBytesBE key) q))
  | 0xA0 =>
    let p := kemSet alg
    if !kemEkOk p bs then some (bad 0x247)
    else
      let c := kemEncaps p bs ((cmdDrbg k).generate 32).1
      some (secretTo d { base with extend := matrixExtended kemRing (bs.drop (384 * p.k)) p.k p.k } c.2 c.1)
  | 0xA1 =>
    let p := kemSet alg
    let rho := (sha3_512 (key.take 32 ++ [BitVec.ofNat 8 p.k])).take 32
    some (secretTo d { base with extend := matrixExtended kemRing rho p.k p.k } [] (kemDecaps p (key.take 32) (key.drop 32) bs))
  | 0xA2 =>
    let p := dsaSet alg
    (dsaSign p key ctx bs ((cmdDrbg k).generate 32).1 signFuel).map fun g =>
      { out g.1 with result := { status := 0, len := g.1.length, result32 := min g.2 0xFFFFFFFF }, iter := g.2
                     extend := matrixExtended dsaRing (dsaKeys p key).rho p.k p.l }
  | 0xA3 =>
    let p := dsaSet alg
    let pk := bs.take (dsaPkLen p)
    let e := { base with extend := matrixExtended dsaRing (pk.take 32) p.k p.l }
    some (if dsaVerify p pk ctx (bs.drop (dsaPkLen p + dsaSigLen p)) ((bs.drop (dsaPkLen p)).take (dsaSigLen p)) then e
      else { e with result := statusOf 0x246 })
  | _ => let o := primitive d bs; some { out o.1 with extend := o.2 }

/-- The slot of a sessionless command: none where it names none (R900, R612). -/
def loneKey (s : State) (i : RingIdent) (d : Line) : Except Result (Option KeySlot) :=
  let f := loneForm d
  if f.uses.slot then (useSlot s i (xSlot d)).bind fun k => (demand k (xAlg d) f.usage).map fun _ => some k else .ok none

/-- The lengths of a sessionless command can be judged: its ALG, and the d of LU_COMPRESS, are ones the tables list. -/
def lengthsKnown (d : Line) : Bool :=
  (loneForm d).algs.contains (xAlg d) && (decide (dOpcode d ≠ 0xAC) || [1, 4, 5, 10, 11].contains (xSLen d))

/-- R530 steps 2 to 4 of a sessionless command. (DESIGN CHOICE, log 47.) -/
def loneCheck (s : State) (i : RingIdent) (d : Line) : Except Result (Option KeySlot) :=
  let f := loneForm d
  if lengthsKnown d && !f.inOk (xInLen d) then .error (badLength 0)
  else if lengthsKnown d && f.uses.out && decide (xOutLen d < f.outLen) then .error (badLength f.outLen)
  else if !loneParamOk d then .error (statusOf 0x200)
  else if s.kp.down && ringKeeper i then .error (statusOf 0x50)
  else loneKey s i d

/-- CHECK and TWIN of a P-384 command: what its FLAGS name and its slot demands (R661). -/
def loneModes (d : Line) (g : Option KeySlot) : Bool × Bool :=
  (fCheck d || g.any (·.usage.getLsbD 11), fTwin d || g.any (·.usage.getLsbD 12))

/-- Where a sessionless command would run (R635, R660): the suitable units, by their lower one. -/
def loneUnits (s : State) (keeper lattice twin : Bool) : List Nat :=
  if lattice then [4, 5].filter (unitServes s keeper) else if twin then pairsOf s keeper else [0, 1, 2, 3].filter (unitServes s keeper)

/-- The start of a sessionless command. -/
def loneStart (r : Nat) (k : Cmd) (i : RingIdent) (s : State) : UnitStart :=
  let d := k.first
  match loneCheck s i d with
  | .error e => .now e
  | .ok g =>
    let lattice := (loneForm d).lattice
    let (check, twin) := loneModes d g
    let twin := twin && !lattice
    let check := check && !lattice
    let units := loneUnits s (ringKeeper i) lattice twin
    if units.isEmpty then (if twin then .now (statusOf 0x31) else if arriving s (ringKeeper i) lattice then .wait else .now (statusOf 0x241))
    else match units.find? fun u => unitIdle s u && (!twin || unitIdle s (u + 1)) with
      | none => .wait
      | some u =>
        let base : UnitRun := { ring := r, seq := k.seq, pair := twin, check := check, twin := twin }
        if consumesSeed d && seedless k then .now (statusOf 0x205)
        else match g.map material with
          | some (.error e) => .run u { base with result := e } s
          | key =>
            let key := match key with | some (.ok m) => m | _ => []
            match keyInput 25 i d s with
            | .error e => .run u { base with result := e } (ringReadPoison i d s)
            | .ok (t, bs) => match loneResult k key bs base with
              | some x => .run u x t
              | none => .wait
where
  /-- The state after a read that met poison. -/
  ringReadPoison (i : RingIdent) (d : Line) (s : State) : State := (ringRead i (xIn d) (xInLen d) s).1

/-! ### Starting and ending -/

/-- The start of a command of this chapter. (DEDUCED, log 46.) -/
def unitStart (r : Nat) (k : Cmd) (i : RingIdent) (s : State) : UnitStart :=
  if dOpcode k.first < 0x90 then sessionStart r k i s else loneStart r k i s

/-- The unit a command would start on now. -/
def unitWanted (s : State) (r : Nat) (k : Cmd) : Option Nat :=
  if decide (dClass k.first = 2) && decide (0x80 ≤ dOpcode k.first) && (ringEngineResult (s.lt.ident r) r k).isNone && mayStart s r k then
    match unitStart r k (s.lt.ident r) s with
    | .run u _ _ => some u
    | _ => none
  else none

/-- R636: a ring of a lower number has a startable command for the same unit. (DEDUCED, log 46.) -/
def lowerRingFirst (s : State) (r u : Nat) : Bool :=
  s.rings.tab.any fun e => decide (e.1 < r) && e.2.cmds.any fun k => decide (unitWanted s e.1 k = some u)

/-- The units that a run occupies. -/
def UnitRun.units (x : UnitRun) (u : Nat) : List Nat := if x.pair then [u, u + 1] else [u]

/-- ENGINE and engine number of a unit (R894). -/
def unitEngine (u : Nat) : Nat × Nat := if u < 4 then (2, u) else (3, u - 4)

/-- A command of this chapter starts, where it may (R523, R635, R636). -/
def onUnit (c : CmdRef) (op : Nat) (s : State) : State :=
  let r := c.ring.val
  match (s.ring r).find c.seq with
  | none => s
  | some k =>
    if !isOpcode 2 op k.first || !mayStart s r k then s
    else if k.prior.isSome then runCommand c (isOpcode 2 op) (if op < 0xA0 then 2 else 3) 0 (fun _ t => t) s
    else match unitStart r k (s.lt.ident r) (slotErrors c.store k (s.lt.ident r) s) with
      | .wait => s
      | .now e =>
        runAtOnce c (isOpcode 2 op) (if op < 0xA0 then 2 else 3) 0
          (fun k i t => (noSessionViolation k i e (noKeyViolation 25 k i e (slotErrors c.store k i t)), e)) s
      | .run u x t =>
        if lowerRingFirst s r u then s
        else if op = 0x82 then runAtOnce c (isOpcode 2 op) 2 u (fun _ _ v => (stopSession u v, statusOf 0)) s
        else runCommand c (isOpcode 2 op) (unitEngine u).1 (unitEngine u).2 (fun _ v =>
          (x.units u).foldl (fun v n => v.onMu fun m => { m with busy := tput x m.busy n }) v) t

/-- The unit's APLIC source pulses, while the unit is in the world the light table gives that source (R637). -/
def unitPulse (u : Nat) (s : State) : State :=
  if s.lt.irqWorld.getLsbD (185 + u) == s.kp.world.getLsbD u then aplic s (185 + u) else s

/-- A run leaves its units, which count it and signal. -/
def unitFree (u : Nat) (x : UnitRun) (s : State) : State :=
  (x.units u).foldl (fun t n => unitPulse n (t.onMu fun m => { m with busy := tdel m.busy n, cmds := tmod 0 m.cmds n (· + 1) })) s

/-- What a finished run writes, with its result. -/
def unitWrites (u : Nat) (x : UnitRun) (s : State) : State × Result :=
  let i := s.lt.ident x.ring
  let made : Except Result (State × Result) := match x.slot with
    | none => .ok (s, x.result)
    | some (alg, usage, key) => (createSlot i x.ring x.seq alg usage key s).map fun p => (p.1, { x.result with result32 := p.2 })
  match made with
  | .error e => (s, e)
  | .ok (s, res) =>
    let s := x.writes.foldl (fun t w => if 2 ^ 63 ≤ w.1 then t else ringWrite i w.1 w.2 t) s
    (s.onMu fun m =>
      { m with
        sessions := if x.closes then tdel m.sessions u else match x.after with | some y => tput y m.sessions u | none => m.sessions
        iterMax := BitVec.ofNat 32 (max m.iterMax.toNat (min x.iter 0xFFFFFFFF))
        luTrouble := setBitIf x.extend m.luTrouble 3 }, res)

/-- R662: a mismatch writes nothing, ends the session and completes with FAULT_DETECTED. -/
def unitMismatch (u : Nat) (x : UnitRun) (bitNo : Nat) (s : State) : State :=
  let s := finishCmd x.ring x.seq (statusOf 0x30) (unitFree u x s)
  let held := (x.units u).filterMap fun n => (sessionOn s n).map (·.1)
  s.onMu fun m => { m with muTrouble := setBit m.muTrouble bitNo, sessions := held.foldl tdel m.sessions }

/-- The lower unit of a run. -/
def lowerUnit (x : UnitRun) (u : Nat) : Nat := if x.pair then u / 2 * 2 else u

/-- UNIT_COMMAND_END's effect. (DEDUCED, log 46.) -/
def unitEnd (unit : Nat) (how : UnitEnd) (s : State) : State :=
  match runOn s unit with
  | none => s
  | some x =>
    let u := lowerUnit x unit
    match how with
    | .done => let p := unitWrites u x (unitFree u x s); finishCmd x.ring x.seq p.2 p.1
    | .checkMismatch => if x.check then unitMismatch u x 1 s else s
    | .twinMismatch => if x.twin then unitMismatch u x 2 s else s

/-- UNIT_COMMAND_END (R637, R662): the unit signals the ring engine that its command has ended. -/
def execUnitCommandEnd (unit : UnitNo) (how : UnitEnd) (s : State) : Host.Outcome State Fault Refusal := ok s (unitEnd unit.val how s)

/-- A sessionless command stops and starts again from its descriptor and logged seed (R665, R684). -/
def restartRun (x : UnitRun) (s : State) : State :=
  (s.onRing x.ring fun g => g.change x.seq fun k => { k with st := .accepted, reexec := true }).onMu fun m =>
    { m with busy := m.busy.filter fun e => decide (e.2 ≠ x) }

/-- R665: the command in flight on a unit that leaves service. -/
def abandonRun (unit : Nat) (s : State) : State :=
  match runOn s unit with
  | none => s
  | some x =>
    match x.session with
    | none => restartRun x s
    | some _ => (finishCmd x.ring x.seq (statusOf (if x.pair then 0x31 else 0x40)) s).onMu fun m =>
        { m with busy := m.busy.filter fun e => decide (e.2 ≠ x) }

/-- R664, R665, R684: a unit in service leaves it. -/
def unitLeaves (unit : Nat) (s : State) : State :=
  if !s.mu.ok.getLsbD unit then s
  else
    let s := abandonRun unit s
    let s := match sessionOn s unit with
      | some (u, x) => s.onMu fun m => { m with sessions := tput { x with broken := true } m.sessions u }
      | none => s
    s.onMu fun m =>
      { m with ok := clearBit m.ok unit
               muTrouble := setBitIf (decide (unit < 4)) m.muTrouble 0, luTrouble := setBitIf (decide (4 ≤ unit)) m.luTrouble 0 }

/-- A unit's memory check finds an error in its operand memory: corrected or not (Table 14.11). -/
def memoryError (unit : Nat) (e : BitError) (s : State) : State :=
  match e with
  | .none => s
  | .single => s.onMu fun m => if unit < 4 then { m with muTrouble := setBit m.muTrouble 3 } else { m with luTrouble := setBit m.luTrouble 1 }
  | .double => s.onMu fun m => if unit < 4 then { m with muTrouble := setBit m.muTrouble 4 } else { m with luTrouble := setBit m.luTrouble 2 }

/-- R664: a unit in service fails its datapath parity check or its memory check. -/
def unitFails (unit : Nat) (memory : Bool) (s : State) : State :=
  if s.mu.ok.getLsbD unit then unitLeaves unit (memoryError unit (if memory then .double else .none) s) else s

/-- MU_UNIT_FAIL (R664, R665). -/
def execMuUnitFail (unit : Fin 4) (memory : Bool) (s : State) : Host.Outcome State Fault Refusal := ok s (unitFails unit.val memory s)
/-- LU_UNIT_FAIL (R684). -/
def execLuUnitFail (unit : Fin 2) (memory : Bool) (s : State) : Host.Outcome State Fault Refusal := ok s (unitFails (4 + unit.val) memory s)

/-- MU_SELF_TEST's effect: the known-answer test runs between commands, over the unit's checked memory; a unit in service that fails
it leaves service (R664). -/
def unitSelfTest (unit : Nat) (passed : Bool) (memory : BitError) (s : State) : State :=
  if (runOn s unit).isNone && s.mu.ok.getLsbD unit then
    let s := memoryError unit memory s
    if passed && decide (memory ≠ .double) then s else unitLeaves unit s
  else s

/-- MU_SELF_TEST (R664). -/
def execMuSelfTest (unit : UnitNo) (passed : Bool) (memory : BitError) (s : State) : Host.Outcome State Fault Refusal :=
  ok s (unitSelfTest unit.val passed memory s)

/-- R666: the PF aborts one Open-world MU. -/
def pfAbort (u : Nat) (s : State) : State :=
  let s := match runOn s u with
    | some x => if x.session.isNone then restartRun x s else s
    | none => s
  let s := match sessionOn s u with
    | some (l, _) => stopSession l s
    | none => s
  s.onMu fun m => { m with muTrouble := setBit m.muTrouble 5 }

/-- A write of MU_ABORT: the bits of Open-world MUs act, and a bit of a Keeper-assigned one makes the access a violation.
(DEDUCED, log 46.) -/
def abortWrite (who : Requester) (value : W32) (s : State) : State :=
  let named := [0, 1, 2, 3].filter fun u => value.getLsbD u
  let t := (named.filter fun u => !s.kp.world.getLsbD u).foldl (fun t u => pfAbort u t) s
  if named.any fun u => s.kp.world.getLsbD u then violateBy t who true .worldAttr 0x90010 else t

/-! ### The command rows -/

/-- MOPEN. -/
def execMopen (c : CmdRef) (s : State) : Host.Outcome State Fault Refusal := ok s (onUnit c 0x80 s)
/-- MCLOSE. -/
def execMclose (c : CmdRef) (s : State) : Host.Outcome State Fault Refusal := ok s (onUnit c 0x81 s)
/-- MABORT. -/
def execMabort (c : CmdRef) (s : State) : Host.Outcome State Fault Refusal := ok s (onUnit c 0x82 s)
/-- MLOAD. -/
def execMload (c : CmdRef) (s : State) : Host.Outcome State Fault Refusal := ok s (onUnit c 0x83 s)
/-- MSTORE. -/
def execMstore (c : CmdRef) (s : State) : Host.Outcome State Fault Refusal := ok s (onUnit c 0x84 s)
/-- MLDKEY. -/
def execMldkey (c : CmdRef) (s : State) : Host.Outcome State Fault Refusal := ok s (onUnit c 0x85 s)
/-- MADD. -/
def execMadd (c : CmdRef) (s : State) : Host.Outcome State Fault Refusal := ok s (onUnit c 0x86 s)
/-- MSUB. -/
def execMsub (c : CmdRef) (s : State) : Host.Outcome State Fault Refusal := ok s (onUnit c 0x87 s)
/-- MMUL. -/
def execMmul (c : CmdRef) (s : State) : Host.Outcome State Fault Refusal := ok s (onUnit c 0x88 s)
/-- MSQR. -/
def execMsqr (c : CmdRef) (s : State) : Host.Outcome State Fault Refusal := ok s (onUnit c 0x89 s)
/-- MINV. -/
def execMinv (c : CmdRef) (s : State) : Host.Outcome State Fault Refusal := ok s (onUnit c 0x8A s)
/-- MEXP. -/
def execMexp (c : CmdRef) (s : State) : Host.Outcome State Fault Refusal := ok s (onUnit c 0x8B s)
/-- P384_SIGN. -/
def execP384Sign (c : CmdRef) (s : State) : Host.Outcome State Fault Refusal := ok s (onUnit c 0x90 s)
/-- P384_VERIFY. -/
def execP384Verify (c : CmdRef) (s : State) : Host.Outcome State Fault Refusal := ok s (onUnit c 0x91 s)
/-- P384_AGREE. -/
def execP384Agree (c : CmdRef) (s : State) : Host.Outcome State Fault Refusal := ok s (onUnit c 0x92 s)
/-- MLKEM_ENCAPS. -/
def execMlkemEncaps (c : CmdRef) (s : State) : Host.Outcome State Fault Refusal := ok s (onUnit c 0xA0 s)
/-- MLKEM_DECAPS. -/
def execMlkemDecaps (c : CmdRef) (s : State) : Host.Outcome State Fault Refusal := ok s (onUnit c 0xA1 s)
/-- MLDSA_SIGN. -/
def execMldsaSign (c : CmdRef) (s : State) : Host.Outcome State Fault Refusal := ok s (onUnit c 0xA2 s)
/-- MLDSA_VERIFY. -/
def execMldsaVerify (c : CmdRef) (s : State) : Host.Outcome State Fault Refusal := ok s (onUnit c 0xA3 s)
/-- LU_NTT. -/
def execLuNtt (c : CmdRef) (s : State) : Host.Outcome State Fault Refusal := ok s (onUnit c 0xA8 s)
/-- LU_INTT. -/
def execLuIntt (c : CmdRef) (s : State) : Host.Outcome State Fault Refusal := ok s (onUnit c 0xA9 s)
/-- LU_PWMUL. -/
def execLuPwmul (c : CmdRef) (s : State) : Host.Outcome State Fault Refusal := ok s (onUnit c 0xAA s)
/-- LU_SAMPLE. -/
def execLuSample (c : CmdRef) (s : State) : Host.Outcome State Fault Refusal := ok s (onUnit c 0xAB s)
/-- LU_COMPRESS. -/
def execLuCompress (c : CmdRef) (s : State) : Host.Outcome State Fault Refusal := ok s (onUnit c 0xAC s)

end Sys2Proof.Machine
end

