-- ==== Sys2Proof/Machine/KeeperRegs.lean ====
section
/-!
DEFINITION. The Keeper node's registers (08): enclave commands and the range table, the violation log, the watchdog's kick,
hand-over of blocks, and gates and idle hints.
-/

namespace Sys2Proof.Machine

/-- A line belongs to a range of an enclave. -/
def inEnclave (s : State) (e : Nat) (addr : Nat) : Bool := decide (rangeOf s addr = some e)

/-! ### Enclave commands and the range table -/

/-- A write to a Keeper-only register: from the Open world it is one violation of KIND WORLD_ATTR (R885). -/
def keeperWrite (h : HartId) (offset : Nat) (f : State → State) (s : State) : State :=
  if (s.hart h).inReset then s else if (s.hart h).keeper then f s else violateBy s (.hart h) true .worldAttr offset

/-- R330: a fresh key pair of the DRBG for a key entry. -/
def makeKey (e : Nat) (s : State) : State :=
  { s with free := s.free + 1 }.onMesh fun m => { m with xtsKeys := tset 0 m.xtsKeys e (Config.freeBits s.free 512) }

/-- R328: one DRAM line through a key entry, to ciphertext or back: XTS-AES-256, the data unit the line and the tweak its physical
address. -/
def lineCipher (enc : Bool) (key : BitVec 512) (l : Nat) (bs : List Byte) : List Byte :=
  xts enc (bytesLE 64 key.toNat) (bytesLE 16 (64 * l)) bs

/-- BUILD: FREE becomes BUILDING, with a fresh key pair (R348, R330). (DEDUCED, log 61.) -/
def buildEnclave (e : Nat) (s : State) : State :=
  if (s.lt.enclave e).isSome ∧ (s.encl e).st = .free then
    makeKey e (s.onEncl e fun x => { x with st := .building, owner := ((s.lt.enclave e).map (·.owner)).getD 0 })
  else s

/-- `n` bytes at an address lie in an enclave's own ranges. -/
def ownsBytes (s : State) (e a n : Nat) : Bool := inEnclave s e a && inEnclave s e (a + n - 1)

/-- The page-table root that a satp value names. -/
def atpRoot (v : W64) : Nat := bits v 0 44 * 4096

/-- SEAL: BUILDING becomes READY when entry, root and save area lie in the enclave's own ranges (Table 8.1). -/
def sealEnclave (e : Nat) (s : State) : State :=
  let k := s.encl e
  if (s.lt.enclave e).isSome ∧ k.st = .building then
    if ownsBytes s e k.entry.toNat 1 && ownsBytes s e (atpRoot k.satp) 4096 && ownsBytes s e k.save.toNat 576 then
      s.onEncl e fun x => { x with st := .ready }
    else s.onKp fun x => { x with trouble := setBit x.trouble 1 }
  else s

/-- The valid range entries of an enclave. -/
def rangesOf (s : State) (e : Nat) : List RangeEntry :=
  (s.kp.ranges.map (·.2)).filter fun r => r.valid && decide (r.encl.toNat = e)

/-- A range entry is no longer valid: its lines read as the ciphertext that was last written into them (§8.2). -/
def releaseRange (r : RangeEntry) (s : State) : State :=
  recodeRange (lineCipher true (tget 0 s.mesh.xtsKeys r.encl.toNat)) r.base (r.base + 4096 * r.pages) s

/-- A range entry becomes valid: what its lines hold is read through the enclave's key (R328, R329). -/
def acquireRange (r : RangeEntry) (s : State) : State :=
  recodeRange (lineCipher false (tget 0 s.mesh.xtsKeys r.encl.toNat)) r.base (r.base + 4096 * r.pages) s

/-- What DESTROY does (Table 8.1): cached lines go without writeback, the released DRAM reads as ciphertext, the key pair is
discarded, and the entries are cleared. (DEDUCED, log 13.) -/
def destroyEnclave (e : Nat) (s : State) : State :=
  let rs := rangesOf s e
  let s := (s.mesh.lines.map (·.1)).foldl (fun t l => if inEnclave t e (64 * l) then dropLine l t else t) s
  let s := rs.foldl (fun t r => releaseRange r t) s
  let s := s.onMesh fun m => { m with xtsKeys := m.xtsKeys.filter fun p => decide (p.1 ≠ e) }
  (s.onKp fun k => { k with ranges := k.ranges.map fun p => if p.2.encl.toNat = e then (p.1, { p.2 with valid := false }) else p }).onEncl e
    fun x => { x with st := .free }

/-- DESTROY is ignored for a FREE or RUNNING enclave, or one the light table does not declare (R348, R395). -/
def destroyCommand (e : Nat) (s : State) : State :=
  if (s.lt.enclave e).isNone then s
  else match (s.encl e).st with
    | .building | .ready | .suspended => destroyEnclave e s
    | .free | .running => s

/-- R345: a range that must be refused: over quota, empty, overlapping another valid entry or the monitor region, or
leaving DRAM. -/
def rangeRefused (s : State) (i : Nat) (r : RangeEntry) : Bool :=
  let lo := r.base
  let hi := r.base + 4096 * r.pages
  let quota := ((s.lt.enclave r.encl.toNat).map (·.quota)).getD 0
  decide (r.pages = 0 ∨ 33554432 < r.pages ∨ 2 ^ 37 < hi)
    || decide (quota < ((s.kp.ranges.filter fun p => decide (p.1 ≠ i) && p.2.valid && p.2.encl == r.encl).length + 1))
    || s.kp.ranges.any (fun p => decide (p.1 ≠ i) && p.2.valid && decide (p.2.base < hi ∧ lo < p.2.base + 4096 * p.2.pages))
    || decide (s.kp.monBase < hi ∧ lo < s.kp.monBase + s.kp.monSize)

/-- R345: a range-table write counts only for an enclave in BUILDING, and not over an entry of another one.
(DEDUCED, log 13; DEDUCED, log 61.) -/
def rangeWrite (i : Nat) (base word1 : W64) (s : State) : State :=
  let r : RangeEntry := ⟨base.toNat / 4096 * 4096, bits word1 0 26, word1.extractLsb' 32 8, word1.getLsbD 63⟩
  let old := tget {} s.kp.ranges i
  if (s.encl r.encl.toNat).st ≠ .building ∨ (old.valid = true ∧ (s.encl old.encl.toNat).st ≠ .building) then s
  else if r.valid && rangeRefused s i r then s.onKp fun k => { k with trouble := setBit k.trouble 0 }
  else
    let s := (if old.valid then releaseRange old s else s).onKp fun k => { k with ranges := tset {} k.ranges i r }
    if r.valid then acquireRange r s else s

/-! ### Hand-over (§8.7) -/

/-- The blocks that can change worlds: MU 0-3, LU 4-5, measurement groups 8-15. -/
def movableBlocks : List Nat := [0, 1, 2, 3, 4, 5, 8, 9, 10, 11, 12, 13, 14, 15]

/-- R366: a request starts a hand-over, unless the block is in one already or in the target world. (DEDUCED, log 63.) -/
def requestHandover (v : W32) (s : State) : State :=
  let b := bits v 0 5
  let target := v.getLsbD 8
  if movableBlocks.contains b && !(s.kp.handover.any (·.1 == b)) && !(s.kp.world.getLsbD b == target) then
    s.onKp fun k => { k with handover := k.handover ++ [(b, target)] }
  else s

/-- A BLOCK reset of an MU or LU ends its session and clears its memory (R643, R667). -/
def resetUnit (u : Nat) (s : State) : State :=
  match sessionOn s u with
  | some (l, _) => s.onMu fun m => { m with sessions := tdel m.sessions l }
  | none => s

/-- R368: a BLOCK reset of a channel: its open windows complete with ABORTED; chain, integrators and samples are cleared.
(DEDUCED, log 52.) -/
def resetChannel (c : Nat) (s : State) : State :=
  let s := ((s.chan c).wins.filter fun w => !w.closed).foldl (fun t w => finishCmd w.ring w.seq (statusOf 0x40) t) s
  s.onChan c fun h => { h with chain := {}, seq := 0, hist := [], wins := [] }

/-- The BLOCK reset of a block, numbered as in KP_HO_REQ. -/
def blockReset (b : Nat) (s : State) : State :=
  if b < 8 then resetUnit b s else (List.range 8).foldl (fun t i => resetChannel (8 * (b - 8) + i) t) s

/-- Table 8.6 steps 2 and 3, once the block's started command has finished; R372 clears its gate. (DEDUCED, log 63.) -/
def handoverBlock (b : Nat) (s : State) : State :=
  match s.kp.handover.find? (·.1 == b) with
  | none => s
  | some (_, target) =>
    if decide (b < 8) && (runOn s b).isSome then s
    else
      let s := blockReset b s
      s.onKp fun k =>
        { k with
          handover := k.handover.filter fun e => decide (e.1 ≠ b)
          world := putBit k.world b target, gate := clearBit k.gate b, gated := clearBit k.gated b
          hoDone := true, hoBlock := BitVec.ofNat 5 b }

/-- HANDOVER_BLOCK_RESET (R367, R368, R372). -/
def execHandoverBlockReset (block : Fin 16) (s : State) : Host.Outcome State Fault Refusal := ok s (handoverBlock block.val s)

/-! ### Watchdog, violation log -/

/-- R376: the magic value restarts the count, which ends the pre-expiry (R377). -/
def wdKick (value : W32) (s : State) : State :=
  if value = 0x4B49434B#32 then
    { s.onKp fun k => { k with preExpiry := false, wdCount := 0 } with clock := { s.clock with kicked := true } }
  else s

/-- The watchdog runs from the monitor's start (R376) until the Keeper world is down. (DEDUCED, log 23.) -/
def watchdogRuns (s : State) : Bool := s.kp.started && !s.kp.down

/-- The watchdog expires, unless a kick of the same clock restarted its count (R394). -/
def watchdogExpires (s : State) : Bool := watchdogRuns s && !s.clock.kicked

/-- WATCHDOG_PRE_EXPIRY (R377): APLIC source 192 is asserted until the next kick. -/
def execWatchdogPreExpiry (s : State) : Host.Outcome State Fault Refusal :=
  .next (if watchdogRuns s then aplic (s.onKp fun k => { k with preExpiry := true }) 192 else s)

/-- R382: a write of 1 removes the oldest entry. -/
def vlogPop (value : W32) (s : State) : State := if value = 1 then s.onKp fun k => { k with vlog := k.vlog.tail } else s

/-! ### Gates and idle hints (§8.8) -/

/-- R371: a block whose gate bit reads zero: Keeper-assigned or in hand-over. (DEDUCED, log 63.) -/
def gateBarred (s : State) (b : Nat) : Bool := s.kp.world.getLsbD b || s.kp.handover.any (·.1 == b)

/-- R370, R371: a write of PS_GATE; each write of 1 for a barred block is one violation of KIND GATE. Ungating acts at once. -/
def gateWrite (who : Requester) (v : W32) (s : State) : State :=
  let barred := movableBlocks.filter fun b => v.getLsbD b && gateBarred s b
  let s := movableBlocks.foldl (fun t b =>
    if gateBarred t b then t
    else t.onKp fun k =>
      { k with gate := putBit k.gate b (v.getLsbD b), gated := if v.getLsbD b then k.gated else clearBit k.gated b }) s
  if barred.isEmpty then s else violateBy s who true .gate 0x3040

/-- R370: a gate takes effect once the block's started command has finished. (DEDUCED, log 48; DEDUCED, log 63.) -/
def gateNow (b : Nat) (s : State) : State :=
  if s.kp.gate.getLsbD b && !s.kp.gated.getLsbD b && !(decide (b < 8) && (runOn s b).isSome) then
    noteWindows 0 (s.onKp fun k => { k with gated := setBit k.gated b })
  else s

/-- GATE_TAKES_EFFECT (R370). -/
def execGateTakesEffect (block : Fin 16) (s : State) : Host.Outcome State Fault Refusal := ok s (gateNow block.val s)

/-- R373, R374: a hint that is set gates a unit that is idle now; for an Open-world MU or LU it has no effect. -/
def hintWrite (v : W32) (s : State) : State :=
  let hint := v.extractLsb' 0 22
  let idle : BitVec 22 := BitVec.ofNat 22 (ofBits ((List.range 22).map fun u =>
    if u < 16 then true else s.kp.world.getLsbD (u - 16) && (runOn s (u - 16)).isNone))
  s.onKp fun k => { k with hint := hint, selfGated := hint &&& idle }

/-- IDLE_HINT_UNGATE (R373, R374): Keeper-world work arrives at a hinted, self-gated lane or unit, and it ungates. -/
def execIdleHintUngate (unit : Fin 22) (s : State) : Host.Outcome State Fault Refusal :=
  .next (s.onKp fun k => { k with selfGated := clearBit k.selfGated unit.val })

/-- KDBG_STAT (§8.11). (PRESUMED, log 64.) -/
def kdbgStat (k : Keeper) : W32 :=
  BitVec.ofNat 32 (k.reqLevel.toNat + 4 * k.granted.toNat + 16 * k.fails.toNat + 64 * bit k.dbgLocked + 256 * k.reqKey.toNat)

end Sys2Proof.Machine
end

