-- ==== Sys2Proof/Machine/Trouble.lean ====
section
/-!
DEFINITION. The trouble record (18): its registers by their core-map offsets, their clearing, the copy that the power-fail
commit takes and the restore of carried bits.
-/

namespace Sys2Proof.Machine

/-! ### The registers (Table 18.1) -/

/-- A register of the trouble record; SD_TROUBLE counts as its two halves (R843). -/
inductive TroubleReg
  | ct | ps | up | bc | lb | ds | cx | mu | lu | kp | mc
  | channel (c : Nat)
  | sat (high : Bool)
  | lane (n : Nat)
  | ring (r : Nat)
  deriving DecidableEq, Repr

/-- R838: the trouble register at a core-map offset, if there is one. -/
def troubleReg (o : Nat) : Option TroubleReg :=
  if o = 0x2008 then some .ct else if o = 0x3004 then some .ps else if o = 0x4004 then some .up
  else if o = 0x4880 then some .bc else if o = 0x5004 then some .lb else if o = 0x6100 then some .ds
  else if o = 0x80004 then some .cx else if o = 0x90004 then some .mu else if o = 0x90008 then some .lu
  else if o = 0x400018 then some .kp else if o = 0x410008 then some .mc
  else if o = 0x10380 then some (.sat false) else if o = 0x10384 then some (.sat true)
  else if 0x10000 ≤ o ∧ o < 0x20000 ∧ o % 0x400 = 0x28 then some (.channel ((o - 0x10000) / 0x400))
  else if 0x20000 ≤ o ∧ o < 0x30000 ∧ o % 0x400 = 0x30 then some (.lane ((o - 0x20000) / 0x400))
  else if 0x40000 ≤ o ∧ o < 0x80000 ∧ o % 0x100 = 0x38 then some (.ring ((o - 0x40000) / 0x100))
  else none

/-- The core-map offset of a trouble register. -/
def TroubleReg.offset : TroubleReg → Nat
  | .ct => 0x2008
  | .ps => 0x3004
  | .up => 0x4004
  | .bc => 0x4880
  | .lb => 0x5004
  | .ds => 0x6100
  | .cx => 0x80004
  | .mu => 0x90004
  | .lu => 0x90008
  | .kp => 0x400018
  | .mc => 0x410008
  | .channel c => 0x10028 + 0x400 * c
  | .sat high => if high then 0x10384 else 0x10380
  | .lane n => 0x20030 + 0x400 * n
  | .ring r => 0x40038 + 0x100 * r

/-- What a trouble register holds. -/
def TroubleReg.get (s : State) : TroubleReg → Nat
  | .ct => s.ct.trouble.toNat
  | .ps => s.pwr.trouble.toNat
  | .up => s.up.trouble.toNat
  | .bc => s.up.bcTrouble.toNat
  | .lb => s.lb.trouble.toNat
  | .ds => s.disp.trouble.toNat
  | .cx => s.cx.trouble.toNat
  | .mu => s.mu.muTrouble.toNat
  | .lu => s.mu.luTrouble.toNat
  | .kp => s.kp.trouble.toNat
  | .mc => s.mesh.trouble.toNat
  | .channel c => (s.chan c).trouble.toNat
  | .sat high => if high then bits s.sd.sat 32 32 else bits s.sd.sat 0 32
  | .lane n => (s.lane n).trouble.toNat
  | .ring r => (s.ring r).trouble.toNat

/-- A trouble register takes a value, masked to its defined bits. -/
def TroubleReg.put (v : Nat) (s : State) : TroubleReg → State
  | .ct => s.onCt fun x => { x with trouble := BitVec.ofNat 5 v }
  | .ps => s.onPwr fun x => { x with trouble := BitVec.ofNat 14 v }
  | .up => s.onUp fun x => { x with trouble := BitVec.ofNat 5 v }
  | .bc => s.onUp fun x => { x with bcTrouble := BitVec.ofNat 6 v }
  | .lb => s.onLb fun x => { x with trouble := BitVec.ofNat 9 v }
  | .ds => s.onDisp fun x => { x with trouble := BitVec.ofNat 5 v }
  | .cx => s.onCx fun x => { x with trouble := BitVec.ofNat 5 v }
  | .mu => s.onMu fun x => { x with muTrouble := BitVec.ofNat 6 v }
  | .lu => s.onMu fun x => { x with luTrouble := BitVec.ofNat 4 v }
  | .kp => s.onKp fun x => { x with trouble := BitVec.ofNat 5 v }
  | .mc => s.onMesh fun x => { x with trouble := BitVec.ofNat 8 v }
  | .channel c => s.onChan c fun x => { x with trouble := BitVec.ofNat 8 v }
  | .sat high => s.onSd fun x => { x with sat := putPart (if high then .high else .low) x.sat (BitVec.ofNat 64 v) }
  | .lane n => s.onLane n fun x => { x with trouble := BitVec.ofNat 8 v }
  | .ring r => s.onRing r fun x => { x with trouble := BitVec.ofNat 4 v }

/-- R839: a W1C write clears the bits written as 1, whatever the condition behind them; a bit that an event of the same clock sets
remains set (R54). -/
def TroubleReg.clear (v : W32) (s : State) (t : TroubleReg) : State :=
  t.put (w1c (BitVec.ofNat 32 (t.get s)) (v &&& ~~~BitVec.ofNat 32 (tget 0 s.clock.raised t.offset))).toNat s

/-- The bits of a value that a register's width defines. -/
def TroubleReg.mask (v : Nat) (t : TroubleReg) : Nat := t.get (t.put v {})

/-! ### Carrying (§18.3) -/

/-- Every trouble register that can be other than zero, in ascending offset order. -/
def troubleRegs (s : State) : List TroubleReg :=
  [.ct, .ps, .up, .bc, .lb, .ds, .channel 0, .sat false, .sat true]
    ++ (((s.sd.chans.map (·.1)).filter fun c => decide (c ≠ 0)).map TroubleReg.channel)
    ++ ((s.ln.tab.map (·.1)).map TroubleReg.lane) ++ ((s.rings.tab.map (·.1)).map TroubleReg.ring) ++ [.cx, .mu, .lu, .kp, .mc]

/-- R843: the pairs of offset and value that are copied. -/
def troublePairs (s : State) : List (Nat × Nat) :=
  (troubleRegs s).filterMap fun t => if t.get s = 0 then none else some (t.offset, t.get s)

/-- The pairs cut into records of at most 512. -/
def pairRecords : Nat → List (Nat × Nat) → List (List (Nat × Nat))
  | 0, _ => []
  | fuel + 1, ps => if ps.length ≤ 512 then [ps] else ps.take 512 :: pairRecords fuel (ps.drop 512)

/-- Step 4 of the power-fail commit (R53, R843, R552): the last record carries END. -/
def carryTrouble (s : State) : State :=
  let rs := pairRecords 4 (troublePairs s)
  rs.zipIdx.foldl (fun t e =>
    commit { type := 0x08, flags := if e.2 + 1 = rs.length then 1 else 0, ct := stamp t, data := e.1.length
             body := troubleLines 65 e.1 } t) s

/-- R845: one pair is ORed into its register; an offset that names none is ignored. The second result says that a bit was
restored. -/
def restorePair (p : Nat × Nat) (s : State) : State × Bool :=
  match troubleReg p.1 with
  | none => (s, false)
  | some t =>
    let v := t.mask p.2
    (t.put (BitVec.ofNat 32 v ||| BitVec.ofNat 32 (t.get s)).toNat s, decide (v ≠ 0))

/-- The pairs of a CARRIED_TROUBLE record. -/
def Record.pairs (r : Record) : List (Nat × Nat) :=
  (r.body.flatMap fun l => (List.range 8).map fun i => (lineField l (8 * i) 4, lineField l (8 * i + 4) 4)).take (r.data % 65536)

/-- R845: every live CARRIED_TROUBLE record is restored, oldest LSN first, and CARRIED is set when a bit was. -/
def restoreTrouble (s : State) : State :=
  let live := (records s).filter fun r => decide (r.type = 0x08 ∧ s.lb.restored ≤ r.lsn)
  let p := (live.flatMap Record.pairs).foldl (fun (a : State × Bool) e => let q := restorePair e a.1; (q.1, a.2 || q.2)) (s, false)
  if p.2 then p.1.onPwr fun x => { x with carried := true } else p.1

end Sys2Proof.Machine
end

