-- ==== Sys2Proof/Machine/Resets.lean ====
section
/-!
DEFINITION. What begins a reset (04 §4.5): the halt of all work, the start of a MODULE reset, of a PCIe endpoint reset and of
a HART reset, and what a switch-off leaves. How a reset ends and the module boots is in Machine/Power.lean.
-/

namespace Sys2Proof.Machine

/-! ### Halting work (Table 4.2 steps 1 and 2) -/

/-- The result of an execution before the reset serves again (R562, R563), but a measurement command acts again: what it
stored is found by its ring and sequence (R715, R723), and a trip it released may have been asserted by the reset (R171).
(DEDUCED, log 27.) -/
def Cmd.priorResult (c : Cmd) (r : Result) : Option Result :=
  if dClass c.first = 3 ∧ 0x40 ≤ dOpcode c.first ∧ r.status ≠ 0x40 then none else some r

/-- An accepted command without a completion is executed again (R572): it waits to start, with what it gave before.
(DEDUCED, log 27.) -/
def Cmd.rearm (c : Cmd) : Cmd :=
  match c.st with
  | .accepted => c
  | .started => { c with st := .accepted, reexec := true }
  | .finished r => { c with st := .accepted, reexec := true, prior := c.priorResult r }

/-- The windows whose result is stored (R715), and the TRIP_WAIT results (R723). (DEDUCED, log 27.) -/
def keepResults (s : State) : State :=
  s.onSd fun m =>
    { m with
      chans := m.chans.map fun e => (e.1, { e.2 with chain := {}, hist := [], seq := 0, wins := e.2.wins.filter (·.closed) })
      sites := m.sites.map fun e => (e.1, { e.2 with waits := e.2.waits.filter fun w => !w.bytes.isEmpty }) }

/-- A lane whose transmission stops: its stores, epochs and sequences are kept (Table 16.10). -/
def Lane.halt (l : Lane) : Lane :=
  { l with st := .disabled, train := .detect, blockLock := false, rxInverted := false, swapped := false
           starting := none, rxCurrent := false, credit := 0, timeouts := 0, recvs := [] }

/-- A transfer that came over the chain ends (R828, R821: a port keeps no store). (DEDUCED, log 57.) -/
def dropChainTransfer (s : State) : State := if s.up.xfer.any fun x => decide (x.source = .chain) then abandon s else s

/-- Acceptance and execution stop: harts, units, lanes and ports halt; what was in progress is executed again after replay.
(DESIGN CHOICE, log 5.) -/
def haltWork (s : State) : State :=
  let s := s.onRings fun g => { g with tab := g.tab.map fun e => (e.1, { e.2 with cmds := e.2.cmds.map Cmd.rearm }) }
  let s := keepResults (s.onMu fun m => { m with busy := [] })
  let s := s.onLn fun l => { l with tab := l.tab.map fun e => (e.1, e.2.halt) }
  let s := (dropChainTransfer s).onUp fun u => { u with portUp := {}, portDown := {}, fwd := none, reports := [] }
  forAll allHarts (fun h t => t.onHart h fun x => { x with inReset := true }) s

/-- R171, R144, Table 4.2: TRIP is asserted for each site whose FAILSAFE_ON_RESET bit is 1. -/
def failsafeTrips (cause : Nat) (s : State) : State :=
  (List.range 64).foldl (fun t n => if s.lt.failsafe.getLsbD n then assertTrip n cause 0xFF t else t) s

/-! ### PCIe endpoint reset (§4.4.1) -/

/-- R160: configuration space, MSI-X tables, PBAs and mailboxes of every function, and every alarm. -/
def endpointReset (s : State) : State :=
  let s := (s.host.fns.map (·.1)).foldl (fun t f => resetConfig f t) s
  let s := s.onHost fun h => { h with vfEnable := false, numVfs := 0, ariHierarchy := false, mbxSel := 0, mbxVector := 0 }
  s.onCt fun c => { c with alarms := [] }

/-- The PCIe link goes down: what the functions read halfway is forgotten, the harts' latches stay (R159). -/
def linkDown (s : State) : State :=
  s.onHost fun h => { h with linkUp := false, latches := h.latches.filter fun l => match l.1 with | .fn _ => false | .hart _ => true }

/-- R159, R179: during a MODULE reset, or without power, there is nothing left to reset. -/
def endpointEvent (s : State) : State :=
  if s.pwr.supply ≠ .on ∨ s.pwr.moduleReset = true then linkDown s else endpointReset (linkDown s)

/-- PERST_ASSERTION (R159, R160). -/
def execPerstAssertion (s : State) : Host.Outcome State Fault Refusal :=
  .next (endpointEvent (s.onPwr fun p => { p with perst := true }))

/-- HOT_RESET (R159, R160): the link itself stays up. -/
def execHotReset (s : State) : Host.Outcome State Fault Refusal := .next (if s.host.linkUp then endpointReset s else s)

/-- LINK_LOSS (R159, R160). -/
def execLinkLoss (s : State) : Host.Outcome State Fault Refusal := .next (if s.host.linkUp then endpointEvent s else s)

/-- PERST_DEASSERTION (R164): link training is enabled, from ROM start on. -/
def execPerstDeassertion (s : State) : Host.Outcome State Fault Refusal :=
  .next ((s.onPwr fun p => { p with perst := false }).onHost fun h =>
    { h with training := decide (s.pwr.stage ≠ .none ∧ s.pwr.stage ≠ .rails) && decide (s.pwr.supply = .on) && !s.pwr.moduleReset })

/-- PCIE_LINK_TRAINED (R164). -/
def execPcieLinkTrained (s : State) : Host.Outcome State Fault Refusal :=
  .next (if s.host.training && !s.pwr.perst then s.onHost fun h => { h with linkUp := true } else s)

/-! ### MODULE reset -/

/-- R671: the commands 0x80-0x8B of a ring whose session ends in a reset complete with ABORTED. -/
def abortSessionRing (r : Nat) (s : State) : State :=
  let mark := fun (c : Cmd) =>
    if dClass c.first = 2 ∧ 0x80 ≤ dOpcode c.first ∧ dOpcode c.first ≤ 0x8B then { c with aborted := true } else c
  s.onRing r fun g => { g with cmds := g.cmds.map mark }

/-- A session ends in a reset (R670, R671). -/
def endSession (u : Nat) (s : State) : State :=
  match s.mu.sessions.find? (·.1 == u) with
  | some (_, x) => (abortSessionRing x.ring s).onMu fun m => { m with sessions := tdel m.sessions u }
  | none => s

/-- §8.12: a MODULE reset during a hand-over completes the BLOCK reset; the block's world comes from ATTRIB at the boot.
(DEDUCED, log 63.) -/
def endHandovers (s : State) : State :=
  let s := (s.kp.handover.map (·.1)).foldl (fun t b =>
    if b < 8 then (match sessionOn t b with | some (l, _) => endSession l t | none => t) else blockReset b t) s
  s.onKp fun k => { k with handover := [] }

/-- R87: a MODULE reset while CT holds. -/
def Ct.moduleReset (c : Ct) : Ct :=
  if c.holding then
    { c with now := 0, acc := 0, past := [], locked := false, holding := false, coasting := false, running := false
             slewErr := 0, slewLeft := 0, agree := 0, prev := none }
  else c

/-- The place of a source in the order of R175: WATCHDOG_HARD, MOD_RESET_PIN, PF_COMMAND. -/
def resetRank (cause : Nat) : Nat := if cause = 6 then 0 else if cause = 4 then 1 else 2

/-- Of the sources that act in the clock in which a reset starts, PS_RESET_CAUSE records the first of R175's order.
(DEDUCED, log 5.) -/
def resetCause (cause : Nat) (s : State) : State :=
  match s.clock.reset with
  | some c => if resetRank cause < resetRank c then { (s.onPwr fun p => { p with cause := cause }) with clock := { s.clock with reset := some cause } } else s
  | none => s

/-- A MODULE reset may start: none is in progress, and the module is on. -/
def mayReset (s : State) : Bool := !s.pwr.moduleReset && decide (s.pwr.supply = .on) && decide (s.pwr.stage ≠ .none)

/-- R150, R165, R166, R175, R180: a MODULE reset starts, unless one is in progress or the module is off. The stop phase asserts
the failsafe TRIPs, stops acceptance and halts work; the module stays in reset until its release, and a power-fail commit stays
armed as it was (R177). (DESIGN CHOICE, log 19.) -/
def beginModuleReset (cause : Nat) (s : State) : State :=
  if !mayReset s then resetCause cause s
  else
    let s := { s with clock := { s.clock with reset := some cause } }
    let s := linkDown (haltWork (endHandovers (failsafeTrips 5 s)))
    let s := s.onPwr fun p =>
      { p with moduleReset := true, stage := .rails, thermalHold := false, slow := false
               cause := cause, modResets := min 0xFFFF (p.modResets + 1) }
    (s.onCt Ct.moduleReset).onHost fun h => { h with training := false }

/-- R178: the requests that come while MOD_RESET# is held low or a MODULE reset is in progress have no effect. -/
def resetsHeld (s : State) : Bool := s.pwr.moduleReset || s.port.modResetLow

/-- A write of PS_MODULE_RESET (Table 4.6, R178). -/
def moduleResetWrite (v : W32) (s : State) : State :=
  if v = 0x4D525354#32 ∧ resetsHeld s = false then beginModuleReset 5 s else s

/-! ### HART reset -/

/-- R174, R178: the hart stops and shows in PS_HART_STATUS; HART_RESET_COMPLETE exits its enclave and resets it.
(DEDUCED, log 22.) -/
def startHartReset (h : HartId) (s : State) : State :=
  if resetsHeld s then s else s.onHart h fun x => { x with inReset := true, stall := .none, halted := false }

/-- A write of PS_HART_RESET. -/
def hartResetWrite (mask : W32) (s : State) : State :=
  forAll (allHarts.filter fun h => mask.getLsbD h.val) startHartReset s

/-! ### Switching off -/

/-- What a ring keeps without power: its sequences, its identity and its accepted commands (R502, R570). -/
def Ring.persistent (g : Ring) : Ring :=
  { acceptSeq := g.acceptSeq, doneSeq := g.doneSeq, recIdent := g.recIdent, former := g.former, cmds := g.cmds }

/-- What a function keeps without power: its state and its custody (R462). -/
def Fn.persistent (g : Fn) : Fn :=
  { vf := g.vf, cause := g.cause, drain := g.drain, offer := g.offer, sentDigest := g.sentDigest, peer := g.peer
    migrationId := g.migrationId, heldWrites := g.heldWrites }

/-- What a lane keeps without power (R762, Table 16.10). -/
def Lane.persistent (l : Lane) : Lane :=
  { txEpoch := l.txEpoch, txUsed := l.txUsed, txNext := l.txNext, txAcked := l.txAcked, rxEpoch := l.rxEpoch, rxSeq := l.rxSeq
    outs := l.outs, ins := l.ins }

/-- What the update unit keeps without power: the boot control record, the fuses and the NOR (R800). -/
def Update.persistent (u : Update) : Update :=
  { a := u.a, b := u.b, preferredB := u.preferredB, floor := u.floor, fuses := u.fuses, blowing := u.blowing
    retained := u.retained, nor := u.nor, xfer := u.xfer }

/-- Only the numbers of a table whose entries stay. -/
def keepTab {α : Type} [DecidableEq α] (d : α) (f : α → α) (t : Tab α) : Tab α :=
  t.foldl (fun u e => tset d u e.1 (f e.2)) []

/-- Every rail is off: what is left is non-volatile, or lies outside the module. (DESIGN CHOICE, log 17.) -/
def switchOff (s : State) : State :=
  let s := (s.mu.sessions.map (·.1)).foldl (fun t u => endSession u t) (haltWork s)
  { s with
    ct := {}, lt := {}, harts := [], aplic := {}, mesh := {}, kp := { gpioLand := s.kp.gpioLand }, disp := {}, viol := [], mu := {}
    pwr := { feedA := s.pwr.feedA, feedB := s.pwr.feedB, commitMark := s.pwr.commitMark, nextCause := s.pwr.nextCause
             holdupReady := s.pwr.holdupReady, perst := s.pwr.perst, dieTemp := s.pwr.dieTemp }
    host := { fns := keepTab {} Fn.persistent s.host.fns, reports := s.host.reports, hostMem := s.host.hostMem }
    rings := { tab := keepTab {} Ring.persistent s.rings.tab }
    lb := { a := s.lb.a, b := s.lb.b, head := s.lb.head, wearClosed := s.lb.wearClosed, retries := s.lb.retries
            restored := s.lb.restored, kept := s.lb.kept }
    cx := { slots := s.cx.slots }
    sd := { chans := keepTab {} (fun c => { wins := c.wins }) s.sd.chans, sites := keepTab {} (fun x => { waits := x.waits }) s.sd.sites }
    ln := { tab := keepTab {} Lane.persistent s.ln.tab }
    up := s.up.persistent
    port := { modResetLow := s.port.modResetLow } }

end Sys2Proof.Machine
end

