-- ==== Sys2Proof/Machine/Update.lean ====
section
/-!
DEFINITION. Firmware update (17): transfers, closing and activation, confirmation and reversion, forwarding down the buoy
chain and receiving on it, Daymark operations and the service UART.
-/

namespace Sys2Proof.Machine

/-! ### Transfers (§17.6) -/

/-- R814 step 1: a package length that suits the kind. -/
def totalOk (light : Bool) (n : Nat) : Bool := decide (8832 ≤ n ∧ n ≤ regionSize light)

/-- R814 step 2: the booted slot is TRIAL; in Daymark mode no slot is booted (R833). -/
def bootedTrial (s : State) : Bool := !s.up.daymark && decide ((s.up.slot (booted s)).st = .trial)

/-- R814 step 3: the target of a transfer. (DESIGN CHOICE, log 58.) -/
def pickTarget (s : State) : Option Slot :=
  if (s.up.slot (booted s).other).st ≠ .worn then some (booted s).other
  else if (s.up.slot (booted s)).st ≠ .worn then some (booted s) else none

/-- R814 steps 4 to 6: the target's blocks are erased, its other region is kept or copied, and it is WRITING. What its record
says of an erased region is 0. (DESIGN CHOICE, log 58.) -/
def prepareTarget (k : Slot) (light : Bool) (total : Nat) (s : State) : State :=
  let keeps := decide ((s.up.slot k).st = .staged) || decide (k = booted s)
  let from_ := s.up.slot (booted s)
  let s := eraseBlocks k light ((total + 65535) / 65536) s
  let s := if keeps then s else copyRegion (booted s) k (!light) s
  s.onUp fun u => u.onSlot k fun r =>
    { r with
      st := .writing, attempts := 0
      secVer := if !light then 0 else if keeps then r.secVer else from_.secVer
      build := if !light then 0 else if keeps then r.build else from_.build
      ltVer := if light then 0 else if keeps then r.ltVer else from_.ltVer }

/-- R812, R814, R819: opens a transfer of `total` bytes. (DEDUCED, log 57.) -/
def openTransfer (light : Bool) (total : Nat) (source : XferSource) (hops : Nat) (digest : List Byte) (worn : Bool) (s : State) :
    State × Result :=
  if s.up.xfer.isSome then (s, statusOf 0x110)
  else if bootedTrial s then (s, statusOf 0x100)
  else match pickTarget s with
    | none => (s, statusOf 0x119)
    | some k =>
      if worn then (wearOut k (eraseBlocks k light ((total + 65535) / 65536) s), statusOf 0x11A)
      else
        ((prepareTarget k light total s).onUp fun u =>
          { u with xfer := some { target := k, lightTable := light, total := total, source := source, hops := hops, digest := digest } },
          { status := 0, result32 := k.num })

/-- R815: two ranges of a region overlap. -/
def rangesMeet (a n b m : Nat) : Bool := decide (a < b + m ∧ b < a + n)

/-- R815: programs a block of the open transfer; `by_` is the command that writes it. (DEDUCED, log 57.) -/
def programBlock (off : Nat) (bs : List Byte) (by_ : Option (Nat × Nat)) (worn : Bool) (s : State) : State × Result :=
  match s.up.xfer with
  | none => (s, statusOf 0x111)
  | some x =>
    if off % 256 ≠ 0 ∨ x.total < off + bs.length then (s, statusOf 0x112)
    else if x.blocks.any (fun b => rangesMeet off bs.length b.1 b.2.1 && !(by_.isSome && decide (b.2.2 = by_))) then (s, statusOf 0x113)
    else
      let s := norProgram (regionBase x.target x.lightTable + off) bs s
      if worn then (wearOut x.target s, statusOf 0x11A)
      else (s.onUp fun u => { u with xfer := some { x with blocks := x.blocks ++ [(off, bs.length, by_)] } }, statusOf 0)

/-- R816: what a close finds; the checks in their order. -/
def closeCheck (s : State) (x : Transfer) (total : Nat) (digest : List Byte) : Except Result Package :=
  if total ≠ x.total then .error (statusOf 0x10)
  else if sha384 (regionRead s x.target x.lightTable 0 x.total) ≠ digest then .error (statusOf 0x114)
  else packageCheck s x.target x.lightTable (some x.total)

/-- R816: closes the open transfer: the target becomes STAGED with FAILS 0. A close that fails leaves the transfer open, but
on a worn slot (R819). (DEDUCED, log 57.) -/
def closeTransfer (total : Nat) (digest : List Byte) (worn : Bool) (s : State) : State × Result :=
  match s.up.xfer with
  | none => (s, statusOf 0x111)
  | some x =>
    match closeCheck s x total digest with
    | .error e => if worn ∧ e.status ≠ 0x10 then (wearOut x.target s, statusOf 0x11A) else (s, e)
    | .ok p =>
      if worn then (wearOut x.target s, statusOf 0x11A)
      else
        let staged := fun (r : SlotRec) =>
          if x.lightTable then { r with st := .staged, fails := 0, ltVer := p.version }
          else { r with st := .staged, fails := 0, secVer := p.version, build := p.build }
        (s.onUp fun u => { u.onSlot x.target staged with xfer := none }, statusOf 0)

/-- R817: activates a slot: it becomes TRIAL with ATTEMPTS 0; in Daymark mode its FAILS become 0 too (R833). -/
def activate (k : Slot) (s : State) : State × Result :=
  if (s.up.slot k).st ≠ .staged ∨ bootedTrial s = true then (s, statusOf 0x100)
  else match slotCheck s k with
    | some e => (s, e)
    | none =>
      (s.onUp fun u => u.onSlot k fun r => { r with st := .trial, attempts := 0, fails := if u.daymark then 0 else r.fails }, statusOf 0)

/-- R818. -/
def abortTransfer (s : State) : State × Result := if s.up.xfer.isSome then (abandon s, statusOf 0) else (s, statusOf 0x111)

/-! ### Forwarding (R824, R826, R828) -/

/-- UPDATE.FLAGS in effect: the applied table's, or the retained ones in Daymark mode (R830). -/
def updateFlags (s : State) : BitVec 4 := if s.up.daymark then s.up.retained else s.lt.updFlags

/-- The OFFER of a forwarding. -/
def offerPayload (f : Forward) : List Byte :=
  bytesBE 4 f.len ++ bytesBE 1 (bit f.lightTable) ++ bytesBE 1 f.hops ++ [0, 0] ++ fit 48 f.digest ++ List.replicate 8 0

/-- Offers the package, or offers it again. -/
def offer (f : Forward) (s : State) : State :=
  chainQueue .down [(0x40, offerPayload f)] (s.onUp fun u => { u with fwd := some { f with stage := .answer } })

/-- R824: the staged package of a slot is forwarded where the DOWN port is UP; the entries of an earlier forwarding go. -/
def startForward (x : Transfer) (s : State) : State :=
  if (s.bc .down).st ≠ .up then s
  else
    let digest := sha384 (regionRead s x.target x.lightTable 0 x.total)
    offer { slot := x.target, lightTable := x.lightTable, len := x.total, digest := digest, hops := x.hops + 1, stage := .answer }
      (s.onUp fun u => { u with reports := [] })

/-- R824 step 2: the frames of a package: each block's header and its data. -/
def packageFrames (s : State) (f : Forward) : List (Nat × List Byte) :=
  (List.range ((f.len + 65535) / 65536)).flatMap fun i =>
    let bs := regionRead s f.slot f.lightTable (65536 * i) (min 65536 (f.len - 65536 * i))
    (0x42, bytesBE 4 i ++ bytesBE 4 bs.length ++ sha384 bs) :: (chunks 2048 32 bs).map fun d => (0x43, d)

/-- Table 17.12: a report entry as it goes on the wire. -/
def reportEntry (hops modId status res : Nat) (serial ct : W64) : List Byte :=
  bytesBE 1 hops ++ bytesBE 1 modId ++ bytesBE 2 status ++ bytesBE 4 res ++ bytesBE 8 serial.toNat ++ bytesBE 8 ct.toNat

/-- An entry is kept for the latest forwarding and goes upstream (R827). (DESIGN CHOICE, log 59.) -/
def keepReport (e : List Byte) (s : State) : State := chainQueue .up [(0x45, e)] (s.onUp fun u => { u with reports := u.reports ++ [e] })

/-- R828: the sender forms an entry in place of the receiver, and the forwarding is over. -/
def giveUp (f : Forward) (status : Nat) (s : State) : State :=
  let e := reportEntry f.hops s.up.portDown.peer.toNat status 0 s.up.portDown.peerSerial s.ct.now
  let s := keepReport e (s.onUp fun u => { u with fwd := none })
  if status = 0x11B then bcSet 5 s else s

/-! ### Update commands (Tables 17.7, 17.8) -/

/-- ARG, SLOT and the word of bytes 28-31. -/
def pArg (d : Line) : Nat := lineField d 8 1
/-- SLOT. -/
def pSlot (d : Line) : Nat := lineField d 9 1
/-- TOTAL_LEN or OFFSET. -/
def pTotal (d : Line) : Nat := lineField d 28 4
/-- IN_ADDR and IN_LEN. -/
def pIn (d : Line) : Nat × Nat := (lineField d 16 8, lineField d 24 4)
/-- OUT_ADDR and OUT_LEN. -/
def pOut (d : Line) : Nat × Nat := (lineField d 32 8, lineField d 40 4)

/-- R813, R13: the fields that an opcode does not use are zero, and ARG and SLOT hold a listed value. -/
def updFieldsOk (d : Line) : Bool :=
  let op := dOpcode d
  dZero d 10 6 && dZero d 44 20
    && (decide (op = 0x31 ∨ op = 0x32) || dZero d 16 12) && (decide (0x30 ≤ op ∧ op ≤ 0x32) || dZero d 28 4)
    && (decide (op = 0x35) || dZero d 32 12)
    && (if op = 0x30 ∨ op = 0x32 then decide (pArg d < 2) else decide (pArg d = 0))
    && (if op = 0x33 then decide (pSlot d < 2) else decide (pSlot d = 0))

/-- An update command: engine 5. (DEDUCED, log 57.) -/
def updCommand (c : CmdRef) (op : Nat) (f : Cmd → RingIdent → State → State × Result) (s : State) : State :=
  runAtOnce c (isOpcode 1 op) 5 0 (fun k i t => if updFieldsOk k.first then f k i t else (t, statusOf 0x11)) s

/-- UPD_OPEN (R814). -/
def execUpdOpen (c : CmdRef) (worn : Bool) (s : State) : Host.Outcome State Fault Refusal :=
  ok s (updCommand c 0x30 (fun k _ t =>
    let light := decide (pArg k.first = 1)
    if totalOk light (pTotal k.first) then openTransfer light (pTotal k.first) .host 0 [] worn t else (t, statusOf 0x10)) s)

/-- UPD_BLOCK (R815); one without bytes has no effect (§17.11). -/
def execUpdBlock (c : CmdRef) (worn : Bool) (s : State) : Host.Outcome State Fault Refusal :=
  ok s (updCommand c 0x31 (fun k i t =>
    let n := (pIn k.first).2
    if 65536 < n then (t, statusOf 0x10)
    else if n = 0 then (t, statusOf 0)
    else
      let (t, bs, poison) := ringRead i (pIn k.first).1 n t
      if poison then (t, statusOf 0x70) else programBlock (pTotal k.first) bs (some (c.ring.val, k.seq)) worn t) s)

/-- UPD_CLOSE (R816); with FORWARD the package then goes down the chain. -/
def execUpdClose (c : CmdRef) (worn : Bool) (s : State) : Host.Outcome State Fault Refusal :=
  ok s (updCommand c 0x32 (fun k i t =>
    if (pIn k.first).2 ≠ 48 then (t, statusOf 0x10)
    else
      let (t, bs, poison) := ringRead i (pIn k.first).1 48 t
      if poison then (t, statusOf 0x70)
      else
        let x := t.up.xfer
        let p := closeTransfer (pTotal k.first) bs worn t
        match x with
        | some x => if p.2.status = 0 ∧ pArg k.first = 1 then (startForward { x with hops := 0 } p.1, p.2) else p
        | none => p) s)

/-- UPD_ACTIVATE (R817). -/
def execUpdActivate (c : CmdRef) (s : State) : Host.Outcome State Fault Refusal :=
  ok s (updCommand c 0x33 (fun k _ t => activate (if pSlot k.first = 0 then .a else .b) t) s)

/-- UPD_ABORT (R818). -/
def execUpdAbort (c : CmdRef) (s : State) : Host.Outcome State Fault Refusal := ok s (updCommand c 0x34 (fun _ _ t => abortTransfer t) s)

/-- A report entry as memory holds it, little-endian (R750). -/
def reportLE (e : List Byte) : List Byte :=
  e.take 2 ++ ((e.drop 2).take 2).reverse ++ ((e.drop 4).take 4).reverse ++ ((e.drop 8).take 8).reverse ++ ((e.drop 16).take 8).reverse

/-- CHAIN_REPORT (R827). -/
def execChainReport (c : CmdRef) (s : State) : Host.Outcome State Fault Refusal :=
  ok s (updCommand c 0x35 (fun k i t =>
    let es := t.up.reports.take 63
    output i (pOut k.first).1 (pOut k.first).2 (bytesLE 1 es.length ++ List.replicate 7 0 ++ es.flatMap reportLE) t) s)

/-! ### Confirmation and reversion (§17.4, §17.5) -/

/-- R806, R809: a write to UP_CONFIRM while the window is open: fuses, floor, slot, window. A blow that a reset cuts off after
`cutAfter` fuses leaves the rest of it to the next boot, and nothing else is done. (DEDUCED, log 57.) -/
def confirm (cutAfter : Option Nat) (s : State) : State :=
  let k := booted s
  let r := s.up.slot k
  match cutAfter with
  | some n => s.onUp fun u => { u with fuses := max u.fuses (min (u.fuses + n) r.secVer), blowing := true }
  | none => s.onUp fun u =>
    { (u.onSlot k fun r => { r with st := .confirmed, attempts := 0 }) with
      fuses := max u.fuses r.secVer, floor := max u.floor r.ltVer, preferredB := decide (k = .b), health := none, trial := false }

/-- R807: the window expires. (DESIGN CHOICE, log 4; DEDUCED, log 57.) -/
def expireHealth (s : State) : State :=
  if s.up.health.isNone then s
  else s.onUp fun u =>
    { (u.onSlot (booted s) fun r => { r with st := .invalid }) with
      trouble := setBit u.trouble 1, revertPending := true, health := none, trial := false }

/-- HEALTH_WINDOW_EXPIRY (R807). -/
def execHealthWindowExpiry (s : State) : Host.Outcome State Fault Refusal := ok s (expireHealth s)

/-! ### The chain's rows (§17.7) -/

/-- BC_HELLO (R821, R822). -/
def execBcHello (p : Port) (blocks : List Block) (s : State) : Host.Outcome State Fault Refusal := ok s (chainHelloReceived p blocks s)

/-- R827: this module's own report entry goes upstream. -/
def ownReport (hops : Nat) (r : Result) (s : State) : State :=
  chainQueue .up [(0x45, reportEntry hops s.pwr.modId.toNat r.status r.result32 Config.deviceSerial s.ct.now)] s

/-- An ANSWER or a RESULT. -/
def statusPayload (r : Result) : List Byte := bytesBE 2 r.status ++ [0, 0] ++ bytesBE 4 r.result32

/-- R825, HAVE_IT: some slot that is neither INVALID nor WORN holds a package of the kind with that digest. -/
def haveIt (s : State) (light : Bool) (len : Nat) (digest : List Byte) : Bool :=
  [Slot.a, Slot.b].any fun k =>
    decide ((s.up.slot k).st ≠ .invalid ∧ (s.up.slot k).st ≠ .worn) && totalOk light len && decide (sha384 (regionRead s k light 0 len) = digest)

/-- R825: the answer to an OFFER. (DESIGN CHOICE, log 59.) -/
def answerOffer (p : List Byte) (worn : Bool) (s : State) : State × Result :=
  let light := decide ((p.getD 4 0).toNat = 1)
  let len := beField p 0 4
  let hops := (p.getD 5 0).toNat
  let digest := (p.drop 8).take 48
  if !(updateFlags s).getLsbD 0 then (s, statusOf 0x11D)
  else if s.up.xfer.isSome then (s, statusOf 0x110)
  else if bootedTrial s then (s, statusOf 0x100)
  else if haveIt s light len digest then (s, statusOf 0x11C)
  else if !totalOk light len ∨ 63 < hops then (s, statusOf 0x10)
  else openTransfer light len .chain hops digest worn s

/-- An OFFER is answered; a refusal is reported at once (R827). -/
def receiveOffer (worn : Bool) (p : List Byte) (s : State) : State :=
  let a := answerOffer p worn s
  let s := chainQueue .up [(0x41, statusPayload a.2)] a.1
  if a.2.status = 0 then s else ownReport (p.getD 5 0).toNat a.2 s

/-- BC_OFFER (R825), on the UP port. -/
def execBcOffer (blocks : List Block) (worn : Bool) (s : State) : Host.Outcome State Fault Refusal :=
  ok s (onChainFrame .up 0x40 blocks (receiveOffer worn) s)

/-- R824: an ANSWER to the sender: it sends the package, waits for the next offer (R828), or is done. -/
def receiveAnswer (p : List Byte) (s : State) : State :=
  match s.up.fwd with
  | none => s
  | some f =>
    if f.stage ≠ .answer then s
    else if beField p 0 2 = 0 then chainQueue .down (packageFrames s f) (s.onUp fun u => { u with fwd := some { f with stage := .result } })
    else if beField p 0 2 = 0x110 then s.onUp fun u => { u with fwd := some { f with stage := .reoffer } }
    else s.onUp fun u => { u with fwd := none }

/-- BC_ANSWER (R824, R828), on the DOWN port. -/
def execBcAnswer (blocks : List Block) (s : State) : Host.Outcome State Fault Refusal := ok s (onChainFrame .down 0x41 blocks receiveAnswer s)

/-- R825: a block begins. -/
def receiveHeader (p : List Byte) (s : State) : State :=
  s.onUp fun u => { u with xfer := u.xfer.map fun x =>
    if x.source = .chain then { x with block := some (beField p 0 4, beField p 4 4, (p.drop 8).take 48), got := [] } else x }

/-- BC_BLOCK_HDR (R825), on the UP port. -/
def execBcBlockHdr (blocks : List Block) (s : State) : Host.Outcome State Fault Refusal := ok s (onChainFrame .up 0x42 blocks receiveHeader s)

/-- A chain transfer ends with a result: RESULT and the receiver's report go upstream; a failed one empties the target. -/
def endChain (hops : Nat) (r : Result) (s : State) : State :=
  let s := if r.status = 0 then s else abandon s
  ownReport hops r (chainQueue .up [(0x44, statusPayload r)] s)

/-- R826: after a successful close on the chain the slot is activated and the package forwarded, as UPDATE.FLAGS say. -/
def afterChainClose (x : Transfer) (s : State) : State :=
  let s := if (updateFlags s).getLsbD 2 then (activate x.target s).1 else s
  if (updateFlags s).getLsbD 1 then startForward x s else s

/-- R825: a whole block has come: its digest is checked and its bytes are programmed; after the last block the transfer
closes. -/
def blockDone (x : Transfer) (num len : Nat) (digest got : List Byte) (worn : Bool) (s : State) : State :=
  if got.length ≠ len ∨ sha384 got ≠ digest then endChain x.hops (statusOf 0x114) s
  else
    let p := programBlock (65536 * num) got none worn s
    if p.2.status ≠ 0 then endChain x.hops p.2 p.1
    else
      let s := p.1.onUp fun u => { u with xfer := u.xfer.map fun y => { y with block := none, got := [] } }
      let sum := ((s.up.xfer.map (·.blocks)).getD []).foldl (fun n b => n + b.2.1) 0
      if sum < x.total then s
      else
        let q := closeTransfer x.total x.digest worn s
        let s := endChain x.hops q.2 q.1
        if q.2.status = 0 then afterChainClose x s else s

/-- R825: data of the current block. -/
def receiveData (worn : Bool) (p : List Byte) (s : State) : State :=
  match s.up.xfer with
  | none => s
  | some x =>
    match x.source, x.block with
    | .chain, some (num, len, digest) =>
      let got := x.got ++ p
      if got.length < len then s.onUp fun u => { u with xfer := some { x with got := got } }
      else blockDone x num len digest got worn s
    | _, _ => s

/-- BC_BLOCK_DATA (R825, R826), on the UP port. -/
def execBcBlockData (blocks : List Block) (worn : Bool) (s : State) : Host.Outcome State Fault Refusal :=
  ok s (onChainFrame .up 0x43 blocks (receiveData worn) s)

/-- BC_RESULT (R824), on the DOWN port: the forwarding is over. -/
def execBcResult (blocks : List Block) (s : State) : Host.Outcome State Fault Refusal :=
  ok s (onChainFrame .down 0x44 blocks (fun _ t => t.onUp fun u => { u with fwd := none }) s)

/-- BC_REPORT (R827), on the DOWN port: kept, and relayed unchanged. -/
def execBcReport (blocks : List Block) (s : State) : Host.Outcome State Fault Refusal := ok s (onChainFrame .down 0x45 blocks keepReport s)

/-- BC_PORT_LEAVES_UP (R828). -/
def execBcPortLeavesUp (p : Port) (s : State) : Host.Outcome State Fault Refusal := ok s (chainLockLoss p s)

/-- R828: the sender offers again once its port is back in UP, up to 3 times, and every second after XFER_OPEN, up to 600
times; then it gives up. -/
def reoffer (s : State) : State :=
  match s.up.fwd with
  | none => s
  | some f =>
    match f.stage with
    | .port => if (s.bc .down).st = .up ∧ f.links < 3 then offer { f with links := f.links + 1 } s else giveUp f 0x11B s
    | .reoffer => if f.waits < 600 then offer { f with waits := f.waits + 1 } s else giveUp f 0x110 s
    | .answer | .result => s

/-- BC_REOFFER_TIMER (R828). -/
def execBcReofferTimer (s : State) : Host.Outcome State Fault Refusal := ok s (reoffer s)

/-! ### Daymark operations (§17.8) -/

/-- OFFSET or TOTAL_LEN of UP_DM_ARG. -/
def dmOffset (s : State) : Nat := bits s.up.dmArg 0 32
/-- LEN of UP_DM_ARG. -/
def dmLen (s : State) : Nat := bits s.up.dmArg 32 32

/-- R833: one operation of Table 17.13 with its operands: OFFSET, ARG, and its data. A listed operation only.
(DEDUCED, log 60.) -/
def daymarkOp (op off arg : Nat) (data : List Byte) (worn : Bool) (s : State) : State × Result :=
  match op with
  | 1 =>
    if 2 ≤ arg then (s, statusOf 0x11)
    else if totalOk (decide (arg = 1)) off then openTransfer (decide (arg = 1)) off .daymark 0 [] worn s else (s, statusOf 0x10)
  | 2 =>
    if 65536 < data.length then (s, statusOf 0x10) else if data.isEmpty then (s, statusOf 0) else programBlock off data none worn s
  | 3 =>
    let x := s.up.xfer
    let p := closeTransfer off (fit 48 data) worn s
    match x with
    | some x => if p.2.status = 0 ∧ (updateFlags s).getLsbD 1 = true then (startForward { x with hops := 0 } p.1, p.2) else p
    | none => p
  | 4 => if 2 ≤ arg then (s, statusOf 0x11) else activate (if arg = 0 then .a else .b) s
  | 5 => abortTransfer s
  | 6 => (s, { status := 0, result32 := (upStatus s).toNat })
  | _ => (s, statusOf 0x11)

/-- R831: a write to UP_DM_CMD, which only Daymark mode shows; UP_DM_STATUS and UP_DM_RESULT take the answer.
(DESIGN CHOICE, log 58.) -/
def daymarkWrite (who : Requester) (op arg : Nat) (worn : Bool) (s : State) : State :=
  if !(seesPf s who && s.up.daymark) then s
  else
    let data := if op = 2 then readBytes s.up.dmBuf 0 (min (dmLen s) 65537) else readBytes s.up.dmBuf 0 48
    let p := daymarkOp op (dmOffset s) arg data worn s
    p.1.onUp fun u => { u with dmStatus := p.2.status, dmResult := BitVec.ofNat 32 p.2.result32 }

/-! ### The service UART (R832) -/

/-- The answer to a request frame. (DEDUCED, log 60.) -/
def uartAnswer (op seq : Byte) (r : Result) : List Byte :=
  let b := [op ||| 0x80#8, seq] ++ bytesLE 2 r.status ++ bytesLE 4 r.result32
  [0x55, 0xAA] ++ b ++ bytesBE 2 (crc16 b).toNat

/-- A whole request frame with a good CRC. -/
def uartSound (bs : List Byte) : Bool :=
  let n := leField bs 8 2
  decide (bs.take 2 = [0x55, 0xAA]) && decide (n ≤ 1024 ∧ bs.length = 12 + n)
    && decide ((crc16 ((bs.drop 2).take (8 + n))).toNat = beField bs (10 + n) 2)

/-- UART_REQUEST's effect: enabled in Daymark mode by the retained UART_DAYMARK_EN; a repeated SEQ gets the previous answer.
(DEDUCED, log 31; DEDUCED, log 60.) -/
def uartRequest (bs : List Byte) (worn : Bool) (s : State) : State :=
  if !(s.up.daymark && s.up.retained.getLsbD 3 && uartSound bs) then s
  else
    let op := bs.getD 2 0
    let seq := bs.getD 3 0
    let again := s.up.uartLast.bind fun l => if l.1 = seq then some l.2 else none
    match again with
    | some a => s.emit (.uart a)
    | none =>
      let data := (bs.drop 10).take (leField bs 8 2)
      let p := daymarkOp op.toNat (leField bs 4 4) (data.getD 0 0).toNat data worn s
      let a := uartAnswer op seq p.2
      (p.1.onUp fun u => { u with uartLast := some (seq, a) }).emit (.uart a)

/-- UART_REQUEST (R832). -/
def execUartRequest (bytes : List Byte) (worn : Bool) (s : State) : Host.Outcome State Fault Refusal := ok s (uartRequest bytes worn s)

end Sys2Proof.Machine
end

