-- ==== Sys2Proof/Machine/RegMap.lean ====
section
/-!
DEFINITION. The register map (00 §0.4, 10 §10.2 and the register table of every chapter): where each view finds a register,
what it reads as, who may reach it, and what a write to it does.

Offsets are those that PF BAR0 and the core map share. A VF's mailbox, which that map does not hold, and FN_VF stand at
offsets of the model's own.
-/

namespace Sys2Proof.Machine

/-! ### Views (Tables 10.4, 10.5) -/

/-- Where FN_VF and the mailbox of the VF view stand in the model's map. (DEDUCED, log 38.) -/
def vfView (o : Nat) : Nat := 0x800000 + o

/-- The register offset that a requester's own offset names; none where its view holds nothing (R12, Tables 10.4, 10.5). In
Daymark mode PF BAR0 shows the PS and UP blocks and the buffer (R831). -/
def canonical (s : State) (w : Requester) (o : Nat) : Option Nat :=
  match w with
  | .hart _ => if o < 0x430000 then some o else none
  | .fn f =>
    if f.val = 0 then
      (if s.pwr.stage = .daymark ∧ ¬(0x3000 ≤ o ∧ o < 0x5000 ∨ 0x100000 ≤ o ∧ o < 0x110000) then none
       else if o < 0x400000 then some o else none)
    else if o < 0x2000 then some (vfView o)
    else if o < 0x3000 then some o
    else if 0x4000 ≤ o ∧ o < 0x5000 then ((s.lt.ringsOf f.val)[(o - 0x4000) / 0x100]?).map fun r => ringOffset r (o % 0x100)
    else if 0xE000 ≤ o ∧ o < 0xF000 then some (0x3E0000 + (o - 0xE000))
    else if 0xF000 ≤ o ∧ o < 0x10000 then some (0x3F0000 + (o - 0xF000))
    else none

/-- The function whose MSI-X table and PBA a requester sees. -/
def ownFn : Requester → Nat
  | .fn f => f.val
  | .hart _ => 0

/-! ### Status words -/

/-- Bits 2:0 STATE and 7:4 CAUSE of a VF (FN_VFSTATEf, FN_VF_STATUS). -/
def vfStatus (s : State) (f : Nat) : Nat := (s.fn f).vf.code + 16 * (s.fn f).cause.code

/-- MBX_VF_STATUS of a VF (Table 10.18). (DEDUCED, log 38.) -/
def mbxStatus (s : State) (f : Nat) : Nat :=
  bit (s.fn f).mbx.outPending + 2 * bit (s.fn f).mbx.inPending + 256 * (s.fn f).vf.code

/-- MBX_PEND, DIR's bits of 64 VFs from `f` on. -/
def mbxPend (s : State) (f : Nat) : Nat := ofBits ((List.range 64).map fun i => (s.fn (f + i)).mbx.outPending)

/-- LB_STATUS. -/
def lbStatus (s : State) : Nat :=
  ofBits [s.lb.a.ok, s.lb.b.ok, s.lb.replaying, s.lb.opened, s.lb.liveFull, s.lb.wearClosed]

/-- LB_TAIL: the lowest LSN that a bank holds. -/
def lbTail (s : State) : Nat := (heldLsns s).headD s.lb.head

/-- KP_PUB_STATUS (§8.12). -/
def kpPubStatus (s : State) : Nat :=
  ofBits [s.kp.started && !s.kp.down, s.kp.down, s.lt.wdHard, s.lt.cacheFlush] + 16 * s.kp.granted.toNat
    + 65536 * (s.kp.encl.filter fun e => decide (e.2.st ≠ .free)).length

/-- KP_PUB_OWNER: worlds, and the blocks in hand-over. -/
def kpPubOwner (s : State) : Nat :=
  s.kp.world.toNat + 65536 * ofBits ((List.range 16).map fun b => s.kp.handover.any (·.1 == b))

/-- KP_WD_REMAIN: microseconds until expiry. (DEDUCED, log 23.) -/
def wdRemain (s : State) : Nat :=
  if watchdogRuns s then s.lt.wdTimeoutMs * 1000 - s.kp.wdCount / 500 else 0

/-- MU_STATUS (Table 14.11); a unit in hand-over reads zero (R369). -/
def muStatus (s : State) : Nat :=
  let row := fun (us : List Nat) (p : Nat → Bool) => ofBits (us.map fun u => p u && !s.kp.handover.any (·.1 == u))
  let mus := [0, 1, 2, 3]
  row mus s.mu.ok.getLsbD + 16 * row mus (fun u => (runOn s u).isSome) + 256 * row mus (fun u => (sessionOn s u).isSome)
    + 4096 * row [4, 5] s.mu.ok.getLsbD + 16384 * row [4, 5] (fun u => (runOn s u).isSome)

/-- CX_STATUS. (DEDUCED, log 41.) -/
def cxStatus (s : State) : Nat := s.cx.laneOk.toNat + 65536 * bit s.cx.esOk + 131072 * bit s.cx.drbgOk

/-- DS_HART_STATEh (Table 9.9). -/
def dsHartState (x : Hart) : Nat :=
  x.bind.domain.toNat + 256 * bit x.bind.en + 65536 * x.bind.runprio + 2 ^ 21 * bit x.waiting.isSome + 2 ^ 22 * bit x.bind.claimed.isSome

/-- SD_STATUS: CLK_OK is a clock that is present and in range. (DEDUCED, log 49.) -/
def sdStatus (s : State) (c : Nat) : Nat :=
  let h := s.chan c
  ofBits [!h.noclk && !h.clkRange && decide (h.fmod ≠ 0), h.noclk, h.clkRange, h.stuck, groupGated s c] + 256 * (min 7 h.wins.length)
    + 65536 * h.fmod.toNat

/-- SD_TRIP_STATE. (DEDUCED, log 50.) -/
def sdTripState (t : TripSite) : Nat := bit t.asserted + 256 * t.cause + 65536 * t.channel + 2 ^ 24 * bit t.landHigh

/-- LN_STATUS. -/
def lnStatus (l : Lane) : Nat := l.st.code + 16 * bit l.rxInverted + 32 * bit l.swapped + 64 * bit l.blockLock

/-- BC_STATUSp (Table 17.14). -/
def bcStatus (c : ChainPort) : Nat := c.st.code + 16 * bit c.inverted + 32 * bit c.swapped + 64 * bit c.crossed + 256 * c.peer.toNat

/-- UP_SLOTs_STATE (Table 17.14). (DESIGN CHOICE, log 58.) -/
def slotState (s : State) (k : Slot) : Nat :=
  let r := s.up.slot k
  let code := match r.st with
    | .empty => 0
    | .writing => 1
    | .staged => 2
    | .trial => 3
    | .confirmed => 4
    | .invalid => 5
    | .worn => 6
  code + 16 * r.attempts + 256 * r.fails + 4096 * bit (s.up.preferredB == decide (k = .b))

/-- A two's-complement register value. -/
def int32 (v : Int) : Nat := (BitVec.ofInt 32 v).toNat

/-- The levels of the GPIO lands: the module's own on a land it drives, the outside's on any other. -/
def gpioLevels (s : State) : Byte := (s.kp.gpioOut &&& s.kp.gpioOe) ||| (s.kp.gpioLand &&& ~~~s.kp.gpioOe)

/-- R211: APLIC sources 161-168 follow the levels of the GPIO lands; `t` came from `s`. -/
def gpioEdges (s t : State) : State :=
  if t.pwr.supply = .on then
    ((List.range 8).filter fun i => (gpioLevels t).getLsbD i && !(gpioLevels s).getLsbD i).foldl (fun u i => aplic u (161 + i)) t
  else t

/-- The GPIO bits a requester sees: the Open world does not see Keeper-world lands (R365). -/
def gpioSeen (s : State) (w : Requester) (v : Byte) : Nat := (if actingKeeper s w then v else v &&& ~~~s.lt.gpioWorld).toNat

/-- The bits of SD_CH_TROUBLE a requester sees (R732, R841): bits 4-6 are site fields, the others channel fields.
(DEDUCED, log 52.) -/
def chTroubleSeen (s : State) (w : Requester) (c : Nat) : Nat :=
  let t := (s.chan c).trouble
  let site := if actingKeeper s w then 0#8 else t &&& 0x70#8
  let chan := if actingKeeper s w == groupKeeper s c && !groupMoving s c then t &&& 0x8F#8 else 0#8
  (site ||| chan).toNat

/-! ### What the registers read as -/

/-- An LT field of the PS and UP blocks; every LT field reads zero in Daymark mode (R830). -/
def ltValue (s : State) (v : Nat) : Nat := if s.pwr.stage = .daymark then 0 else v

/-- A 32-bit register of the blocks below 0x1_0000; an offset that no table defines reads zero (R12). -/
def reg32Low (s : State) (w : Requester) (o : Nat) : Nat :=
  let d := (dsDomain s w).getD 0
  let dom := s.dom d
  match o with
  | 0x0008 => s.lt.vfCount + 256 * s.host.numVfs + 65536 * bit s.host.vfEnable
  | 0x0040 => s.lt.resultA.toNat + 256 * s.lt.resultB.toNat + 65536 * bit s.lt.bootSlotB + 2 ^ 20 * s.lt.defaulted.toNat
  | 0x0050 => s.lt.keyId.toNat
  | 0x0400 => s.host.dirtySel.toNat
  | 0x0420 => let x := (s.fn s.host.dirtySel.toNat).dirty; bit x.enable + 2 * bit x.active + 8 * bit x.switched + 16 * bit x.overflow
  | 0x1000 => s.host.mbxSel.toNat
  | 0x1030 => s.host.mbxVector.toNat
  | 0x1184 => mbxStatus s s.host.mbxSel.toNat
  | 0x2004 => (ctStatus s.ct).toNat
  | 0x2020 => s.ct.period.toNat
  | 0x2028 => match w with | .fn f => if f.val = 0 then s.ct.badFrames.toNat else 0 | .hart _ => s.ct.badFrames.toNat
  | 0x3000 => (psStatus s).toNat
  | 0x3008 => (if actingKeeper s w then troubleSum s else clearBit (troubleSum s) 5).toNat
  | 0x300C => s.pwr.cause + 65536 * s.pwr.modResets
  | 0x3010 => s.pwr.modId.toNat + 256 * bit s.pwr.daymarkPin
  | 0x301C => ofBits (allHarts.map fun h => (s.hart h).inReset)
  | 0x3020 => min 0xFFFF s.pwr.feedA.volts.toNat + 65536 * min 0xFFFF s.pwr.feedB.volts.toNat
  | 0x3024 => s.pwr.inputDeciW
  | 0x3028 => ltValue s (s.lt.powerCapW + 65536 * bit s.lt.singleFeedTrouble)
  | 0x3040 => ofBits ((List.range 16).map fun b => s.kp.gate.getLsbD b && !gateBarred s b)
  | 0x3044 => s.kp.hint.toNat
  | 0x4000 => (upStatus s).toNat
  | 0x400C => s.up.fuses
  | 0x4010 => s.up.floor
  | 0x4014 => (msLeft s).toNat
  | 0x4018 => ltValue s (s.lt.healthWindowS + 65536 * s.lt.updFlags.toNat)
  | 0x4020 => slotState s .a
  | 0x4024 => s.up.a.eraseMax
  | 0x4028 => s.up.a.secVer
  | 0x402C => s.up.a.ltVer
  | 0x4040 => slotState s .b
  | 0x4044 => s.up.b.eraseMax
  | 0x4048 => s.up.b.secVer
  | 0x404C => s.up.b.ltVer
  | 0x4110 => if s.up.daymark then 65536 * s.up.dmStatus else 0
  | 0x4114 => if s.up.daymark then s.up.dmResult.toNat else 0
  | 0x4800 => bcStatus s.up.portUp
  | 0x4840 => bcStatus s.up.portDown
  | 0x5000 => lbStatus s
  | 0x5028 => (logbookLife s).toNat
  | 0x5040 => liveLines s
  | 0x5044 => (lineRate s).toNat
  | 0x5050 => s.lt.acceptRateCap
  | 0x6008 => dom.readyCount + 65536 * dom.delay.length
  | 0x600C => ofBits ((List.range 16).map fun p => !(dom.list p).isEmpty)
  | 0x6018 => dom.flags.toNat
  | 0x6020 => bit dom.traceOn
  | 0x6028 => dom.ovf.toNat
  | 0x610C => s.disp.written.toNat
  | 0x7000 => kpPubStatus s
  | 0x7010 => s.lt.dmaWorld.toNat
  | 0x7014 => s.lt.gpioWorld.toNat
  | 0x7060 => gpioSeen s w s.kp.gpioOut
  | 0x7064 => gpioSeen s w s.kp.gpioOe
  | 0x7068 => gpioSeen s w (gpioLevels s)
  | _ =>
    if 0x0800 < o ∧ o < 0x1000 ∧ o % 8 = 0 then
      let f := (o - 0x800) / 8
      vfStatus s f + 256 * bit (s.lt.exists f && (s.lt.entry f).migratable) + 65536 * (s.lt.vectors f)
    else if 0x2040 ≤ o ∧ o < 0x2080 ∧ o % 16 = 8 then
      (match alarmFn s w with
       | some f => let x := tget {} s.ct.alarms (4 * f + (o - 0x2040) / 16); bit x.enable + 2 * bit x.fired + 256 * x.vector.toNat
       | none => 0)
    else if 0x3400 ≤ o ∧ o < 0x3800 then (tget 0 s.viol ((o - 0x3400) / 4)).toNat
    else if 0x6200 ≤ o ∧ o < 0x62C0 ∧ o % 8 = 0 then dsHartState (tget {} s.harts ((o - 0x6200) / 8))
    else 0

/-- A 32-bit register of an SD block (Table 15.12). -/
def sdReg32 (s : State) (w : Requester) (c r : Nat) : Nat :=
  let h := s.chan c
  match r with
  | 0x000 => (s.lt.chanWord c).toNat
  | 0x004 => s.lt.channelSiteOf c + 256 * s.lt.channelFn c + 65536 * bit (groupKeeper s c)
  | 0x008 => sdStatus s c
  | 0x010 => int32 h.hi
  | 0x014 => int32 h.lo
  | 0x018 => bit h.armed + 2 * bit h.faultTrip + 256 * h.qual
  | 0x020 => int32 h.fast
  | 0x028 => chTroubleSeen s w c
  | 0x030 => sdTripState (s.site c)
  | 0x040 => bit h.postEn + 65536 * h.evprio.toNat
  | _ => if 0x200 ≤ r ∧ r < 0x280 ∧ c < 8 then (s.lt.coef.getD (32 * c + (r - 0x200) / 4) 0).toNat else 0

/-- A 32-bit register of an LN block (Table 16.9). -/
def lnReg32 (s : State) (n r : Nat) : Nat :=
  let l := s.lane n
  match r with
  | 0x000 => lnStatus l
  | 0x008 => l.txEpoch
  | 0x00C => l.txNext.toNat
  | 0x010 => l.txAcked.toNat
  | 0x014 => l.rxEpoch
  | 0x018 => l.rxSeq.toNat
  | 0x01C => l.outs.length + 256 * l.ins.length + 65536 * l.credit
  | 0x020 => bit l.postEn + 65536 * l.evprio.toNat
  | 0x040 => l.crcErrors.toNat
  | 0x044 => l.retransmits.toNat
  | 0x048 => s.lt.retryLimit + 256 * s.lt.siteFn n + 65536 * s.lt.ackTimeoutUs + 2 ^ 31 * bit (s.lt.laneEnable.getLsbD n)
  | _ => 0

/-- A 32-bit register of a ring block (Table 11.3). -/
def rgReg32 (s : State) (r reg : Nat) : Nat :=
  let g := s.ring r
  match reg with
  | 0x10 => g.size.toNat
  | 0x14 => bit g.enabled + 16 * g.notify.toNat + 256 * g.vector.toNat + 65536 * g.evprio.toNat
  | 0x18 => g.prod.toNat
  | 0x1C => g.cons.toNat
  | 0x20 => g.done.toNat
  | 0x24 => (rgStatus s r).toNat
  | 0x3C => (rgIdent s r).toNat
  | _ => 0

/-- A 32-bit register of the Keeper-only block (Table 8.10), by its offset in it. -/
def koReg32 (s : State) (r : Nat) : Nat :=
  match r with
  | 0x14 => wdRemain s
  | 0x24 => bit s.kp.hoDone + 256 * s.kp.hoBlock.toNat
  | 0x4C => s.kp.vlogLost.toNat
  | _ => if 0x80 ≤ r ∧ r < 0x100 then (tget 0 s.kp.dmaEid ((r - 0x80) / 4)).toNat else 0

/-- A 32-bit register of the MC block (Table 7.6). -/
def mcReg32 (s : State) (r : Nat) : Nat :=
  let m := s.mesh
  if r = 0 then m.trained.toNat + 16 * m.devFailing.toNat + 256 * bit m.zeroed + 512 * bit s.lt.cacheFlush
  else if 0x20 ≤ r ∧ r < 0x40 ∧ r % 8 = 0 then (tget 0 m.ceCount ((r - 0x20) / 8)).toNat
  else if 0x40 ≤ r ∧ r < 0x60 ∧ r % 8 = 0 then (tget 0 m.ueCount ((r - 0x40) / 8)).toNat
  else if 0x80 ≤ r ∧ r < 0xA0 ∧ r % 8 = 0 then (tget 0 m.devFail ((r - 0x80) / 8)).toNat
  else if 0xA0 ≤ r ∧ r < 0xC0 ∧ r % 8 = 0 then (tget 0 m.scrubPass ((r - 0xA0) / 8)).toNat
  else 0

/-- The 32-bit register at an offset, as a requester reads it; zero where no table defines one (R12). -/
def reg32 (s : State) (w : Requester) (o : Nat) : Nat :=
  if 0x10000 ≤ o ∧ o < 0x20000 then sdReg32 s w ((o - 0x10000) / 0x400) (o % 0x400)
  else match troubleReg o with
    | some t => t.get s
    | none =>
      if o < 0x10000 then reg32Low s w o
      else if o < 0x30000 then (if 0x20000 ≤ o then lnReg32 s ((o - 0x20000) / 0x400) (o % 0x400) else 0)
      else if 0x40000 ≤ o ∧ o < 0x80000 then rgReg32 s ((o - 0x40000) / 0x100) (o % 0x100)
      else if o = 0x80000 then cxStatus s
      else if o = 0x80010 then s.cx.slots.length
      else if 0x80400 ≤ o ∧ o < 0x80800 then slotsOf s ((o - 0x80400) / 4) + 65536 * s.lt.keyQuota ((o - 0x80400) / 4)
      else if o = 0x90000 then muStatus s
      else if o = 0x90080 then s.mu.iterMax.toNat
      else if 0x3E0000 ≤ o ∧ o < 0x3F0000 then
        let v := (o - 0x3E0000) / 16
        let e := tget {} (s.fn (ownFn w)).msix v
        if s.lt.vectors (ownFn w) ≤ v then 0 else if o % 16 = 8 then e.data.toNat else if o % 16 = 12 then bit e.masked else 0
      else if 0x400000 ≤ o ∧ o < 0x410000 then koReg32 s (o - 0x400000)
      else if 0x410000 ≤ o ∧ o < 0x420000 then mcReg32 s (o - 0x410000)
      else if o = 0x420F00 then 2 * bit s.mesh.freeze
      else if o = vfView 0 then ownFn w
      else if o = vfView 4 then vfStatus s (ownFn w)
      else if o = vfView 0x1104 then mbxStatus s (ownFn w)
      else if o = vfView 0x1108 then (s.fn (ownFn w)).mbx.vector.toNat
      else 0

/-- A violation-log field of the oldest entry, zero where the log is empty (R382). -/
def vlogHead (s : State) (f : VlogEntry → W64) : Nat := ((s.kp.vlog.head?.map f).getD 0).toNat

/-- A message register of a table of sixteen. -/
def message (t : Tab W64) (o base : Nat) : Nat := (tget 0 t ((o - base) / 8)).toNat

/-- 64 bits of a wider field from bit `i` on. -/
def word64 {n : Nat} (x : BitVec n) (i : Nat) : Nat := bits x i 64

/-- The 64-bit register at an offset below 0x1_0000, as a requester reads it. -/
def reg64Low (s : State) (w : Requester) (o : Nat) : Option Nat :=
  let d := (dsDomain s w).getD 0
  let x := (s.fn s.host.dirtySel.toNat).dirty
  match o with
  | 0x0048 => some s.lt.serial.toNat
  | 0x0408 => some x.base0.toNat
  | 0x0410 => some x.base1.toNat
  | 0x0418 => some x.limit.toNat
  | 0x2010 => some s.ct.now.toNat
  | 0x2018 => some s.ct.lastCount.toNat
  | 0x2030 => some (match w with | .fn f => if f.val = 0 then s.ct.mt.toNat else 0 | .hart _ => s.ct.mt.toNat)
  | 0x3030 => some (ltValue s s.lt.failsafe.toNat)
  | 0x4030 => some s.up.a.build.toNat
  | 0x4050 => some s.up.b.build.toNat
  | 0x4108 => some (if s.up.daymark then s.up.dmArg.toNat else 0)
  | 0x5010 => some s.lb.retries.toNat
  | 0x5018 => some (s.lb.a.retired + 2 ^ 32 * s.lb.b.retired)
  | 0x5020 => some (meanWrites s.lb)
  | 0x5030 => some s.lb.head
  | 0x5038 => some (lbTail s)
  | 0x5048 => some s.lb.winBase.toNat
  | 0x6000 => some (let e := s.lt.domain d
      e.1 + 65536 * e.2.1 + 2 ^ 32 * e.2.2.toNat + 2 ^ 56 * s.lt.tickExp + 2 ^ 61 * bit s.lt.traceStop)
  | 0x6010 => some (match (s.dom d).delay with | [] => 2 ^ 64 - 1 | e :: _ => e.cyc * 4096)
  | 0x6030 => some (((oldestUnread s d).map fun r => r.ct.toNat).getD 0)
  | 0x6038 => some (((s.disp.latched.find? (·.1 == w)).map fun r => r.2.2.toNat).getD 0)
  | 0x7008 => some (kpPubOwner s)
  | _ =>
    if 0x0060 ≤ o ∧ o < 0x0090 then some (word64 s.lt.digest (8 * (o - 0x60)))
    else if 0x1008 ≤ o ∧ o < 0x1028 then some (mbxPend s (8 * (o - 0x1008)))
    else if 0x1080 ≤ o ∧ o < 0x1100 then some (message (s.fn s.host.mbxSel.toNat).mbx.out o 0x1080)
    else if 0x1100 ≤ o ∧ o < 0x1180 then some (message (s.fn s.host.mbxSel.toNat).mbx.inn o 0x1100)
    else if 0x2040 ≤ o ∧ o < 0x2080 ∧ o % 16 = 0 then
      some (match alarmFn s w with | some f => (tget {} s.ct.alarms (4 * f + (o - 0x2040) / 16)).cmp.toNat | none => 0)
    else if 0x2100 ≤ o ∧ o < 0x21C0 then
      some (match w with | .hart _ => (tget (BitVec.allOnes 64) s.ct.mtimecmp ((o - 0x2100) / 8)).toNat | .fn _ => 0)
    else if 0x3080 ≤ o ∧ o < 0x30A0 then
      some (ofBits ((List.range 64).map fun i => decide (tget 0 s.viol (8 * (o - 0x3080) + i) ≠ 0)))
    else if 0x7020 ≤ o ∧ o < 0x7060 then some (word64 s.lt.irqWorld (8 * (o - 0x7020)))
    else none

/-- The key under which a read of word 0 of an SD_HIST pair latches word 1 (R733). -/
def histLatchKey (o : Nat) : Nat := o + 1

/-- The key of the latch of a 64-bit register: its offset, and for an alarm register the function it belongs to (R99, R100). -/
def latchKey (s : State) (w : Requester) (o : Nat) : Nat :=
  if 0x2040 ≤ o ∧ o < 0x2080 then o + 2 ^ 32 * ((alarmFn s w).getD 0) else o

/-- A latched value, if the requester holds one under a key. (DEDUCED, log 66.) -/
def latched (s : State) (w : Requester) (key : Nat) : Option W64 :=
  (s.host.latches.find? fun l => decide (l.1 = w ∧ l.2.1 = key)).map (·.2.2)

/-- A 64-bit register of an SD block. -/
def sdReg64 (s : State) (w : Requester) (o : Nat) : Option Nat :=
  let c := (o - 0x10000) / 0x400
  let r := o % 0x400
  let h := s.chan c
  if r = 0x38 then some (s.site c).ct.toNat
  else if r = 0x48 then some h.event.toNat
  else if r = 0x380 ∧ c = 0 then some s.sd.sat.toNat
  else if 0x100 ≤ r ∧ r < 0x200 then
    let k := (r - 0x100) / 16
    some (if r % 16 = 0 then (histWord h k).toNat else ((latched s w (histLatchKey (o - 8))).getD (histStamp h k)).toNat)
  else none

/-- A 64-bit register of the Keeper-only block, by its offset in it. -/
def koReg64 (s : State) (r : Nat) : Option Nat :=
  match r with
  | 0x00 => some s.kp.monBase
  | 0x08 => some s.kp.monSize
  | 0x30 => some (vlogHead s (·.ct))
  | 0x38 => some (vlogHead s (·.addr))
  | 0x40 => some (vlogHead s (·.info))
  | _ =>
    if 0x1020 ≤ r ∧ r < 0x3000 then
      let e := s.encl ((r - 0x1000) / 32)
      some (match r % 32 with
        | 0 => e.entry.toNat
        | 8 => e.satp.toNat
        | 16 => e.save.toNat
        | _ => match e.st with | .free => 0 | .building => 1 | .ready => 2 | .running => 3 | .suspended => 4)
    else if 0x4000 ≤ r ∧ r < 0x8000 then
      let e := tget {} s.kp.ranges ((r - 0x4000) / 16)
      some (if r % 16 = 0 then e.base else e.pages + 2 ^ 32 * e.encl.toNat + 2 ^ 63 * bit e.valid)
    else none

/-- The 64-bit register at an 8-byte unit, as a requester reads it; none where the unit holds two 32-bit halves.
(PRESUMED, log 39.) -/
def reg64 (s : State) (w : Requester) (o : Nat) : Option Nat :=
  if o % 8 ≠ 0 then none
  else if o < 0x10000 then reg64Low s w o
  else if o < 0x20000 then sdReg64 s w o
  else if o < 0x30000 then (if o % 0x400 = 0x28 then some (s.lane ((o - 0x20000) / 0x400)).event.toNat else none)
  else if 0x40000 ≤ o ∧ o < 0x80000 then
    let g := s.ring ((o - 0x40000) / 0x100)
    (match o % 0x100 with
     | 0x00 => some g.base.toNat
     | 0x08 => some g.cplBase.toNat
     | 0x28 => some (g.acceptSeq % 2 ^ 64)
     | 0x30 => some (g.doneSeq % 2 ^ 64)
     | 0x40 => some g.event.toNat
     | _ => none)
  else if o = 0x80018 then some s.cx.chains.toNat
  else if o = 0x80020 then some (ofBytesLE ((sha384 (bytesLE 32 s.lt.kekSalt.toNat)).take 8))
  else if 0x90040 ≤ o ∧ o < 0x90070 then some (tget 0 s.mu.cmds ((o - 0x90040) / 8)).toNat
  else if 0x3E0000 ≤ o ∧ o < 0x3F0000 then
    let v := (o - 0x3E0000) / 16
    (if s.lt.vectors (ownFn w) ≤ v ∨ o % 16 ≠ 0 then none else some (tget {} (s.fn (ownFn w)).msix v).addr.toNat)
  else if 0x3F0000 ≤ o ∧ o < 0x400000 then
    some (ofBits ((List.range 64).map fun i => (tget {} (s.fn (ownFn w)).msix (8 * (o - 0x3F0000) + i)).pba))
  else if 0x400000 ≤ o ∧ o < 0x410000 then koReg64 s (o - 0x400000)
  else if o = 0x410060 then some s.mesh.errAddr.toNat
  else if 0x420000 ≤ o ∧ o < 0x420C00 then
    let x := s.slice ((o - 0x420000) / 0x100)
    (match o % 0x100 with
     | 0x00 => some x.l3Hit.toNat
     | 0x08 => some x.l3Miss.toNat
     | 0x10 => some x.snoops.toNat
     | 0x18 => some x.retries.toNat
     | 0x20 => some x.hwm
     | _ => none)
  else if vfView 0x1000 ≤ o ∧ o < vfView 0x1080 then some (message (s.fn (ownFn w)).mbx.out o (vfView 0x1000))
  else if vfView 0x1080 ≤ o ∧ o < vfView 0x1100 then some (message (s.fn (ownFn w)).mbx.inn o (vfView 0x1080))
  else none

/-! ### Who reaches what -/

/-- The registers whose fields the light table sets (R26, R886). -/
def holdsLt (o : Nat) : Bool :=
  decide (o ∈ [0x0008, 0x3028, 0x3030, 0x3034, 0x4018, 0x5050, 0x6000, 0x6004, 0x7000, 0x7010, 0x7014, 0x80020, 0x80024, 0x410000])
    || decide (0x0800 < o ∧ o < 0x1000 ∧ o % 8 = 0) || decide (0x7020 ≤ o ∧ o < 0x7060)
    || (decide (0x10000 ≤ o ∧ o < 0x20000) &&
        (decide (o % 0x400 < 8) || decide (0x200 ≤ o % 0x400 ∧ o % 0x400 < 0x280 ∧ o < 0x12000)))
    || decide (0x20000 ≤ o ∧ o < 0x30000 ∧ o % 0x400 = 0x48) || decide (0x40000 ≤ o ∧ o < 0x80000 ∧ o % 0x100 = 0x3C)
    || decide (0x80400 ≤ o ∧ o < 0x80800)

/-- R500: an access to ring register `reg` breaks Table 11.2. -/
def ringDenied (s : State) (w : Requester) (write : Bool) (r reg : Nat) : Bool :=
  let readable := decide (reg ∈ [0x1C, 0x20, 0x24, 0x28, 0x2C, 0x30, 0x34, 0x3C])
  match ringReach s w r with
  | .full => false
  | .readSome => !(!write && readable) && !(write && decide (reg = 0x38) && (match w with | .fn f => decide (f.val = 0) | .hart _ => false))
  | .nothing => !(write && decide (reg = 0x38) && (match w with | .fn f => decide (f.val = 0) | .hart _ => false))

/-- R732, R840, R841, R369: an access to an SD register that its requester may not make. -/
def sdDenied (s : State) (w : Requester) (o : Nat) : Option ViolKind :=
  let c := (o - 0x10000) / 0x400
  let r := o % 0x400
  if (r = 0x380 ∨ r = 0x384) ∧ c = 0 ∨ r = 0x30 ∨ r = 0x38 ∨ r = 0x3C then (if actingKeeper s w then some .worldAttr else none)
  else if r = 0x28 then (if actingKeeper s w && !groupKeeper s c then some .worldAttr else none)
  else channelReach s w c

/-- A register that a ring block defines (Table 11.3). -/
def ringDefines (reg : Nat) : Bool := decide (reg < 0x48 ∧ reg % 4 = 0)

/-- R29-R35, R885, R886: the KIND of the violation that an access is, if it is one; `v` is the data of a write. -/
def denied (s : State) (w : Requester) (write : Bool) (o : Nat) (v : W64) : Option ViolKind :=
  let keeper := actingKeeper s w
  let lock := if write && holdsLt o then some ViolKind.ltLock else none
  if 0x2040 ≤ o ∧ o < 0x2080 ∧ o % 16 ≠ 12 then (if (alarmFn s w).isNone then some .functionOwner else none)
  else if 0x2100 ≤ o ∧ o < 0x21C0 then (match w with | .hart _ => if keeper then none else some .worldAttr | .fn _ => none)
  else if o = 0x3008 then (if write && !keeper && v.getLsbD 5 then some .worldAttr else none)
  else if 0x6000 ≤ o ∧ o < 0x6040 then
    (match w with
     | .hart h => if (s.hart h).bind.en then lock else some .functionOwner
     | .fn _ => lock)
  else if 0x10000 ≤ o ∧ o < 0x20000 then
    (match sdDenied s w o with
     | some k => some k
     | none =>
       if o % 0x400 = 0x28 ∧ write = true ∧ keeper = false ∧ groupKeeper s ((o - 0x10000) / 0x400) = true ∧ v &&& 0x8F#64 ≠ 0 then
         some .worldAttr
       else lock)
  else if 0x20000 ≤ o ∧ o < 0x30000 then (if keeper then some .worldAttr else lock)
  else if 0x40000 ≤ o ∧ o < 0x80000 then
    (if ringDefines (o % 0x100) && ringDenied s w write ((o - 0x40000) / 0x100) (o % 0x100) then
       some (match w with | .fn _ => .functionOwner | .hart _ => .enclaveRange)
     else lock)
  else if 0x90040 ≤ o ∧ o < 0x90070 then (if s.kp.handover.any (·.1 == (o - 0x90040) / 8) then some .handover else none)
  else if 0x400000 ≤ o ∧ o < 0x410000 then (if keeper then none else some .worldAttr)
  else lock

/-! ### Reading -/

/-- Forgets a latch. -/
def dropLatch (w : Requester) (key : Nat) (s : State) : State :=
  s.onHost fun h => { h with latches := h.latches.filter fun l => !decide (l.1 = w ∧ l.2.1 = key) }

/-- What a read of a 64-bit register, whole or its lower half, does besides giving its value (R437, R733). -/
def readEffect (w : Requester) (o : Nat) (s : State) : State :=
  if o = 0x6030 then
    let keep := s.disp.latched.filter (·.1 ≠ w)
    s.onDisp fun u => { u with latched := match oldestUnread s ((dsDomain s w).getD 0) with | some r => (w, r.ct, r.word) :: keep | none => keep }
  else if o = 0x6038 then
    match s.disp.latched.find? (·.1 == w) with
    | none => s
    | some (_, ct, word) => s.onDisp fun u => { u with latched := u.latched.filter (·.1 ≠ w), trace := markRead ct word u.trace }
  else if 0x10000 ≤ o ∧ o < 0x20000 ∧ 0x100 ≤ o % 0x400 ∧ o % 0x400 < 0x200 then
    if o % 16 = 0 then setLatch w (histLatchKey o) (histStamp (s.chan ((o - 0x10000) / 0x400)) ((o % 0x400 - 0x100) / 16)) s
    else dropLatch w (histLatchKey (o - 8)) s
  else s

/-- R100: a read of a 64-bit register whose value is `v`. -/
def read64 (w : Requester) (o v : Nat) (part : Part) (s : State) : State × Nat :=
  match part with
  | .full => (readEffect w o s, v)
  | .low => (setLatch w (latchKey s w o) (BitVec.ofNat 64 (v / 2 ^ 32)) (readEffect w o s), v % 2 ^ 32)
  | .high =>
    match latched s w (latchKey s w o) with
    | some x => (dropLatch w (latchKey s w o) s, x.toNat)
    | none => (s, v / 2 ^ 32)

/-- A read of one 32-bit register, or of a half that none occupies. -/
def read32 (w : Requester) (o : Nat) (s : State) : State × Nat :=
  match denied s w false o 0 with
  | some k => (violateBy s w false k o, 0)
  | none => (s, reg32 s w o % 2 ^ 32)

/-- Bytes of the logbook window (R575, R576) and of the Daymark buffer (R831). -/
def windowBytes (s : State) (o n : Nat) : List Byte :=
  let i := o - 0x100000
  if s.pwr.stage = .daymark then readBytes s.up.dmBuf i n
  else (((lineBytes ((heldLine s (s.lb.winBase.toNat + i / 64)).getD 0)).drop (i % 64)).take n)

/-- A register read by a requester: a whole 8-byte unit or one half of it (R887). -/
def regRead (w : Requester) (offset : Nat) (part : Part) (s : State) : State × W64 :=
  if !visible s w then (s, 0)
  else match canonical s w offset with
    | none => (s, 0)
    | some o =>
      let u := o / 8 * 8
      if 0x100000 ≤ o ∧ o < 0x200000 then
        (s, BitVec.ofNat 64 (ofBytesLE (match part with
          | .full => windowBytes s u 8
          | .low => windowBytes s u 4
          | .high => windowBytes s (u + 4) 4)))
      else match reg64 s w u with
        | some v =>
          (match denied s w false u 0 with
           | some k => (violateBy s w false k u, 0)
           | none => let p := read64 w u v part s; (p.1, BitVec.ofNat 64 p.2))
        | none =>
          match part with
          | .low => let p := read32 w u s; (p.1, BitVec.ofNat 64 p.2)
          | .high => let p := read32 w (u + 4) s; (p.1, BitVec.ofNat 64 p.2)
          | .full => let p := read32 w u s; let q := read32 w (u + 4) p.1; (q.1, BitVec.ofNat 64 (p.2 + 2 ^ 32 * q.2))

/-! ### Writing -/

/-- A write of a 64-bit ring register by one with full access (R463, R506). -/
def ringWrite64 (o : Nat) (part : Part) (v : W64) (s : State) : State :=
  let r := (o - 0x40000) / 0x100
  if ringWriteLevel s r ≠ 2 then s
  else match o % 0x100 with
    | 0x00 => writeConfig r 0 part v s
    | 0x08 => writeConfig r 1 part v s
    | 0x40 => s.onRing r fun g => { g with event := putPart part g.event v }
    | _ => s

/-- A write of an enclave's registers: ENTRY, SATP and SAVE are writable only in BUILDING (Table 8.10). -/
def enclaveWrite (r : Nat) (part : Part) (v : W64) (s : State) : State :=
  let e := (r - 0x1000) / 32
  if (s.encl e).st ≠ .building then s
  else s.onEncl e fun x =>
    match r % 32 with
    | 0 => { x with entry := putPart part x.entry v }
    | 8 => { x with satp := putPart part x.satp v }
    | 16 => { x with save := putPart part x.save v }
    | _ => x

/-- A write of one word of a range entry; the base of an entry that is not valid is only stored. -/
def rangeWordWrite (r : Nat) (part : Part) (v : W64) (s : State) : State :=
  let i := (r - 0x4000) / 16
  let e := tget {} s.kp.ranges i
  let w0 := BitVec.ofNat 64 e.base
  let w1 := BitVec.ofNat 64 (e.pages + 2 ^ 32 * e.encl.toNat + 2 ^ 63 * bit e.valid)
  if r % 16 = 0 then
    (if e.valid then rangeWrite i (putPart part w0 v) w1 s
     else s.onKp fun k => { k with ranges := tset {} k.ranges i { e with base := (putPart part w0 v).toNat / 4096 * 4096 } })
  else rangeWrite i w0 (putPart part w1 v) s

/-- A write of a 64-bit register that its requester may make. (PRESUMED, log 39.) -/
def write64 (w : Requester) (o : Nat) (part : Part) (v : W64) (s : State) : State :=
  let f := s.host.dirtySel.toNat
  if o = 0x0408 then dirtyBase f false part v s
  else if o = 0x0410 then dirtyBase f true part v s
  else if o = 0x0418 then s.onFn f fun g => { g with dirty := { g.dirty with limit := putPart part g.dirty.limit v &&& ~~~0xFFF#64 } }
  else if 0x1100 ≤ o ∧ o < 0x1180 then mbxWrite s.host.mbxSel.toNat false (Fin.ofNat 16 ((o - 0x1100) / 8)) part v s
  else if 0x2040 ≤ o ∧ o < 0x2080 then
    (match alarmFn s w with
     | some f => s.onAlarm f (Fin.ofNat 4 ((o - 0x2040) / 16)) fun x => { x with cmp := putPart part x.cmp v }
     | none => s)
  else if 0x2100 ≤ o ∧ o < 0x21C0 then
    (match w with
     | .hart _ =>
       let s := s.onCt fun c => { c with mtimecmp := tmod (BitVec.allOnes 64) c.mtimecmp ((o - 0x2100) / 8) fun x => putPart part x v }
       setTimer (Fin.ofNat 24 ((o - 0x2100) / 8)) .machine s
     | .fn _ => s)
  else if o = 0x4108 then (if s.up.daymark then s.onUp fun u => { u with dmArg := putPart part u.dmArg v } else s)
  else if o = 0x5048 then s.onLb fun g => { g with winBase := putPart part g.winBase v &&& ~~~0x3FFF#64 }
  else if 0x10000 ≤ o ∧ o < 0x20000 then
    (if o = 0x10380 then
       let s := if part = .high then s else TroubleReg.clear (v.truncate 32) s (.sat false)
       if part = .low then s else TroubleReg.clear ((putPart part 0 v >>> 32).truncate 32) s (.sat true)
     else if o % 0x400 = 0x48 then s.onChan ((o - 0x10000) / 0x400) fun h => { h with event := putPart part h.event v }
     else s)
  else if 0x20000 ≤ o ∧ o < 0x30000 then s.onLane ((o - 0x20000) / 0x400) fun l => { l with event := putPart part l.event v }
  else if 0x40000 ≤ o ∧ o < 0x80000 then ringWrite64 o part v s
  else if 0x3E0000 ≤ o ∧ o < 0x3F0000 then
    s.onFn (ownFn w) fun g => { g with msix := tmod {} g.msix ((o - 0x3E0000) / 16) fun e => { e with addr := putPart part e.addr v } }
  else if 0x401000 ≤ o ∧ o < 0x403000 then enclaveWrite (o - 0x400000) part v s
  else if 0x404000 ≤ o ∧ o < 0x408000 then rangeWordWrite (o - 0x400000) part v s
  else if vfView 0x1000 ≤ o ∧ o < vfView 0x1080 then mbxWrite (ownFn w) true (Fin.ofNat 16 ((o - vfView 0x1000) / 8)) part v s
  else s

/-- A write of FN_DIRTY_CTRL (Table 10.17). -/
def dirtyCtrlWrite (v : W32) (s : State) : State :=
  let f := s.host.dirtySel.toNat
  let s := s.onFn f fun g =>
    { g with dirty := { g.dirty with enable := v.getLsbD 0, switched := g.dirty.switched && !v.getLsbD 3, overflow := g.dirty.overflow && !v.getLsbD 4 } }
  if v.getLsbD 2 then dirtySwitch f s else s

/-- A write of PS_VIOL_CLR (Table 18.2): a violation of the same clock is counted after it (R852). -/
def violClear (v : W32) (s : State) : State :=
  { s with viol := if v.getLsbD 8 then s.clock.counted else tset 0 s.viol (bits v 0 8) (tget 0 s.clock.counted (bits v 0 8)) }

/-- A write of a GPIO register: the bits of Keeper-world lands take it from the Keeper world only (R365). A write of 1 to such a bit
from the Open world is dropped and recorded as no violation. (DESIGN CHOICE, log 81.) -/
def gpioMerge (s : State) (w : Requester) (old : Byte) (v : W32) : Byte :=
  let new := v.extractLsb' 0 8
  if actingKeeper s w then new else (old &&& s.lt.gpioWorld) ||| (new &&& ~~~s.lt.gpioWorld)

/-- A write of a mailbox command register: SEND and ACK, by the PF to VF `f` or by that VF. -/
def mbxCommand (f : Nat) (byVf : Bool) (v : W32) (s : State) : State :=
  let s := if v.getLsbD 0 then mbxSend f byVf s else s
  if v.getLsbD 1 then mbxAck f byVf s else s

/-- A write of DS_TRACE_CTRL of a domain. -/
def traceCtrlWrite (d : Nat) (v : W32) (s : State) : State :=
  s.onDom d fun x => { x with traceOn := v.getLsbD 0, ovf := if v.getLsbD 1 then 0 else x.ovf }

/-- A write of KP_ENCL_CMD (Table 8.10). -/
def enclaveCommand (v : W32) (s : State) : State :=
  let e := bits v 0 8
  match bits v 8 2 with
  | 1 => buildEnclave e s
  | 2 => sealEnclave e s
  | 3 => destroyCommand e s
  | _ => s

/-- A write of PMC_CTRL (Table 7.7). -/
def pmcCtrlWrite (v : W32) (s : State) : State :=
  let s := if v.getLsbD 0 then pmcClear s else s
  s.onMesh fun m => { m with freeze := v.getLsbD 1 }

/-- A write of a 32-bit ring register by one with full access. -/
def ringWrite32 (r reg : Nat) (v : W32) (s : State) : State :=
  let level := ringWriteLevel s r
  if reg = 0x18 ∧ 1 ≤ level then s.onRing r fun g => g.doorbell v
  else if level ≠ 2 then s
  else if reg = 0x10 then writeConfig r 2 .full (v.zeroExtend 64) s
  else if reg = 0x14 then writeCtrl r v s
  else s

/-- A write of a 32-bit Keeper-only register, by its offset in the block. -/
def koWrite32 (r : Nat) (v : W32) (s : State) : State :=
  if r = 0x10 then wdKick v s
  else if r = 0x20 then requestHandover v s
  else if r = 0x24 then s.onKp fun k => { k with hoDone := k.hoDone && !v.getLsbD 0 }
  else if r = 0x28 then enclaveCommand v s
  else if r = 0x48 then vlogPop v s
  else if 0x80 ≤ r ∧ r < 0x100 then s.onKp fun k => { k with dmaEid := tset 0 k.dmaEid ((r - 0x80) / 4) (v.extractLsb' 0 8) }
  else s

/-- A write of SD_CH_TROUBLE: bits 4-6 clear for the Open world, the others for the world of the channel's group (R841).
(DEDUCED, log 52.) -/
def chTroubleWrite (w : Requester) (c : Nat) (v : W32) (s : State) : State :=
  let site := if actingKeeper s w then 0#8 else 0x70#8
  let chan := if actingKeeper s w == groupKeeper s c && !groupMoving s c then 0x8F#8 else 0#8
  TroubleReg.clear (v &&& (site ||| chan).zeroExtend 32) s (.channel c)

/-- A write of a 32-bit register of a block below 0x1_0000, other than a trouble register. -/
def write32Low (w : Requester) (o : Nat) (v : W32) (s : State) : State :=
  match o with
  | 0x0400 => s.onHost fun h => { h with dirtySel := v.extractLsb' 0 8 }
  | 0x0420 => dirtyCtrlWrite v s
  | 0x1000 => s.onHost fun h => { h with mbxSel := v.extractLsb' 0 8 }
  | 0x1030 => s.onHost fun h => { h with mbxVector := v.extractLsb' 0 6 }
  | 0x1180 => mbxCommand s.host.mbxSel.toNat false v s
  | 0x3008 => if v.getLsbD 31 then s.onPwr fun p => { p with carried := false } else s
  | 0x3014 => moduleResetWrite v s
  | 0x3018 => hartResetWrite v s
  | 0x3040 => gateWrite w v s
  | 0x3044 => hintWrite v s
  | 0x3048 => violClear v s
  | 0x4008 => if v = 0x434F4E46#32 ∧ s.up.health.isSome = true then confirm none s else s
  | 0x4100 => daymarkWrite w (bits v 0 8) (bits v 8 8) false s
  | 0x6018 => s.onDom ((dsDomain s w).getD 0) fun x => { x with flags := w1c x.flags (v.extractLsb' 0 5) }
  | 0x6020 => traceCtrlWrite ((dsDomain s w).getD 0) v s
  | 0x6108 => if v.getLsbD 0 then restartTrace s else s
  | 0x7060 => gpioEdges s (s.onKp fun k => { k with gpioOut := gpioMerge s w k.gpioOut v })
  | 0x7064 => gpioEdges s (s.onKp fun k => { k with gpioOe := gpioMerge s w k.gpioOe v })
  | _ =>
    if 0x2040 ≤ o ∧ o < 0x2080 ∧ o % 16 = 8 then
      (match alarmFn s w with
       | some f => s.onAlarm f (Fin.ofNat 4 ((o - 0x2040) / 16)) fun x =>
           { x with fired := x.fired && !v.getLsbD 1, enable := v.getLsbD 0, vector := v.extractLsb' 8 8 }
       | none => s)
    else s

/-- A write of a 32-bit register that its requester may make. CT_TROUBLE is a read-only mirror in a VF's view. -/
def write32 (w : Requester) (o : Nat) (v : W32) (s : State) : State :=
  if holdsLt o then s
  else if 0x10000 ≤ o ∧ o < 0x20000 then
    (if o % 0x400 = 0x28 then chTroubleWrite w ((o - 0x10000) / 0x400) v s
     else if o % 0x400 = 0x40 then
       s.onChan ((o - 0x10000) / 0x400) fun h => { h with postEn := v.getLsbD 0, evprio := v.extractLsb' 16 4 }
     else s)
  else if o = 0x2008 ∧ ownFn w ≠ 0 then s
  else match troubleReg o with
    | some t => t.clear v s
    | none =>
      if o < 0x10000 then write32Low w o v s
      else if o < 0x30000 then
        (if o % 0x400 = 0x20 then
           s.onLane ((o - 0x20000) / 0x400) fun l => { l with postEn := v.getLsbD 0, evprio := v.extractLsb' 16 4 }
         else s)
      else if 0x40000 ≤ o ∧ o < 0x80000 then ringWrite32 ((o - 0x40000) / 0x100) (o % 0x100) v s
      else if o = 0x90010 then abortWrite w v s
      else if 0x3E0000 ≤ o ∧ o < 0x3F0000 then
        let n := (o - 0x3E0000) / 16
        (if s.lt.vectors (ownFn w) ≤ n then s
         else s.onFn (ownFn w) fun g => { g with msix := tmod {} g.msix n fun e =>
           if o % 16 = 8 then { e with data := v } else if o % 16 = 12 then { e with masked := v.getLsbD 0 } else e })
      else if 0x400000 ≤ o ∧ o < 0x410000 then koWrite32 (o - 0x400000) v s
      else if o = 0x420F00 then pmcCtrlWrite v s
      else if o = vfView 0x1100 then mbxCommand (ownFn w) true v s
      else if o = vfView 0x1108 then s.onFn (ownFn w) fun g => { g with mbx := { g.mbx with vector := v.extractLsb' 0 4 } }
      else s

/-- One 32-bit access (R887): a violation, if it is one, and what it may change. A write with a 1 in a KO bit still acts on
its other fields (R885). -/
def write32At (w : Requester) (o : Nat) (v : W32) (s : State) : State :=
  match denied s w true o (v.zeroExtend 64) with
  | some k =>
    let t := violateBy s w true k o
    if o = 0x3008 ∨ (0x10000 ≤ o ∧ o < 0x20000 ∧ o % 0x400 = 0x28 ∧ actingKeeper s w = false) then write32 w o v t else t
  | none => write32 w o v s

/-- Bytes written to the Daymark buffer (R831); the logbook window is read-only. -/
def windowWrite (o n : Nat) (v : W64) (s : State) : State :=
  if s.pwr.stage = .daymark then s.onUp fun u => { u with dmBuf := writeBytes u.dmBuf (o - 0x100000) (bytesLE n v.toNat) } else s

/-- A register write by a requester: a whole 8-byte unit or one half of it (R887). -/
def regWrite (w : Requester) (offset : Nat) (part : Part) (v : W64) (s : State) : State :=
  if !visible s w then s
  else match canonical s w offset with
    | none => s
    | some o =>
      let u := o / 8 * 8
      if 0x100000 ≤ o ∧ o < 0x200000 then
        (match part with
         | .full => windowWrite u 8 v s
         | .low => windowWrite u 4 v s
         | .high => windowWrite (u + 4) 4 v s)
      else if (reg64 s w u).isSome then
        (match denied s w true u v with
         | some k => violateBy s w true k u
         | none => write64 w u part v s)
      else match part with
        | .low => write32At w u (v.truncate 32) s
        | .high => write32At w (u + 4) (v.truncate 32) s
        | .full => write32At w (u + 4) ((v >>> 32).truncate 32) (write32At w u (v.truncate 32) s)

/-! ### The rows -/

/-- The write covers a register of the trouble record. -/
def namesTrouble (s : State) (w : RegWrite) : Bool :=
  match canonical s w.who w.offset.toNat with
  | none => false
  | some o =>
    let u := o / 8 * 8
    match w.part with
    | .low => (troubleReg u).isSome
    | .high => (troubleReg (u + 4)).isSome
    | .full => (troubleReg u).isSome || (troubleReg (u + 4)).isSome

end Sys2Proof.Machine
end

