-- ==== Sys2Proof/Machine/Traps.lean ====
section
/-!
DEFINITION. How a hart runs (05 §5.3, §5.4): executing and retiring an instruction, taking an exception or an interrupt and
returning from one, the physical ranges, the debug triggers, and the vendor instructions' words.
-/

namespace Sys2Proof.Machine

/-! ### Running and retiring -/

/-- The hart executes instructions: not in reset, not stalled, not halted. -/
def Hart.runs (x : Hart) : Bool := !x.inReset && decide (x.stall = .none) && !x.halted

/-- minstret counts a retired instruction in the Open world, unless it is inhibited (R233). -/
def Hart.countRetired (x : Hart) : Hart :=
  if x.keeper || x.mcountinhibit.getLsbD 2 then x else { x with counters := tmod 0 x.counters 1 (· + 1) }

end Sys2Proof.Machine

namespace Sys2Proof

/-- Bytes of an access's instruction (R191: C). -/
def Access.length (c : Access) : Nat := if c.short then 2 else 4

end Sys2Proof

namespace Sys2Proof.Machine

/-! ### Taking an exception or an interrupt (R195, R342, R379) -/

/-- The mode that takes a trap. -/
inductive TrapTo | m | hs | vs
  deriving DecidableEq, Repr

/-- R342, R379, Table 8.7: an exception from an enclave or from M-mode goes to M-mode; from a lower mode, to M-mode unless
medeleg delegates it or the Keeper world is down, and from V = 1 to VS-mode where hedeleg delegates it further. -/
def trapTarget (down : Bool) (x : Hart) (cause : Nat) : TrapTo :=
  if x.kenc ≠ 0 ∨ x.priv = .m then .m
  else if !down && !x.medeleg.getLsbD cause then .m
  else if x.v && x.hedeleg.getLsbD cause then .vs
  else .hs

/-- Trap entry clears the reservation (R282), and no promise of R285 outlives it. -/
def Hart.loseReservation (x : Hart) : Hart := { x with reserved := none, deferring := false, looping := false, scFails := 0 }

/-- Where a trap goes: the BASE of a trap vector, or in Vectored mode for an interrupt the entry of its cause (Table 5.4). -/
def vectorTo (tvec cause : W64) : W64 :=
  let base := tvec &&& ~~~3#64
  if cause.getLsbD 63 && tvec.getLsbD 0 then base + 4 * (cause &&& ~~~(1#64 <<< 63)) else base

/-- The exceptions whose trap value is an address (Table 5.4). -/
def addressCause (cause : W64) : Bool := decide (cause.toNat ∈ [0, 1, 3, 4, 5, 6, 7, 12, 13, 15, 20, 21, 23])

/-- The hart takes a trap into a mode: its pc, cause, value, guest address and transformed instruction are saved, the mode and the
interrupt enable are saved and changed, and pc goes to the mode's trap vector. (PRESUMED, log 82.) -/
def Hart.takeTrap (x : Hart) (dst : TrapTo) (r : TrapCsrs) : Hart :=
  let y := x.loseReservation
  match dst with
  | .m => { y with mtrap := r, mpp := x.priv, mpv := x.v, mgva := x.v && addressCause r.cause, mpie := x.mieBit, mieBit := false
                   priv := .m, v := false, pc := vectorTo x.mtvec r.cause }
  | .hs => { y with strap := r, spp := decide (x.priv = .s), spv := x.v, spvp := if x.v then decide (x.priv = .s) else x.spvp
                    hgva := x.v && addressCause r.cause, spie := x.sieBit, sieBit := false, priv := .s, v := false
                    pc := vectorTo x.stvec r.cause }
  | .vs => { y with vstrap := r, vspp := decide (x.priv = .s), vspie := x.vsie, vsie := false, priv := .s, v := true,
                    pc := vectorTo x.vstvec r.cause }

/-- Of a trigger's mode bits the one for the hart's mode. -/
def Hart.modeBit (x : Hart) (t : W64) (m s u vs vu : Nat) : Bool :=
  match x.priv with
  | .m => t.getLsbD m
  | .s => t.getLsbD (if x.v then vs else s)
  | .u => t.getLsbD (if x.v then vu else u)

/-- The hart takes a breakpoint exception at its pc. -/
def Hart.breakpoint (down : Bool) (x : Hart) : Hart := x.takeTrap (trapTarget down x 3) ⟨x.pc, 3, x.pc, 0, 0⟩

/-- The icount trigger, number 6 (Table 5.4), counts a retired instruction of its modes, and fires as its count reaches 0.
(PRESUMED, log 82.) -/
def Hart.icount (down : Bool) (x : Hart) : Hart :=
  let t := (tget {} x.triggers 6).tdata1
  let n := bits t 10 14
  if n = 0 ∨ x.modeBit t 9 7 6 26 25 = false then x
  else
    let y := { x with triggers := tset {} x.triggers 6 { tget {} x.triggers 6 with tdata1 := t - 0x400#64 } }
    if n = 1 then y.breakpoint down else y

/-- The etrigger, number 7 (Table 5.4): an exception that its tdata2 names, from a mode that it names, is followed by a breakpoint
exception at the handler. `before` is the hart before the exception. (PRESUMED, log 82.) -/
def Hart.etrigger (x : Hart) (down : Bool) (before : Hart) (cause : Nat) : Hart :=
  let g := tget {} before.triggers 7
  if g.tdata2.getLsbD cause && before.modeBit g.tdata1 9 7 6 12 11 then x.breakpoint down else x

/-! ### Retiring -/

/-- pc moves on past an instruction of `n` bytes, which the icount trigger counts. -/
def Hart.pass (down : Bool) (n : Nat) (x : Hart) : Hart := { x with pc := x.pc + BitVec.ofNat 64 n }.icount down

/-- An instruction of `n` bytes retires: minstret counts it, and pc moves on. (DEDUCED, log 14; DESIGN CHOICE, log 74.) -/
def retireLen (h : HartId) (n : Nat) (s : State) : State := s.onHart h fun x => x.countRetired.pass s.kp.down n

/-- An instruction of 4 bytes that minstret has counted ends. -/
def passOn (h : HartId) (s : State) : State := s.onHart h (Hart.pass s.kp.down 4)

/-- An instruction of 4 bytes retires. -/
def retire (h : HartId) (s : State) : State := retireLen h 4 s

/-- The constrained loop of a hart is broken (R286): it defers no more, and its failures so far promise nothing. -/
def Hart.breakLoop (x : Hart) : Hart := if x.looping then { x with looping := false, deferring := false, scFails := 0 } else x

/-- Any instruction but RV64I integer ones and the SC breaks a constrained loop (R284, R286). -/
def breakLoop (h : HartId) (s : State) : State := if (s.hart h).looping then s.onHart h Hart.breakLoop else s

/-- An instruction of a hart that executes: the others do not occur. (DESIGN CHOICE, log 4.) -/
def instr (h : HartId) (f : State → State) (s : State) : State := if (s.hart h).runs then f (breakLoop h s) else s

/-! ### Raising an exception, and returning -/

/-- An exception is raised, with its trap value, and for a guest-page fault the guest physical address shifted right by 2 and the
transformed instruction (Table 5.4); VS-mode has no place for these two. (DEDUCED, log 14.) -/
def raiseGuest (h : HartId) (cause tval tval2 tinst : W64) (s : State) : State :=
  s.onHart h fun x =>
    (x.takeTrap (trapTarget s.kp.down x cause.toNat) ⟨x.pc, cause, tval, tval2, tinst⟩).etrigger s.kp.down x cause.toNat

/-- An exception that is no guest-page fault. -/
def raise (h : HartId) (cause tval : W64) (s : State) : State := raiseGuest h cause tval 0 0 s

/-- An illegal-instruction exception: its value is the instruction's bits (Table 5.4). -/
def illegal (h : HartId) (insn : W32) (s : State) : State := raise h 2 (insn.zeroExtend 64) s
/-- A virtual-instruction exception: its value is 0 (Table 5.4). -/
def virtualInstr (h : HartId) (s : State) : State := raise h 22 0 s

/-- The hart's event counters add a count (Machine/Mesh.lean), and it takes an interrupt, which event 0x10 counts (Table 5.13), in
HS-mode, or in VS-mode where `vs` says so; a stall ends. -/
def interruptTo (h : HartId) (vs : Bool) (cause : W64) (s : State) : State :=
  (countEvent h 0x10 1 s).onHart h fun x =>
    { x.takeTrap (if vs then .vs else .hs) ⟨x.pc, cause, 0, 0, 0⟩ with stall := .none }

/-- The hart enters debug mode for a cause (1 EBREAK, 3 a halt request, 4 a single step), which dcsr shows. (PRESUMED, log 64.) -/
def Hart.enterDebug (cause : Nat) (x : Hart) : Hart :=
  { x with halted := true, haltReq := false, dpc := x.pc, stall := .none
           dcsr := (x.dcsr &&& ~~~0x1C0#32) ||| BitVec.ofNat 32 (2 ^ 6 * cause) }

/-- R389: a hart that a debugger wants halted halts as it enters the Open world. -/
def Hart.enterOpen (x : Hart) : Hart := if x.haltReq && !x.keeper then x.enterDebug 3 else x

/-- MRET, SRET or a VS-mode SRET (R282, R340): the saved mode, enable and pc come back; the reservation is cleared. The dispatch
interrupt's claim ends when the handler returns through software (R418). (PRESUMED, log 82.) -/
def Hart.trapReturn (x : Hart) (frm : TrapTo) : Hart :=
  let y := x.loseReservation
  match frm with
  | .m => Hart.enterOpen { y with pc := x.mtrap.pc, priv := x.mpp, v := x.mpv && decide (x.mpp ≠ .m), mieBit := x.mpie, mpie := true, mpp := .u, mpv := false }
  | .hs => { y with pc := x.strap.pc, priv := if x.spp then .s else .u, v := x.spv, sieBit := x.spie, spie := true, spp := false, spv := false }
  | .vs => { y with pc := x.vstrap.pc, priv := if x.vspp then .s else .u, vsie := x.vspie, vspie := true, vspp := false }

/-! ### Physical ranges (§5.4) -/

/-- The ranges of Table 5.5. -/
inductive Region | dram | sram | regs | rom | outbound | vacant
  deriving DecidableEq, Repr

/-- R198: the range of an address. -/
def regionAt (a : Nat) : Region :=
  if a < 0x2000000000 then .dram
  else if 0x4000000000 ≤ a ∧ a < 0x4010000000 then .sram
  else if 0x5000000000 ≤ a ∧ a < 0x5040000000 then .regs
  else if 0x6000000000 ≤ a ∧ a < 0x6000040000 then .rom
  else if 0x10000000000 ≤ a ∧ a < 0x20000000000 then .outbound
  else .vacant

/-- The range of `n` bytes: vacant where they leave it. -/
def regionOf (a n : Nat) : Region := if regionAt a = regionAt (a + n - 1) then regionAt a else .vacant

end Sys2Proof.Machine

namespace Sys2Proof
open Machine

/-- Bytes of a width. -/
def Width.bytes : Width → Nat
  | .b1 => 1
  | .b2 => 2
  | .b4 => 4
  | .b8 => 8

/-- Naturally aligned: the page offset is the virtual address's own. -/
def Access.aligned (c : Access) : Bool := decide (c.va.toNat % c.width.bytes = 0)

end Sys2Proof

namespace Sys2Proof.Machine

/-- R195, R197: the width and alignment that Table 5.5 allows an access to a range. -/
def widthAllowed (r : Region) (c : Access) : Bool :=
  match r with
  | .dram | .rom => true
  | .sram | .regs => c.aligned && decide (4 ≤ c.width.bytes)
  | .outbound => c.aligned
  | .vacant => false

/-! ### Kinds of access, and the debug triggers (Table 5.4) -/

/-- What an access does. -/
inductive AccessKind | fetch | load | store | cbo
  deriving DecidableEq, Repr

/-- The exception codes of a kind of access: access fault, page fault and guest-page fault. A cache-block instruction faults as a
store (R219). -/
def AccessKind.accessFault : AccessKind → W64
  | .fetch => 1
  | .load => 5
  | .store | .cbo => 7
/-- The page fault of a kind. -/
def AccessKind.pageFault : AccessKind → W64
  | .fetch => 12
  | .load => 13
  | .store | .cbo => 15
/-- The guest-page fault of a kind. -/
def AccessKind.guestFault : AccessKind → W64
  | .fetch => 20
  | .load => 21
  | .store | .cbo => 23

/-- The type that trigger i has: 6 mcontrol6 (0-5), 3 icount, 5 etrigger (Table 5.4). -/
def triggerType (i : Nat) : Nat := if i < 6 then 6 else if i = 6 then 3 else 5

/-- Trigger `i` is an mcontrol6 that matches this address and kind in the hart's mode and raises a breakpoint exception.
(PRESUMED, log 82.) -/
def Hart.triggerHits (x : Hart) (k : AccessKind) (va : W64) (i : Nat) : Bool :=
  let g := tget {} x.triggers i
  let t := g.tdata1
  let mode := x.modeBit t 6 4 3 24 23
  let kind := match k with
    | .fetch => t.getLsbD 2
    | .load => t.getLsbD 0
    | .store => t.getLsbD 1
    | .cbo => false
  mode && kind && decide (bits t 12 4 = 0 ∧ bits t 7 4 = 0) && decide (g.tdata2 = va)

/-- A trigger of the hart stops this access. -/
def Hart.breaks (x : Hart) (k : AccessKind) (va : W64) : Bool :=
  !x.triggers.isEmpty && (List.range 6).any (x.triggerHits k va)

/-! ### Vendor words (R194) -/

/-- A vendor instruction given by its word: a word that the tables do not allocate raises an illegal-instruction exception; one
that spells another instruction is not this command. -/
def vendor (h : HartId) (op : VendorOp) (word : W32) (f : State → State) (s : State) : State :=
  match vendorDecode word with
  | some o => if o = op then f s else s
  | none => illegal h word s

/-- The hart as the home slices see its access (R341, R343, R346). -/
def hartAgent (s : State) (h : HartId) (inside : Bool) : Agent :=
  let x := s.hart h
  ⟨actingFn s (.hart h), x.kenc.toNat, x.keeper, decide (x.priv = .m) && inside, inside, h.val⟩

end Sys2Proof.Machine
end

