-- ==== Sys2Proof/Machine/Translate.lean ====
section
/-!
DEFINITION. Address translation and physical memory protection (05 §5.3, §5.4, §5.5): the checks on a page walk, the TLB and its
fences, PMP, and the order in which an access meets them.

A command carries what a page walk of its access finds; the walk counts only where the TLB does not hold the page.
-/

namespace Sys2Proof.Machine

/-! ### Page-table entries (R195, R206, R207) -/

/-- A non-leaf PTE that faults: not valid, or with a bit that a non-leaf PTE keeps at 0: N, PBMT, bits 60:54, D, A or U. -/
def badPath (pte : W64) : Bool :=
  !pte.getLsbD 0 || decide (bits pte 1 3 ≠ 0) || pte.getLsbD 63 || decide (bits pte 61 2 ≠ 0) || decide (bits pte 54 7 ≠ 0)
    || decide (bits pte 4 1 ≠ 0 ∨ bits pte 6 2 ≠ 0)

/-- A leaf PTE that faults whatever the access is: not valid, writable but not readable, PBMT 3, bits 60:54 not 0, an N that does
not encode 64 KiB (R206), A not set, or a superpage that is not aligned. -/
def badLeaf (w : StageWalk) : Bool :=
  let p := w.pte
  !p.getLsbD 0 || (p.getLsbD 2 && !p.getLsbD 1) || decide (bits p 54 7 ≠ 0 ∨ bits p 61 2 = 3)
    || (p.getLsbD 63 && !(decide (w.level = 0 ∧ bits p 10 4 = 8))) || !p.getLsbD 6
    || decide (bits p 10 (9 * w.level) ≠ 0)

/-- A leaf PTE that allows no access of a kind: R, W and D, or X; a cache-block instruction needs R or W (R219). `mxr` makes an
executable page readable. -/
def forbids (k : AccessKind) (mxr : Bool) (p : W64) : Bool :=
  match k with
  | .fetch => !p.getLsbD 3
  | .load => !(p.getLsbD 1 || (mxr && p.getLsbD 3))
  | .store => !(p.getLsbD 2 && p.getLsbD 7)
  | .cbo => !(p.getLsbD 1 || p.getLsbD 2)

/-- The U bit: U-mode needs it; S-mode must not have it, but for data while SUM is 1. -/
def wrongMode (x : Hart) (k : AccessKind) (p : W64) : Bool :=
  if x.priv = .u then !p.getLsbD 4 else p.getLsbD 4 && (decide (k = .fetch) || !x.sum)

/-- The first stage's walk faults. -/
def firstFaults (x : Hart) (k : AccessKind) (w : StageWalk) : Bool :=
  w.path.any badPath || badLeaf w || forbids k x.mxr w.pte || wrongMode x k w.pte
/-- The G-stage's walk faults: every access is a user access there. -/
def guestFaults (x : Hart) (k : AccessKind) (w : StageWalk) : Bool :=
  w.path.any badPath || badLeaf w || forbids k x.mxr w.pte || !w.pte.getLsbD 4

/-- What stops an access: an exception code with its second value and transformed instruction (Table 5.4). -/
structure Stop where
  cause : W64
  tval2 : W64 := 0
  tinst : W64 := 0
  deriving DecidableEq, Repr

/-- Table 5.4: the transformed instruction of a load, store or AMO: rs1 and the immediate are 0, and bit 1 where it was a
compressed one. (PRESUMED, log 82.) -/
def transformed (c : Access) : W64 :=
  let op := wOpcode c.insn
  let keep : W32 := if op = 0x03#7 ∨ op = 0x07#7 then 0x00007FFF#32
    else if op = 0x23#7 ∨ op = 0x27#7 then 0x01F0707F#32 else if op = 0x2F#7 then 0xFFF07FFF#32 else 0
  let v := c.insn &&& keep
  (if c.short then v &&& ~~~2#32 else v).zeroExtend 64

/-- R195, R206, R207, §5.11: what a walk stops an access with. A poisoned PTE gives the access fault, and then the page faults, the
first stage before the G-stage. -/
def walkFault (x : Hart) (k : AccessKind) (c : Access) (w : Walk) : Option Stop :=
  if w.poisoned then some { cause := k.accessFault }
  else if (w.first.map (firstFaults x k)) = some true then some { cause := k.pageFault }
  else if (w.guest.map (guestFaults x k)) = some true then
    some { cause := k.guestFault, tval2 := w.gpa >>> 2, tinst := if k = .fetch then 0 else transformed c }
  else none

/-! ### The TLB (R204, R205) -/

/-- 4 KiB pages of a stage's leaf: 512 to the power of its level, 16 for a NAPOT page. -/
def leafPages (w : StageWalk) : Nat := if w.pte.getLsbD 63 then 16 else 512 ^ w.level

/-- 4 KiB pages that a walk maps: those of its smaller leaf. -/
def walkPages (w : Walk) : Nat :=
  match w.first, w.guest with
  | some a, some b => min (leafPages a) (leafPages b)
  | some a, none => leafPages a
  | none, some b => leafPages b
  | none, none => 1

/-- The ASID in effect: vsatp's in VS- and VU-mode, satp's elsewhere; the VMID is hgatp's. -/
def Hart.asid (x : Hart) : BitVec 16 := (if x.v then x.vsatp else x.satp).extractLsb' 44 16
/-- The VMID in effect; 0 where V is 0. -/
def Hart.vmid (x : Hart) : BitVec 14 := if x.v then x.hgatp.extractLsb' 44 14 else 0

/-- The stage that the hart's accesses go through first. -/
def Hart.stage (x : Hart) : PteStage := if x.v then .vs else .single

/-- R204: a lookup hits only on an entry of its page, stage, ASID, VMID, world and enclave. -/
def TlbEntry.hits (e : TlbEntry) (x : Hart) (page : Nat) : Bool :=
  decide (page / walkPages e.walk = e.page / walkPages e.walk) && decide (e.walk.stage = x.stage) && decide (e.asid = x.asid)
    && decide (e.vmid = x.vmid) && (e.keeper == x.keeper) && decide (e.kenc = x.kenc)

/-- The physical address that an entry gives a virtual one. -/
def TlbEntry.address (e : TlbEntry) (va : Nat) : Nat :=
  4096 * (e.ppage / walkPages e.walk * walkPages e.walk + va / 4096 % walkPages e.walk) + va % 4096

/-- The entry that the hart's TLB holds for an access. -/
def tlbLookup (x : Hart) (c : Access) : Option TlbEntry := x.tlb.find? fun e => e.hits x (c.va.toNat / 4096)

/-- A walk that faults nothing leaves an entry with the hart's tags. An unbounded TLB holds it until a fence or a world change: what
the geometry of Table 5.7 would evict is walked again to the same end. (DESIGN CHOICE, log 75.) -/
def fillTlb (x : Hart) (c : Access) (w : Walk) : Hart :=
  { x with tlb := ⟨c.va.toNat / 4096, x.asid, x.vmid, x.keeper, x.kenc, w, c.pa.toNat / 4096⟩ :: x.tlb }

/-- The operands of a TLB fence: an address (rs1 not x0), and an ASID or VMID (rs2 not x0). -/
structure TlbFence where
  addr : Option W64 := none
  id : Option W64 := none
  deriving DecidableEq, Repr

/-- An address lies in the page of an entry. -/
def TlbEntry.covers (e : TlbEntry) (page : Nat) : Bool := decide (page / walkPages e.walk = e.page / walkPages e.walk)
/-- A global mapping, which a fence for one ASID leaves. -/
def TlbEntry.globalPage (e : TlbEntry) : Bool := (e.walk.first.map (·.pte.getLsbD 5)).getD false

/-- SFENCE.VMA at V = 0, or HFENCE.VVMA and SFENCE.VMA at V = 1 for the current VMID (R205): the entries of the stage that the
operands name, and none of another world. (PRESUMED, log 82.) -/
def Hart.fenceVma (x : Hart) (vs : Bool) (f : TlbFence) : Hart :=
  { x with tlb := x.tlb.filter fun e =>
      !((e.keeper == x.keeper) && decide (e.walk.stage = if vs then .vs else .single)
        && (!vs || decide (e.vmid = x.hgatp.extractLsb' 44 14))
        && (match f.addr with | some a => e.covers (a.toNat / 4096) | none => true)
        && (match f.id with | some i => decide (e.asid = i.extractLsb' 0 16) && !e.globalPage | none => true)) }

/-- HFENCE.GVMA (R205): the VS-stage entries of a VMID, or of all, whose guest physical address the operand, shifted right by 2,
names, and none of another world. (PRESUMED, log 82.) -/
def Hart.fenceGvma (x : Hart) (f : TlbFence) : Hart :=
  { x with tlb := x.tlb.filter fun e =>
      !((e.keeper == x.keeper) && decide (e.walk.stage = .vs)
        && (match f.addr with | some a => decide (e.walk.gpa.toNat / 4096 / walkPages e.walk = 4 * a.toNat / 4096 / walkPages e.walk) | none => true)
        && (match f.id with | some i => decide (e.vmid = i.extractLsb' 0 14) | none => true)) }

/-! ### PMP (Table 5.4, R36) -/

/-- The A field of an entry: 0 OFF, 1 TOR, 3 NAPOT. -/
def pmpMode (cfg : Byte) : Nat := bits cfg 3 2

/-- pmpaddr as it reads (Table 5.4, G = 10): bits 8:0 ones in NAPOT mode, bits 9:0 zeros in OFF and TOR modes. -/
def Hart.pmpAddr (x : Hart) (i : Nat) : W64 :=
  let a := tget 0 x.pmpaddr i
  if pmpMode (tget 0 x.pmpcfg i) = 3 then a ||| 0x1FF#64 else a &&& ~~~0x3FF#64

/-- Trailing ones of a number; `fuel` bounds the count. -/
def trailingOnes : Nat → Nat → Nat
  | 0, _ => 0
  | fuel + 1, n => if n % 2 = 1 then trailingOnes fuel (n / 2) + 1 else 0

/-- The bytes that an entry covers, from its first to below its end. -/
def Hart.pmpRange (x : Hart) (i : Nat) : Nat × Nat :=
  match pmpMode (tget 0 x.pmpcfg i) with
  | 1 => ((if i = 0 then 0 else 4 * (tget 0 x.pmpaddr (i - 1) &&& ~~~0x3FF#64).toNat), 4 * (x.pmpAddr i).toNat)
  | 3 =>
    let a := (x.pmpAddr i).toNat
    let n := 2 ^ (trailingOnes 54 a + 3)
    (4 * a / n * n, 4 * a / n * n + n)
  | _ => (0, 0)

/-- The permission of an entry for a kind: R, W or X. -/
def pmpGrants (k : AccessKind) (cfg : Byte) : Bool :=
  match k with
  | .fetch => cfg.getLsbD 2
  | .load => cfg.getLsbD 0
  | .store => cfg.getLsbD 1
  | .cbo => cfg.getLsbD 0 || cfg.getLsbD 1

/-- R36, Table 5.4: PMP lets `n` bytes at an address be accessed: the lowest entry that covers a byte decides, if it covers all of
them; M-mode is bound by locked entries alone, and without an entry only M-mode passes. -/
def pmpAllows (x : Hart) (k : AccessKind) (a n : Nat) : Bool :=
  match (List.range 16).find? fun i => decide ((x.pmpRange i).1 < a + n ∧ a < (x.pmpRange i).2) with
  | none => decide (x.priv = .m)
  | some i =>
    let cfg := tget 0 x.pmpcfg i
    decide ((x.pmpRange i).1 ≤ a ∧ a + n ≤ (x.pmpRange i).2) && (pmpGrants k cfg || (decide (x.priv = .m) && !cfg.getLsbD 7))

/-! ### An access's way to memory -/

/-- The mapping of an access as the TLB holds it, or as its walk found it. -/
def mapped (c : Access) (x : Hart) : Access :=
  match c.walk, tlbLookup x c with
  | some _, some e => { c with walk := some e.walk, pa := BitVec.ofNat 48 (e.address c.va.toNat) }
  | _, _ => c

/-- What an access meets before it reaches its range: a debug trigger, the checks of its walk, and PMP. -/
def accessStop (x : Hart) (k : AccessKind) (n : Nat) (c : Access) : Option Stop :=
  if x.breaks k c.va then some { cause := 3 }
  else match (c.walk.bind fun w => walkFault x k c w) with
    | some t => some t
    | none => if pmpAllows x k c.pa.toNat n then none else some { cause := k.accessFault }

/-- A TLB miss walks the page table: the miss and the walk are counted (Table 5.13), a poisoned PTE is a consumer's meeting with
poison (R324), and a walk that does not fault fills the TLB. -/
def walkNow (h : HartId) (k : AccessKind) (c : Access) (s : State) : State :=
  match c.walk, tlbLookup (s.hart h) c with
  | some w, none =>
    let s := countEvent h 0x09 1 (countEvent h (if k = .fetch then 0x07 else 0x08) 1 s)
    if w.poisoned then poisonConsumed s
    else if (walkFault (s.hart h) k c w).isNone then s.onHart h fun x => fillTlb x c w else s
  | _, _ => s

/-- An access of `n` bytes: the exception that stops it is raised, with the virtual address as its value (Table 5.4), or `f` goes on
with its mapping. -/
def access (h : HartId) (k : AccessKind) (n : Nat) (c : Access) (f : Access → State → State) (s : State) : State :=
  let m := mapped c (s.hart h)
  let t := if (s.hart h).breaks k c.va then s else walkNow h k c s
  match accessStop (s.hart h) k n m with
  | some e => raiseGuest h e.cause c.va e.tval2 e.tinst t
  | none => f m t

/-- R200-R202: the mapping has the streaming attribute. -/
def streaming (x : Hart) (c : Access) : Bool :=
  match c.walk with
  | none => false
  | some w =>
    let io := (w.guest.map fun g => decide (bits g.pte 61 2 = 2)).getD false
    match w.first with
    | none => false
    | some f =>
      decide (bits f.pte 61 2 = 1) && f.pte.getLsbD 8 && !io && decide (regionAt c.pa.toNat = .dram) &&
        (match w.stage with | .single => x.skulctl | .vs => x.hkulctl)

end Sys2Proof.Machine
end

