-- ==== Sys2Proof/Machine/Cores.lean ====
section
/-!
DEFINITION. Memory accesses of the Lantern cores (05 §5.7, 06): their caches, loads and stores, the store buffer and the combining
buffer, fences, atomics, cache-block instructions, and instruction fetch.
-/

namespace Sys2Proof.Machine

/-! ### L1 and L2 of a hart (§5.7) -/

/-- The set of L1D and of L1I that a virtual address indexes (Table 5.9, R215). (DESIGN CHOICE, log 78.) -/
def l1dSet (va : Nat) : Nat := va / 64 % 128
/-- The set of L1I. -/
def l1iSet (va : Nat) : Nat := va / 64 % 256

/-- A lookup of a line hits where its world and enclave are the hart's (R341). -/
def L1Line.hits (e : L1Line) (x : Hart) (l : Nat) : Bool := decide (e.line = l) && (e.keeper == x.keeper) && decide (e.kenc = x.kenc)

/-- A line takes its one place in an L1 of `ways` ways (R215): another of its set leaves where the set is full, one of lowest
replacement priority first (Table 6.1), else an open one. -/
def placeLine (ways draw : Nat) (e : L1Line) (ls : List L1Line) : List L1Line :=
  let others := ls.filter (·.line ≠ e.line)
  let mates := others.filter (·.set = e.set)
  if mates.length < ways then e :: others
  else
    let gone := ((mates.find? (·.low)).getD (mates.getD (Config.freeNat draw % mates.length) e)).line
    e :: others.filter (·.line ≠ gone)

/-- L1D takes a line; one that it holds stays as it is. -/
def fillL1d (h : HartId) (va l : Nat) (low : Bool) (s : State) : State :=
  if (s.hart h).l1d.any (·.hits (s.hart h) l) then s
  else { s with free := s.free + 1 }.onHart h fun x =>
    { x with l1d := placeLine 8 s.free ⟨l, l1dSet va, x.keeper, x.kenc, low, 0⟩ x.l1d }

/-- The hart's L2 holds a dirty copy of a line. -/
def ownsDirty (s : State) (h : HartId) (l : Nat) : Bool := (s.lineAt l).copies.any fun c => decide (c.core = h.val) && (c.st == .m || c.st == .o)

/-- R217: an error in L1D or L2: one bit is corrected and counted; two in a dirty line mark it poisoned, and a clean line goes, to be
fetched again. -/
def cacheError (h : HartId) (l : Nat) (e : BitError) (drop : State → State) (s : State) : State :=
  match e with
  | .none => s
  | .single => countEvent h 0x0E 1 s
  | .double => if ownsDirty s h l then markLine l true s else drop s

/-- R341: the hart's copy of a line with another world or enclave misses; the line goes to its home slice. -/
def dropForeign (h : HartId) (l : Nat) (s : State) : State :=
  let x := s.hart h
  if (s.lineAt l).copies.any fun c => decide (c.core = h.val) && (c.keeper != x.keeper || decide (c.kenc ≠ x.kenc)) then
    copyToL3 h.val l s else s

/-- The hart's caches are looked up for a line, with what they meet (R217); a miss of L1D counts (Table 5.13). -/
def lookUp (h : HartId) (l : Nat) (ck : CacheCheck) (s : State) : State :=
  let s := dropForeign h l (finishTxn l s)
  if (s.hart h).l1d.any (·.hits (s.hart h) l) then
    cacheError h l ck.l1 (fun t => t.onHart h fun x => { x with l1d := x.l1d.filter (·.line ≠ l) }) s
  else
    let s := countEvent h 0x02 1 s
    if (s.lineAt l).copies.any (·.core == h.val) then cacheError h l ck.l2 (dropCopy h.val l) s else s

/-- The hart's L1D and L2 come to hold a line, `unique` with the right to write it. -/
def touch (h : HartId) (unique low : Bool) (va l : Nat) (ck : CacheCheck) (s : State) : State :=
  fillL1d h va l low (obtain h.val l unique ck.home (lookUp h l ck s))

/-- A line read from the coherent source without a place in L1D or L2 (Table 6.1, R253). -/
def readThrough (h : HartId) (l : Nat) (ck : CacheCheck) (s : State) : State :=
  let s := dropForeign h l (finishTxn l s)
  if (s.lineAt l).copies.any (·.core == h.val) then s else deviceFetch h.val l ck.home (s.hart h).keeper s

/-! ### Draining (06 §6.2, §6.3) -/

/-- The agent an entry's store belongs to (R341). -/
def entryAgent (s : State) (h : HartId) (keeper : Bool) (kenc : Byte) (inside : Bool) : Agent :=
  ⟨actingFn s (.hart h), kenc.toNat, keeper, keeper && decide (kenc = 0) && inside, inside, h.val⟩

/-- The hart works for an instruction of its past, in the world and enclave that were in effect (R341), and one that has retired,
so that a reset does not discard it (R291). -/
def inWorld (h : HartId) (keeper : Bool) (kenc : Byte) (f : State → State) (s : State) : State :=
  let x := s.hart h
  let s := s.onHart h fun y =>
    { y with inReset := false, kenc := kenc
             priv := if keeper && decide (kenc = 0) then .m else if y.priv = .m then .s else y.priv }
  (f s).onHart h fun y => { y with inReset := y.inReset || x.inReset, kenc := x.kenc, priv := x.priv }

/-- The bytes of a line among some by address, as data and mask. -/
def lineMask (l : Nat) (bs : Tab Byte) : Line × BitVec 64 :=
  let mine := bs.filter fun e => decide (e.1 / 64 = l)
  (lineOf ((List.range 64).map fun i => tget 0 mine (64 * l + i)), mine.foldl (fun (m : BitVec 64) e => setBit m (e.1 % 64)) 0)

/-- One line's bytes of a DRAM store become globally visible: written with the line held Modified (R241). A forbidden
line is dropped (R30, §6.7). -/
def storeLine (h : HartId) (g : Agent) (e : SbEntry) (l : Nat) (s : State) : State :=
  if !mayReach s g (64 * l) then rangeViolation s g true (64 * l)
  else
    let p := lineMask l e.bytes
    putLine l p.1 p.2 (clearReservations l none (touch h true e.low e.va l e.cache s))

/-- The lines of a set of bytes, in ascending order. -/
def linesIn (bs : Tab Byte) : List Nat := bs.foldl (fun t e => addSorted (e.1 / 64) t) []

/-- The part of a 64-bit unit that an aligned register access covers (R887). -/
def partOf (a n : Nat) : Part := if n = 8 then .full else if a % 8 = 4 then .high else .low

/-- An I/O store is performed (R243): a register write, a write of the on-die SRAM beyond the dispatch lists (R401), or a
write to host memory. (PRESUMED, log 10.) -/
def ioStore (h : HartId) (e : SbEntry) (s : State) : State :=
  match e.bytes with
  | [] => s
  | (a, b) :: t =>
    let bs := b :: t.map (·.2)
    let v := BitVec.ofNat 64 (ofBytesLE bs)
    match regionAt a with
    | .regs => regWrite (.hart h) (a - 0x5000000000) (partOf a bs.length) v s
    | .sram =>
      if a < 0x4000180000 then (if e.keeper then s else violate s (actingFn s (.hart h)) e.kenc.toNat false true .worldAttr h.val a)
      else s.onMesh fun m => { m with sram := writeBytes m.sram a bs }
    | .outbound => (s.onHost fun x => { x with hostMem := writeBytes x.hostMem (a - 0x10000000000) bs }).emit (.outbound a v)
    | _ => s

/-- Performs a store-buffer entry in the world its instruction executed in (R341). The violation of a store that spans two lines is
one (R34). -/
def performEntry (h : HartId) (e : SbEntry) (s : State) : State :=
  inWorld h e.keeper e.kenc (fun t =>
    if e.io then ioStore h e t
    else
      let g := entryAgent t h e.keeper e.kenc e.inside
      let ls := linesIn e.bytes
      let t := (ls.filter fun l => mayReach t g (64 * l)).foldl (fun u l => storeLine h g e l u) t
      match ls.find? fun l => !mayReach t g (64 * l) with
      | some l => rangeViolation t g true (64 * l)
      | none => t) s

/-- R246: the oldest entry leaves the store buffer once it is globally visible or performed. (DEDUCED, log 68.) -/
def drainOne (h : HartId) (s : State) : State :=
  match (s.hart h).storeBuf with
  | [] => s
  | e :: rest => performEntry h e (s.onHart h fun x => { x with storeBuf := rest })

/-- Drains the `n` oldest entries, in program order. -/
def drainN (h : HartId) : Nat → State → State
  | 0, s => s
  | n + 1, s => drainN h n (drainOne h s)

/-- Drains the whole store buffer. -/
def drainAll (h : HartId) (s : State) : State := drainN h (s.hart h).storeBuf.length s

/-- Entries up to and including the youngest that `p` picks. -/
def countThrough (p : SbEntry → Bool) (b : List SbEntry) : Nat :=
  b.length - (b.reverse.takeWhile fun e => !p e).length

/-- Drains through the youngest entry that `p` picks; nothing where none is picked. (DEDUCED, log 68.) -/
def drainThrough (h : HartId) (p : SbEntry → Bool) (s : State) : State :=
  drainN h (countThrough p (s.hart h).storeBuf) s

/-- R255: a combining-buffer entry goes to its home slice as one write with its byte mask, in the world it was written in (R341);
a forbidden one is dropped and recorded (R30, R34). -/
def drainEntry (h : HartId) (e : NtEntry) (s : State) : State :=
  let s := countEvent h 0x0B 1 (s.onHart h fun x => { x with combining := x.combining.erase e })
  let g := entryAgent s h e.keeper e.kenc e.inside
  if mayReach s g (64 * e.line) then agentWriteLine g e.line e.data e.mask s else rangeViolation s g true (64 * e.line)

/-- Drains the combining-buffer entry of a line, if there is one (Table 6.2). -/
def drainLine (h : HartId) (l : Nat) (s : State) : State :=
  match (s.hart h).combining.find? (·.line == l) with
  | some e => drainEntry h e s
  | none => s

/-- Entries in ascending line address. -/
def byLine : List NtEntry → List NtEntry
  | [] => []
  | e :: t => ins e (byLine t)
where
  /-- One entry put into its place. -/
  ins (e : NtEntry) : List NtEntry → List NtEntry
    | [] => [e]
    | x :: t => if e.line ≤ x.line then e :: x :: t else x :: ins e t

/-- Drains every combining-buffer entry: all become eligible at once, so in ascending line address (R257). -/
def drainCombining (h : HartId) (s : State) : State := (byLine (s.hart h).combining).foldl (fun t e => drainEntry h e t) s

/-- R265, R291, R292: both buffers emptied. -/
def drainBoth (h : HartId) (s : State) : State := drainCombining h (drainAll h s)

/-! ### Lines that another hart defers (R285) -/

/-- The DRAM lines of the hart's store buffer, and of its combining buffer. -/
def Hart.storeLines (x : Hart) : List Nat := x.storeBuf.flatMap fun e => if e.io then [] else linesIn e.bytes
/-- The lines of the combining buffer. -/
def Hart.combiningLines (x : Hart) : List Nat := x.combining.map (·.line)

/-- An entry overlaps `n` bytes at an address. -/
def SbEntry.overlaps (e : SbEntry) (a n : Nat) : Bool := e.bytes.any fun b => decide (a ≤ b.1 ∧ b.1 < a + n)
/-- An entry holds all of `n` bytes at an address. -/
def SbEntry.covers (e : SbEntry) (a n : Nat) : Bool := (List.range n).all fun i => e.bytes.any fun b => b.1 == a + i

/-- The lines that a memory access may have to obtain: its own, and those of the stores that it may have to drain first. -/
def accessNeeds (x : Hart) (c : Access) (drains : Bool) : List Nat :=
  let a := (mapped c x).pa.toNat
  let ls := linesOf a c.width.bytes
  let own := if regionAt a = .dram then ls else []
  let held := ls.any fun l => x.storeBuf.any (·.overlaps (64 * l) 64)
  own ++ (if drains || held || decide (own = [] ∨ 64 ≤ x.storeBuf.length) then x.storeLines else [])
    ++ (if drains || decide (c.hint = .all) || streaming x (mapped c x) then x.combiningLines else [])

/-- The lines that an instruction may have to obtain. -/
def opNeeds (x : Hart) : Instr → List Nat
  | .load _ _ _ c => accessNeeds x c false
  | .store _ c _ => accessNeeds x c false
  | .amo _ _ _ c _ _ rl => accessNeeds x c rl
  | .lr _ _ c _ rl _ => accessNeeds x c rl
  | .sc _ _ c _ _ rl => accessNeeds x c rl
  | .cboClean _ c | .cboFlush _ c | .cboInval _ c | .cboZero _ c => accessNeeds x c false
  | .fence _ p q =>
    (if p.w && (q.r || q.i) || p.o && q.r then x.storeLines else []) ++ (if p.w && (q.i || q.o || q.r || q.w) then x.combiningLines else [])
  | .fenceTso _ => x.combiningLines
  | .fenceI _ => x.storeLines ++ x.combiningLines
  | _ => []

/-- The instruction needs a line that another hart defers (R285). -/
def waits (s : State) (h : HartId) (op : Instr) : Bool := (opNeeds (s.hart h) op).any fun l => deferredBy s l h.val

/-- A memory instruction of a hart that executes; where it needs a line that another hart defers, the hart stalls until the deferral
ends (R285). (DESIGN CHOICE, log 83.) -/
def memInstr (h : HartId) (op : Instr) (f : State → State) (s : State) : State :=
  if !(s.hart h).runs then s
  else if waits s h op then s.onHart h fun x => { x with stall := .line op }
  else f s

/-- STORE_BUFFER_DRAIN (R246); an entry whose line another hart defers stays (R285). -/
def execStoreBufferDrain (h : HartId) (s : State) : Host.Outcome State Fault Refusal :=
  ok s (match (s.hart h).storeBuf with
    | [] => s
    | e :: _ => if !e.io && (linesIn e.bytes).any fun l => deferredBy s l h.val then s else drainOne h s)
/-- COMBINING_BUFFER_DRAIN (R255). -/
def execCombiningBufferDrain (h : HartId) (line : LineNo) (s : State) : Host.Outcome State Fault Refusal :=
  ok s (drainLine h line.toNat s)

/-! ### Loads -/

/-- Sign- or zero-extends `n` bytes to a register. -/
def extend (signed : Bool) (n v : Nat) : W64 :=
  if signed && decide (2 ^ (8 * n - 1) ≤ v) then BitVec.ofNat 64 (v + 2 ^ 64 - 2 ^ (8 * n)) else BitVec.ofNat 64 v

/-- R248: the bytes a load forwards, if the youngest older entry that overlaps it contains them all. (DEDUCED, log 68.) -/
def forwarded (x : Hart) (a n : Nat) : Option (List Byte) :=
  match x.storeBuf.reverse.find? (·.overlaps a n) with
  | some e => if e.covers a n then some ((List.range n).map fun i => tget 0 e.bytes (a + i)) else none
  | none => none

/-- Table 6.1: the hint asks for the lowest replacement priority in L1D. -/
def Ntl.low : Ntl → Bool
  | .p1 | .pall | .s1 => true
  | .none | .all => false

/-- What a hart's access to `n` bytes of DRAM leaves in the caches, line by line: a line it may not reach is not fetched. -/
def touchLines (h : HartId) (unique allocate : Bool) (c : Access) (n : Nat) (s : State) : State :=
  let a := c.pa.toNat
  (linesOf a n).foldl (fun t l =>
    let ck := if l = a / 64 then c.cache else {}
    if !mayReach t (hartAgent t h c.fetchedInside) (64 * l) then t
    else if allocate then touch h unique (Ntl.low c.hint) (c.va.toNat + 64 * (l - a / 64)) l ck t else readThrough h l ck t) s

/-- The bytes of DRAM a hart's access reads: zero and one violation where it may not reach a line (R29); none on poison. -/
def dramRead (h : HartId) (c : Access) (unique allocate : Bool) (n : Nat) (s : State) : State × Option (List Byte) :=
  let a := c.pa.toNat
  let g := hartAgent s h c.fetchedInside
  let s := touchLines h unique allocate c n s
  let bad := (linesOf a n).find? fun l => !mayReach s g (64 * l)
  if (linesOf a n).any (fun l => mayReach s g (64 * l) && poisoned s l) then (poisonConsumed s, none)
  else
    let bs := (List.range n).map fun i => if mayReach s g (a + i) then bget s.mesh.mem (a + i) else 0
    (match bad with | some l => rangeViolation s g false (64 * l) | none => s, some bs)

/-- An I/O load (R243, R250): older I/O stores leave the buffer first. (PRESUMED, log 10.) -/
def ioLoad (h : HartId) (a n : Nat) (s : State) : State × W64 :=
  let s := drainThrough h (·.io) s
  match regionAt a with
  | .regs => regRead (.hart h) (a - 0x5000000000) (partOf a n) s
  | .sram =>
    if a < 0x4000180000 then
      (if (s.hart h).keeper then (s, Config.dispatchSram a)
       else (violate s (actingFn s (.hart h)) (s.hart h).kenc.toNat false false .worldAttr h.val a, 0))
    else (s, BitVec.ofNat 64 (ofBytesLE (readBytes s.mesh.sram a n)))
  | .outbound => (s.emit (.outbound a 0), BitVec.ofNat 64 (ofBytesLE (readBytes s.host.hostMem (a - 0x10000000000) n)))
  | _ => (s, 0)

/-- The boot ROM is KO (R198): an Open-world hart's access to it is a violation of KIND WORLD_ATTR. -/
def romDenied (h : HartId) (write : Bool) (a : Nat) (s : State) : State :=
  violate s (actingFn s (.hart h)) (s.hart h).kenc.toNat false write .worldAttr h.val a

/-- A load on its range, its mapping found: `g` puts the value into its register. -/
def loadInto (h : HartId) (g : Nat → Hart → Hart) (c : Access) (s : State) : State :=
  let a := c.pa.toNat
  let n := c.width.bytes
  let put := fun (v : Nat) (t : State) => retireLen h c.length (t.onHart h (g v))
  let r := regionOf a n
  if !widthAllowed r c then raise h 5 c.va s
  else match r with
    | .dram =>
      let s := (linesOf a n).foldl (fun t l => drainLine h l t) s
      match forwarded (s.hart h) a n with
      | some bs => put (ofBytesLE bs) s
      | none =>
        let s := drainThrough h (fun e => !e.io && e.overlaps a n) s
        let p := dramRead h c false (!(streaming (s.hart h) c) && decide (c.hint ≠ .all)) n s
        match p.2 with
        | none => raise h 5 c.va p.1
        | some bs => put (ofBytesLE bs) p.1
    | .rom =>
      if (s.hart h).keeper then
        put (ofBytesLE ((List.range n).map fun i => Config.romByte (a + i))) (fillL1d h c.va.toNat (a / 64) (Ntl.low c.hint) s)
      else put 0 (romDenied h false a s)
    | _ =>
      let p := ioLoad h a n s
      put p.2.toNat p.1

/-- LOAD on its range: an integer register takes the extended value. -/
def loadAt (h : HartId) (rd : Nat) (signed : Bool) (c : Access) (s : State) : State :=
  loadInto h (fun v x => x.setX rd (extend signed c.width.bytes v)) c s

/-- LOAD's effect. -/
def load (h : HartId) (rd : Nat) (signed : Bool) (c : Access) (s : State) : State :=
  access h .load c.width.bytes c (loadAt h rd signed) (breakLoop h s)

/-- LOAD (R197, R248-R250, R253). -/
def execLoad (h : HartId) (rd : Fin 32) (signed : Bool) (acc : Access) (s : State) : Host.Outcome State Fault Refusal :=
  ok s (memInstr h (.load h rd signed acc) (load h rd.val signed acc) s)

/-! ### Stores -/

/-- The bytes of a store by address. -/
def storeBytes (a n : Nat) (v : W64) : Tab Byte := (bytesLE n v.toNat).zipIdx.map fun e => (a + e.2, e.1)

/-- R247: both lie in one naturally aligned 8-byte word; a store that spans two words merges with none. (DESIGN CHOICE, log 68.) -/
def sameWord (e : SbEntry) (a n : Nat) : Bool :=
  e.bytes.all (fun b => decide (b.1 / 8 = a / 8)) && decide ((a + n - 1) / 8 = a / 8)

/-- R245, R247, R251: a store enters the store buffer: merged into the youngest entry, even where all 64 are in use, or behind it,
the hart stalling until the oldest entry has drained where they are. Only a store of the entry's own world and enclave merges,
since each carries its own (R341). The stalled clocks are an open number. (DEDUCED, log 68.) -/
def bufferStore (h : HartId) (io : Bool) (c : Access) (v : W64) (s : State) : State :=
  let a := c.pa.toNat
  let n := c.width.bytes
  let bs := storeBytes a n v
  let merge := match (s.hart h).storeBuf.getLast? with
    | some e => !io && !e.io && sameWord e a n && decide (e.kenc = (s.hart h).kenc) && decide (e.keeper = (s.hart h).keeper)
        && (e.inside == c.fetchedInside)
    | none => false
  if merge then
    s.onHart h fun x => { x with storeBuf := x.storeBuf.dropLast ++ (x.storeBuf.getLast?.map fun e =>
      { e with bytes := bs.foldl (fun t b => tput b.2 t b.1) e.bytes }).toList }
  else
    let s := if 64 ≤ (s.hart h).storeBuf.length then
        drainOne h (countEvent h 0x0A (Config.freeNat s.free + 1) { s with free := s.free + 1 }) else s
    s.onHart h fun x => { x with storeBuf := x.storeBuf ++ [⟨bs, io, x.keeper, x.kenc, c.fetchedInside, c.va.toNat, Ntl.low c.hint, c.cache⟩] }

/-- R254, R255: one line's part of a non-temporal store: merged into its entry, or a new one, the oldest draining where
none is free; a full entry drains at once. -/
def combineStore (h : HartId) (inside : Bool) (l : Nat) (bs : Tab Byte) (s : State) : State :=
  let p := lineMask l bs
  let add := fun (old : Line) => lineOf ((lineBytes old).zipIdx.map fun e => if p.2.getLsbD e.2 then BitVec.ofNat 8 (lineField p.1 e.2 1) else e.1)
  let s : State :=
    if (s.hart h).combining.any (·.line == l) then
      s.onHart h fun x => { x with combining := x.combining.map fun e => if e.line = l then { e with data := add e.data, mask := e.mask ||| p.2 } else e }
    else
      let s : State := if 8 ≤ (s.hart h).combining.length then
          (match (s.hart h).combining with | e :: _ => drainEntry h e s | [] => s) else s
      s.onHart h fun x => { x with combining := x.combining ++ [⟨l, add 0, p.2, x.kenc, x.keeper, inside⟩] }
  match (s.hart h).combining.find? (·.line == l) with
  | some e => if e.mask = BitVec.allOnes 64 then drainEntry h e s else s
  | none => s

/-- STORE on its range, its mapping found. A non-temporal store drains the older buffered stores to its bytes first, so that it
stays the younger (R240). -/
def storeAt (h : HartId) (v : W64) (c : Access) (s : State) : State :=
  let a := c.pa.toNat
  let n := c.width.bytes
  let r := regionOf a n
  if !widthAllowed r c || decide (r = .rom) then raise h 7 c.va s
  else if r = .dram ∧ (c.hint = .all ∨ streaming (s.hart h) c = true) then
    let s := drainThrough h (fun e => !e.io && e.overlaps a n) s
    retireLen h c.length ((linesOf a n).foldl (fun t l => combineStore h c.fetchedInside l (storeBytes a n v) t) s)
  else
    let s := if r = .dram then (linesOf a n).foldl (fun t l => drainLine h l t) s else s
    retireLen h c.length (bufferStore h (decide (r ≠ .dram)) c v s)

/-- STORE's effect. -/
def store (h : HartId) (c : Access) (v : W64) (s : State) : State :=
  access h .store c.width.bytes c (storeAt h v) (breakLoop h s)

/-- STORE (R245, R247, R251, R252, R254). -/
def execStore (h : HartId) (acc : Access) (value : W64) (s : State) : Host.Outcome State Fault Refusal :=
  ok s (memInstr h (.store h acc value) (store h acc value) s)

/-! ### Fences (§6.4) -/

/-- R259, Table 6.3, Table 6.2: what a FENCE drains. (DEDUCED, log 68.) -/
def fence (h : HartId) (p q : FenceSet) (s : State) : State :=
  let some' := q.i || q.o || q.r || q.w
  let s := if p.w && some' then drainCombining h s else s
  let s := if p.w && (q.r || q.i) then drainAll h s else s
  if p.o && q.r then drainThrough h (·.io) s else s

/-- FENCE (R259, R261). -/
def execFence (h : HartId) (pred succ : FenceSet) (s : State) : Host.Outcome State Fault Refusal :=
  ok s (memInstr h (.fence h pred succ) (fun t => retire h (fence h pred succ (breakLoop h t))) s)
/-- FENCE_TSO's effect (R260): the store buffer need not empty. -/
def fenceTso (h : HartId) (s : State) : State := fence h ⟨false, false, false, true⟩ ⟨false, false, false, true⟩ s
/-- FENCE_TSO (R260). -/
def execFenceTso (h : HartId) (s : State) : Host.Outcome State Fault Refusal :=
  ok s (memInstr h (.fenceTso h) (fun t => retire h (fenceTso h (breakLoop h t))) s)
/-- FENCE.I's effect (R263): both buffers empty, L1I invalidated, fetched instructions discarded. -/
def fenceI (h : HartId) (s : State) : State := (drainBoth h s).onHart h fun x => { x with l1i := [], prefetched := false }
/-- FENCE_I (R263). -/
def execFenceI (h : HartId) (s : State) : Host.Outcome State Fault Refusal :=
  ok s (memInstr h (.fenceI h) (fun t => retire h (fenceI h (breakLoop h t))) s)

/-! ### Atomics (§6.6) -/

/-- The value an AMO stores, at `w` bits. -/
def amoValue (op : AmoOp) (w : Nat) (old new : BitVec w) : BitVec w :=
  match op with
  | .swap => new
  | .add => old + new
  | .xor => old ^^^ new
  | .and => old &&& new
  | .or => old ||| new
  | .min => if old.toInt ≤ new.toInt then old else new
  | .max => if new.toInt ≤ old.toInt then old else new
  | .minu => if old ≤ new then old else new
  | .maxu => if new ≤ old then old else new

/-- An AMO's result on `n` bytes. -/
def amoBytes (op : AmoOp) (n old : Nat) (v : W64) : Nat :=
  if n = 4 then (amoValue op 32 (BitVec.ofNat 32 old) (BitVec.ofNat 32 v.toNat)).toNat
  else (amoValue op 64 (BitVec.ofNat 64 old) v).toNat

/-- Older stores of the hart to some bytes, and its combining entries on their lines, are performed first. -/
def settleHart (h : HartId) (a n : Nat) (s : State) : State :=
  drainThrough h (fun e => !e.io && e.overlaps a n) ((linesOf a n).foldl (fun t l => drainLine h l t) s)

/-- FENCE rw,rw, as the aq and rl bits ask for it (R279): `rl` before the access, both bits on both sides. -/
def ordered (h : HartId) (aq rl : Bool) (f : State → State) (s : State) : State :=
  let all : FenceSet := ⟨false, false, true, true⟩
  let s := f (if rl then fence h all all s else s)
  if aq && rl then fence h all all s else s

/-- An AMO on DRAM (R280): the line is obtained Modified and the operation done there; only older stores to its own bytes come
first. -/
def amoDram (h : HartId) (rd : Nat) (op : AmoOp) (v : W64) (c : Access) (s : State) : State :=
  let a := c.pa.toNat
  let n := c.width.bytes
  let s := settleHart h a n s
  let g := hartAgent s h c.fetchedInside
  if !mayReach s g a then retire h ((rangeViolation s g true a).onHart h fun x => x.setX rd 0)
  else
    let s := touchLines h true true c n s
    if poisoned s (a / 64) then raise h 7 c.va (poisonConsumed s)
    else
      let old := ofBytesLE (readBytes s.mesh.mem a n)
      let s := putLine (a / 64) (lineOf (List.replicate (a % 64) 0 ++ bytesLE n (amoBytes op n old v))) (maskOf (a % 64) n)
        (clearReservations (a / 64) none s)
      retire h (s.onHart h fun x => x.setX rd (extend true n old))

/-- An AMO on the on-die SRAM (R278); the dispatch lists give the Keeper world an open value and nothing to others (R401). -/
def amoSram (h : HartId) (rd : Nat) (op : AmoOp) (v : W64) (c : Access) (s : State) : State :=
  let a := c.pa.toNat
  let n := c.width.bytes
  let s := drainThrough h (·.io) s
  if a < 0x4000180000 then
    (if (s.hart h).keeper then retire h (s.onHart h fun x => x.setX rd (extend true n (bits (Config.dispatchSram a) 0 (8 * n))))
     else retire h ((violate s (actingFn s (.hart h)) (s.hart h).kenc.toNat false true .worldAttr h.val a).onHart h fun x => x.setX rd 0))
  else
    let old := ofBytesLE (readBytes s.mesh.sram a n)
    let s := s.onMesh fun m => { m with sram := writeBytes m.sram a (bytesLE n (amoBytes op n old v)) }
    retire h (s.onHart h fun x => x.setX rd (extend true n old))

/-- AMO on its range (R277): a misaligned one raises its exception before the range's. (DESIGN CHOICE, log 83.) -/
def amoAt (h : HartId) (rd : Nat) (op : AmoOp) (v : W64) (aq rl : Bool) (c : Access) (s : State) : State :=
  let r := regionOf c.pa.toNat c.width.bytes
  if !c.aligned then raise h 6 c.va s
  else if c.width.bytes < 4 ∨ ¬(r = .dram ∨ r = .sram) then raise h 7 c.va s
  else ordered h aq rl (if r = .dram then amoDram h rd op v c else amoSram h rd op v c) s

/-- AMO's effect (R277-R280). -/
def amo (h : HartId) (rd : Nat) (op : AmoOp) (c : Access) (v : W64) (aq rl : Bool) (s : State) : State :=
  access h .store c.width.bytes c (amoAt h rd op v aq rl) (breakLoop h s)

/-- AMO (R277-R280). -/
def execAmo (h : HartId) (rd : Fin 32) (op : AmoOp) (acc : Access) (value : W64) (aq rl : Bool) (s : State) :
    Host.Outcome State Fault Refusal := ok s (memInstr h (.amo h rd op acc value aq rl) (amo h rd.val op acc value aq rl) s)

/-- LR on its range: the granule is reserved; a constrained loop's line is held Modified and deferred (R281, R285, R287). -/
def lrDram (h : HartId) (rd : Nat) (constrained : Bool) (c : Access) (s : State) : State :=
  let a := c.pa.toNat
  let n := c.width.bytes
  let s := settleHart h (a / 64 * 64) 64 s
  let p := dramRead h c constrained true n s
  match p.2 with
  | none => raise h 5 c.va p.1
  | some bs =>
    retire h (p.1.onHart h fun x =>
      { (x.setX rd (extend true n (ofBytesLE bs))) with
        reserved := some (a / 64), resAddr := a, deferring := constrained, looping := constrained
        scFails := if constrained ∧ x.resAddr = a then x.scFails else 0 })

/-- LR's effect (R277, R279, R281). -/
def loadReserved (h : HartId) (rd : Nat) (c : Access) (aq rl constrained : Bool) (s : State) : State :=
  access h .load c.width.bytes c (fun c s =>
    if !c.aligned then raise h 4 c.va s
    else if c.width.bytes < 4 ∨ regionOf c.pa.toNat c.width.bytes ≠ .dram then raise h 5 c.va s
    else ordered h aq rl (lrDram h rd constrained c) s) s

/-- LR (R281, R284, R285). -/
def execLr (h : HartId) (rd : Fin 32) (acc : Access) (aq rl : Bool) (constrained : Bool) (s : State) : Host.Outcome State Fault Refusal :=
  ok s (memInstr h (.lr h rd acc aq rl constrained) (loadReserved h rd.val acc aq rl constrained) s)

/-- R283: whether the module fails an SC for which no event cleared the reservation; free, but not the 25th of a
constrained loop (R285). -/
def spurious (s : State) (h : HartId) : Bool :=
  Config.freeBool s.free && !((s.hart h).looping && decide (24 ≤ (s.hart h).scFails))

/-- After an SC no reservation and no deferral are left; a constrained loop's failures are counted. -/
def Hart.afterSc (x : Hart) (ok : Bool) : Hart :=
  { x with reserved := none, deferring := false, looping := false, scFails := if !ok && x.looping then x.scFails + 1 else 0 }

/-- SC on its range: it succeeds only at the address of the latest LR, compared as a physical address, with the reservation held
(R281-R283). (DESIGN CHOICE, log 83.) -/
def scDram (h : HartId) (rd : Nat) (v : W64) (c : Access) (s : State) : State :=
  let a := c.pa.toNat
  let n := c.width.bytes
  let s := settleHart h (a / 64 * 64) 64 s
  let g := hartAgent s h c.fetchedInside
  if mayReach s g a && poisoned s (a / 64) then raise h 7 c.va (poisonConsumed s)
  else
    let x := s.hart h
    let held := decide (x.reserved = some (a / 64)) && decide (x.resAddr = a) && mayReach s g a
    let fails := !held || spurious s h
    let s := { s with free := s.free + 1 }
    if fails then retire h ((countEvent h 0x0D 1 s).onHart h fun y => (y.setX rd 1).afterSc false)
    else
      let s := touchLines h true true c n s
      if poisoned s (a / 64) then raise h 7 c.va (poisonConsumed s)
      else
        let s := putLine (a / 64) (lineOf (List.replicate (a % 64) 0 ++ bytesLE n v.toNat)) (maskOf (a % 64) n)
          (clearReservations (a / 64) none s)
        retire h (s.onHart h fun y => (y.setX rd 0).afterSc true)

/-- SC's effect (R277, R279, R281-R283). -/
def storeConditional (h : HartId) (rd : Nat) (c : Access) (v : W64) (aq rl : Bool) (s : State) : State :=
  access h .store c.width.bytes c (fun c s =>
    if !c.aligned then raise h 6 c.va s
    else if c.width.bytes < 4 ∨ regionOf c.pa.toNat c.width.bytes ≠ .dram then raise h 7 c.va s
    else ordered h aq rl (scDram h rd v c) s) s

/-! ### Cache-block instructions (Table 5.10) -/

/-- The enable fields of menvcfg, senvcfg and henvcfg as one decision (R219): 0 illegal, 1 virtual-instruction, 2 allowed.
`fld` picks a field of one of them. -/
def envAllows (x : Hart) (fld : W64 → Bool) : Nat :=
  if x.priv = .m then 2
  else if !fld x.menvcfg then 0
  else if x.v && !fld x.henvcfg then 1
  else if decide (x.priv = .u) && !fld x.senvcfg then (if x.v then 1 else 0)
  else 2

/-- A cache-block instruction retires and is counted (Table 5.13). -/
def cboRetire (h : HartId) (s : State) : State := retire h (countEvent h 0x0F 1 s)

/-- A cache-block instruction: its enables, its walk, its range and the checks of enclave and world (R219, R220) stand before `f`. -/
def cbo (h : HartId) (k : AccessKind) (c : Access) (fld : W64 → Bool) (f : Region → Access → State → State) (s : State) : State :=
  let s := breakLoop h s
  match envAllows (s.hart h) fld with
  | 0 => illegal h c.insn s
  | 1 => virtualInstr h s
  | _ => access h k 1 c (fun c s =>
      let l := c.pa.toNat / 64
      match regionAt c.pa.toNat with
      | .vacant => raise h 7 c.va s
      | .dram =>
        let s := settleHart h (64 * l) 64 s
        let g := hartAgent s h c.fetchedInside
        if mayReach s g (64 * l) then f .dram c s else cboRetire h (rangeViolation s g true (64 * l))
      | .rom => if (s.hart h).keeper then f .rom c s else cboRetire h (romDenied h true c.pa.toNat s)
      | r => f r c s) s

/-- A line of the boot ROM leaves every L1. -/
def dropRom (l : Nat) (s : State) : State := forAll allHarts (fun h t => dropL1 h.val l t) s

/-- CBO.CLEAN's effect. -/
def cboClean (h : HartId) (c : Access) (s : State) : State :=
  cbo h .cbo c (·.getLsbD 6) (fun r c t => cboRetire h (if r = .dram then cleanLine (c.pa.toNat / 64) t else t)) s
/-- CBO_CLEAN (Table 5.10). -/
def execCboClean (h : HartId) (acc : Access) (s : State) : Host.Outcome State Fault Refusal :=
  ok s (memInstr h (.cboClean h acc) (cboClean h acc) s)

/-- CBO.FLUSH on a range. -/
def flushOn (h : HartId) (r : Region) (c : Access) (s : State) : State :=
  let l := c.pa.toNat / 64
  cboRetire h (match r with | .dram => flushLine l s | .rom => dropRom l s | _ => s)

/-- CBO.FLUSH's effect. -/
def cboFlush (h : HartId) (c : Access) (s : State) : State := cbo h .cbo c (·.getLsbD 6) (flushOn h) s
/-- CBO_FLUSH (Table 5.10). -/
def execCboFlush (h : HartId) (acc : Access) (s : State) : Host.Outcome State Fault Refusal :=
  ok s (memInstr h (.cboFlush h acc) (cboFlush h acc) s)

/-- R219: the fields turn a CBO.INVAL into a flush: a CBIE of 0b01 at the level that decides. -/
def invalFlushes (x : Hart) : Bool :=
  decide (x.priv ≠ .m) && (decide (bits x.menvcfg 4 2 = 1) || (x.v && decide (bits x.henvcfg 4 2 = 1)) ||
    (decide (x.priv = .u) && decide (bits x.senvcfg 4 2 = 1)))

/-- CBO.INVAL's effect. -/
def cboInval (h : HartId) (c : Access) (s : State) : State :=
  cbo h .cbo c (fun w => decide (bits w 4 2 ≠ 0)) (fun r c t =>
    if invalFlushes (t.hart h) then flushOn h r c t
    else
      let l := c.pa.toNat / 64
      cboRetire h (match r with | .dram => dropLine l t | .rom => dropRom l t | _ => t)) s
/-- CBO_INVAL (Table 5.10). -/
def execCboInval (h : HartId) (acc : Access) (s : State) : Host.Outcome State Fault Refusal :=
  ok s (memInstr h (.cboInval h acc) (cboInval h acc) s)

/-- CBO.ZERO's effect: 64 zero bytes, the line Modified in L1D; poison is cleared (R323). -/
def cboZero (h : HartId) (c : Access) (s : State) : State :=
  cbo h .store c (·.getLsbD 7) (fun r c t =>
    let l := c.pa.toNat / 64
    if r = .dram then
      cboRetire h (putLine l 0 (BitVec.allOnes 64) (clearReservations l none (touch h true (Ntl.low c.hint) c.va.toNat l c.cache t)))
    else raise h 7 c.va t) s
/-- CBO_ZERO (Table 5.10). -/
def execCboZero (h : HartId) (acc : Access) (s : State) : Host.Outcome State Fault Refusal :=
  ok s (memInstr h (.cboZero h acc) (cboZero h acc) s)

/-! ### Instruction fetch and prefetch -/

/-- What a line holds, as a fetch of it sees it. -/
def codeLine (s : State) (l : Nat) : Line :=
  if l < dramLines then lineValue s l else lineOf ((List.range 64).map fun i => Config.romByte (64 * l + i))

/-- L1I takes a line with what it now holds (R216). -/
def fillL1i (h : HartId) (va l : Nat) (s : State) : State :=
  let d := codeLine s l
  { s with free := s.free + 1 }.onHart h fun x => { x with l1i := placeLine 4 s.free ⟨l, l1iSet va, x.keeper, x.kenc, false, d⟩ x.l1i }

/-- A line of code from L1I, or through L2 into it; an error in L1I drops the line, which is fetched again (Table 5.9). None where it
is poisoned (R324). -/
def fetchLine (h : HartId) (va l : Nat) (ck : CacheCheck) (s : State) : State × Option Line :=
  match (s.hart h).l1i.find? (·.hits (s.hart h) l) with
  | some e => if ck.l1 = .none then (s, some e.data) else refill s
  | none => refill s
where
  /-- The line comes from L2 or beyond. -/
  refill (s : State) : State × Option Line :=
    let s := countEvent h 0x01 1 s
    if l < dramLines then
      let s := obtain h.val l false ck.home (dropForeign h l (finishTxn l s))
      if poisoned s l then (poisonConsumed s, none) else (fillL1i h va l s, some (codeLine s l))
    else (fillL1i h va l s, some (codeLine s l))

/-- R347: an enclave's hart fetches inside its own ranges alone. -/
def fetchAllowed (s : State) (h : HartId) (a : Nat) : Bool :=
  decide ((s.hart h).kenc = 0) || inEnclave s (s.hart h).kenc.toNat a

/-- An instruction fetch of `n` bytes (2 or 4) that lie in one line: from DRAM or the boot ROM alone (R197), whole as the line stands
in L1I (R238, R264); the exception that stops it is raised, and then nothing is fetched. -/
def fetch (h : HartId) (n : Nat) (c : Access) (s : State) : State × List Byte :=
  let m := mapped c (s.hart h)
  let a := m.pa.toNat
  let t := walkNow h .fetch c s
  match accessStop (s.hart h) .fetch n m with
  | some e => (raiseGuest h e.cause c.va e.tval2 e.tinst t, [])
  | none =>
    let r := regionOf a n
    if ¬(r = .dram ∨ r = .rom) ∨ fetchAllowed t h a = false then (raise h 1 c.va t, [])
    else
      let g := hartAgent t h true
      let zero := List.replicate n (0 : Byte)
      if r = .dram ∧ mayReach t g a = false then (rangeViolation t g false a, zero)
      else if r = .rom ∧ (t.hart h).keeper = false then (romDenied h false a t, zero)
      else
        let p := fetchLine h c.va.toNat (a / 64) c.cache t
        match p.2 with
        | none => (raise h 1 c.va p.1, [])
        | some d => (p.1, ((lineBytes d).drop (a % 64)).take n)

/-- A prefetch's kind of access. -/
def prefetchKind : PrefetchKind → AccessKind
  | .i => .fetch
  | .r => .load
  | .w => .store

/-- PREFETCH's effect: into L1I, L1D, or L1D with write intent; nothing on an I/O range, where its walk faults, where PMP forbids
it, or where another hart defers the line, and never a fault. -/
def prefetchLine (h : HartId) (k : PrefetchKind) (c : Access) (s : State) : State :=
  let m := mapped c (s.hart h)
  let l := m.pa.toNat / 64
  let t := walkNow h (prefetchKind k) c s
  if (accessStop (s.hart h) (prefetchKind k) 1 m).isSome then t
  else match regionAt m.pa.toNat with
    | .dram =>
      let g := hartAgent t h m.fetchedInside
      if !mayReach t g (64 * l) then rangeViolation t g false (64 * l)
      else if deferredBy t l h.val then t
      else match k with
        | .i => fillL1i h m.va.toNat l (obtain h.val l false m.cache.home (dropForeign h l (finishTxn l t)))
        | .r => touch h false (Ntl.low m.hint) m.va.toNat l m.cache t
        | .w => touch h true (Ntl.low m.hint) m.va.toNat l m.cache t
    | .rom =>
      if (t.hart h).keeper then (match k with | .i => fillL1i h m.va.toNat l t | _ => fillL1d h m.va.toNat l (Ntl.low m.hint) t)
      else romDenied h false m.pa.toNat t
    | _ => t

/-- PREFETCH (Table 5.10). -/
def execPrefetch (h : HartId) (kind : PrefetchKind) (acc : Access) (s : State) : Host.Outcome State Fault Refusal :=
  ok s (instr h (fun t => cboRetire h (prefetchLine h kind acc t)) s)

/-! ### The end of a deferral (R285) -/

/-- The effect of an instruction that can wait for a line. -/
def lineOp (op : Instr) (s : State) : State :=
  match op with
  | .load h rd signed c => load h rd.val signed c s
  | .store h c v => store h c v s
  | .amo h rd o c v aq rl => amo h rd.val o c v aq rl s
  | .lr h rd c aq rl k => loadReserved h rd.val c aq rl k s
  | .sc h rd c v aq rl => storeConditional h rd.val c v aq rl s
  | .fence h p q => retire h (fence h p q (breakLoop h s))
  | .fenceTso h => retire h (fenceTso h (breakLoop h s))
  | .fenceI h => retire h (fenceI h (breakLoop h s))
  | .cboClean h c => cboClean h c s
  | .cboFlush h c => cboFlush h c s
  | .cboInval h c => cboInval h c s
  | .cboZero h c => cboZero h c s
  | _ => s

/-- A hart that waits for a line goes on once nobody defers it. -/
def wakeLine (h : HartId) (s : State) : State :=
  match (s.hart h).stall with
  | .line op => if waits s h op then s else lineOp op (s.onHart h fun x => { x with stall := .none })
  | _ => s

/-- What waited for a deferral goes on: the writes of device agents, then the harts in ascending number. (DESIGN CHOICE, log 83.) -/
def wakeAll (s : State) : State := forAll allHarts wakeLine (releaseWrites s)

/-- SC (R281-R283); its end ends the deferral (R285). -/
def execSc (h : HartId) (rd : Fin 32) (acc : Access) (value : W64) (aq rl : Bool) (s : State) : Host.Outcome State Fault Refusal :=
  ok s (memInstr h (.sc h rd acc value aq rl) (fun t => wakeAll (storeConditional h rd.val acc value aq rl t)) s)

/-- LR_DEFERRAL_TIMEOUT (R285): the deferral ends, the reservation stays. A loop that has failed 24 times is not interrupted so: its
25th SC succeeds. (DEDUCED, log 83.) -/
def lrTimeout (h : HartId) (s : State) : State :=
  if (s.hart h).looping ∧ 24 ≤ (s.hart h).scFails then s
  else wakeAll (s.onHart h fun x => { x with deferring := false })
/-- LR_DEFERRAL_TIMEOUT (R285). -/
def execLrDeferralTimeout (h : HartId) (s : State) : Host.Outcome State Fault Refusal := ok s (lrTimeout h s)

end Sys2Proof.Machine
end

