-- ==== Sys2Proof/Machine/Csrs.lean ====
section
/-!
DEFINITION. The control and status registers of a hart (05 §5.2, §5.3, §5.10, 09 Table 9.1): what each reads as, who reaches it,
what a write leaves in it, and the rows that write one; the predictor, PRED.FLUSH and PRED.BAR, PAUSE and WFI.
-/

namespace Sys2Proof.Machine

/-! ### Who reaches a CSR -/

/-- The exception that a CSR access raises. -/
inductive CsrFault | illegal | virtual
  deriving DecidableEq, Repr

/-- The counters by their bit of the enable registers: cycle, time, instret and the event counters 3-10 (§5.10). -/
def counterBit (n : Nat) : Option Nat := if 0xC00 ≤ n ∧ n ≤ 0xC0A then some (n - 0xC00) else none

/-- mcounteren, scounteren and hcounteren let a lower mode read a counter, as the privileged specification defines. -/
def counterFault (x : Hart) (b : Nat) : Option CsrFault :=
  if x.priv = .m then none
  else if !x.mcounteren.getLsbD b then some .illegal
  else if x.v && !x.hcounteren.getLsbD b then some .virtual
  else if decide (x.priv = .u) && !x.scounteren.getLsbD b then some (if x.v then .virtual else .illegal)
  else none

/-- R191: Sstc: stimecmp needs menvcfg.STCE and mcounteren.TM below M-mode, and in a guest henvcfg.STCE and hcounteren.TM. -/
def stimecmpFault (x : Hart) : Option CsrFault :=
  if x.priv = .m then none
  else if !x.menvcfg.getLsbD 63 || !x.mcounteren.getLsbD 1 then some .illegal
  else if x.v && (!x.henvcfg.getLsbD 63 || !x.hcounteren.getLsbD 1) then some .virtual
  else none

/-- The vendor CSRs have no VS-mode counterpart: from V = 1 they are a virtual-instruction exception (R203, R400). -/
def vendorCsr (n : Nat) : Bool := decide (n = 0x5C0 ∨ n = 0x6C0 ∨ n = 0x6C1)

/-- Floating point is off (mstatus.FS, and in a guest vsstatus.FS). -/
def Hart.fpOff (x : Hart) : Bool := decide (x.fs = 0) || (x.v && decide (x.vsFs = 0))
/-- The floating-point state is written: FS becomes Dirty. -/
def Hart.fpDirty (x : Hart) : Hart := { x with fs := 3, vsFs := if x.v then 3 else x.vsFs }

/-- The exception of a CSR access, by the mode that the number names, a read-only number that is written, and the rules of single
registers; none where the access is made. (PRESUMED, log 82.) -/
def csrFault (x : Hart) (n : Nat) (write : Bool) : Option CsrFault :=
  let level := n / 256 % 4
  if write && decide (n / 1024 % 4 = 3) then some .illegal
  else if level = 3 then (if x.priv = .m then none else some .illegal)
  else if level = 2 ∨ vendorCsr n then
    (if x.priv = .m then none
     else if !x.v && decide (x.priv = .s) then none
     else some (if x.v then .virtual else .illegal))
  else if level = 1 then
    (if x.priv = .u then some (if x.v then .virtual else .illegal)
     else if n = 0x180 ∧ x.priv = .s then (if x.v then (if x.vtvm then some .virtual else none) else if x.tvm then some .illegal else none)
     else if n = 0x14D then stimecmpFault x
     else none)
  else if 1 ≤ n ∧ n ≤ 3 then (if x.fpOff then some .illegal else none)
  else if n = 0x015 then (if x.priv = .m then none else some .illegal)
  else (counterBit n).bind (counterFault x)

/-- In VS-mode an S-level CSR number names the VS register behind it, as the privileged specification defines. -/
def guestNumber (x : Hart) (n : Nat) : Nat :=
  if x.v && decide (x.priv = .s) then
    (if n ∈ [0x100, 0x104, 0x105, 0x140, 0x141, 0x142, 0x143, 0x144, 0x14D, 0x180] then n + 0x100 else n)
  else n

/-! ### Values that are not stored as they are written (Table 5.4) -/

/-- Table 5.4: the value a trap-vector register takes: Direct keeps 4-byte alignment, Vectored 256-byte alignment, and
another MODE leaves the register. -/
def tvecValue (old v : W64) : W64 :=
  if bits v 0 2 = 0 then v &&& ~~~3#64 else if bits v 0 2 = 1 then (v &&& ~~~0xFF#64) ||| 1#64 else old

/-- Table 5.4: Bare, Sv39 (8) and Sv48 (9); another MODE leaves the register unchanged. VMIDLEN is 14 bits. -/
def atpValue (reg : AtpReg) (old v : W64) : W64 :=
  if bits v 60 4 = 0 ∨ bits v 60 4 = 8 ∨ bits v 60 4 = 9 then
    (match reg with | .hgatp => v &&& ~~~0x0C00000000000000#64 | _ => v)
  else old

/-- Table 5.4: NA4 in an A field stores OFF. -/
def pmpcfgValue (v : Byte) : Byte := if bits v 3 2 = 2 then v &&& 0xE7#8 else v

/-- A PMP entry's configuration; a locked entry keeps its value, as the privileged specification defines. -/
def Hart.setPmpcfg (x : Hart) (i : Nat) (v : Byte) : Hart :=
  if (tget 0 x.pmpcfg i).getLsbD 7 then x else { x with pmpcfg := tset 0 x.pmpcfg i (pmpcfgValue v) }

/-- A PMP entry's address: PA[47:2]; locked with its entry, or with the next one where that is a locked TOR. -/
def Hart.setPmpaddr (x : Hart) (i : Nat) (v : W64) : Hart :=
  let next := tget 0 x.pmpcfg (i + 1)
  if (tget 0 x.pmpcfg i).getLsbD 7 ∨ (next.getLsbD 7 = true ∧ pmpMode next = 1) then x
  else { x with pmpaddr := tset 0 x.pmpaddr i (v &&& 0x00003FFFFFFFFFFF#64) }

/-- R235: a code that Table 5.13 does not list stores 0. -/
def eventCode (v : W64) : W64 := if v.toNat ≤ 0x11 then v else 0

/-- §5.10: the bits of the implemented counters. -/
def counterMask : W32 := 0x7FF#32
/-- Table 5.4: the writable bits of mcountinhibit. -/
def inhibitMask : W32 := 0x7FD#32

/-! ### IMSIC registers behind siselect and miselect (Smaia, Ssaia) -/

/-- What an indirect register of an interrupt file reads as: eidelivery, eithreshold, eip and eie by 64 identities. -/
def ImsicFile.read (f : ImsicFile) (sel : Nat) : W64 :=
  if sel = 0x70 then (if f.delivery then 1 else 0)
  else if sel = 0x72 then BitVec.ofNat 64 f.threshold
  else if 0x80 ≤ sel ∧ sel < 0x88 ∧ sel % 2 = 0 then f.pend.extractLsb' (32 * (sel - 0x80)) 64
  else if 0xC0 ≤ sel ∧ sel < 0xC8 ∧ sel % 2 = 0 then f.enable.extractLsb' (32 * (sel - 0xC0)) 64
  else 0

/-- 64 bits of a wide field replaced; identity 0 does not exist (R208). -/
def putWord (x : BitVec 256) (i : Nat) (v : W64) : BitVec 256 :=
  ((x &&& ~~~((BitVec.allOnes 64).zeroExtend 256 <<< i)) ||| (v.zeroExtend 256 <<< i)) &&& ~~~1#256

/-- A write of an indirect register of an interrupt file. -/
def ImsicFile.write (f : ImsicFile) (sel : Nat) (v : W64) : ImsicFile :=
  if sel = 0x70 then { f with delivery := v.getLsbD 0 }
  else if sel = 0x72 then { f with threshold := bits v 0 8 }
  else if 0x80 ≤ sel ∧ sel < 0x88 ∧ sel % 2 = 0 then { f with pend := putWord f.pend (32 * (sel - 0x80)) v }
  else if 0xC0 ≤ sel ∧ sel < 0xC8 ∧ sel % 2 = 0 then { f with enable := putWord f.enable (32 * (sel - 0xC0)) v }
  else f

/-- The most urgent identity that a file would deliver, which mtopei and stopei show. -/
def ImsicFile.top (f : ImsicFile) : Nat :=
  ((List.range 256).find? fun i => (f.pend &&& f.enable).getLsbD i && (decide (f.threshold = 0) || decide (i < f.threshold))).getD 0

/-- The file behind an indirect register number: the M-level file, the S-level file, or the guest file that VGEIN names. -/
def selectFile (x : Hart) (n : Nat) : Option (Nat × Nat) :=
  if n = 0x351 ∨ n = 0x35C then some (8, 0x350)
  else if n = 0x151 ∨ n = 0x15C then some (if x.v then (x.vgein.toNat, 0x250) else (0, 0x150))
  else none

/-! ### What a CSR reads as -/

/-- R193, Table 5.2. -/
def identity (h : HartId) (n : Nat) : Option W64 :=
  match n with
  | 0xF11 => some 0x142B
  | 0xF12 => some 0x8000000000004B64
  | 0xF13 => some 0x100
  | 0xF14 => some (BitVec.ofNat 64 h.val)
  | 0xF15 => some 0
  | _ => none

/-- Bits at their places, as a register. -/
def word (fs : List (Nat × Bool)) : W64 := fs.foldl (fun w f => setBitIf f.2 w f.1) 0

/-- A mode's two bits. -/
def Priv.code : Priv → Nat
  | .u => 0
  | .s => 1
  | .m => 3

/-- mstatus: XLEN 64 in every mode, little-endian (Table 5.4). -/
def Hart.mstatus (x : Hart) : W64 :=
  word [(1, x.sieBit), (3, x.mieBit), (5, x.spie), (7, x.mpie), (8, x.spp), (18, x.sum), (19, x.mxr), (20, x.tvm), (21, x.tw), (22, x.tsr),
    (33, true), (35, true), (38, x.mgva), (39, x.mpv), (63, decide (x.fs = 3))]
    ||| BitVec.ofNat 64 (2 ^ 11 * Priv.code x.mpp + 2 ^ 13 * x.fs.toNat)
/-- sstatus, the S-mode view of mstatus. -/
def Hart.sstatus (x : Hart) : W64 := x.mstatus &&& 0x80000003000DE762#64
/-- vsstatus. -/
def Hart.vsstatus (x : Hart) : W64 :=
  word [(1, x.vsie), (5, x.vspie), (8, x.vspp), (33, true), (63, decide (x.vsFs = 3))] ||| BitVec.ofNat 64 (2 ^ 13 * x.vsFs.toNat)
/-- hstatus. -/
def Hart.hstatus (x : Hart) : W64 :=
  word [(6, x.hgva), (7, x.spv), (8, x.spvp), (9, x.hu), (20, x.vtvm), (21, x.vtw), (22, x.vtsr), (33, true)] ||| BitVec.ofNat 64 (2 ^ 12 * x.vgein.toNat)

/-- misa (R192). -/
def misa : W64 := 0x80000000009411AD

/-- R93, R234: the time CSR reads CT, in both worlds; with V = 1, CT and htimedelta. -/
def timeCsr (s : State) (x : Hart) : W64 := if x.v then s.ct.now + x.htimedelta else s.ct.now

/-- The CSRs of floating point, the supervisor and the guest. -/
def csrLow (x : Hart) (n : Nat) : Option W64 :=
  match n with
  | 0x001 => some ((x.fcsr.extractLsb' 0 5).zeroExtend 64)
  | 0x002 => some ((x.fcsr.extractLsb' 5 3).zeroExtend 64)
  | 0x003 => some ((x.fcsr.extractLsb' 0 8).zeroExtend 64)
  | 0x100 => some x.sstatus
  | 0x104 => some (x.mie &&& 0x222#64)
  | 0x105 => some x.stvec
  | 0x106 => some (x.scounteren.zeroExtend 64)
  | 0x10A => some x.senvcfg
  | 0x141 => some x.strap.pc
  | 0x142 => some x.strap.cause
  | 0x143 => some x.strap.tval
  | 0x144 => some (x.mip &&& 0x222#64)
  | 0x14D => some x.stimecmp
  | 0x180 => some x.satp
  | 0x200 => some x.vsstatus
  | 0x204 => some ((x.mie >>> 1) &&& 0x222#64)
  | 0x205 => some x.vstvec
  | 0x241 => some x.vstrap.pc
  | 0x242 => some x.vstrap.cause
  | 0x243 => some x.vstrap.tval
  | 0x244 => some ((x.mip >>> 1) &&& 0x222#64)
  | 0x24D => some x.vstimecmp
  | 0x280 => some x.vsatp
  | 0x600 => some x.hstatus
  | 0x602 => some x.hedeleg
  | 0x604 => some (x.mie &&& 0x1444#64)
  | 0x605 => some x.htimedelta
  | 0x606 => some (x.hcounteren.zeroExtend 64)
  | 0x607 => some (x.hgeie.zeroExtend 64)
  | 0x60A => some x.henvcfg
  | 0x643 => some x.strap.tval2
  | 0x644 => some (x.mip &&& 0x1444#64)
  | 0x64A => some x.strap.tinst
  | 0x680 => some x.hgatp
  | 0xE12 => some (word ((List.range 7).map fun i => (i + 1, (x.file (i + 1)).wants)))
  | _ => none

/-- The CSRs of M-mode, the vendor's, and the counters. -/
def csrHigh (s : State) (h : HartId) (n : Nat) : Option W64 :=
  let x := s.hart h
  match n with
  | 0x300 => some x.mstatus
  | 0x301 => some misa
  | 0x302 => some x.medeleg
  | 0x304 => some x.mie
  | 0x305 => some x.mtvec
  | 0x306 => some (x.mcounteren.zeroExtend 64)
  | 0x30A => some x.menvcfg
  | 0x320 => some (x.mcountinhibit.zeroExtend 64)
  | 0x341 => some x.mtrap.pc
  | 0x342 => some x.mtrap.cause
  | 0x343 => some x.mtrap.tval
  | 0x344 => some x.mip
  | 0x34A => some x.mtrap.tinst
  | 0x34B => some x.mtrap.tval2
  | 0x5C0 => some (word [(0, x.skulctl)])
  | 0x6C0 => some (word [(0, x.hkulctl)])
  | 0x6C1 => some (BitVec.ofNat 64 (x.bind.domain.toNat + 2 ^ 8 * bit x.bind.en + 2 ^ 9 * x.bind.file.toNat + 2 ^ 16 * x.bind.runprio
      + 2 ^ 21 * bit x.waiting.isSome + 2 ^ 22 * bit x.bind.claimed.isSome))
  | 0x747 => some 0
  | 0x7A0 => some (x.tselect.zeroExtend 64)
  | 0x7A1 => some ((tget {} x.triggers x.tselect.toNat).tdata1 ||| BitVec.ofNat 64 (2 ^ 60 * triggerType x.tselect.toNat))
  | 0x7A2 => some (tget {} x.triggers x.tselect.toNat).tdata2
  | 0xC01 => some (timeCsr s x)
  | _ => none

/-- The tables of CSRs: PMP, the events and the counters; those beyond event counter 10 read 0 (Table 5.4). -/
def csrTable (x : Hart) (n : Nat) : Option W64 :=
  if n = 0x3A0 ∨ n = 0x3A2 then
    some (BitVec.ofNat 64 (ofBytesLE ((List.range 8).map fun i => tget 0 x.pmpcfg (8 * ((n - 0x3A0) / 2) + i))))
  else if 0x3B0 ≤ n ∧ n ≤ 0x3BF then some (x.pmpAddr (n - 0x3B0))
  else if 0x323 ≤ n ∧ n ≤ 0x33F then some (if n ≤ 0x32A then tget 0 x.mhpmevent (n - 0x323) else 0)
  else if n = 0xB00 ∨ n = 0xC00 then some (tget 0 x.counters 0)
  else if 0xB02 ≤ n ∧ n ≤ 0xB1F then some (if n ≤ 0xB0A then tget 0 x.counters (n - 0xB01) else 0)
  else if 0xC02 ≤ n ∧ n ≤ 0xC1F then some (if n ≤ 0xC0A then tget 0 x.counters (n - 0xC01) else 0)
  else none

/-- The CSRs that only hold what is written: the scratch registers, the delegation of interrupts, the indirect selectors, hvip and the
trigger context. -/
def storedCsr (n : Nat) : Bool :=
  decide (n ∈ [0x140, 0x240, 0x340, 0x303, 0x603, 0x645, 0x150, 0x250, 0x350, 0x7A8, 0x5A8])

/-- What a CSR of hart `h` reads as; none where the number names none. -/
def csrRead (s : State) (h : HartId) (n : Nat) : Option W64 :=
  let x := s.hart h
  let n := guestNumber x n
  if storedCsr n then some (tget 0 x.csrs n)
  else match identity h n with
    | some v => some v
    | none => match csrLow x n with
      | some v => some v
      | none => match csrHigh s h n with
        | some v => some v
        | none => match selectFile x n with
          | some (f, sel) =>
            some (if n % 16 = 0xC then BitVec.ofNat 64 ((x.file f).top * 65537) else (x.file f).read (tget 0 x.csrs sel).toNat)
          | none => csrTable x n

/-! ### What a write leaves -/

/-- The writable fields of mstatus, `m`, or of its S-mode view. -/
def Hart.setStatus (x : Hart) (m : Bool) (v : W64) : Hart :=
  let y := { x with sieBit := v.getLsbD 1, spie := v.getLsbD 5, spp := v.getLsbD 8, fs := v.extractLsb' 13 2
                    sum := v.getLsbD 18, mxr := v.getLsbD 19 }
  if m then { y with mieBit := v.getLsbD 3, mpie := v.getLsbD 7, tvm := v.getLsbD 20, tw := v.getLsbD 21, mpv := v.getLsbD 39, tsr := v.getLsbD 22, mgva := v.getLsbD 38
                     mpp := match bits v 11 2 with | 0 => .u | 1 => .s | 3 => .m | _ => x.mpp }
  else y

/-- Bits of a register taken from a write under a mask. -/
def merge (old v mask : W64) : W64 := (old &&& ~~~mask) ||| (v &&& mask)

/-- The CSRs of floating point, the supervisor and the guest take a write. -/
def Hart.writeLow (x : Hart) (n : Nat) (v : W64) : Hart :=
  match n with
  | 0x001 => { x.fpDirty with fcsr := (x.fcsr &&& ~~~0x1F#32) ||| ((v.truncate 32) &&& 0x1F#32) }
  | 0x002 => { x.fpDirty with fcsr := (x.fcsr &&& ~~~0xE0#32) ||| (((v <<< 5).truncate 32) &&& 0xE0#32) }
  | 0x003 => { x.fpDirty with fcsr := (v.truncate 32) &&& 0xFF#32 }
  | 0x100 => x.setStatus false v
  | 0x104 => { x with mie := merge x.mie v 0x222#64 }
  | 0x105 => { x with stvec := tvecValue x.stvec v }
  | 0x106 => { x with scounteren := (v.truncate 32) &&& counterMask }
  | 0x10A => { x with senvcfg := v }
  | 0x141 => { x with strap := { x.strap with pc := v &&& ~~~1#64 } }
  | 0x142 => { x with strap := { x.strap with cause := v } }
  | 0x143 => { x with strap := { x.strap with tval := v } }
  | 0x144 => { x with mip := merge x.mip v 0x2#64 }
  | 0x14D => { x with stimecmp := v }
  | 0x180 => { x with satp := atpValue .satp x.satp v }
  | 0x200 => { x with vsie := v.getLsbD 1, vspie := v.getLsbD 5, vspp := v.getLsbD 8, vsFs := v.extractLsb' 13 2 }
  | 0x204 => { x with mie := merge x.mie (v <<< 1) 0x444#64 }
  | 0x205 => { x with vstvec := tvecValue x.vstvec v }
  | 0x241 => { x with vstrap := { x.vstrap with pc := v &&& ~~~1#64 } }
  | 0x242 => { x with vstrap := { x.vstrap with cause := v } }
  | 0x243 => { x with vstrap := { x.vstrap with tval := v } }
  | 0x244 => { x with mip := merge x.mip (v <<< 1) 0x4#64 }
  | 0x24D => { x with vstimecmp := v }
  | 0x280 => { x with vsatp := atpValue .vsatp x.vsatp v }
  | 0x600 => { x with
      spv := v.getLsbD 7, vtvm := v.getLsbD 20, vtw := v.getLsbD 21, vgein := v.extractLsb' 12 3
      hgva := v.getLsbD 6, spvp := v.getLsbD 8, hu := v.getLsbD 9, vtsr := v.getLsbD 22 }
  | 0x602 => { x with hedeleg := v }
  | 0x604 => { x with mie := merge x.mie v 0x1444#64 }
  | 0x605 => { x with htimedelta := v }
  | 0x606 => { x with hcounteren := (v.truncate 32) &&& counterMask }
  | 0x607 => { x with hgeie := (v.truncate 8) &&& 0xFE#8 }
  | 0x60A => { x with henvcfg := v }
  | 0x643 => { x with strap := { x.strap with tval2 := v } }
  | 0x64A => { x with strap := { x.strap with tinst := v } }
  | 0x680 => { x with hgatp := atpValue .hgatp x.hgatp v }
  | _ => x

/-- The CSRs of M-mode and the vendor's take a write; a write to misa has no effect (R192), and one to hkuldisp sets RUNPRIO to 16
and clears CLAIMED (R400). -/
def Hart.writeHigh (x : Hart) (n : Nat) (v : W64) : Hart :=
  match n with
  | 0x300 => x.setStatus true v
  | 0x302 => { x with medeleg := v }
  | 0x304 => { x with mie := v &&& 0x1EEE#64 }
  | 0x305 => { x with mtvec := tvecValue x.mtvec v }
  | 0x306 => { x with mcounteren := (v.truncate 32) &&& counterMask }
  | 0x30A => { x with menvcfg := v }
  | 0x320 => { x with mcountinhibit := (v.truncate 32) &&& inhibitMask }
  | 0x341 => { x with mtrap := { x.mtrap with pc := v &&& ~~~1#64 } }
  | 0x342 => { x with mtrap := { x.mtrap with cause := v } }
  | 0x343 => { x with mtrap := { x.mtrap with tval := v } }
  | 0x344 => { x with mip := merge x.mip v 0x226#64 }
  | 0x34A => { x with mtrap := { x.mtrap with tinst := v } }
  | 0x34B => { x with mtrap := { x.mtrap with tval2 := v } }
  | 0x5C0 => { x with skulctl := v.getLsbD 0 }
  | 0x6C0 => { x with hkulctl := v.getLsbD 0 }
  | 0x6C1 => { x with bind := { domain := v.extractLsb' 0 8, en := v.getLsbD 8, file := v.extractLsb' 9 3 } }
  | 0x7A0 => { x with tselect := v.extractLsb' 0 3 }
  | 0x7A1 => { x with triggers := tmod {} x.triggers x.tselect.toNat fun t => { t with tdata1 := v &&& 0x07FFFFFFFFFFFFFF#64 } }
  | 0x7A2 => { x with triggers := tmod {} x.triggers x.tselect.toNat fun t => { t with tdata2 := v } }
  | _ => x

/-- The tables of CSRs take a write. -/
def Hart.writeTable (x : Hart) (n : Nat) (v : W64) : Hart :=
  if n = 0x3A0 ∨ n = 0x3A2 then
    (List.range 8).foldl (fun y i => y.setPmpcfg (8 * ((n - 0x3A0) / 2) + i) (v.extractLsb' (8 * i) 8)) x
  else if 0x3B0 ≤ n ∧ n ≤ 0x3BF then x.setPmpaddr (n - 0x3B0) v
  else if 0x323 ≤ n ∧ n ≤ 0x32A then { x with mhpmevent := tset 0 x.mhpmevent (n - 0x323) (eventCode v) }
  else if n = 0xB00 then { x with counters := tset 0 x.counters 0 v }
  else if 0xB02 ≤ n ∧ n ≤ 0xB0A then { x with counters := tset 0 x.counters (n - 0xB01) v }
  else x

/-- An indirect register, or a claim by a write of mtopei or stopei, of the file behind a number. -/
def Hart.writeFile (x : Hart) (n f sel : Nat) (v : W64) : Hart :=
  Hart.externals { x with imsic := tmod {} x.imsic f fun g =>
    if n % 16 = 0xC then { g with pend := clearBit g.pend g.top } else g.write (tget 0 x.csrs sel).toNat v }

/-- What a write of a CSR leaves in the hart. -/
def Hart.writeCsr (x : Hart) (n : Nat) (v : W64) : Hart :=
  let n := guestNumber x n
  if storedCsr n then { x with csrs := tset 0 x.csrs n v }
  else match selectFile x n with
    | some (f, sel) => x.writeFile n f sel v
    | none => if n < 0x300 ∨ (0x600 ≤ n ∧ n < 0x6C0) then x.writeLow n v
              else if n ∈ [0x300, 0x302, 0x304, 0x305, 0x306, 0x30A, 0x320, 0x341, 0x342, 0x343, 0x344, 0x34A, 0x34B, 0x5C0, 0x6C0, 0x6C1,
                0x7A0, 0x7A1, 0x7A2] then x.writeHigh n v
              else x.writeTable n v

/-- A write of a CSR: a new compare value or offset is compared at once (R212), and enabled interrupts that pend wake the hart. -/
def csrStore (h : HartId) (n : Nat) (v : W64) (s : State) : State :=
  let m := guestNumber (s.hart h) n
  let s := s.onHart h fun x => x.writeCsr n v
  if m = 0x14D then setTimer h .supervisor s
  else if m = 0x24D ∨ m = 0x605 then setTimer h .virtual s
  else s

/-- An access to CSR `n` by an instruction: its exception is raised (R203), or `f` goes on. -/
def csrAccess (h : HartId) (n : Nat) (write : Bool) (insn : W32) (f : State → State) (s : State) : State :=
  match csrFault (s.hart h) n write with
  | some .illegal => illegal h insn s
  | some .virtual => virtualInstr h s
  | none => if (csrRead s h n).isNone then illegal h insn s else f s

/-- A CSR write of a hart that executes: minstret counts it before the register takes the value, so that a counter's own increment is
overwritten (R237). -/
def csrWrite (h : HartId) (n : Nat) (v : W64) (insn : W32) (s : State) : State :=
  instr h (csrAccess h n true insn fun t => passOn h (csrStore h n v (t.onHart h Hart.countRetired))) s

/-! ### The rows -/

/-- MISA_WRITE (R192). -/
def execMisaWrite (h : HartId) (value : W64) (insn : W32) (s : State) : Host.Outcome State Fault Refusal :=
  .next (csrWrite h 0x301 value insn s)

/-- The number of a trap-vector CSR. -/
def tvecNumber : TvecReg → Nat
  | .mtvec => 0x305
  | .stvec => 0x105
  | .vstvec => 0x205
/-- TRAP_VECTOR_WRITE (R195). -/
def execTrapVectorWrite (h : HartId) (reg : TvecReg) (value : W64) (insn : W32) (s : State) : Host.Outcome State Fault Refusal :=
  .next (csrWrite h (tvecNumber reg) value insn s)

/-- The number of a translation-root CSR. -/
def atpNumber : AtpReg → Nat
  | .satp => 0x180
  | .vsatp => 0x280
  | .hgatp => 0x680
/-- SATP_WRITE (R195). -/
def execSatpWrite (h : HartId) (reg : AtpReg) (value : W64) (insn : W32) (s : State) : Host.Outcome State Fault Refusal :=
  .next (csrWrite h (atpNumber reg) value insn s)

/-- PMPCFG_WRITE (R195): one entry's byte. -/
def execPmpcfgWrite (h : HartId) (entry : Fin 16) (value : Byte) (insn : W32) (s : State) : Host.Outcome State Fault Refusal :=
  .next (instr h (csrAccess h 0x3A0 true insn fun t => retire h (t.onHart h fun x => x.setPmpcfg entry.val value)) s)

/-- MHPMEVENT_WRITE (R235). -/
def execMhpmeventWrite (h : HartId) (n : Fin 8) (value : W64) (insn : W32) (s : State) : Host.Outcome State Fault Refusal :=
  .next (csrWrite h (0x323 + n.val) value insn s)

/-- The number of a counter. -/
def counterNumber : CounterId → Nat
  | .cycle => 0xB00
  | .instret => 0xB02
  | .hpm n => 0xB03 + n.val
/-- COUNTER_WRITE (R237). (DESIGN CHOICE, log 74.) -/
def execCounterWrite (h : HartId) (c : CounterId) (value : W64) (insn : W32) (s : State) : Host.Outcome State Fault Refusal :=
  .next (csrWrite h (counterNumber c) value insn s)

/-- SKULCTL_WRITE (R203): bit 0 STRM. -/
def execSkulctlWrite (h : HartId) (value : W64) (insn : W32) (s : State) : Host.Outcome State Fault Refusal :=
  .next (csrWrite h 0x5C0 value insn s)
/-- HKULCTL_WRITE (R203): bit 0 VSTRM. -/
def execHkulctlWrite (h : HartId) (value : W64) (insn : W32) (s : State) : Host.Outcome State Fault Refusal :=
  .next (csrWrite h 0x6C0 value insn s)
/-- HKULDISP_WRITE (R400): DOMAIN, EN and FILE take the write, RUNPRIO becomes 16 and CLAIMED 0. -/
def execHkuldispWrite (h : HartId) (value : W64) (insn : W32) (s : State) : Host.Outcome State Fault Refusal :=
  .next (csrWrite h 0x6C1 value insn s)

/-- R609, R195: the seed CSR: 16 bits of entropy in state ES16 (0b10), or state DEAD (0b11) while DRBG_OK is 0. -/
def seedValue (s : State) : W64 :=
  if s.cx.drbgOk then 0x80000000#64 ||| ((Config.freeBits s.free 16).zeroExtend 64) else 0xC0000000#64

/-- SEED_CSR_READ (R609): M-mode only (R191). -/
def execSeedCsrRead (h : HartId) (rd : Fin 32) (insn : W32) (s : State) : Host.Outcome State Fault Refusal :=
  .next (instr h (fun t => if (t.hart h).priv = .m then
      retire h ({ t with free := t.free + 1 }.onHart h fun x => x.setX rd.val (seedValue t))
    else illegal h insn t) s)

/-! ### The predictor (§5.9) -/

/-- R226: all 48 checkpoints are in use, so fetch stalls at the next branch; event 0x05 counts the clocks. -/
def Predictor.full (p : Predictor) : Bool := decide (48 ≤ p.inFlight.length)

/-- A branch goes into flight with its checkpoint, and the history takes its predicted direction; none where all are in use (R226). -/
def Predictor.branch (p : Predictor) (pc : W64) : Option Predictor :=
  if p.full then none
  else some { p with inFlight := p.inFlight ++ [⟨pc, p.history, p.returns⟩], history := tget false p.directions pc.toNat :: p.history }

/-- R227: a call puts its return address on the stack of 32, over the oldest where it is full. -/
def Predictor.call (p : Predictor) (ret : W64) : Predictor := { p with returns := (ret :: p.returns).take 32 }

/-- R227: a return's predicted target: the stack's top, or from the branch target buffer where it is empty. -/
def Predictor.ret (p : Predictor) (pc : W64) : Option W64 × Predictor :=
  match p.returns with
  | r :: rest => (some r, { p with returns := rest })
  | [] => ((p.targets.find? (·.1 == pc.toNat)).map (·.2), p)

/-- Branch `i` in flight resolves (R225): mispredicted, it and the younger ones go, and the history and the return stack come back
from its checkpoint; otherwise its checkpoint is freed. The tables learn its direction and target. -/
def Predictor.resolve (p : Predictor) (i : Nat) (mispredicted taken indirect : Bool) (target : W64) : Predictor :=
  match p.inFlight[i]? with
  | none => p
  | some k =>
    let learnt := { p with
      directions := tput taken p.directions k.pc.toNat
      targets := if taken ∧ indirect = false then tput target p.targets k.pc.toNat else p.targets
      indirect := if indirect then tput target p.indirect k.pc.toNat else p.indirect }
    if mispredicted then { learnt with inFlight := p.inFlight.take i, history := taken :: k.history, returns := k.returns }
    else { learnt with inFlight := p.inFlight.eraseIdx i }

/-- A branch of a hart resolves: mispredictions count (Table 5.13), and PRED.BAR ends once none is in flight (R231). -/
def resolveBranch (h : HartId) (i : Nat) (mispredicted taken indirect isReturn : Bool) (target : W64) (s : State) : State :=
  let s := if mispredicted then countEvent h (if isReturn then 0x06 else 0x04) 1 s else s
  s.onHart h fun x =>
    let p := x.pred.resolve i mispredicted taken indirect target
    { x with pred := p, stall := if x.stall = .predBar ∧ p.inFlight = [] then .none else x.stall }

/-- R230: every predictor structure of the hart is cleared, and nothing fetched by a prediction stays. -/
def Hart.clearPredictor (x : Hart) : Hart := { x with pred := {}, prefetched := false }

/-- PRED_FLUSH (R229, R230). -/
def execPredFlush (h : HartId) (word : W32) (s : State) : Host.Outcome State Fault Refusal :=
  .next (instr h (vendor h .predFlush word fun t => retire h (t.onHart h Hart.clearPredictor)) s)

/-- R231: the hart issues nothing more while a branch before PRED.BAR is in flight. -/
def Hart.predBar (x : Hart) : Hart := if x.pred.inFlight = [] then x else { x with stall := .predBar }
/-- PRED_BAR (R229, R231): no predictor state changes. -/
def execPredBar (h : HartId) (word : W32) (s : State) : Host.Outcome State Fault Refusal :=
  .next (instr h (vendor h .predBar word fun t => retire h (t.onHart h Hart.predBar)) s)

/-! ### PAUSE and WFI -/

/-- PAUSE (R195): a stall of 64 clocks that a pending interrupt ends at once. -/
def execPause (h : HartId) (s : State) : Host.Outcome State Fault Refusal :=
  .next (instr h (fun t => retire h (if (t.hart h).mip = 0 then t.onHart h fun x => { x with stall := .pause 64 } else t)) s)

/-- WFI's word. -/
def wfiWord : W32 := 0x10500073#32

/-- WFI (R195): TW and VTW are honoured, and U-mode under the hypervisor has none; a pending enabled interrupt lets it end at once. -/
def execWfi (h : HartId) (s : State) : Host.Outcome State Fault Refusal :=
  .next (instr h (fun t =>
    let x := t.hart h
    if x.tw && decide (x.priv ≠ .m) then illegal h wfiWord t
    else if x.v && x.vtw then virtualInstr h t
    else retire h (if x.interruptPending then t else t.onHart h fun y => { y with stall := .wfi })) s)

/-! ### The harts' clock -/

/-- Core clocks that pass in one measurement clock at the common frequency, and what is left of a clock (R187, R189). -/
def coreClocks (p : Power) : Nat × Nat := ((p.clockPart + p.coreMHz) / 500, (p.clockPart + p.coreMHz) % 500)

/-- `n` core clocks of a hart: mcycle counts them in the Open world (R189, R233), PAUSE runs out (Table 5.4), and the clocks of a fetch
stall on full checkpoints count (Table 5.13). -/
def hartClocks (h : HartId) (n : Nat) (s : State) : State :=
  let x := s.hart h
  if x.inReset then s
  else
    let s := if x.pred.full then countEvent h 0x05 n s else s
    s.onHart h fun x =>
      { x with
        counters := if x.keeper || x.mcountinhibit.getLsbD 0 then x.counters else tmod 0 x.counters 0 (· + BitVec.ofNat 64 n)
        stall := match x.stall with | .pause m => if m ≤ n then .none else .pause (m - n) | y => y }

end Sys2Proof.Machine
end

