-- ==== Sys2Proof/Machine/KeeperWorld.lean ====
section
/-!
DEFINITION. The Keeper world (08): KENTER, KEXIT, KRESUME and the asynchronous exit, and debug unlock
(enclave commands, hand-over, gates and the watchdog's kick are in Machine/KeeperRegs.lean). And the dispatch
instructions (09 §9.3), which run on a hart.
-/

namespace Sys2Proof.Machine

/-! ### Statuses, scrub, exit action -/

/-- Table 8.3: Keeper status n. -/
def ksValue (n : Nat) : W64 := 0xFFFFFFFFFFFFFF00#64 + BitVec.ofNat 64 n

/-- R354 step 1: x1-x31 except a0 and a1, f0-f31 and fcsr become 0. -/
def Hart.scrub (x : Hart) : Hart :=
  { x with x := x.x.filter fun e => decide (e.1 = 10 ∨ e.1 = 11), f := [], fcsr := 0 }

/-- R354 step 2: the predictor is cleared and the Keeper-tagged TLB entries go. -/
def Hart.leaveKeeper (x : Hart) : Hart := { x.clearPredictor with tlb := x.tlb.filter fun e => !e.keeper }

/-- The Keeper-tagged lines leave the hart's L1s. -/
def dropKeeperL1 (h : HartId) (s : State) : State :=
  s.onHart h fun x => { x with l1i := x.l1i.filter fun e => !e.keeper, l1d := x.l1d.filter fun e => !e.keeper }

/-- A hart's L2 holds a Keeper-tagged copy of a line. -/
def LineState.keeperCopy (ls : LineState) (h : HartId) : Bool := ls.copies.any fun c => decide (c.core = h.val) && c.keeper

/-- R361, Partition: the Keeper-tagged lines of the hart's L1 and L2 are invalidated, dirty ones first into the L3's Keeper ways. -/
def partitionExit (h : HartId) (s : State) : State :=
  dropKeeperL1 h ((s.mesh.lines.map (·.1)).foldl (fun t l => if (t.lineAt l).keeperCopy h then copyToL3 h.val l t else t) s)

/-- A dirty copy whose line DRAM now holds. -/
def Copy.clean (c : Copy) : Copy := { c with st := match c.st with | .m => .e | .o => .s | y => y }

/-- A line of the exiting enclave goes back to DRAM and out of the hart's L1 and L2 and of the L3. -/
def flushExitLine (h : HartId) (l : Nat) (s : State) : State :=
  (dropCopy h.val l (writeBack l s)).onLine l fun ls => { ls with copies := ls.copies.map Copy.clean, l3 := .none, l3Keeper := false }

/-- R361, Flush: every line of the exiting enclave in the hart's L1 and L2 and in every L3 slice goes back to DRAM. -/
def flushExit (h : HartId) (e : Byte) (s : State) : State :=
  dropKeeperL1 h ((s.mesh.lines.map (·.1)).foldl (fun t l =>
    let mine := (t.lineAt l).copies.any fun c => decide (c.core = h.val) && decide (c.kenc = e)
    if mine || inEnclave t e.toNat (64 * l) then flushExitLine h l t else t) s)

/-- R361: the exit action of the cache mode. -/
def exitAction (h : HartId) (e : Byte) (s : State) : State :=
  if s.lt.cacheFlush then flushExit h e s else partitionExit h s

/-- The hart goes back to the caller context (R353, R354): pc, mode, V and satp or vsatp; the context's FS is Dirty. -/
def Hart.toCaller (x : Hart) : Hart :=
  match x.caller with
  | none => { x with kenc := 0 }
  | some c =>
    let y := { x.loseReservation with kenc := 0, pc := c.pc, priv := c.priv, v := c.v, caller := none }
    (if c.v then { y with vsatp := c.satp, vsFs := 3 } else { y with satp := c.satp, fs := 3 }).enterOpen

/-- Leaves the enclave a hart runs: scrub, exit action, and back to the caller; the enclave takes state `st`. -/
def leaveEnclave (h : HartId) (st : EnclState) (s : State) : State :=
  let e := (s.hart h).kenc
  let s := drainBoth h s
  let s := s.onHart h fun x => x.scrub.leaveKeeper
  let s := (exitAction h e s).onEncl e.toNat fun x => { x with st := st }
  s.onHart h Hart.toCaller

/-! ### KENTER, KRESUME, KEXIT -/

/-- R350: KENTER and KRESUME execute in HS-, S- and VS-mode; the exception elsewhere. -/
def keeperMode (h : HartId) (word : W32) (f : State → State) (s : State) : State :=
  let x := s.hart h
  if x.priv = .s then f s else if x.priv = .u && x.v then virtualInstr h s else illegal h word s

/-- R351, R352, Table 8.3: the status that keeps KENTER or KRESUME (`resume`) from entering, if any. -/
def enterStatus (s : State) (v : W64) (resume : Bool) : Option Nat :=
  let e := v.toNat
  if s.kp.down then some 3
  else if 256 ≤ e ∨ e = 0 ∨ (s.lt.enclave e).isNone then some 1
  else match (s.encl e).st with
    | .free | .building => some 1
    | .running => some 2
    | .suspended => if resume then none else some 5
    | .ready => if resume then some 6 else none

/-- KENTER or KRESUME returns a status in a0 and changes nothing else (R352). -/
def keeperStatus (h : HartId) (n : Nat) (s : State) : State := retire h (s.onHart h fun x => x.setX 10 (ksValue n))

/-- R353: the hart enters enclave `e`; the instruction retires in the Open world (R239), the caller context is recorded, and the
predictor cleared. (DEDUCED, log 61.) -/
def enterEnclave (h : HartId) (e : Nat) (s : State) : State :=
  let k := s.encl e
  let s := (drainBoth h s).onEncl e fun x => { x with st := .running }
  s.onHart h fun x =>
    { x.loseReservation.countRetired.clearPredictor with
      caller := some ⟨x.pc + 4, x.priv, x.v, if x.v then x.vsatp else x.satp⟩
      kenc := BitVec.ofNat 8 e, priv := .u, v := false, satp := k.satp, pc := k.entry }

/-- KENTER (R349-R353, R392). -/
def execKenter (h : HartId) (word : W32) (s : State) : Host.Outcome State Fault Refusal :=
  ok s (instr h (vendor h .kenter word (keeperMode h word fun t =>
    let v := (t.hart h).getX (wRs1 word).toNat
    match enterStatus t v false with
    | some n => keeperStatus h n t
    | none => enterEnclave h v.toNat t)) s)

/-- 64 bits of memory, little-endian. -/
def mem64 (s : State) (a : Nat) : W64 := BitVec.ofNat 64 (ofBytesLE (readBytes s.mesh.mem a 8))

/-- R355: pc, x1-x31, f0-f31, fcsr and satp from the save area (Table 8.4). -/
def restoreSaved (h : HartId) (a : Nat) (s : State) : State :=
  let xs := ((List.range 31).map (· + 1)).foldl (fun t i => tset 0 t i (mem64 s (a + 8 * i))) []
  let fs := (List.range 32).foldl (fun t i => tset 0 t i (mem64 s (a + 256 + 8 * i))) []
  s.onHart h fun x =>
    { x with pc := mem64 s a, x := xs, f := fs, fcsr := (mem64 s (a + 512)).truncate 32, satp := mem64 s (a + 520) }

/-- KRESUME's effect on a SUSPENDED enclave; a poisoned save area makes it READY and returns KS_POISONED (Table 8.3).
(DEDUCED, log 61.) -/
def resumeEnclave (h : HartId) (e : Nat) (s : State) : State :=
  let a := (s.encl e).save.toNat
  if (linesOf a 576).any fun l => poisoned s l then
    keeperStatus h 8 ((poisonConsumed s).onEncl e fun x => { x with st := .ready })
  else restoreSaved h a (enterEnclave h e s)

/-- KRESUME (R349-R352, R355, R392). -/
def execKresume (h : HartId) (word : W32) (s : State) : Host.Outcome State Fault Refusal :=
  ok s (instr h (vendor h .kresume word (keeperMode h word fun t =>
    let v := (t.hart h).getX (wRs1 word).toNat
    match enterStatus t v true with
    | some n => keeperStatus h n t
    | none => resumeEnclave h v.toNat t)) s)

/-- R354: a0 in the reserved range is replaced by KS_BADEXIT. -/
def exitValue (a0 : W64) : W64 := if 0xFFFFFFFFFFFFFF00#64 ≤ a0 then ksValue 7 else a0

/-- KEXIT's effect. (DEDUCED, log 61.) -/
def kexit (h : HartId) (word : W32) (s : State) : State :=
  let x := s.hart h
  if x.priv = .u ∧ x.kenc ≠ 0 then leaveEnclave h .ready (s.onHart h fun y => y.setX 10 (exitValue (y.getX 10)))
  else illegal h word s

/-- KEXIT (R349, R350, R354). -/
def execKexit (h : HartId) (word : W32) (s : State) : Host.Outcome State Fault Refusal :=
  ok s (instr h (vendor h .kexit word (kexit h word)) s)

/-! ### Asynchronous exit (§8.4) -/

/-- Table 8.4: the 576 bytes of the save area. -/
def saveBytes (x : Hart) (cause : W64) : List Byte :=
  bytesLE 8 x.pc.toNat ++ ((List.range 31).flatMap fun i => bytesLE 8 (x.getX (i + 1)).toNat)
    ++ ((List.range 32).flatMap fun i => bytesLE 8 (tget 0 x.f i).toNat)
    ++ bytesLE 8 x.fcsr.toNat ++ bytesLE 8 x.satp.toNat ++ bytesLE 8 cause.toNat ++ List.replicate 40 0

/-- R358 step 1: the save area is written in whole lines, which clears poison (§8.13). -/
def writeSave (h : HartId) (cause : W64) (s : State) : State :=
  let x := s.hart h
  let a := (s.encl x.kenc.toNat).save.toNat
  ((List.range 9).zip (toLines 9 (saveBytes x cause))).foldl (fun t e =>
    let l := a / 64 + e.1
    putLine l e.2 (BitVec.allOnes 64) (clearReservations l none (touch h true false (a + 64 * e.1) l {} t))) s

/-- R358 steps 1 to 3. (DEDUCED, log 61.) -/
def suspendEnclave (h : HartId) (cause : W64) (s : State) : State :=
  let e := (s.hart h).kenc
  let s := leaveEnclave h .suspended (writeSave h cause (drainBoth h s))
  s.onHart h fun x => (x.setX 10 (ksValue 4)).setX 11 (e.zeroExtend 64)

/-- The interrupt is one of VS-level, by number 2, 6 or 10, that hideleg delegates. -/
def forGuest (x : Hart) (cause : W64) : Bool :=
  let n := bits cause 0 6
  x.v && cause.getLsbD 63 && decide (n = 2 ∨ n = 6 ∨ n = 10) && (tget 0 x.csrs 0x603).getLsbD n

/-- R358 step 4: the interrupt is taken in the caller context, VS-level ones in VS-mode under the number that vscause reports; sepc or
vsepc holds the caller's return address. (PRESUMED, log 82.) -/
def takeInterrupt (h : HartId) (cause : W64) (s : State) : State :=
  let vs := forGuest (s.hart h) cause
  interruptTo h vs (if vs then cause - 1 else cause) s

/-- R357: the interrupt pends, and is enabled for the caller context at S-, HS- or VS-level: one of M-level is no ground for an
exit. The monitor is taken to delegate every interrupt that is not of M-level. (PRESUMED, log 82.) -/
def exitPends (x : Hart) (cause : W64) : Bool :=
  let n := bits cause 0 6
  match x.caller with
  | none => false
  | some c =>
    let y := { x with v := c.v }
    cause.getLsbD 63 && (x.mip &&& x.mie).getLsbD n && decide (n ≠ 3 ∧ n ≠ 7 ∧ n ≠ 11) &&
      (if forGuest y cause then decide (c.priv = .u) || x.vsie else c.v || decide (c.priv = .u) || x.sieBit)

/-- ASYNC_EXIT (R357, R358), with the interrupt's cause as mip numbers it; a hart with KENC 0 has none (R393). -/
def execAsyncExit (h : HartId) (cause : W64) (s : State) : Host.Outcome State Fault Refusal :=
  let x := s.hart h
  ok s (if x.kenc ≠ 0 && !x.inReset && exitPends x cause then takeInterrupt h cause (suspendEnclave h cause s) else s)

/-! ### Debug unlock (§8.11) -/

/-- The TAP takes an instruction and scans its register; without power it does nothing. -/
def scan (code : BitVec 5) (f : State → State) (s : State) : State :=
  if s.pwr.supply = .on then f (s.onPort fun q => { q with ir := code }) else s

/-- R386: the 64 bytes of a challenge. -/
def challengeBytes (s : State) (level key : Nat) (nonce : BitVec 256) : List Byte :=
  bytesLE 4 0x4B640128 ++ bytesLE 1 level ++ bytesLE 1 key ++ [0, 0] ++ bytesLE 8 s.lt.serial.toNat ++ bytesLE 32 nonce.toNat ++ List.replicate 16 0

/-- KDBG_CHAL (R386): a fresh nonce; the one before it is void. -/
def kdbgChal (s : State) : State :=
  let level := s.kp.reqLevel.toNat
  let key := if level = 1 then s.kp.reqKey.toNat else 0
  let nonce := Config.freeBits s.free 256
  let s := { s with free := s.free + 1 }.onKp fun k => { k with challenge := some (BitVec.ofNat 8 level, BitVec.ofNat 8 key, nonce) }
  s.emit (.tdo 512 (ofBytesLE (challengeBytes s level key nonce)))

/-- KDBG_CHAL (R386). -/
def execKdbgChal (s : State) : Host.Outcome State Fault Refusal := .next (scan 0x18 kdbgChal s)

/-- KDBG_STAT (R386): shifting out reads it, shifting in writes REQ_LEVEL and REQ_KEY. -/
def execKdbgStat (shiftIn : W32) (s : State) : Host.Outcome State Fault Refusal :=
  .next (scan 0x1A (fun s => (s.emit (.tdo 32 (kdbgStat s.kp).toNat)).onKp fun k =>
    { k with reqLevel := shiftIn.extractLsb' 0 2, reqKey := shiftIn.extractLsb' 8 2 }) s)

/-- R387, R388: both signatures of a response verify under the key pair that its level names. -/
def responseVerifies (s : State) (r : DebugResponse) (c : BitVec 8 × BitVec 8 × BitVec 256) : Bool :=
  let msg := challengeBytes s c.1.toNat c.2.1.toNat c.2.2
  let key := if c.1 = 1 then ltKey s c.2.1.toNat else if c.1 = 2 then some (Config.dexrovDebugKey ()) else none
  r.reservedZero &&
    (match key with
     | none => false
     | some q =>
       dsaVerify (dsaSet 0x33) q.1 (ascii "KLXDBG") msg r.mldsa &&
         (match ecDecode q.2 with
          | some pt => ecdsaVerify pt (ofBytesBE r.ecdsaR) (ofBytesBE r.ecdsaS) (sha384 msg)
          | none => false))

/-- R390: KEEPER level destroys every enclave as DESTROY does and empties every key slot of an enclave. (PRESUMED, log 64.) -/
def grantKeeper (s : State) : State :=
  let es := (s.kp.encl.map (·.1)).filter fun e => decide ((s.encl e).st ≠ .free)
  let s := es.foldl (fun t e => destroyEnclave e t) s
  let s := s.onCx fun c => { c with slots := c.slots.filter fun p => decide (p.2.encl = 0) }
  s.onKp fun k => { k with granted := 2, trouble := setBit k.trouble 3 }

/-- KDBG_RESP (R387-R391): a verified response grants its level; a failed one counts, and the third locks.
(PRESUMED, log 64.) -/
def kdbgResp (r : DebugResponse) (s : State) : State :=
  let fail := (s.onKp fun k =>
    { k with challenge := none, fails := if k.fails = 3 then 3 else k.fails + 1, dbgLocked := k.dbgLocked || decide (2 ≤ k.fails) })
  match s.kp.challenge with
  | none => fail
  | some c =>
    if !s.kp.dbgLocked && responseVerifies s r c then
      let s := s.onKp fun k => { k with challenge := none }
      if c.1 = 2 then grantKeeper s else s.onKp fun k => { k with granted := if k.granted = 2 then 2 else 1 }
    else fail

/-- KDBG_RESP (R387-R391). -/
def execKdbgResp (resp : DebugResponse) (s : State) : Host.Outcome State Fault Refusal := ok s (scan 0x19 (kdbgResp resp) s)

/-! ### Dispatch instructions (09 §9.3) -/

/-- R411: the modes in which the dispatch instructions execute, and the exceptions elsewhere. -/
def dispMode (h : HartId) (word : W32) (f : State → State) (s : State) : State :=
  let x := s.hart h
  if x.priv = .s then (if x.bind.en then f s else if x.v then virtualInstr h s else illegal h word s)
  else if x.priv = .u && x.v then virtualInstr h s else illegal h word s

/-- A dispatch instruction of a hart that executes, given by its word (R410, R411). -/
def dispInstr (h : HartId) (op : VendorOp) (word : W32) (f : State → State) (s : State) : State :=
  instr h (vendor h op word (dispMode h word f)) s

/-- R399: the hart takes entries only inside its domain's AFFINITY. -/
def takesEntries (s : State) (h : HartId) : Bool := (s.lt.domain (s.hart h).bind.domain.toNat).2.2.getLsbD h.val

/-- The domain a hart is bound to. -/
def boundDomain (s : State) (h : HartId) : Nat := (s.hart h).bind.domain.toNat

/-- R418: CLAIMED is cleared. -/
def unclaim (h : HartId) (s : State) : State := s.onHart h fun x => { x with bind := { x.bind with claimed := none } }

/-- The priority of the list the hart would take from. -/
def nextList (s : State) (h : HartId) : Option Nat := if takesEntries s h then (s.dom (boundDomain s h)).highest else none

/-- R402: the head that the hart would take is read with what its SECDED finds; a lost entry leaves the next one to take. -/
def readHead (h : HartId) (sram : BitError) (s : State) : State :=
  match nextList s h with
  | some p => readyError (boundDomain s h) p sram s
  | none => s

/-- R412: takes the head of list `p`, and RUNPRIO its PRIO. -/
def takeHead (h : HartId) (rd p : Nat) (s : State) : State :=
  let d := boundDomain s h
  match (s.dom d).list p with
  | [] => s
  | e :: _ =>
    let s := (popReady d p s).onHart h fun x => { (x.setX rd e.payload) with bind := { x.bind with runprio := p } }
    traceEvent d h.val 0x04 p e.payload s

/-- R412: nothing to take: rd gets 0 and RUNPRIO 16. -/
def takeNothing (h : HartId) (rd : Nat) (s : State) : State :=
  let s := s.onHart h fun x => { (x.setX rd 0) with bind := { x.bind with runprio := 16 } }
  traceEvent (boundDomain s h) h.val 0x05 0 0 s

/-- R412: DISP.NEXT's dequeue. -/
def dispNext (h : HartId) (rd : Nat) (sram : BitError) (s : State) : State :=
  let s := readHead h sram (unclaim h s)
  match nextList s h with
  | some p => takeHead h rd p s
  | none => takeNothing h rd s

/-- DISP_NEXT (R410-R412, R418). -/
def execDispNext (h : HartId) (word : W32) (sram : BitError) (s : State) : Host.Outcome State Fault Refusal :=
  ok s (dispInstr h .dispNext word (fun t => retire h (dispNext h (wRd word).toNat sram (drainThrough h (·.io) t))) s)

/-- R413, R414: DISP.ENQ's placement and status. -/
def dispEnq (h : HartId) (payload control : W64) (s : State) : State × Nat :=
  let d := boundDomain s h
  let prio := bits control 0 4
  let wake := bits control 12 52
  if payload = 0 ∨ bits control 5 7 ≠ 0 then (s, 2)
  else
  let s := settleDomain d s
  if control.getLsbD 4 && decide (ctCycles s < wake) then
    if delayFree s d then
      let s := s.onDom d fun x => { x with delay := insertDelay ⟨payload, wake, prio, 0xFF⟩ x.delay }
      (traceEvent d h.val 0x02 prio payload s, 0)
    else (busyRefused d h.val payload prio s, 1)
  else if readyFree s d then (makeReady d ⟨payload, ctCycles s, prio, 0xFF⟩ h.val 0x01 s, 0)
  else (busyRefused d h.val payload prio s, 1)

/-- DISP_ENQ (R410, R413, R414, R420). -/
def execDispEnq (h : HartId) (word : W32) (s : State) : Host.Outcome State Fault Refusal :=
  ok s (dispInstr h .dispEnq word (fun t =>
    let t := drainBoth h t
    let p := dispEnq h ((t.hart h).getX (wRs1 word).toNat) ((t.hart h).getX (wRs2 word).toNat) t
    retire h (p.1.onHart h fun x => x.setX (wRd word).toNat (BitVec.ofNat 64 p.2))) s)

/-- R415: DISP.WAIT takes an entry as DISP.NEXT, or stalls with RUNPRIO 16; a pending enabled interrupt ends it with 0. -/
def dispWait (h : HartId) (rd : Nat) (sram : BitError) (s : State) : State :=
  let s := readHead h sram (unclaim h s)
  match nextList s h with
  | some p => takeHead h rd p s
  | none =>
    let s := s.onHart h fun x => { x with bind := { x.bind with runprio := 16 }, stall := .dispWait rd }
    (traceEvent (boundDomain s h) h.val 0x08 0 0 s).onHart h Hart.wake

/-- DISP_WAIT (R410, R415, R418). -/
def execDispWait (h : HartId) (word : W32) (sram : BitError) (s : State) : Host.Outcome State Fault Refusal :=
  ok s (dispInstr h .dispWait word (fun t => retire h (dispWait h (wRd word).toNat sram (drainThrough h (·.io) t))) s)

/-- R416, R417: DISP.YIELD's swap; the entry that it appends becomes ready, and is decided on (R427). -/
def dispYield (h : HartId) (rd : Nat) (v : W64) (sram : BitError) (s : State) : State :=
  let run := (s.hart h).bind.runprio
  if v = 0 ∨ 16 ≤ run then dispNext h rd sram s
  else
    let s := readHead h sram (unclaim h s)
    let d := boundDomain s h
    match nextList s h with
    | some p =>
      if run ≤ p then
        let s := takeHead h rd p s
        makeReady d ⟨v, ctCycles s, run, 0xFF⟩ h.val 0x07 s
      else s.onHart h fun x => x.setX rd v
    | none => s.onHart h fun x => x.setX rd v

/-- DISP_YIELD (R410, R416-R418, R420). -/
def execDispYield (h : HartId) (word : W32) (sram : BitError) (s : State) : Host.Outcome State Fault Refusal :=
  ok s (dispInstr h .dispYield word (fun t =>
    let t := drainBoth h t
    retire h (dispYield h (wRd word).toNat ((t.hart h).getX (wRs1 word).toNat) sram t)) s)

end Sys2Proof.Machine
end

