-- ==== Sys2Proof/Machine/Execute.lean ====
section
/-!
DEFINITION. One instruction of a hart by its word: the page walk of an address, the fetch, and what each instruction of Table 5.1
does. A debugger's single step and program buffer run instructions so (Machine/Debug.lean); what another instruction of a program
does comes as that instruction's own row.

R190 and R191 name the RISC-V specifications that give these instructions. (PRESUMED, log 88.)
-/

namespace Sys2Proof.Machine

/-! ### The page walk (R195) -/

/-- Why a walk does not come to its leaf: a guest physical address that the G-stage refuses, or a poisoned PTE (§5.11). -/
inductive WalkStop | guest (gpa : Nat) | poison
  deriving DecidableEq, Repr

/-- A PTE is a leaf, or not valid: the walk ends at it. -/
def walkEnds (pte : W64) : Bool := !pte.getLsbD 0 || pte.getLsbD 1 || pte.getLsbD 3

/-- A walk from the table of `base` down `level + 1` levels; `top` indexes the first table, and a walk that finds no leaf ends at
an invalid PTE. -/
def walkFrom (read : Nat → Except WalkStop W64) (addr : Nat) : Nat → Nat → Nat → List W64 → Except WalkStop StageWalk
  | 0, _, _, path => .ok ⟨path.reverse, 0, 0⟩
  | level + 1, base, top, path =>
    match read (base + 8 * (addr / 2 ^ (12 + 9 * level) % top)) with
    | .error e => .error e
    | .ok pte => if walkEnds pte then .ok ⟨path.reverse, pte, level⟩ else walkFrom read addr level (4096 * bits pte 10 44) 512 (pte :: path)

/-- The levels of a root register's MODE: 3 of Sv39, 4 of Sv48, 0 of Bare. -/
def atpLevels (atp : W64) : Nat := if bits atp 60 4 = 8 then 3 else if bits atp 60 4 = 9 then 4 else 0

/-- The address that a leaf gives. -/
def leafAddress (w : StageWalk) (addr : Nat) : Nat :=
  let n := leafPages w
  4096 * (bits w.pte 10 44 / n * n + addr / 4096 % n) + addr % 4096

/-- The first stage of a virtual address: one that is not canonical meets an invalid PTE. -/
def firstWalk (read : Nat → Except WalkStop W64) (atp va : W64) : Except WalkStop StageWalk :=
  let n := atpLevels atp
  let top : Int := 2 ^ (11 + 9 * n)
  if va.toInt < -top ∨ top ≤ va.toInt then .ok ⟨[], 0, 0⟩
  else walkFrom read va.toNat n (4096 * bits atp 0 44) 512 []

/-- The G-stage of a guest physical address: its first table has 2,048 entries. -/
def guestWalk (read : Nat → Except WalkStop W64) (atp : W64) (gpa : Nat) : Except WalkStop StageWalk :=
  let n := atpLevels atp
  if 2 ^ (14 + 9 * n) ≤ gpa then .ok ⟨[], 0, 0⟩ else walkFrom read gpa n (4096 * bits atp 0 44) 2048 []

/-- A PTE as the hart reads it: zero where it may not reach the address (R29). -/
def readPte (s : State) (g : Agent) (a : Nat) : Except WalkStop W64 :=
  if !mayReach s g a then .ok 0
  else if poisoned s (a / 64) then .error .poison
  else .ok (BitVec.ofNat 64 (ofBytesLE (readBytes s.mesh.mem a 8)))

/-- A PTE of the VS-stage, through the G-stage, whose refusal is a guest-page fault at its address. -/
def readVsPte (s : State) (g : Agent) (x : Hart) (a : Nat) : Except WalkStop W64 :=
  if atpLevels x.hgatp = 0 then readPte s g a
  else match guestWalk (readPte s g) x.hgatp a with
    | .error e => .error e
    | .ok w => if guestFaults x .load w then .error (.guest a) else readPte s g (leafAddress w a)

/-- A walk that did not come to its leaf, as an access carries it. -/
def stoppedWalk (stage : PteStage) (e : WalkStop) : Walk :=
  match e with
  | .poison => ⟨stage, none, none, 0, true⟩
  | .guest a => ⟨stage, none, some ⟨[], 0, 0⟩, BitVec.ofNat 64 a, false⟩

/-- A guest physical address through the G-stage, and the physical address. -/
def guestStage (s : State) (g : Agent) (x : Hart) (first : Option StageWalk) (gpa : Nat) : Option Walk × Nat :=
  if !x.v || atpLevels x.hgatp = 0 then ((first.map fun w => ⟨x.stage, some w, none, BitVec.ofNat 64 gpa, false⟩), gpa)
  else match guestWalk (readPte s g) x.hgatp gpa with
    | .error e => (some (stoppedWalk x.stage e), 0)
    | .ok w => (some ⟨x.stage, first, some w, BitVec.ofNat 64 gpa, false⟩, leafAddress w gpa)

/-- What the page walk of an address finds for a hart, and the physical address: none in M-mode and where every stage is Bare. -/
def pageWalk (s : State) (h : HartId) (x : Hart) (va : W64) : Option Walk × Nat :=
  let g := hartAgent s h false
  let atp := if x.v then x.vsatp else x.satp
  if x.priv = .m then (none, va.toNat)
  else if atpLevels atp = 0 then guestStage s g x none va.toNat
  else match firstWalk (if x.v then readVsPte s g x else readPte s g) atp va with
    | .error e => (some (stoppedWalk x.stage e), 0)
    | .ok w => guestStage s g x (some w) (leafAddress w va.toNat)

/-! ### An instruction's accesses -/

/-- An instruction as it was fetched: its bits, expanded, whether it was a compressed one, whether it came from its enclave's or
the monitor's own range (R343, R346), and whether a debugger runs it, whose addresses are physical. -/
structure Insn where
  word : W32
  short : Bool := false
  inside : Bool := false
  debug : Bool := false
  deriving DecidableEq, Repr

/-- Bytes of the instruction. -/
def Insn.length (i : Insn) : Nat := if i.short then 2 else 4

/-- An access of an instruction to a virtual address, seen from a hart's mode. -/
def Insn.access (i : Insn) (s : State) (h : HartId) (x : Hart) (va : W64) (w : Width) : Access :=
  let p := if i.debug then (none, va.toNat) else pageWalk s h x va
  { va := va, pa := BitVec.ofNat 48 p.2, width := w, hint := .none, walk := p.1, fetchedInside := i.inside, insn := i.word, short := i.short }

/-- The state that a row of a hart leaves. -/
def after (o : Host.Outcome State Fault Refusal) (s : State) : State :=
  match o with
  | .next t => t
  | _ => s

/-- The instruction computes an integer result. -/
def putX (h : HartId) (i : Insn) (rd : Nat) (v : W64) (s : State) : State := retireLen h i.length (s.onHart h fun x => x.setX rd v)

/-! ### Loads and stores -/

/-- The width that funct3 names. -/
def widthOf (f3 : Nat) : Width := match f3 % 4 with | 0 => .b1 | 1 => .b2 | 2 => .b4 | _ => .b8

/-- An access at rs1 plus an immediate. -/
def Insn.at (i : Insn) (s : State) (h : HartId) (imm : W64) (w : Width) : Access :=
  i.access s h (s.hart h) ((s.hart h).getX (wRs1 i.word).toNat + imm) w

/-- The load instructions. -/
def runLoad (h : HartId) (i : Insn) (s : State) : State :=
  let f3 := (wFunct3 i.word).toNat
  if f3 = 7 then illegal h i.word s
  else after (execLoad h (Fin.ofNat 32 (wRd i.word).toNat) (decide (f3 < 4)) (i.at s h (immI i.word) (widthOf f3)) s) s

/-- The store instructions. -/
def runStore (h : HartId) (i : Insn) (s : State) : State :=
  let f3 := (wFunct3 i.word).toNat
  if 3 < f3 then illegal h i.word s
  else after (execStore h (i.at s h (immS i.word) (widthOf f3)) ((s.hart h).getX (wRs2 i.word).toNat) s) s

/-- The format of FLW and FLD, FSW and FSD. -/
def fpWidth (f3 : Nat) : Option Format := if f3 = 2 then some binary32 else if f3 = 3 then some binary64 else none

/-- An f register takes a value, and FS becomes Dirty. -/
def Hart.setF (x : Hart) (i : Nat) (v : W64) : Hart := { x.fpDirty with f := tset 0 x.f i v }

/-- FLW and FLD. -/
def runFpLoad (h : HartId) (i : Insn) (s : State) : State :=
  match fpWidth (wFunct3 i.word).toNat with
  | none => illegal h i.word s
  | some f =>
    if (s.hart h).fpOff then illegal h i.word s
    else
      let c := i.at s h (immI i.word) (widthOf (wFunct3 i.word).toNat)
      Machine.access h .load c.width.bytes c (loadInto h fun v x => x.setF (wRd i.word).toNat (boxed f v)) (breakLoop h s)

/-- FSW and FSD. -/
def runFpStore (h : HartId) (i : Insn) (s : State) : State :=
  if (fpWidth (wFunct3 i.word).toNat).isNone ∨ (s.hart h).fpOff then illegal h i.word s
  else after (execStore h (i.at s h (immS i.word) (widthOf (wFunct3 i.word).toNat)) (tget 0 (s.hart h).f (wRs2 i.word).toNat) s) s

/-- The AMO of a funct5. -/
def amoOf (f5 : Nat) : Option AmoOp :=
  match f5 with
  | 0x00 => some .add
  | 0x01 => some .swap
  | 0x04 => some .xor
  | 0x08 => some .or
  | 0x0C => some .and
  | 0x10 => some .min
  | 0x14 => some .max
  | 0x18 => some .minu
  | 0x1C => some .maxu
  | _ => none

/-- The A extension. A single LR is no constrained loop (R284). -/
def runAmo (h : HartId) (i : Insn) (s : State) : State :=
  let f3 := (wFunct3 i.word).toNat
  let c := i.at s h 0 (widthOf f3)
  let rd := Fin.ofNat 32 (wRd i.word).toNat
  let v := (s.hart h).getX (wRs2 i.word).toNat
  let aq := i.word.getLsbD 26
  let rl := i.word.getLsbD 25
  if f3 ≠ 2 ∧ f3 ≠ 3 then illegal h i.word s
  else match bits i.word 27 5 with
    | 0x02 => if wRs2 i.word = 0 then after (execLr h rd c aq rl false s) s else illegal h i.word s
    | 0x03 => after (execSc h rd c v aq rl s) s
    | f5 => match amoOf f5 with
      | some op => after (execAmo h rd op c v aq rl s) s
      | none => illegal h i.word s

/-! ### Floating point (§5.8) -/

/-- A subnormal result, which event 0x11 counts (Table 5.13). -/
def subnormal (r : FpResult) : Bool :=
  !r.toX && ((decide (bits r.value 32 32 = 0xFFFFFFFF) && decide (bits r.value 23 8 = 0) && decide (bits r.value 0 23 ≠ 0))
    || (decide (bits r.value 52 11 = 0) && decide (bits r.value 0 52 ≠ 0)))

/-- A result goes into its register, its flags into fflags; nothing traps (R221). -/
def putFp (h : HartId) (i : Insn) (r : FpResult) (s : State) : State :=
  let s := if subnormal r then countEvent h 0x11 1 s else s
  let rd := (wRd i.word).toNat
  retireLen h i.length (s.onHart h fun x =>
    let y := if r.toX then x.setX rd r.value else x.setF rd r.value
    if r.flags = 0 then y else { y.fpDirty with fcsr := y.fcsr ||| r.flags.zeroExtend 32 })

/-- The arithmetic of F and D. -/
def runFp (h : HartId) (i : Insn) (s : State) : State :=
  let x := s.hart h
  let w := i.word
  let u := tget 0 x.f (wRs1 w).toNat
  let v := tget 0 x.f (wRs2 w).toNat
  let frm := bits x.fcsr 5 3
  let r := if wOpcode w = 0x53#7 then fpOp w frm u v (x.getX (wRs1 w).toNat) else fpFused w frm u v (tget 0 x.f (bits w 27 5))
  match r with
  | some r => if x.fpOff then illegal h w s else putFp h i r s
  | none => illegal h w s

/-! ### Branches and jumps (§5.9) -/

/-- The instruction retires, and the hart goes on at a target. -/
def jumpTo (h : HartId) (i : Insn) (target : W64) (s : State) : State :=
  retireLen h i.length (s.onHart h fun x => { x with pc := (target &&& ~~~1#64) - BitVec.ofNat 64 i.length })

/-- R225, R226: a branch takes a checkpoint, and resolves at once: mispredicted where the prediction was another. -/
def predicted (h : HartId) (taken indirect isReturn miss : Bool) (target : W64) (s : State) : State :=
  let x := s.hart h
  match x.pred.branch x.pc with
  | none => s
  | some p => resolveBranch h x.pred.inFlight.length miss taken indirect isReturn target (s.onHart h fun y => { y with pred := p })

/-- The conditional branches. -/
def runBranch (h : HartId) (i : Insn) (s : State) : State :=
  let x := s.hart h
  match branchTaken (wFunct3 i.word).toNat (x.getX (wRs1 i.word).toNat) (x.getX (wRs2 i.word).toNat) with
  | none => illegal h i.word s
  | some t =>
    let miss := tget false x.pred.directions x.pc.toNat != t
    let s := predicted h t false false miss (x.pc + immB i.word) s
    if t then jumpTo h i (x.pc + immB i.word) s else retireLen h i.length s

/-- x1 and x5 hold return addresses. -/
def linkReg (r : Nat) : Bool := decide (r = 1 ∨ r = 5)

/-- JAL: a link register makes it a call (R227). -/
def runJal (h : HartId) (i : Insn) (s : State) : State :=
  let x := s.hart h
  let rd := (wRd i.word).toNat
  let ret := x.pc + BitVec.ofNat 64 i.length
  let s := if linkReg rd then s.onHart h fun y => { y with pred := y.pred.call ret } else s
  jumpTo h i (x.pc + immJ i.word) (s.onHart h fun y => y.setX rd ret)

/-- JALR: a return takes its prediction from the return stack, another jump from the indirect-target predictor (R227). -/
def runJalr (h : HartId) (i : Insn) (s : State) : State :=
  if wFunct3 i.word ≠ 0 then illegal h i.word s
  else
    let x := s.hart h
    let rd := (wRd i.word).toNat
    let rs := (wRs1 i.word).toNat
    let ret := x.pc + BitVec.ofNat 64 i.length
    let target := (x.getX rs + immI i.word) &&& ~~~1#64
    let isReturn := linkReg rs && !linkReg rd
    let guess := if isReturn then x.pred.ret x.pc else ((x.pred.indirect.find? (·.1 == x.pc.toNat)).map (·.2), x.pred)
    let s := s.onHart h fun y => { y with pred := guess.2 }
    let s := predicted h true true isReturn (guess.1 != some target) target s
    let s := if linkReg rd then s.onHart h fun y => { y with pred := y.pred.call ret } else s
    jumpTo h i target (s.onHart h fun y => y.setX rd ret)

/-! ### SYSTEM -/

/-- ECALL: its exception by the mode; with the Keeper world down a call to M-mode from a lower mode completes with KS_DOWN (Table 8.7). -/
def runEcall (h : HartId) (i : Insn) (s : State) : State :=
  let x := s.hart h
  let cause := match x.priv with
    | .u => 8
    | .s => if x.v then 10 else 9
    | .m => 11
  if s.kp.down && decide (x.priv ≠ .m) && decide (x.kenc = 0) && !x.medeleg.getLsbD cause then
    putX h i 10 (ksValue 3) s
  else raise h (BitVec.ofNat 64 cause) 0 s

/-- R389, R390: OPEN level admits harts in the Open world alone, KEEPER level every hart. -/
def dmAdmits (s : State) (h : HartId) : Bool := decide (s.kp.granted = 2) || (decide (s.kp.granted ≠ 0) && !(s.hart h).keeper)

/-- EBREAK: debug mode where dcsr asks for it and the debugger is admitted, else a breakpoint exception at pc (Table 5.4). -/
def runEbreak (h : HartId) (s : State) : State :=
  let x := s.hart h
  if x.modeBit (x.dcsr.zeroExtend 64) 15 13 12 17 16 && dmAdmits s h then s.onHart h (Hart.enterDebug 1) else raise h 3 x.pc s

/-- A trap return, which retires; R418 ends no claim. -/
def runReturn (h : HartId) (frm : TrapTo) (s : State) : State := s.onHart h fun x => x.countRetired.trapReturn frm

/-- MRET and SRET, by the mode and the TSR bits. -/
def runXret (h : HartId) (i : Insn) (m : Bool) (s : State) : State :=
  let x := s.hart h
  if m then (if x.priv = .m then runReturn h .m s else illegal h i.word s)
  else match x.priv with
    | .m => runReturn h .hs s
    | .u => if x.v then virtualInstr h s else illegal h i.word s
    | .s =>
      if x.v then (if x.vtsr then virtualInstr h s else runReturn h .vs s)
      else if x.tsr then illegal h i.word s else runReturn h .hs s

/-- The operands of a TLB fence: x0 stands for every address and every identifier. -/
def fenceOperands (x : Hart) (w : W32) : TlbFence :=
  { addr := if wRs1 w = 0 then none else some (x.getX (wRs1 w).toNat), id := if wRs2 w = 0 then none else some (x.getX (wRs2 w).toNat) }

/-- SFENCE.VMA, HFENCE.VVMA and HFENCE.GVMA (R205), by the mode and the TVM bits. -/
def runTlbFence (h : HartId) (i : Insn) (f7 : Nat) (s : State) : State :=
  let x := s.hart h
  let f := fenceOperands x i.word
  if x.priv = .u then (if x.v then virtualInstr h s else illegal h i.word s)
  else if x.v ∧ (f7 ≠ 0x09 ∨ x.vtvm = true) then virtualInstr h s
  else if !x.v && decide (x.priv = .s) && x.tvm && decide (f7 ≠ 0x11) then illegal h i.word s
  else
    let g := if f7 = 0x31 then x.fenceGvma f else x.fenceVma (decide (f7 = 0x11) || x.v) f
    retire h (s.onHart h fun _ => g)

/-- The hart as HLV and HSV access memory: with V = 1, in the mode of hstatus.SPVP. -/
def Hart.guestView (x : Hart) : Hart := { x with v := true, priv := if x.spvp then .s else .u }

/-- HLV, HLVX and HSV: in HS- and M-mode, and in U-mode while hstatus.HU is 1. -/
def runGuestAccess (h : HartId) (i : Insn) (s : State) : State :=
  let x := s.hart h
  let f7 := (wFunct7 i.word).toNat
  let isStore := decide (f7 % 2 = 1)
  let sel := (wRs2 i.word).toNat
  let c := i.access s h x.guestView (x.getX (wRs1 i.word).toNat) (widthOf ((f7 - 0x30) / 2))
  let k : AccessKind := if isStore then .store else if sel = 3 then .fetch else .load
  let ok := decide (0x30 ≤ f7 ∧ f7 ≤ 0x37) && (if isStore then decide (wRd i.word = 0)
    else decide (sel = 0) || (decide (sel = 1) && decide (f7 < 0x36)) || (decide (sel = 3) && decide (f7 = 0x32 ∨ f7 = 0x34)))
  if !ok then illegal h i.word s
  else if x.v then virtualInstr h s
  else if decide (x.priv = .u) && !x.hu then illegal h i.word s
  else match accessStop x.guestView k c.width.bytes c with
    | some e => raiseGuest h (if k = .fetch then (match e.cause with | 12 => 13 | 20 => 21 | 1 => 5 | z => z) else e.cause) c.va e.tval2 e.tinst s
    | none =>
      if isStore then storeAt h (x.getX sel) c s
      else loadInto h (fun v y => y.setX (wRd i.word).toNat (extend (decide (sel = 0)) c.width.bytes v)) c s

/-- SYSTEM with funct3 0. -/
def runPriv (h : HartId) (i : Insn) (s : State) : State :=
  let f7 := (wFunct7 i.word).toNat
  if i.word = 0x00000073#32 then runEcall h i s
  else if i.word = 0x00100073#32 then runEbreak h s
  else if i.word = 0x30200073#32 then runXret h i true s
  else if i.word = 0x10200073#32 then runXret h i false s
  else if i.word = wfiWord then after (execWfi h s) s
  else if wRd i.word = 0 ∧ (f7 = 0x09 ∨ f7 = 0x11 ∨ f7 = 0x31) then runTlbFence h i f7 s
  else illegal h i.word s

/-- The value that a CSR instruction writes, if it writes: CSRRW always, CSRRS and CSRRC unless rs1 or the immediate is 0. -/
def csrOperand (x : Hart) (w : W32) (old : W64) : Option W64 :=
  let f3 := (wFunct3 w).toNat
  let v : W64 := if 4 < f3 then (wRs1 w).zeroExtend 64 else x.getX (wRs1 w).toNat
  match f3 % 4 with
  | 1 => some v
  | 2 => if wRs1 w = 0 then none else some (old ||| v)
  | _ => if wRs1 w = 0 then none else some (old &&& ~~~v)

/-- The Zicsr instructions: the register's old value goes to rd. The seed CSR is read only by one that writes it (Zkr). -/
def runCsr (h : HartId) (i : Insn) (s : State) : State :=
  let n := (wImm i.word).toNat
  let x := s.hart h
  let writes := (csrOperand x i.word 0).isSome
  if n = 0x015 then
    (if writes then after (execSeedCsrRead h (Fin.ofNat 32 (wRd i.word).toNat) i.word s) s else illegal h i.word s)
  else csrAccess h n writes i.word (fun t =>
    let old := (csrRead t h n).getD 0
    let t := t.onHart h Hart.countRetired
    let t := match csrOperand x i.word old with
      | some v => csrStore h n v t
      | none => t
    passOn h (t.onHart h fun y => y.setX (wRd i.word).toNat old)) s

/-- SYSTEM. -/
def runSystem (h : HartId) (i : Insn) (s : State) : State :=
  match (wFunct3 i.word).toNat with
  | 0 => runPriv h i s
  | 4 => runGuestAccess h i s
  | _ => runCsr h i s

/-! ### Fences, cache blocks and hints -/

/-- A fence's set of four bits. -/
def fenceSet (n : Nat) : FenceSet := ⟨n / 8 % 2 = 1, n / 4 % 2 = 1, n / 2 % 2 = 1, n % 2 = 1⟩

/-- The cache-block instructions, by their immediate. -/
def runCbo (h : HartId) (i : Insn) (s : State) : State :=
  let c := i.at s h 0 .b1
  if wRd i.word ≠ 0 then illegal h i.word s
  else match (wImm i.word).toNat with
    | 0 => after (execCboInval h c s) s
    | 1 => after (execCboClean h c s) s
    | 2 => after (execCboFlush h c s) s
    | 4 => after (execCboZero h c s) s
    | _ => illegal h i.word s

/-- MISC-MEM: FENCE, FENCE.TSO, PAUSE, FENCE.I and the cache-block instructions. -/
def runMiscMem (h : HartId) (i : Insn) (s : State) : State :=
  match (wFunct3 i.word).toNat with
  | 0 =>
    if i.word = 0x0100000F#32 then after (execPause h s) s
    else if bits i.word 20 12 = 0x833 then after (execFenceTso h s) s
    else after (execFence h (fenceSet (bits i.word 24 4)) (fenceSet (bits i.word 20 4)) s) s
  | 1 => after (execFenceI h s) s
  | 2 => runCbo h i s
  | _ => illegal h i.word s

/-- The prefetch that an ORI to x0 encodes (Zicbop), by rs2's place. -/
def prefetchOf (w : W32) : Option PrefetchKind :=
  if wOpcode w = 0x13#7 ∧ wFunct3 w = 6 ∧ wRd w = 0 then
    (match (wRs2 w).toNat with | 0 => some .i | 1 => some .r | 3 => some .w | _ => none)
  else none

/-- The vendor instructions (Table 5.3). -/
def runVendor (h : HartId) (i : Insn) (s : State) : State :=
  match vendorDecode i.word with
  | none => illegal h i.word s
  | some .predFlush => after (execPredFlush h i.word s) s
  | some .predBar => after (execPredBar h i.word s) s
  | some .kenter => after (execKenter h i.word s) s
  | some .kexit => after (execKexit h i.word s) s
  | some .kresume => after (execKresume h i.word s) s
  | some .dispNext => after (execDispNext h i.word .none s) s
  | some .dispEnq => after (execDispEnq h i.word s) s
  | some .dispWait => after (execDispWait h i.word .none s) s
  | some .dispYield => after (execDispYield h i.word .none s) s

/-! ### One instruction -/

/-- Every computation, prefetch and other encoding that no other definition takes. -/
def runCompute (h : HartId) (i : Insn) (s : State) : State :=
  let x := s.hart h
  match prefetchOf i.word with
  | some k => after (execPrefetch h k (i.at s h (immI (i.word &&& ~~~0x01F00000#32)) .b1) s) s
  | none => match aluResult i.word x.pc (x.getX (wRs1 i.word).toNat) (x.getX (wRs2 i.word).toNat) with
    | some v => putX h i (wRd i.word).toNat v s
    | none => illegal h i.word s

/-- What an instruction does on a hart that executes, by its major opcode (Table 5.1). -/
def runInsn (h : HartId) (i : Insn) (s : State) : State :=
  match (wOpcode i.word).toNat with
  | 0x03 => runLoad h i s
  | 0x07 => runFpLoad h i s
  | 0x0B => runVendor h i s
  | 0x0F => runMiscMem h i s
  | 0x23 => runStore h i s
  | 0x27 => runFpStore h i s
  | 0x2B => runVendor h i s
  | 0x2F => runAmo h i s
  | 0x43 => runFp h i s
  | 0x47 => runFp h i s
  | 0x4B => runFp h i s
  | 0x4F => runFp h i s
  | 0x53 => runFp h i s
  | 0x63 => runBranch h i s
  | 0x67 => runJalr h i s
  | 0x6F => runJal h i s
  | 0x73 => runSystem h i s
  | _ => runCompute h i s

/-- The instruction of a first halfword and a second one: itself, or the word that a compressed one stands for; an illegal compressed
one keeps its own bits (Table 5.4). -/
def insnOf (lo hi : Nat) (inside debug : Bool) : Insn :=
  if lo % 4 = 3 then ⟨BitVec.ofNat 32 (lo + 65536 * hi), false, inside, debug⟩
  else match expandC (BitVec.ofNat 16 lo) with
    | some w => ⟨w, true, inside, debug⟩
    | none => ⟨BitVec.ofNat 32 lo, true, inside, debug⟩

/-- The fetch of a halfword at a virtual address. -/
def fetchHalf (h : HartId) (va : W64) (s : State) : State × Option Nat :=
  let p := pageWalk s h (s.hart h) va
  let c : Access := { va := va, pa := BitVec.ofNat 48 p.2, width := .b2, hint := .none, walk := p.1, fetchedInside := true, insn := 0 }
  match fetch h 2 c s with
  | (t, []) => (t, none)
  | (t, bs) => (t, some (ofBytesLE bs))

/-- R341, R343, R346: the address lies in the ranges of the hart's enclave, or of the monitor. -/
def ownRange (s : State) (h : HartId) (a : Nat) : Bool :=
  let x := s.hart h
  if x.kenc ≠ 0 then inEnclave s x.kenc.toNat a else decide (x.priv = .m) && inMonitor s a

/-- The hart fetches the instruction at pc and executes it; an exception of the fetch is taken instead. -/
def fetchAndRun (h : HartId) (s : State) : State :=
  let va := (s.hart h).pc
  let inside := ownRange s h (pageWalk s h (s.hart h) va).2
  match fetchHalf h va s with
  | (t, none) => t
  | (t, some lo) =>
    if lo % 4 ≠ 3 then runInsn h (insnOf lo 0 inside false) t
    else match fetchHalf h (va + 2) t with
      | (u, none) => u
      | (u, some hi) => runInsn h (insnOf lo hi inside false) u

end Sys2Proof.Machine
end

