-- ==== Sys2Proof/Machine/Debug.lean ====
section
/-!
DEFINITION. The debug module behind the DMI (05 Table 5.4, 08 §8.11): halting and resuming a hart, abstract register access,
system-bus access, and the program buffer of 8 words.

Its registers are those of RISC-V External Debug Support 1.0, by their addresses; those that only hold a value stand in
`Keeper.dmi`. (PRESUMED, log 64.)
-/

namespace Sys2Proof.Machine

/-- A register of the debug module that holds what is written. -/
def dmReg (s : State) (a : Nat) : W32 := tget 0 s.kp.dmi a
/-- Sets a register of the debug module. -/
def dmSet (a : Nat) (v : W32) (s : State) : State := s.onKp fun k => { k with dmi := tset 0 k.dmi a v }

/-- The hart that dmcontrol selects: hartsello and hartselhi. -/
def dmHart (s : State) : Option HartId :=
  let c := dmReg s 0x10
  (List.finRange 24)[bits c 16 10 + 1024 * bits c 6 10]?

/-! ### Halt and resume -/

/-- R389: a halt request of a hart that is not admitted waits until the hart enters the Open world. -/
def haltHart (h : HartId) (s : State) : State :=
  s.onHart h fun x =>
    if x.halted ∨ x.inReset = true then x
    else if dmAdmits s h then x.enterDebug 3 else { x with haltReq := true }

/-- A hart leaves debug mode at dpc. -/
def Hart.leaveDebug (x : Hart) : Hart := { x with halted := false, pc := x.dpc }

/-- dcsr.step: the hart executes one instruction, and halts again as soon as the debugger is admitted. -/
def stepHart (h : HartId) (s : State) : State :=
  let t := fetchAndRun h s
  t.onHart h fun x => if dmAdmits t h then x.enterDebug 4 else { x with haltReq := true }

/-- A halted hart goes on at dpc, for one instruction under dcsr.step. -/
def resumeHart (h : HartId) (s : State) : State :=
  if (s.hart h).halted then
    let t := s.onHart h Hart.leaveDebug
    if (s.hart h).dcsr.getLsbD 2 then stepHart h t else t
  else s

/-- A write of dmcontrol: haltreq halts, resumereq resumes. Its hartreset and ndmreset are the rows DEBUG_HARTRESET and
DEBUG_NDMRESET. -/
def dmControl (v : W32) (s : State) : State :=
  let s := dmSet 0x10 (v &&& 0x07FFFFC1#32) s
  match dmHart s with
  | none => s
  | some h => if v.getLsbD 31 then haltHart h s else if v.getLsbD 30 then resumeHart h s else s

/-- dmstatus: version 3, authenticated, and the selected hart's state. -/
def dmStatus (s : State) : W32 :=
  let fs := match dmHart s with
    | none => [(14, true), (15, true)]
    | some h => let x := s.hart h; [(8, x.halted), (9, x.halted), (10, !x.halted), (11, !x.halted)]
  ((word ([(0, true), (1, true), (7, true)] ++ fs)).truncate 32)

/-! ### Abstract register access -/

/-- cmderr takes a code where it holds none. -/
def cmdError (n : Nat) (s : State) : State := if dmReg s 0x16 = 0 then dmSet 0x16 (BitVec.ofNat 32 (2 ^ 8 * n)) s else s

/-- dcsr as it reads: version 4, the ebreak, cause and step fields, and the hart's mode. -/
def Hart.readDcsr (x : Hart) : W64 :=
  (x.dcsr.zeroExtend 64) ||| word [(30, true), (5, x.v)] ||| BitVec.ofNat 64 (Priv.code x.priv)

/-- A write of dcsr; only KEEPER level may put a hart into M-mode (R389). -/
def Hart.writeDcsr (x : Hart) (keeperLevel : Bool) (v : W64) : Hart :=
  let p := match bits v 0 2 with | 0 => Priv.u | 1 => .s | 3 => if keeperLevel then .m else x.priv | _ => x.priv
  { x with dcsr := (x.dcsr &&& 0x1C0#32) ||| ((v.truncate 32) &&& 0x3B004#32), priv := p, v := v.getLsbD 5 && decide (p ≠ .m) }

/-- A register by its abstract number: a CSR, x0-x31 or f0-f31; dcsr is 0x7B0, dpc 0x7B1. -/
def abstractRead (s : State) (h : HartId) (n : Nat) : Option W64 :=
  if n = 0x7B0 then some (s.hart h).readDcsr
  else if n = 0x7B1 then some (s.hart h).dpc
  else if n < 0x1000 then csrRead s h n
  else if n < 0x1020 then some ((s.hart h).getX (n - 0x1000))
  else if n < 0x1040 then some (tget 0 (s.hart h).f (n - 0x1020))
  else none

/-- A write of a register by its abstract number. -/
def abstractWrite (h : HartId) (n : Nat) (v : W64) (s : State) : State :=
  if n = 0x7B0 then s.onHart h fun x => x.writeDcsr (decide (s.kp.granted = 2)) v
  else if n = 0x7B1 then s.onHart h fun x => { x with dpc := v &&& ~~~1#64 }
  else if n < 0x1000 then csrStore h n v s
  else if n < 0x1020 then s.onHart h fun x => x.setX (n - 0x1000) v
  else s.onHart h fun x => { x with f := tset 0 x.f (n - 0x1020) v }

/-- data1 and data0 as one value, of 4 or 8 bytes. -/
def dmData (s : State) (wide : Bool) : W64 :=
  ((dmReg s 4).zeroExtend 64) ||| (if wide then ((dmReg s 5).zeroExtend 64) <<< 32 else 0)

/-- The 16 halfwords of the program buffer. -/
def bufferHalves (s : State) : List Nat := (List.range 8).flatMap fun i => [bits (dmReg s (0x20 + i)) 0 16, bits (dmReg s (0x20 + i)) 16 16]

/-- Runs the instructions of the program buffer in order to the EBREAK that ends it, which the second result says it came to. An
instruction that raises an exception or does not go on to the next leaves the hart as it was. -/
def runBuffer (h : HartId) : Nat → List Nat → State → State × Bool
  | fuel + 1, lo :: rest, s =>
    let i := insnOf lo (rest.headD 0) false true
    let t := runInsn h i s
    if i.word = 0x00100073#32 then (s, true)
    else if (t.hart h).pc = (s.hart h).pc + BitVec.ofNat 64 i.length then runBuffer h fuel (if i.short then rest else rest.drop 1) t
    else (t.onHart h fun _ => s.hart h, false)
  | _, _, s => (s, false)

/-- The program buffer of 8 words (Table 5.4) runs on a halted hart, which stays in debug mode; an exception is cmderr 3. -/
def programBuffer (h : HartId) (s : State) : State :=
  let x := s.hart h
  let p := runBuffer h 16 (bufferHalves s) (s.onHart h fun y => { y with halted := false })
  let t := p.1.onHart h fun y => { y with halted := true, pc := x.pc, dpc := x.dpc, stall := .none }
  if p.2 then t else cmdError 3 t

/-- The Access Register command on a halted, admitted hart: 2 an unsupported command, 3 no such register, 4 not halted. -/
def accessRegister (v : W32) (s : State) : State :=
  let n := bits v 0 16
  let wide := decide (bits v 20 3 = 3)
  match dmHart s with
  | none => cmdError 4 s
  | some h =>
    if (s.hart h).halted = false ∨ dmAdmits s h = false then cmdError 4 s
    else
      let s := if v.getLsbD 17 = false then s
        else match abstractRead s h n with
          | none => cmdError 3 s
          | some r =>
            if v.getLsbD 16 then abstractWrite h n (dmData s wide) s
            else
              let s := dmSet 4 (r.truncate 32) s
              if wide then dmSet 5 ((r >>> 32).truncate 32) s else s
      if v.getLsbD 18 && decide (dmReg s 0x16 = 0) then programBuffer h s else s

/-- A write of the command register, ignored while cmderr holds a code. -/
def dmCommand (v : W32) (s : State) : State :=
  if dmReg s 0x16 ≠ 0 then s
  else if bits v 24 8 ≠ 0 ∨ (v.getLsbD 17 = true ∧ ¬(bits v 20 3 = 2 ∨ bits v 20 3 = 3)) then cmdError 2 s
  else accessRegister v s

/-! ### System-bus access -/

/-- Bytes of one access, by sbcs.sbaccess. -/
def sbBytes (s : State) : Nat := 2 ^ min 3 (bits (dmReg s 0x38) 17 3)
/-- The address in sbaddress1 and sbaddress0. -/
def sbAddress (s : State) : Nat := (dmReg s 0x39).toNat + 2 ^ 32 * (dmReg s 0x3A).toNat

/-- The address moves on with sbautoincrement. -/
def sbAdvance (s : State) : State :=
  if (dmReg s 0x38).getLsbD 16 then
    let a := sbAddress s + sbBytes s
    dmSet 0x3A (BitVec.ofNat 32 (a / 2 ^ 32)) (dmSet 0x39 (BitVec.ofNat 32 a) s)
  else s

/-- sberror takes a code. -/
def sbError (n : Nat) (s : State) : State := dmSet 0x38 (dmReg s 0x38 ||| BitVec.ofNat 32 (2 ^ 12 * n)) s

/-- R389: an access to DRAM, checked as an Open-world access; 2 a bad address, 3 a bad alignment. -/
def systemBus (f : Agent → Nat → Nat → State → State) (s : State) : State :=
  let a := sbAddress s
  let n := sbBytes s
  if bits (dmReg s 0x38) 12 3 ≠ 0 then s
  else if a % n ≠ 0 then sbError 3 s
  else if regionOf a n ≠ .dram then sbError 2 s
  else sbAdvance (f (openAgent 25) a n s)

/-- A read of the system bus; poison is another error, 7. -/
def sbRead (s : State) : State :=
  systemBus (fun g a n t =>
    let p := agentCheck g a n t
    let v := ofBytesLE (agentRead p.1 g a n)
    if p.2 then sbError 7 (poisonConsumed p.1)
    else dmSet 0x3D (BitVec.ofNat 32 (v / 2 ^ 32)) (dmSet 0x3C (BitVec.ofNat 32 v) p.1)) s

/-- A write of the system bus. -/
def sbWrite (s : State) : State :=
  systemBus (fun g a n t => agentWrite g 2 a (bytesLE n ((dmReg t 0x3C).toNat + 2 ^ 32 * (dmReg t 0x3D).toNat)) t) s

/-! ### The DMI -/

/-- What a DMI read answers, an unlock being in effect. -/
def dmRead (s : State) (a : Nat) : W32 :=
  match a with
  | 0x11 => dmStatus s
  | 0x16 => dmReg s 0x16 ||| 0x08000002#32
  | 0x38 => dmReg s 0x38 ||| 0x2000060F#32
  | _ => dmReg s a

/-- A DMI read: one of sbdata0 reads on where sbreadondata asks for it. -/
def dmReadOn (a : Nat) (s : State) : State :=
  let s := s.emit (.tdo 32 (dmRead s a).toNat)
  if a = 0x3C ∧ (dmReg s 0x38).getLsbD 15 then sbRead s else s

/-- A DMI write, an unlock being in effect. -/
def dmWrite (a : Nat) (v : W32) (s : State) : State :=
  match a with
  | 0x10 => dmControl v s
  | 0x11 => s
  | 0x16 => dmSet 0x16 (dmReg s 0x16 &&& ~~~(v &&& 0x700#32)) s
  | 0x17 => dmCommand v s
  | 0x38 => dmSet 0x38 ((v &&& 0x001F8000#32) ||| (dmReg s 0x38 &&& 0x7000#32 &&& ~~~v)) s
  | 0x39 => let s := dmSet 0x39 v s; if (dmReg s 0x38).getLsbD 20 then sbRead s else s
  | 0x3C => sbWrite (dmSet 0x3C v s)
  | _ => if a = 4 ∨ a = 5 ∨ (0x20 ≤ a ∧ a < 0x28) ∨ a = 0x3A ∨ a = 0x3D then dmSet a v s else s

/-- DMI_ACCESS (R385): without an unlock a read answers zero and a write is ignored. -/
def dmiAccess (op : DmiOp) (s : State) : State :=
  match op with
  | .read a => if s.kp.granted = 0 then s.emit (.tdo 32 0) else troubleEdges s (dmReadOn a.toNat s)
  | .write a v => if s.kp.granted = 0 then s else troubleEdges s (dmWrite a.toNat v s)

/-- DMI_ACCESS (R385). -/
def execDmiAccess (op : DmiOp) (s : State) : Host.Outcome State Fault Refusal := .next (scan 0x11 (dmiAccess op) s)

end Sys2Proof.Machine
end

