-- ==== Sys2Proof/Machine/Feeds.lean ====
section
/-!
DEFINITION. Feeds, hold-up, the power-fail commit, the start of a POWER-ON reset and the die temperature (04 §4.1, §4.2, §4.4;
05 §5.1), with the status lands PWR_GOOD, FAULT# and THERM#.

A row whose condition the spec states (a threshold, a level) acts only where its operand meets it; that a condition has
lasted its time is the sender's to say.
-/

namespace Sys2Proof.Machine

/-! ### Status lands (§4.3) -/

/-- R152: PWR_GOOD is released. A power-fail commit is one step of this model, after which the rails are off. -/
def pwrGood (s : State) : Bool := decide (s.pwr.supply = .on)

/-- R153: FAULT# sinks. A wear closure (R584) holds over a MODULE reset. -/
def faultSinks (s : State) : Bool := s.up.daymark || s.rings.closed || s.lb.wearClosed || s.pwr.slow || s.pwr.trouble.getLsbD 9

/-- R154: THERM# sinks. -/
def thermSinks (s : State) : Bool := s.pwr.thermWarn

/-! ### Feeds (Table 4.1) -/

/-- A feed. -/
def State.feed (s : State) (f : Feed) : FeedState := match f with | .a => s.pwr.feedA | .b => s.pwr.feedB

/-- Changes a feed. -/
def State.onFeed (s : State) (f : Feed) (g : FeedState → FeedState) : State :=
  s.onPwr fun p => match f with
    | .a => { p with feedA := g p.feedA }
    | .b => { p with feedB := g p.feedB }

/-- A bit of PS_TROUBLE is set. -/
def psSet (b : Nat) (s : State) : State := s.onPwr fun p => { p with trouble := setBit p.trouble b }

/-- A bit of PS_TROUBLE is set while the power subsystem holds the record, that is, from the start of a POWER-ON reset on. -/
def psEvent (b : Nat) (s : State) : State := if s.pwr.supply = .off ∨ s.pwr.supply = .lockout then s else psSet b s

/-- The bit of a feed in a pair of bits of PS_TROUBLE. -/
def feedBit (f : Feed) (base : Nat) : Nat := match f with | .a => base | .b => base + 1

/-- The feed is reversed (Table 4.1). -/
def FeedState.reversed (x : FeedState) : Bool := decide (x.volts < -500)

/-- Some feed is valid (R133). -/
def feedPresent (s : State) : Bool := s.pwr.feedA.ok || s.pwr.feedB.ok

/-- R134, R135: a lost feed shows in PS_TROUBLE: under the flag of the applied table, or as though it were 1 in Daymark mode,
and not before the table is applied; during a MODULE reset the table applied before it stands. -/
def lossShows (s : State) : Bool := ((tableUp s || (s.pwr.moduleReset && s.lt.applied)) && s.lt.singleFeedTrouble) || decide (s.pwr.stage = .daymark)

/-- R134. (DESIGN CHOICE, log 16.) -/
def feedLost (f : Feed) (s : State) : State := if lossShows s then psEvent (feedBit f 0) s else s

/-- R135: the feeds as judged when the table is applied, or Daymark mode entered. -/
def judgeFeeds (s : State) : State :=
  [Feed.a, Feed.b].foldl (fun t f => if (t.feed f).ok then t else feedLost f t) s

/-- R182, R185: both feeds gone before the commit is armed: the module switches off without one. A start-up lockout lasts
until POL_LOCKOUT_END. (DESIGN CHOICE, log 16.) -/
def bothLost (s : State) : State :=
  if feedPresent s || s.pwr.commitArmed || decide (s.pwr.supply = .off) || decide (s.pwr.supply = .lockout) then s else switchOff s

/-- FEED_BECOMES_VALID's effect. -/
def feedValid (f : Feed) (v : Int) (s : State) : State :=
  let x := s.feed f
  if 3150 ≤ v ∧ v ≤ 8400 ∧ (x.overvoltage = false ∨ v < 8050) then
    s.onFeed f fun x => { x with ok := true, overvoltage := false, shorted := false, volts := v }
  else s

/-- FEED_BECOMES_VALID (R132). (DESIGN CHOICE, log 3.) -/
def execFeedBecomesValid (f : Feed) (v : Int) (s : State) : Host.Outcome State Fault Refusal :=
  if v < -8000 ∨ 10000 < v then .fault .absoluteMaximum else .next (feedValid f v s)

/-- FEED_BECOMES_INVALID's effect. (DESIGN CHOICE, log 16.) -/
def feedInvalid (f : Feed) (v : Int) (s : State) : State :=
  if v < 3000 ∧ -500 ≤ v then
    let was := (s.feed f).ok
    let s := s.onFeed f fun x => { x with ok := false, volts := v }
    bothLost (if was then feedLost f s else s)
  else s

/-- FEED_BECOMES_INVALID (R132, R134, R182). (DESIGN CHOICE, log 3.) -/
def execFeedBecomesInvalid (f : Feed) (v : Int) (s : State) : Host.Outcome State Fault Refusal :=
  if v < -8000 ∨ 10000 < v then .fault .absoluteMaximum else ok s (feedInvalid f v s)

/-- FEED_OVERVOLTAGE (R132): the input stage opens. (DESIGN CHOICE, log 3.) -/
def execFeedOvervoltage (f : Feed) (v : Int) (s : State) : Host.Outcome State Fault Refusal :=
  if v < -8000 ∨ 10000 < v then .fault .absoluteMaximum
  else ok s (if 8400 < v then
      bothLost (psEvent (feedBit f 6) (s.onFeed f fun x => { x with ok := false, overvoltage := true, volts := v }))
    else s)

/-- FEED_REVERSED (R132): reverse current is blocked. (DESIGN CHOICE, log 3.) -/
def execFeedReversed (f : Feed) (v : Int) (s : State) : Host.Outcome State Fault Refusal :=
  if v < -8000 ∨ 10000 < v then .fault .absoluteMaximum
  else ok s (if v < -500 then
      bothLost (psEvent (feedBit f 4) (s.onFeed f fun x => { x with ok := false, volts := v }))
    else s)

/-- FEED_SHORTED (R132): the element opens. -/
def execFeedShorted (f : Feed) (s : State) : Host.Outcome State Fault Refusal :=
  ok s (bothLost (psEvent (feedBit f 2) (s.onFeed f fun x => { x with ok := false, shorted := true })))

/-! ### The power cap (R136) -/

/-- R136: over the cap, the core clock's limit falls by 100 MHz; otherwise it rises again, up to 3.0 GHz, and the clock with it
where the die temperature lets it rise (R188).
(DESIGN CHOICE, log 18.) -/
def powerCapInterval (w : Nat) (s : State) : State :=
  let cap := if 10 * s.lt.powerCapW < w then max 100 (s.pwr.capMHz - 100) else min 3000 (s.pwr.capMHz + 100)
  let begins := decide (cap < 3000) && !s.pwr.capping
  s.onPwr fun p =>
    { p with inputDeciW := w, capMHz := cap, capping := decide (cap < 3000), trouble := setBitIf begins p.trouble 11
             coreMHz := if cap < p.capMHz then min p.coreMHz cap else if s.lt.throttleC - 3 ≤ p.dieTemp then p.coreMHz else min cap (p.coreMHz + 100) }

/-- POWER_CAP_INTERVAL (R136, R189). -/
def execPowerCapInterval (deciWatts : Nat) (s : State) : Host.Outcome State Fault Refusal :=
  ok s (if s.pwr.supply = .on then powerCapInterval deciWatts s else s)

/-! ### Hold-up and the power-fail commit (§4.2) -/

/-- HOLDUP_CHARGED (R137). (DESIGN CHOICE, log 16.) -/
def execHoldupCharged (s : State) : Host.Outcome State Fault Refusal :=
  .next (if feedPresent s then s.onPwr fun p => { p with holdupReady := true } else s)

/-- R140: a power-fail commit is due: both feeds are invalid while it is armed. -/
def commitDue (s : State) : Bool := !feedPresent s && s.pwr.commitArmed && decide (s.pwr.supply = .on)

/-- Table 4.2, steps 1 and 2, with R292's drain: the commit-open mark, the TRIPs, the halt. -/
def commitBegin (s : State) : State :=
  let s := failsafeTrips 6 (s.onPwr fun p => { p with commitMark := true })
  haltWork (forAll allHarts drainBoth s)

/-- The whole of Table 4.2: the tail, the trouble bits, the end mark, and the rails off; the next POWER-ON reset records
`cause` (R176). (DESIGN CHOICE, log 20.) -/
def powerFailCommit (cause : Nat) (s : State) : State :=
  let s := carryTrouble (commitBegin s)
  switchOff (s.onPwr fun p => { p with commitMark := false, nextCause := cause })

/-- POWER_FAIL_COMMIT (R140-R142, R177, R180). -/
def execPowerFailCommit (s : State) : Host.Outcome State Fault Refusal :=
  ok s (if commitDue s then powerFailCommit 2 s else s)

/-- Only lines below an LSN were written. (DESIGN CHOICE, log 20.) -/
def cutLines (lsn : Nat) (s : State) : State :=
  s.onLb fun g =>
    { g with a := { g.a with lines := g.a.lines.filter fun e => decide (e.1 < lsn) }
             b := { g.b with lines := g.b.lines.filter fun e => decide (e.1 < lsn) } }

/-- R184, R574: the energy ends before the end mark: how much of the carried trouble was written is open, the mark stays, and
the next POWER-ON reset follows no completed commit. (DESIGN CHOICE, log 20.) -/
def tornCommit (s : State) : State :=
  let s := commitBegin s
  let from_ := s.lb.head
  let (n, s) := (carryTrouble s).draw
  (switchOff (cutLines (from_ + Config.freeNat n % max 1 (s.lb.head - from_)) s)).onPwr fun p => { p with holdupReady := false }

/-- HOLDUP_EXHAUSTED (R138, R184): without a commit that is due there is nothing left to lose. -/
def execHoldupExhausted (s : State) : Host.Outcome State Fault Refusal :=
  ok s (if commitDue s then tornCommit s else if feedPresent s then s else s.onPwr fun p => { p with holdupReady := false })

/-! ### POL faults (R185) -/

/-- The module stays off until both feeds have been removed for 1 s. (DESIGN CHOICE, log 17.) -/
def lockOut (s : State) : State := (switchOff s).onPwr fun p => { p with supply := .lockout }

/-- A POL regulator leaves regulation: a failed start-up before the rails are good; then a switch-off, or the commit. -/
def polFault (s : State) : State :=
  match s.pwr.supply with
  | .off | .lockout => s
  | .starting => lockOut s
  | .on =>
    let s := psSet 9 s
    if s.pwr.commitArmed then powerFailCommit 3 s else switchOff (s.onPwr fun p => { p with nextCause := 3 })

/-- POL_FAULT (R185, R176). -/
def execPolFault (s : State) : Host.Outcome State Fault Refusal := ok s (polFault s)

/-- POL_RAIL_NOT_GOOD (R185): a rail is not good 2 ms after feeds valid. -/
def execPolRailNotGood (s : State) : Host.Outcome State Fault Refusal :=
  ok s (if s.pwr.supply = .starting then lockOut s else s)

/-- POL_LOCKOUT_END (R185). (DESIGN CHOICE, log 4.) -/
def execPolLockoutEnd (s : State) : Host.Outcome State Fault Refusal :=
  .next (if s.pwr.supply = .lockout ∧ feedPresent s = false then s.onPwr fun p => { p with supply := .off } else s)

/-! ### POWER-ON reset (§4.4, R143) -/

/-- The conditions that hold on a feed when the trouble record starts anew. (DESIGN CHOICE, log 16.) -/
def presentConditions (f : Feed) (s : State) : State :=
  let x := s.feed f
  let s := if x.overvoltage then psSet (feedBit f 6) s else s
  let s := if x.reversed then psSet (feedBit f 4) s else s
  if x.shorted then psSet (feedBit f 2) s else s

/-- A POWER-ON reset starts: everything that keeps no charge is at its reset value since the rails went off.
(DESIGN CHOICE, log 17.) -/
def powerOn (holdupLow : Bool) (s : State) : State :=
  let s := s.onPwr fun p =>
    { p with supply := .starting, stage := .none, cause := p.nextCause, nextCause := 1, modResets := 0, owesReplay := true
             trouble := setBitIf holdupLow p.trouble 8 }
  presentConditions .b (presentConditions .a s)

/-- POWER_ON_RESET (R139, R143, R165, R176). -/
def execPowerOnReset (holdupLow : Bool) (s : State) : Host.Outcome State Fault Refusal :=
  ok s (if s.pwr.supply = .off ∧ feedPresent s = true then powerOn holdupLow s else s)

/-- Table 4.3, POL rails good: all 64 TRIPs are asserted, with cause POWER_ON, and the straps are sampled (R147). A die that
is too hot holds the boot here (R851). (DESIGN CHOICE, log 17.) -/
def railsGood (modId : BitVec 6) (daymarkHigh : Bool) (s : State) : State :=
  let s := s.onSd fun m =>
    { m with sites := (List.range 64).foldl (fun t n => tmod {} t n fun x => { x with asserted := true, cause := 4, channel := 0xFF, ct := 0 }) m.sites }
  s.onPwr fun p =>
    { p with supply := .on, stage := .rails, modId := modId, daymarkPin := daymarkHigh, thermalHold := decide (s.lt.throttleC ≤ p.dieTemp) }

/-- POL_RAILS_GOOD (R145, R147, R155, R851). -/
def execPolRailsGood (modId : BitVec 6) (daymarkHigh : Bool) (s : State) : Host.Outcome State Fault Refusal :=
  ok s (if s.pwr.supply = .starting then railsGood modId daymarkHigh s else s)

/-! ### Die temperature -/

/-- THERMAL_HOLD_RELEASE (R851). -/
def execThermalHoldRelease (temp : Int) (s : State) : Host.Outcome State Fault Refusal :=
  .next (s.onPwr fun p =>
    { p with dieTemp := temp, thermalHold := p.thermalHold && decide (s.lt.throttleC - 3 ≤ temp) })

/-- THERM_WARN_ASSERT (R154). -/
def execThermWarnAssert (temp : Int) (s : State) : Host.Outcome State Fault Refusal :=
  .next (s.onPwr fun p => { p with dieTemp := temp, thermWarn := p.thermWarn || (decide (s.lt.warnC ≤ temp) && decide (p.supply = .on)) })

/-- THERM_WARN_RELEASE (R154). -/
def execThermWarnRelease (temp : Int) (s : State) : Host.Outcome State Fault Refusal :=
  .next (s.onPwr fun p => { p with dieTemp := temp, thermWarn := p.thermWarn && decide (s.lt.warnC - 5 ≤ temp) })

/-- R188: at or above THROTTLE_C the core clock falls by 100 MHz, to 1.0 GHz at the lowest; below THROTTLE_C - 3 it rises by
100 MHz, to 3.0 GHz or the lower limit of R136. (DESIGN CHOICE, log 18.) -/
def throttleStep (temp : Int) (s : State) : State :=
  let hot := decide (s.lt.throttleC ≤ temp)
  let begins := hot && !s.pwr.throttling
  s.onPwr fun p =>
    { p with dieTemp := temp, throttling := hot, trouble := setBitIf begins p.trouble 12
             coreMHz := if hot then max (min p.coreMHz 1000) (p.coreMHz - 100)
               else if temp < s.lt.throttleC - 3 then min (min 3000 p.capMHz) (p.coreMHz + 100) else p.coreMHz }

/-- THROTTLE_STEP (R188, R189). -/
def execThrottleStep (temp : Int) (s : State) : Host.Outcome State Fault Refusal :=
  ok s (if s.pwr.supply = .on then throttleStep temp s else s.onPwr fun p => { p with dieTemp := temp })

/-- DIE_TEMP_SHUTDOWN (R850): as a POL fault, with THROTTLED (Table 18.3). -/
def execDieTempShutdown (temp : Int) (s : State) : Host.Outcome State Fault Refusal :=
  let s' := s.onPwr fun p => { p with dieTemp := temp }
  ok s (if 125 ≤ temp ∧ s.pwr.supply = .on then polFault (psSet 12 s') else s')

end Sys2Proof.Machine
end

