-- ==== Sys2Proof/Machine/Boot.lean ====
section
/-!
DEFINITION. Start-up (04 §4.4): the choice of a slot (17 §17.3), the light table's check and application (03), the Keeper
monitor's start, logbook replay (12 §12.6) with what a changed table does to rings and VFs (R172, R503, R901), and ring service.
-/

namespace Sys2Proof.Machine

/-! ### ROM start and the choice of a slot -/

/-- R809: a fuse blow that a reset interrupted is completed, up to the firmware SEC_VERSION of the PREFERRED slot. -/
def finishFuses (u : Update) : Update :=
  if u.blowing then { u with blowing := false, fuses := max u.fuses (u.slot (if u.preferredB then .b else .a)).secVer } else u

/-- R803: a BOOTING mark that is found adds 1 to FAILS; a failed verification does the same. -/
def failedBoot (k : Slot) (u : Update) : Update :=
  { (u.onSlot k fun r => { r with booting := false, fails := min 3 (r.fails + 1) }) with trouble := setBit u.trouble 4 }

/-- R803: the marks of boots that did not reach ring service. (DESIGN CHOICE, log 20.) -/
def foundMarks (u : Update) : Update :=
  [Slot.a, Slot.b].foldl (fun u k => if (u.slot k).booting then failedBoot k u else u) u

/-- R802: a TRIAL slot with ATTEMPTS 3 becomes INVALID, which is a reversion. R804: so does a CONFIRMED slot below the fuses.
(DESIGN CHOICE, log 58.) -/
def dropSlots (u : Update) : Update :=
  [Slot.a, Slot.b].foldl (fun u k =>
    let r := u.slot k
    if r.st = .trial ∧ 3 ≤ r.attempts then
      { (u.onSlot k fun r => { r with st := .invalid }) with trouble := setBit u.trouble 1 }
    else if r.st = .confirmed ∧ r.secVer < u.fuses then u.onSlot k fun r => { r with st := .invalid }
    else u) u

/-- R801: what makes a slot a candidate, but for FAILS. -/
def otherwiseEligible (u : Update) (k : Slot) : Bool :=
  let r := u.slot k
  (decide (r.st = .trial ∧ r.attempts < 3) || decide (r.st = .confirmed)) && decide (u.fuses ≤ r.secVer)

/-- R801 step 2: the candidates, in the order in which they are tried: the TRIAL slot, PREFERRED, the other one. -/
def candidates (u : Update) : List Slot :=
  let pref : Slot := if u.preferredB then .b else .a
  let order := ([Slot.a, Slot.b].filter fun k => decide ((u.slot k).st = .trial)) ++
    ([pref, pref.other].filter fun k => decide ((u.slot k).st ≠ .trial))
  order.filter fun k => otherwiseEligible u k && decide ((u.slot k).fails < 3)

/-- The slots as ROM finds them: marks counted, dropped slots gone, and the candidates of this boot. -/
def slotsAtStart (u : Update) : Update :=
  let u := dropSlots (foundMarks (finishFuses u))
  { u with tries := candidates u }

/-- R829: the cause of Daymark mode where no candidate is left at the selection. -/
def emptyCause (u : Update) : Nat :=
  if [Slot.a, Slot.b].any (otherwiseEligible u) then 3 else 2

/-- Chain ports leave DISABLED once the module serves. (DESIGN CHOICE, log 59.) -/
def startPorts (s : State) : State :=
  s.onUp fun u => { u with portUp := { u.portUp with st := .detect }, portDown := { u.portDown with st := .detect } }

/-- No light table is in effect; the result codes of the two slots stay. -/
def noTable (s : State) : State := s.onLt fun lt => { resultA := lt.resultA, resultB := lt.resultB }

/-- R830: Daymark mode: no light table is in effect, and every TRIP is asserted, with the cause that R724 gives.
(DESIGN CHOICE, log 21.) -/
def enterDaymark (cause : Nat) (s : State) : State :=
  let trip := if s.pwr.cause ≤ 3 then 4 else 5
  let s := (List.range 64).foldl (fun t n => assertTrip n trip 0xFF t) s
  let s := ((noTable s).onUp fun u => { u with daymark := true, daymarkCause := cause, tries := [] }).onPwr fun p => { p with stage := .daymark }
  judgeFeeds (startPorts s)

/-- The units as ROM self-test and the entropy health test leave them: a failed part shows by its own row. -/
def selfTest (entropyOk : Bool) (s : State) : State :=
  let s := s.onCx fun c =>
    { c with laneOk := BitVec.allOnes 16, esOk := entropyOk, drbgOk := entropyOk, trouble := setBitIf (!entropyOk) c.trouble 2 }
  s.onMu fun m => { m with ok := BitVec.allOnes 6 }

/-- ROM_START's effect: self-tests, module time, the NOR's SFDP table, link training, and the choice of a slot. -/
def romStart (entropyOk : Bool) (s : State) : State :=
  let s := (selfTest entropyOk (s.onCt fun c => { c with mtRunning := true })).emit (.nor 0x5AA5 0)
  let s := if s.pwr.commitMark then psSet 10 (s.onPwr fun p => { p with commitMark := false }) else s
  let s := (s.onHost fun h => { h with training := !s.pwr.perst }).onPwr fun p => { p with stage := .rom }
  let s := s.onLt fun lt => { lt with resultA := 0xFF, resultB := 0xFF }
  let s := s.onUp fun u =>
    slotsAtStart { u with daymark := false, daymarkCause := 0, revertPending := false, norRetries := 0, health := none, trial := false }
  if !s.pwr.daymarkPin then enterDaymark 1 s
  else if s.up.tries.isEmpty then enterDaymark (emptyCause s.up) s
  else s

/-- The boot may start from ROM: the rails are good, and nothing holds it. (DESIGN CHOICE, log 4.) -/
def romReady (s : State) : Bool :=
  decide (s.pwr.supply = .on) && decide (s.pwr.stage = .rails) && !s.pwr.thermalHold && !s.pwr.moduleReset

/-- ROM_START (R62, R148, R155, R158, R801-R804, R809, R829). -/
def execRomStart (entropyOk : Bool) (s : State) : Host.Outcome State Fault Refusal :=
  ok s (if romReady s then romStart entropyOk s else s)

/-! ### The light table -/

/-- The result code of a slot's table at this boot. -/
def setResult (k : Slot) (n : Nat) (s : State) : State :=
  s.onLt fun lt => match k with
    | .a => { lt with resultA := BitVec.ofNat 8 n }
    | .b => { lt with resultB := BitVec.ofNat 8 n }

/-- R128, R803: the marks and bits of a slot whose check failed; a TRIAL slot becomes INVALID. (DESIGN CHOICE, log 21.) -/
def slotFailed (k : Slot) (trial light : Bool) (u : Update) : Update :=
  let u := failedBoot k u
  let u := if trial then { (u.onSlot k fun r => { r with st := .invalid }) with trouble := setBit u.trouble 1 } else u
  { u with trouble := setBitIf light u.trouble 0, tries := u.tries.tail }

/-- R128, R801 step 4, R803: the slot tried fails; the next one is tried, or none is left. -/
def slotFails (k : Slot) (light : Bool) (s : State) : State :=
  let trial := decide ((s.up.slot k).st = .trial)
  let s := s.onUp (slotFailed k trial light)
  if s.up.tries.isEmpty then enterDaymark 2 s else s

/-- R368, R670, R739: blocks take the worlds of ATTRIB; a unit whose world differs from before is BLOCK-reset. -/
def initialWorlds (s : State) : State :=
  let w : BitVec 16 := BitVec.ofNat 16 (s.lt.muInitial.toNat + 16 * s.lt.luInitial.toNat + 256 * s.lt.sdInitial.toNat)
  let s := ((List.range 6).filter fun u => s.kp.world.getLsbD u != w.getLsbD u).foldl (fun t u =>
    match sessionOn t u with
    | some (l, _) => endSession l t
    | none => t) s
  s.onKp fun k => { k with world := w }

/-- R170: an enclave that the table no longer declares, or declares with another OWNER, is destroyed. -/
def dropEnclaves (s : State) : State :=
  let gone := (s.kp.encl.filter fun e => decide (e.2.st ≠ .free) &&
    decide ((s.lt.enclave e.1).map (·.owner) ≠ some e.2.owner)).map (·.1)
  gone.foldl (fun t e => destroyEnclave e t) s

/-- R617: the slots of functions and enclaves that the table no longer gives are emptied. -/
def dropSlotKeys (s : State) : State :=
  s.onCx fun c =>
    { c with slots := c.slots.filter fun e => s.lt.exists e.2.fn &&
        (decide (e.2.encl = 0) || decide ((s.lt.enclave e.2.encl).map (·.owner) = some e.2.fn)) }

/-- R739, R905: channels and lanes whose site or owner the table changes. -/
def remapSites (s : State) : State :=
  match s.sd.before with
  | none => s
  | some (owners, sites) =>
    let fnWas := fun (c : Nat) => owners.getD (sites.getD c c) 0
    let s := (s.sd.chans.map (·.1)).foldl (fun t c =>
      let newOwner := decide (fnWas c ≠ t.lt.channelFn c)
      let moved := newOwner || decide (sites.getD c c ≠ t.lt.channelSiteOf c)
      t.onChan c fun h =>
        { h with armed := h.armed && !moved
                 postEn := h.postEn && !newOwner, evprio := if newOwner then 0 else h.evprio, event := if newOwner then 0 else h.event }) s
    (s.ln.tab.map (·.1)).foldl (fun t n =>
      if owners.getD n 0 ≠ t.lt.siteFn n then t.onLane n fun l => { l with postEn := false, evprio := 0, event := 0 } else t) s

/-- Table 4.3: a TRIP whose FAILSAFE_ON_RESET bit is 0 is released at a POWER-ON boot; a MODULE reset releases none (R171).
(DESIGN CHOICE, log 21.) -/
def releaseTrips (s : State) : State :=
  if 3 < s.pwr.cause then s
  else
    let keep := fun (e : Nat × TripSite) => if s.lt.failsafe.getLsbD e.1 then e else (e.1, { e.2 with asserted := false })
    s.onSd fun m => { m with sites := m.sites.map keep }

/-- R25, R127: the whole table takes effect. (DESIGN CHOICE, log 21.) -/
def applyTable (k : Slot) (lt : LightTable) (s : State) : State :=
  let s := { s with lt := { lt with bootSlotB := decide (k = Slot.b), resultA := s.lt.resultA, resultB := s.lt.resultB } }
  let s := (s.onUp fun u => { u with retained := lt.updFlags, tries := [] }).onPwr fun p => { p with stage := .lightTable }
  let s := remapSites (dropSlotKeys (dropEnclaves (initialWorlds s)))
  let s := s.onSd fun m => { m with before := some (lt.siteOwner, lt.channelSite) }
  judgeFeeds (releaseTrips s)

/-- LIGHT_TABLE_CHECK's effect on the slot being booted: ATTEMPTS and the BOOTING mark first (R801, R803), then the
firmware package, then Table 3.14. A slot whose firmware package fails keeps NOT_CHECKED, 0xFF, as its result (R126): its table is
not checked. (DESIGN CHOICE, log 21.) -/
def lightTableCheck (k : Slot) (readError : Bool) (s : State) : State :=
  let s := s.onUp fun u => u.onSlot k fun r => { r with booting := true, attempts := if r.st = .trial then r.attempts + 1 else r.attempts }
  if readError then slotFails k true (setResult k 1 s)
  else if !firmwareVerifies s k then slotFails k false s
  else match slotLight s k with
    | .code n => slotFails k true (setResult k n s)
    | .good lt => applyTable k lt (setResult k 0 s)

/-- LIGHT_TABLE_CHECK (R126-R128, R131, R801). -/
def execLightTableCheck (slot : Slot) (readError : Bool) (s : State) : Host.Outcome State Fault Refusal :=
  ok s (if s.pwr.stage = .rom ∧ s.up.tries.head? = some slot then lightTableCheck slot readError s else s)

/-- NOR_COMMAND_TIMEOUT (R792): a command is retried three times; the fourth failure fails what it served, at a boot the slot
being read. (DESIGN CHOICE, log 21.) -/
def norTimeout (s : State) : State :=
  if s.up.norRetries < 3 then norReset (s.onUp fun u => { u with norRetries := u.norRetries + 1, trouble := setBit u.trouble 3 })
  else
    let s := s.onUp fun u => { u with norRetries := 0 }
    match s.pwr.stage, s.up.tries.head? with
    | .rom, some k => lightTableCheck k true s
    | _, _ => s

/-- NOR_COMMAND_TIMEOUT (R792). -/
def execNorCommandTimeout (s : State) : Host.Outcome State Fault Refusal := ok s (if s.pwr.supply = .on then norTimeout s else s)

/-! ### DRAM, the logbook and the monitor -/

/-- Pages of the monitor region: 2 MiB to 256 MiB (R343). (DESIGN CHOICE, log 62.) -/
def monitorPages : Nat := 512 + Config.monitorPages % 65025

/-- R343, R376: the boot ROM sets the monitor region, and the monitor and its watchdog start.
(DEDUCED, log 22; DESIGN CHOICE, log 62.) -/
def startMonitor (s : State) : State :=
  let n := monitorPages
  makeKey 0 (s.onKp fun k =>
    { k with started := true, monSize := 4096 * n, monBase := 4096 * (Config.monitorPage % (33554432 - n)), wdCount := 0 })

/-- DRAM_TRAINED's effect. -/
def dramTrained (s : State) : State :=
  let s := (startMonitor s).onMesh fun m => { m with trained := 0xF }
  let s := s.onLb fun g => { g with opened := true, replaying := true }
  let s := s.onPwr fun p => { p with stage := .dram, commitArmed := true }
  forAll allHarts (fun h t => t.onHart h fun x => { x with inReset := false, priv := .m, pc := Config.monitorEntry }) s

/-- DRAM_TRAINED (R140, R155, R343, R376). -/
def execDramTrained (s : State) : Host.Outcome State Fault Refusal :=
  ok s (if s.pwr.stage = .lightTable then dramTrained s else s)

/-! ### Logbook replay (§12.6) -/

/-- R892: with no bank in service nothing is rebuilt: acceptance stays closed and no command executes. (DEDUCED, log 24.) -/
def replayNothing (s : State) : State :=
  s.onRings fun g =>
    { g with closed := true, unreplayed := true
             tab := if s.pwr.owesReplay then keepTab {} (fun r => { r with acceptSeq := 0, doneSeq := 0 }) g.tab else g.tab }

/-- R568: an LSN that the banks hold with different content. -/
def mirrorMismatch (g : Logbook) : Bool :=
  !g.a.failed && !g.b.failed && g.a.lines.any fun e => g.b.lines.any fun f => decide (e.1 = f.1 ∧ e.2 ≠ f.2)

/-- R570: the sequences of a ring that the adopted records give. -/
def replaySequences (rs : List Record) (r : Nat) : Nat × Nat :=
  let mine := rs.filter fun x => decide (x.ring = r ∧ identLsn rs r ≤ x.lsn)
  let next := fun (x : Record) => x.data / 2 ^ 128 % 2 ^ 64
  let done := mine.foldl (fun n x => if x.type = 0x03 then max n (next x) else n) 0
  (mine.foldl (fun n x => if x.type = 0x01 then max n (x.seq + x.data / 2 ^ 24 % 256) else n) done, done)

/-- R570: each ring's sequences are rebuilt; they never decrease (R502). (DEDUCED, log 28.) -/
def rebuildRings (s : State) : State :=
  let rs := records s
  let rings := rs.foldl (fun t x => if x.ring < 1024 then addSorted x.ring t else t) []
  rings.foldl (fun t r =>
    let p := replaySequences rs r
    t.onRing r fun g => { g with acceptSeq := max g.acceptSeq p.1, doneSeq := max g.doneSeq p.2 }) s

/-- R573, R782: an unfinished command of an origin MODULE ring completes with ABORTED; a LANE_SEND whose frame stands in the
outbound store waits for its partner instead. (DEDUCED, log 29.) -/
def abortUnfinished (s : State) : State :=
  let isModule := fun (g : Ring) => (g.recIdent.map (·.origin)) == some .module
  let entryOf := fun (r : Nat) (c : Cmd) => s.ln.tab.any fun e => e.2.outs.any fun o => decide (o.ring = r ∧ o.cmd = c.seq)
  let s := s.onRings fun x =>
    { x with tab := x.tab.map fun e =>
      (e.1, if isModule e.2 then
          { e.2 with cmds := e.2.cmds.map fun c => if entryOf e.1 c then { c with st := .started } else { c with aborted := true } }
        else e.2) }
  s.onLn fun l => { l with tab := l.tab.map fun e =>
    (e.1, { e.2 with outs := e.2.outs.map fun o => if isModule (s.ring o.ring) then { o with orphan := true } else o }) }

/-- R503, R891: a ring whose identity the table changed, or that never had one, takes its new one, unless commands of the
former identity are unfinished. -/
def settleRing (r : Nat) (s : State) : State :=
  let i := s.lt.ident r
  let g := s.ring r
  if g.recIdent = none then commitIdentity r i (s.onRing r fun g => { g with recIdent := some i })
  else if g.recIdent = some i then s.onRing r fun g => { g with former := false }
  else if g.cmds.isEmpty then restartIdentity r s
  else s.onRing r fun g => { g with former := true }

/-- The rings with held work that a custody report of cause LT_CHANGE names. -/
def formerRings (s : State) (f : Nat) : List Nat := (custodyRings s f).filter fun r => !(s.ring r).cmds.isEmpty

/-- R172, R462, R901: a function's state at a boot that changed the table; function 0 stands for the PF's own held work. -/
def settleFunction (f : Nat) (s : State) : State :=
  let moved := (s.rings.tab.map (·.1)).any fun r => (s.ring r).former && decide (((s.ring r).recIdent.map (·.fn)) = some f)
  let gone := !s.lt.exists f
  match (s.fn f).vf with
  | .disabled => if f = 0 && moved then enterMoored 0 .ltChange (formerRings s 0) s else s
  | .active =>
    if moved then enterMoored f .ltChange (formerRings s f) s
    else if gone then toDisabled f s else s
  | .mooring => if moved || gone then enterMoored f .ltChange (formerRings s f) s else enterMoored f (s.fn f).cause (s.lt.ringsOf f) s
  | .moored => if moved || gone then s.onFn f fun g => { g with cause := .ltChange } else s
  | .exporting | .imported => s

/-- Replay with a bank in service. -/
def replayRecords (s : State) : State :=
  let torn := (allRecords s).any fun p => !p.2
  let s := s.onLb fun g => { g with trouble := setBitIf torn (setBitIf (mirrorMismatch g) g.trouble 6) 5 }
  let s := restoreTrouble (rebuildRings s)
  let s := s.onLb fun g => { g with restored := g.head }
  let s := if s.pwr.owesReplay then abortUnfinished s else s
  let s := (List.range 1024).foldl (fun t r => settleRing r t) s
  let s := (List.range 256).foldl (fun t f => settleFunction f t) s
  noteLive (s.onPwr fun p => { p with owesReplay := false })

/-- LOGBOOK_REPLAY's effect; by its end DRAM is zeroed (Table 4.3), and acceptance is closed where the wear closed it (R584).
(DEDUCED, log 24.) -/
def logbookReplay (s : State) : State :=
  let s := if canCommit s then replayRecords s else replayNothing s
  let s := (s.onLb fun g => { g with replaying := false }).onMesh fun m => { m with zeroed := true }
  let s := s.onRings fun g => { g with closed := g.closed || s.lb.wearClosed }
  s.onPwr fun p => { p with stage := .replayed }

/-- LOGBOOK_REPLAY (R167, R172, R181, R503, R567-R573, R845, R891, R892, R901). -/
def execLogbookReplay (s : State) : Host.Outcome State Fault Refusal :=
  ok s (if s.pwr.stage = .dram then logbookReplay s else s)

/-! ### Ring service -/

/-- R803, R805: the booted slot's BOOTING mark and FAILS are cleared; a TRIAL slot opens its health window. -/
def settleSlot (s : State) : State :=
  let k := booted s
  let trial := decide ((s.up.slot k).st = .trial)
  s.onUp fun u =>
    { (u.onSlot k fun r => { r with booting := false, fails := 0 }) with
      trial := trial
      health := if trial then some (s.ct.mt + BitVec.ofNat 64 (s.lt.healthWindowS * 1000000000)) else none }

/-- The firmware's PMP entry 0 as it leaves M-mode: all addresses, every access. (PRESUMED, log 87.) -/
def Hart.openPmp (x : Hart) : Hart := { x with pmpcfg := tset 0 x.pmpcfg 0 0x1F, pmpaddr := tset 0 x.pmpaddr 0 ((BitVec.allOnes 46).zeroExtend 64) }

/-- A hart enters the hypervisor (Table 4.3). -/
def Hart.toHypervisor (x : Hart) : Hart :=
  if x.inReset || decide (x.priv ≠ .m) then x
  else Hart.enterOpen { x.openPmp with priv := .s, v := false, pc := Config.hypervisorEntry }

/-- RING_SERVICE's effect: acceptance starts, the lanes leave DISABLED (R747), and the Open-world harts are released.
(DEDUCED, log 22.) -/
def ringService (s : State) : State :=
  let s := startPorts (settleSlot s)
  let s := ((List.range 64).filter fun n => s.lt.laneEnable.getLsbD n).foldl (fun t n => t.onLane n fun l => { l with st := .detect }) s
  let s := (s.onPwr fun p => { p with stage := .service, slow := false }).onRings fun g => { g with allowance := allowanceFull s }
  forAll allHarts (fun h t => t.onHart h Hart.toHypervisor) s

/-- RING_SERVICE (R155, R157, R747, R803, R805). -/
def execRingService (s : State) : Host.Outcome State Fault Refusal :=
  ok s (if s.pwr.stage = .replayed then ringService s else s)

/-- BOOT_SLOW_TIMEOUT (R153): ring service has not begun 2 s after the start of a POWER-ON or MODULE reset.
(DESIGN CHOICE, log 21.) -/
def execBootSlowTimeout (s : State) : Host.Outcome State Fault Refusal :=
  ok s (if inService s ∨ s.pwr.supply = .off ∨ s.pwr.supply = .lockout then s
    else psSet 13 (s.onPwr fun p => { p with slow := true }))

end Sys2Proof.Machine
end

