-- ==== Sys2Proof/Machine/ResetEnd.lean ====
section
/-!
DEFINITION. How resets end: the release of a MODULE reset (04 §4.5), the end of a HART reset (R173, R174), and the expiry of the
Keeper watchdog (08 §8.9).
-/

namespace Sys2Proof.Machine

/-! ### The sources of resets -/

/-- R291, R292: a reset that is about to start drains both buffers of its harts as part of halting them. -/
def drainHarts (hs : List HartId) (s : State) : State := forAll hs drainBoth s

/-- A MODULE reset from outside the registers, with R292's drain. -/
def resetModule (cause : Nat) (s : State) : State := beginModuleReset cause (if mayReset s then drainHarts allHarts s else s)

/-- MOD_RESET_PIN (R150): MOD_RESET# has been low for 200 ns. -/
def execModResetPin (s : State) : Host.Outcome State Fault Refusal :=
  ok s (resetModule 4 (s.onPort fun p => { p with modResetLow := true }))

/-- HART resets from outside the registers, with R291's drain. -/
def resetHarts (hs : List HartId) (s : State) : State :=
  if resetsHeld s then s else forAll hs startHartReset (drainHarts hs s)

/-- DEBUG_HARTRESET (R165). -/
def execDebugHartreset (h : HartId) (s : State) : Host.Outcome State Fault Refusal :=
  ok s (if s.kp.granted ≠ 0 then resetHarts [h] s else s)

/-- DEBUG_NDMRESET (R165, R178). -/
def execDebugNdmreset (s : State) : Host.Outcome State Fault Refusal :=
  ok s (if s.kp.granted ≠ 0 then resetHarts allHarts s else s)

/-! ### MODULE reset release -/

/-- Table 4.5, R169, R389, R390, R396: what the Keeper node keeps. (DEDUCED, log 25.) -/
def Keeper.moduleReset (k : Keeper) : Keeper :=
  let running := fun (e : Enclave) => if e.st = .running then { e with st := .ready } else e
  { monBase := k.monBase, monSize := k.monSize, ranges := k.ranges, trouble := k.trouble, world := k.world, gpioLand := k.gpioLand
    encl := k.encl.map fun e => (e.1, running e.2)
    granted := if k.granted = 2 then 2 else 0, fails := k.fails, dbgLocked := k.dbgLocked
    reqLevel := k.reqLevel, reqKey := k.reqKey }

/-- R335: every dirty line is back in DRAM; DRAM, its keys, its poison and the counts since POWER-ON stay.
(DEDUCED, log 25.) -/
def Mesh.moduleReset (m : Mesh) : Mesh :=
  { mem := m.mem, poison := m.poison, zeroed := m.zeroed, zeroNext := m.zeroNext, written := m.written, trouble := m.trouble
    scrubPass := m.scrubPass, xtsKeys := m.xtsKeys }

/-- R461, R462: VF states, held work and reports stay; VF Enable and the rest of the configuration are reset. -/
def HostIf.moduleReset (h : HostIf) : HostIf :=
  { fns := keepTab {} (fun g => { g.persistent with heldMsgs := g.heldMsgs }) h.fns, reports := h.reports, hostMem := h.hostMem }

/-- Table 16.10, R905: a lane's stores, its post settings and its trouble stay. (DEDUCED, log 25.) -/
def Lane.moduleReset (l : Lane) : Lane :=
  { l.persistent with postEn := l.postEn, evprio := l.evprio, event := l.event, trouble := l.trouble }

/-- The update unit keeps what is persistent and its trouble. -/
def Update.moduleReset (u : Update) : Update := { u.persistent with trouble := u.trouble, bcTrouble := u.bcTrouble }

/-- The registers that a MODULE reset returns to their reset values (Table 4.5). A ring keeps all that its registers hold, RG_PROD
too, so a doorbell not accepted before the stop phase is announced again at ring service (R56, R157); beside CT the tester's values
stay: CT_BADFRAMES, CT_LAST_COUNT, CT_PERIOD and TESTER_HELD (R165). (DEDUCED, log 25; DESIGN CHOICE, log 25.) -/
def resetBlocks (s : State) : State :=
  { s with
    harts := [], aplic := {}, disp := { trouble := s.disp.trouble }
    ct := { s.ct with alarms := [], mtimecmp := [] }
    mesh := s.mesh.moduleReset, kp := s.kp.moduleReset, host := s.host.moduleReset
    rings := { tab := s.rings.tab }
    lb := { s.lb with opened := false, replaying := false, formed := [], winBase := 0 }
    mu := { s.mu with busy := [] }
    ln := { tab := keepTab {} Lane.moduleReset s.ln.tab }
    up := s.up.moduleReset }

/-- The buffers that R292 drains, and the registers of the blocks. (DESIGN CHOICE, log 19.) -/
def moduleReset (s : State) : State := resetBlocks (forAll allHarts drainBoth s)

/-- R875: at the release of MOD_RESET#, BYPASS replaces an active boundary-scan instruction. (DEDUCED, log 70.) -/
def releasePin (s : State) : State :=
  s.onPort fun q =>
    { q with modResetLow := false, ir := if q.modResetLow && decide (q.ir = 0 ∨ q.ir = 3 ∨ q.ir = 4) then 0x1F else q.ir }

/-- MODULE_RESET_RELEASE's effect: the straps are sampled (R147), and start-up begins again at ROM start (R158). The power-fail commit
(R140) is disarmed from here to the logbook-opened milestone. (DESIGN CHOICE, log 19.) -/
def moduleRelease (modId : BitVec 6) (daymarkHigh : Bool) (s : State) : State :=
  releasePin ((moduleReset s).onPwr fun p =>
    { p with moduleReset := false, stage := .rails, commitArmed := false, modId := modId, daymarkPin := daymarkHigh })

/-- MODULE_RESET_RELEASE (R147, R158, R168, R335, R396); of a MOD_RESET# that started no reset only the level changes. -/
def execModuleResetRelease (modId : BitVec 6) (daymarkHigh : Bool) (s : State) : Host.Outcome State Fault Refusal :=
  ok s (if s.pwr.moduleReset then moduleRelease modId daymarkHigh s else releasePin s)

/-! ### HART reset -/

/-- §5.11: the hart's dirty lines are written back, and its L1 and L2 hold nothing. -/
def emptyHartCaches (h : HartId) (s : State) : State :=
  let s := (s.mesh.lines.map (·.1)).foldl (fun t l => writeDirty h.val l t) s
  s.onMesh fun m => { m with lines := m.lines.map fun e => (e.1, { e.2 with copies := e.2.copies.filter fun c => decide (c.core ≠ h.val) }) }

/-- R173, R174, R291, R360: the buffers drain, an enclave is left SUSPENDED by an asynchronous exit without its step 4, and the
hart starts again in M-mode at the monitor's restart entry. (DEDUCED, log 22.) -/
def hartRestart (h : HartId) (s : State) : State :=
  let s := drainBoth h s
  let s := if (s.hart h).kenc ≠ 0 then suspendEnclave h 0 s else s
  (emptyHartCaches h s).onHart h fun _ => { inReset := false, pc := Config.monitorEntry }

/-- HART_RESET_COMPLETE (R173, R174): of a hart in reset, once the monitor runs. -/
def execHartResetComplete (h : HartId) (s : State) : Host.Outcome State Fault Refusal :=
  ok s (if (s.hart h).inReset && s.kp.started && !s.pwr.moduleReset then hartRestart h s else s)

/-! ### Watchdog expiry -/

/-- WATCHDOG_EXPIRY_HARD (R378, R394). -/
def execWatchdogExpiryHard (s : State) : Host.Outcome State Fault Refusal :=
  ok s (if watchdogExpires s && s.lt.wdHard then resetModule 6 s else s)

/-- The trap that a hart took into M-mode was an environment call. -/
def Hart.fromEcall (x : Hart) : Bool := decide (8 ≤ x.mtrap.cause ∧ x.mtrap.cause ≤ 11)

/-- Table 8.7: a hart in M-mode returns to where mepc and mstatus.MPP point, with a0 = KS_DOWN; the return is a trap return and
clears the reservation (R282). (DEDUCED, log 23.) -/
def Hart.leaveMonitor (x : Hart) : Hart :=
  let y := (x.setX 10 (ksValue 3)).loseReservation
  Hart.enterOpen
    { y with priv := x.mpp, v := x.mpv && decide (x.mpp ≠ .m), pc := if x.fromEcall then x.mtrap.pc + 4 else x.mtrap.pc, stall := .none }

/-- Table 8.7: a hart's forced exit. -/
def forcedExit (h : HartId) (s : State) : State :=
  let x := s.hart h
  if x.inReset then s
  else if x.kenc ≠ 0 then
    (leaveEnclave h .ready s).onHart h fun y => { (y.setX 10 (ksValue 3)).setX 11 (x.kenc.zeroExtend 64) with stall := .none }
  else if x.priv = .m then s.onHart h Hart.leaveMonitor
  else s

/-- Table 8.7: the command in flight on a Keeper-assigned unit completes with SERVICE_DOWN, and the unit is BLOCK-reset.
(DEDUCED, log 23.) -/
def downUnit (u : Nat) (s : State) : State :=
  if !s.kp.world.getLsbD u then s
  else
    let s := match runOn s u with
      | some x => (finishCmd x.ring x.seq (statusOf 0x50) s).onMu fun m => { m with busy := m.busy.filter fun e => decide (e.2 ≠ x) }
      | none => s
    resetUnit u s

/-- Table 8.7: the M-level IMSIC file is disabled. -/
def Hart.closeMFile (x : Hart) : Hart := { x with imsic := tmod {} x.imsic 8 fun f => { f with delivery := false } }

/-- WATCHDOG_EXPIRY_SOFT's effect (Table 8.7). (DEDUCED, log 23.) -/
def keeperDown (s : State) : State :=
  let s := forAll allHarts forcedExit (s.onKp fun k => { k with down := true, trouble := setBit k.trouble 2 })
  let s := forAll allHarts (fun h t => t.onHart h Hart.closeMFile) s
  let s := (List.range 6).foldl (fun t u => downUnit u t) s
  (s.kp.handover.map (·.1)).foldl (fun t b => handoverBlock b t) s

/-- WATCHDOG_EXPIRY_SOFT (R379, R380, R394). -/
def execWatchdogExpirySoft (s : State) : Host.Outcome State Fault Refusal :=
  ok s (if watchdogExpires s && !s.lt.wdHard then keeperDown s else s)

end Sys2Proof.Machine
end

