-- ==== Sys2Proof/Machine/Accesses.lean ====
section
/-!
DEFINITION. The rows that are a register access of a function or of a hart. A hart's access is performed in program order: before its
write all that its store buffer holds has left it (R244, R246), before its read its older I/O stores (R250).
-/

namespace Sys2Proof.Machine

/-- Another hart defers a line that one of the hart's buffered stores needs (R285). -/
def storesHeld (s : State) (h : HartId) : Bool := (s.hart h).storeLines.any fun l => deferredBy s l h.val

/-- A register access in program order; while a store before it cannot become visible, it does not occur.
(DESIGN CHOICE, log 4; DESIGN CHOICE, log 83.) -/
def programOrder (who : Requester) (write : Bool) (f : State → State) (s : State) : State :=
  match who with
  | .fn _ => f s
  | .hart h =>
    if (s.hart h).inReset ∨ (s.hart h).storeBuf = [] then f s
    else if storesHeld s h then s
    else f (if write then drainAll h s else drainThrough h (·.io) s)

/-- A write of one of the PF's registers. -/
def pfWrite (who : Requester) (f : State → State) (s : State) : State :=
  programOrder who true (fun t => if seesPf t who then f t else t) s

/-! ### Resets (04) -/

/-- PS_MODULE_RESET (R165, R178, R292). -/
def execPsModuleReset (who : Requester) (value : W32) (s : State) : Host.Outcome State Fault Refusal :=
  ok s (pfWrite who (fun s => if value = 0x4D525354#32 ∧ resetsHeld s = false then resetModule 5 s else s) s)

/-- PS_HART_RESET (R174, R291). -/
def execPsHartReset (who : Requester) (mask : W32) (s : State) : Host.Outcome State Fault Refusal :=
  ok s (pfWrite who (resetHarts (allHarts.filter fun h => mask.getLsbD h.val)) s)

/-! ### Dispatch trace (09 §9.9) -/

/-- DS_TRACE_REC_LO_READ (R437, R438). -/
def execDsTraceRecLoRead (who : Requester) (corrected : Bool) (s : State) : Host.Outcome State Fault Refusal :=
  ok s (programOrder who false (onDsDomain who false 0x6030 fun d => readTrace corrected (readRecLo who d)) s)

/-- DS_TRACE_REC_HI_READ (R437, R438). -/
def execDsTraceRecHiRead (who : Requester) (corrected : Bool) (s : State) : Host.Outcome State Fault Refusal :=
  ok s (programOrder who false (onDsDomain who false 0x6038 fun _ => readTrace corrected (readRecHi who)) s)

/-- TRACE_CLR_OVF (Table 9.9): zeroes the domain's DS_TRACE_OVF. -/
def execTraceClrOvf (who : Requester) (s : State) : Host.Outcome State Fault Refusal :=
  ok s (programOrder who true (onDsDomain who true 0x6020 fun d t => t.onDom d fun x => { x with ovf := 0 }) s)

/-- TRACE_RESTART (R436, R438: PF only). -/
def execTraceRestart (who : Requester) (s : State) : Host.Outcome State Fault Refusal :=
  ok s (pfWrite who restartTrace s)

/-! ### Cycle time (02) -/

/-- CT_ALARM_CMP_WRITE (R92, R99). -/
def execCtAlarmCmpWrite (who : Requester) (a : Fin 4) (part : Part) (value : W64) (s : State) :
    Host.Outcome State Fault Refusal :=
  ok s (programOrder who true (onOwnAlarm who a 0x2040 (fun x => { x with cmp := putPart part x.cmp value })) s)

/-- CT_ALARM_CTRL_WRITE (R99, R101, R103): FIRED is cleared first, then ENABLE and VECTOR take the written values. -/
def execCtAlarmCtrlWrite (who : Requester) (a : Fin 4) (value : W32) (s : State) : Host.Outcome State Fault Refusal :=
  ok s (programOrder who true (onOwnAlarm who a 0x2048 (fun x =>
    { x with fired := x.fired && !value.getLsbD 1, enable := value.getLsbD 0, vector := value.extractLsb' 8 8 })) s)

/-- REG64_LOW_HALF_READ (R100). (DEDUCED, log 66.) -/
def execReg64LowHalfRead (who : Requester) (offset : BitVec 32) (s : State) : Host.Outcome State Fault Refusal :=
  ok s (programOrder who false (fun s => let p := regRead who offset.toNat .low s; p.1.emit (.readData p.2)) s)

/-! ### The performance counters (07) -/

/-- PMC_CLEAR (Table 7.7). -/
def execPmcClear (h : HartId) (s : State) : Host.Outcome State Fault Refusal :=
  ok s (programOrder (.hart h) true (fun s => if (s.hart h).inReset then s else pmcClear s) s)

/-- PMC_FREEZE (Table 7.7). -/
def execPmcFreeze (h : HartId) (freeze : Bool) (s : State) : Host.Outcome State Fault Refusal :=
  ok s (programOrder (.hart h) true (fun s => if (s.hart h).inReset then s else s.onMesh fun m => { m with freeze := freeze }) s)

/-! ### The Keeper node, gates and hints (08) -/

/-- ENCLAVE_BUILD (R348). -/
def execEnclaveBuild (h : HartId) (e : Byte) (s : State) : Host.Outcome State Fault Refusal :=
  ok s (programOrder (.hart h) true (keeperWrite h 0x400028 (buildEnclave e.toNat)) s)

/-- ENCLAVE_SEAL (R348). -/
def execEnclaveSeal (h : HartId) (e : Byte) (s : State) : Host.Outcome State Fault Refusal :=
  ok s (programOrder (.hart h) true (keeperWrite h 0x400028 (sealEnclave e.toNat)) s)

/-- ENCLAVE_DESTROY (R348, R395). -/
def execEnclaveDestroy (h : HartId) (e : Byte) (s : State) : Host.Outcome State Fault Refusal :=
  ok s (programOrder (.hart h) true (keeperWrite h 0x400028 (destroyCommand e.toNat)) s)

/-- KP_RANGE_WRITE (R345). -/
def execKpRangeWrite (h : HartId) (i : Fin 1024) (base word1 : W64) (s : State) : Host.Outcome State Fault Refusal :=
  ok s (programOrder (.hart h) true (keeperWrite h (0x404000 + 16 * i.val) (rangeWrite i.val base word1)) s)

/-- HANDOVER_REQUEST (R366). -/
def execHandoverRequest (h : HartId) (value : W32) (s : State) : Host.Outcome State Fault Refusal :=
  ok s (programOrder (.hart h) true (keeperWrite h 0x400020 (requestHandover value)) s)

/-- KP_WD_KICK (R376). -/
def execKpWdKick (h : HartId) (value : W32) (s : State) : Host.Outcome State Fault Refusal :=
  ok s (programOrder (.hart h) true (keeperWrite h 0x400010 (wdKick value)) s)

/-- KP_VLOG_POP (R382). -/
def execKpVlogPop (h : HartId) (value : W32) (s : State) : Host.Outcome State Fault Refusal :=
  ok s (programOrder (.hart h) true (keeperWrite h 0x400048 (vlogPop value)) s)

/-- PS_GATE_WRITE (R370, R371): PF only. -/
def execPsGateWrite (who : Requester) (value : W32) (s : State) : Host.Outcome State Fault Refusal :=
  ok s (pfWrite who (gateWrite who value) s)

/-- PS_IDLE_HINT_WRITE (R373, R374): bits 21:0 take the hints; an Open unit that loses its hint is no longer self-gated. -/
def execPsIdleHintWrite (who : Requester) (value : W32) (s : State) : Host.Outcome State Fault Refusal :=
  ok s (pfWrite who (hintWrite value) s)

/-! ### Mailboxes and migration (10) -/

/-- MBX_PF_SEND (R454): to the VF that MBX_SEL shows. -/
def execMbxPfSend (who : Requester) (s : State) : Host.Outcome State Fault Refusal :=
  ok s (pfWrite who (fun s => mbxSend s.host.mbxSel.toNat false s) s)

/-- MBX_PF_ACK (R456). -/
def execMbxPfAck (who : Requester) (s : State) : Host.Outcome State Fault Refusal :=
  ok s (pfWrite who (fun s => mbxAck s.host.mbxSel.toNat false s) s)

/-- MBX_MESSAGE_WRITE (R454, R455). -/
def execMbxMessageWrite (who : Requester) (n : Fin 16) (part : Part) (value : W64) (s : State) :
    Host.Outcome State Fault Refusal :=
  ok s (programOrder who true (fun s =>
    if !visible s who then s else match who with
    | .fn f => if f.val = 0 then mbxWrite s.host.mbxSel.toNat false n part value s else mbxWrite f.val true n part value s
    | .hart _ => mbxWrite s.host.mbxSel.toNat false n part value s) s)

/-- DIRTY_SWITCH (R480). -/
def execDirtySwitch (who : Requester) (s : State) : Host.Outcome State Fault Refusal :=
  ok s (pfWrite who (fun s => dirtySwitch s.host.dirtySel.toNat s) s)

/-- FN_DIRTY_BASE_WRITE (R481): bitmap false is FN_DIRTY_BASE0. -/
def execFnDirtyBaseWrite (who : Requester) (bitmap : Bool) (part : Part) (value : W64) (s : State) :
    Host.Outcome State Fault Refusal :=
  ok s (pfWrite who (fun s => dirtyBase s.host.dirtySel.toNat bitmap part value s) s)

/-! ### Rings (11) -/

/-- RING_ENABLE (R504, R505): a write of RG_CTRL with ENABLE 1. -/
def execRingEnable (who : Requester) (r : RingId) (value : W32) (s : State) : Host.Outcome State Fault Refusal :=
  ok s (programOrder who true (onRingReg who r.val 0x14 2 (writeCtrl r.val (setBit value 0))) s)

/-- RING_DISABLE (R507): a write of RG_CTRL with ENABLE 0. -/
def execRingDisable (who : Requester) (r : RingId) (value : W32) (s : State) : Host.Outcome State Fault Refusal :=
  ok s (programOrder who true (onRingReg who r.val 0x14 2 (writeCtrl r.val (clearBit value 0))) s)

/-- RG_NOTIFY_WRITE (R501): a write of RG_CTRL. -/
def execRgNotifyWrite (who : Requester) (r : RingId) (value : W32) (s : State) : Host.Outcome State Fault Refusal :=
  ok s (programOrder who true (onRingReg who r.val 0x14 2 (writeCtrl r.val value)) s)

/-- RING_CONFIG_WRITE (R506): register 0 is RG_BASE, 1 RG_CPL_BASE, 2 RG_SIZE. -/
def execRingConfigWrite (who : Requester) (r : RingId) (reg : Fin 3) (part : Part) (value : W64) (s : State) :
    Host.Outcome State Fault Refusal :=
  ok s (programOrder who true (onRingReg who r.val (8 * reg.val) 2 (writeConfig r.val reg.val part value)) s)

/-- RG_PROD_WRITE (R508, R463). (DESIGN CHOICE, log 5.) -/
def execRgProdWrite (who : Requester) (r : RingId) (value : W32) (s : State) : Host.Outcome State Fault Refusal :=
  ok s (programOrder who true (onRingReg who r.val 0x18 1 (fun t => t.onRing r.val fun g => g.doorbell value)) s)

/-! ### Units (14) -/

/-- MU_ABORT_WRITE (R666): PF only; a bit of a Keeper-assigned unit is a violation. -/
def execMuAbortWrite (who : Requester) (value : W32) (s : State) : Host.Outcome State Fault Refusal :=
  ok s (pfWrite who (abortWrite who value) s)

/-! ### Measurement (15) -/

/-- SD_HIST_READ (R733, R732): a read of word 0 of SD_HISTk latches word 1. A VF has no view. -/
def execSdHistRead (who : Requester) (c : SiteId) (k : Fin 16) (s : State) : Host.Outcome State Fault Refusal :=
  ok s (programOrder who false (histRead who c.val k.val) s)

/-! ### Update (17) -/

/-- UP_CONFIRM (R806): PF only; another value, or no open window, has no effect. -/
def execUpConfirm (who : Requester) (value : W32) (cutAfter : Option Nat) (s : State) : Host.Outcome State Fault Refusal :=
  ok s (pfWrite who (fun s => if value = 0x434F4E46#32 ∧ s.up.health.isSome then confirm cutAfter s else s) s)

/-- DM_OPEN (R833). -/
def execDmOpen (who : Requester) (arg : Byte) (worn : Bool) (s : State) : Host.Outcome State Fault Refusal :=
  ok s (programOrder who true (daymarkWrite who 1 arg.toNat worn) s)

/-- DM_BLOCK (R833). -/
def execDmBlock (who : Requester) (worn : Bool) (s : State) : Host.Outcome State Fault Refusal :=
  ok s (programOrder who true (daymarkWrite who 2 0 worn) s)

/-- DM_CLOSE (R833). -/
def execDmClose (who : Requester) (arg : Byte) (worn : Bool) (s : State) : Host.Outcome State Fault Refusal :=
  ok s (programOrder who true (daymarkWrite who 3 arg.toNat worn) s)

/-- DM_ACTIVATE (R833). -/
def execDmActivate (who : Requester) (arg : Byte) (s : State) : Host.Outcome State Fault Refusal :=
  ok s (programOrder who true (daymarkWrite who 4 arg.toNat false) s)

/-- DM_ABORT (R833). -/
def execDmAbort (who : Requester) (s : State) : Host.Outcome State Fault Refusal :=
  ok s (programOrder who true (daymarkWrite who 5 0 false) s)

/-- DM_STATUS (R833). -/
def execDmStatus (who : Requester) (s : State) : Host.Outcome State Fault Refusal :=
  ok s (programOrder who true (daymarkWrite who 6 0 false) s)

/-! ### Trouble and every other register (18, 00 §0.4.3) -/

/-- TROUBLE_W1C_WRITE (R839-R841): a write of a trouble register. -/
def execTroubleW1cWrite (w : RegWrite) (s : State) : Host.Outcome State Fault Refusal :=
  ok s (programOrder w.who true (fun s =>
    if namesTrouble s w then regWrite w.who w.offset.toNat w.part w.value s else s) s)

/-- PS_VIOL_CLR (R846, R852). -/
def execPsViolClr (who : Requester) (value : W32) (s : State) : Host.Outcome State Fault Refusal :=
  ok s (pfWrite who (violClear value) s)

/-- REGISTER_WRITE (R887, R195): any register write, under its register's own rules. -/
def execRegisterWrite (w : RegTarget) (s : State) : Host.Outcome State Fault Refusal :=
  ok s (match w with
    | .mapped w => programOrder w.who true (regWrite w.who w.offset.toNat w.part w.value) s
    | .csr h n v insn => csrWrite h n.toNat v insn s)

end Sys2Proof.Machine
end

