-- ==== Sys2Proof/Machine/LineRows.lean ====
section
/-!
DEFINITION. The rows of lines that site lanes and buoy-chain ports share (R821).
-/

namespace Sys2Proof.Machine

/-- LANE_DETECT_PROBE (R744). -/
def execLaneDetectProbe (l : LineEnd) (far : FarEnd) (s : State) : Host.Outcome State Fault Refusal :=
  .next (match l with | .site n => laneProbe n.val far s | .chain p => chainProbe p far s)
/-- LANE_SWAP_DETECT (R744, R822). -/
def execLaneSwapDetect (l : LineEnd) (s : State) : Host.Outcome State Fault Refusal :=
  ok s (match l with | .site n => laneSwapped n.val s | .chain p => chainSwapped p s)
/-- LANE_BLOCK_LOCK (R745, R822); a site lane has one pair, which cannot be crossed. -/
def execLaneBlockLock (l : LineEnd) (inverted crossed : Bool) (s : State) : Host.Outcome State Fault Refusal :=
  ok s (match l with | .site n => laneLock n.val inverted s | .chain p => chainLock p inverted crossed s)
/-- LANE_BLOCK_LOCK_LOSS (Table 16.1, R828). -/
def execLaneBlockLockLoss (l : LineEnd) (s : State) : Host.Outcome State Fault Refusal :=
  ok s (match l with | .site n => laneLockLoss n.val s | .chain p => chainLockLoss p s)
/-- LANE_HELLO_TIMER (Table 16.1, R768). -/
def execLaneHelloTimer (l : LineEnd) (s : State) : Host.Outcome State Fault Refusal :=
  .next (match l with | .site n => laneHello n.val s | .chain p => chainHello p s)
/-- LANE_DOWN_TIMEOUT (R746). -/
def execLaneDownTimeout (l : LineEnd) (s : State) : Host.Outcome State Fault Refusal :=
  ok s (match l with | .site n => laneTimeout n.val s | .chain p => chainTimeout p s)
/-- VOID_FRAME_RECEIVED (Table 16.3). -/
def execVoidFrameReceived (l : LineEnd) (blocks : List Block) (s : State) : Host.Outcome State Fault Refusal :=
  ok s (match l with | .site n => laneVoid n.val blocks s | .chain p => chainVoid p blocks s)
/-- ACK_FRAME_RECEIVED (R757-R760). -/
def execAckFrameReceived (l : LineEnd) (blocks : List Block) (s : State) : Host.Outcome State Fault Refusal :=
  ok s (match l with | .site n => laneAck n.val blocks s | .chain p => chainAckReceived p blocks s)
/-- BAD_FRAME_RECEIVED (R753). -/
def execBadFrameReceived (l : LineEnd) (blocks : List Block) (codeError : Bool) (s : State) : Host.Outcome State Fault Refusal :=
  ok s (match l with | .site n => laneBad n.val blocks codeError s | .chain p => chainBad p blocks codeError s)
/-- LANE_ACK_TIMEOUT (R760, R761, R767). -/
def execLaneAckTimeout (l : LineEnd) (s : State) : Host.Outcome State Fault Refusal :=
  ok s (match l with | .site n => ackTimeout n.val s | .chain p => chainAckTimeout p s)

end Sys2Proof.Machine
end

