-- ==== Sys2Proof/Machine/Migration.lean ====
section
/-!
DEFINITION. Migration between modules (10 §10.8): the device identity, the four messages, key agreement, and the commands
that offer, export, import and commit.
-/

namespace Sys2Proof.Machine

/-! ### Messages (§10.8.1) -/

/-- Bytes of a DEV_CERT (R482). -/
def certLen : Nat := 7448
/-- Bytes of a message whose body has `n`. -/
def messageLen (n : Nat) : Nat := 64 + n + sigLen + certLen

/-- The module's own DEV_CERT (Table 10.14). -/
def ownCert : List Byte :=
  let k := Config.deviceIdentity ()
  fit certLen (ascii "KLXDC" ++ [1, 0, 0] ++ bytesLE 4 0x4B640128 ++ bytesLE 4 0 ++ bytesLE 8 Config.deviceSerial.toNat
    ++ fit 2592 (dsaKeys (dsaSet 0x33) k.1).pk ++ fit 97 (ecEncode (ecPublic k.2)) ++ List.replicate 7 0
    ++ Config.deviceCertSignature ())

/-- A message's header (Table 10.15). -/
def messageHeader (s : State) (type bodyLen : Nat) (id : BitVec 128) (src dst : Byte) : List Byte :=
  ascii "KLXMG" ++ [BitVec.ofNat 8 type, 1, 0] ++ bytesLE 4 bodyLen ++ bytesLE 4 0 ++ bytesLE 16 s.lt.trustDomain.toNat
    ++ bytesLE 16 id.toNat ++ [src, dst] ++ List.replicate 6 0 ++ bytesLE 8 Config.deviceSerial.toNat

/-- R483: the signature block over header and body, by the device identity; `rnd` is 32 bytes and `k` 64 bytes of the
command's DRBG. -/
def signMessage (rnd k bs : List Byte) : List Byte :=
  let id := Config.deviceIdentity ()
  let ml := ((dsaSign (dsaSet 0x33) id.1 (ascii "KLXMG") bs rnd 4096).map (·.1)).getD []
  let ec := ecdsaSign id.2 (ecScalar k) (sha384 bs)
  bytesLE 2 1 ++ bytesLE 2 0 ++ bytesLE 4 0 ++ fit 4627 ml ++ List.replicate 5 0 ++ bytesBE 48 ec.1 ++ bytesBE 48 ec.2

/-- A whole message: header and body, signatures and the sender's DEV_CERT (R483). -/
def wholeMessage (rnd k signed : List Byte) : List Byte := signed ++ signMessage rnd k signed ++ ownCert

/-- A message that R484 accepts: the fields a command uses, and the serial that the sender's DEV_CERT carries. -/
structure Message where
  signed : List Byte
  header : List Byte
  body : List Byte
  id : BitVec 128
  src : Byte
  dst : Byte
  sender : W64
  deriving DecidableEq, Repr

/-- MIGRATION_ID of a message's bytes. -/
def messageId (bs : List Byte) : BitVec 128 := BitVec.ofNat 128 (leField bs 32 16)

/-- R482, R484: the DEV_CERT verifies under both Dexrov keys and carries PART_ID. -/
def certVerifies (cert : List Byte) : Bool :=
  let a := Config.deviceAuthorityKey ()
  let msg := cert.take 2720
  decide (cert.take 5 = ascii "KLXDC") && decide (leField cert 5 1 = 1) && decide (leField cert 8 4 = 0x4B640128)
    && zeroAt cert 7347 5 && dsaVerify (dsaSet 0x33) a.1 (ascii "KLXDC") msg ((cert.drop 2720).take 4627)
    && (match ecDecode a.2 with
        | some q => ecdsaVerify q (ofBytesBE ((cert.drop 7352).take 48)) (ofBytesBE ((cert.drop 7400).take 48)) (sha384 msg)
        | none => false)

/-- R484: the message of a type that `bs` is, if the module accepts it. (DESIGN CHOICE, log 34.) -/
def acceptMessage (s : State) (type : Nat) (bs : List Byte) : Option Message :=
  let n := leField bs 8 4
  let cert := bs.drop (64 + n + sigLen)
  let sig := (bs.drop (64 + n)).take sigLen
  let signed := bs.take (64 + n)
  let key := ((cert.drop 24).take 2592, (cert.drop 2616).take 97)
  let v := sigsOf key (ascii "KLXMG") signed sig
  if decide (bs.length = messageLen n) && decide (bs.take 5 = ascii "KLXMG") && decide (leField bs 5 1 = type)
      && decide (leField bs 6 1 = 1) && decide (leField bs 16 16 = s.lt.trustDomain.toNat)
      && decide (leField sig 0 2 = 1) && decide (leField sig 2 2 = 0) && certVerifies cert && v.1 && v.2 then
    some { signed := signed, header := bs.take 64, body := signed.drop 64, id := messageId bs, src := bs.getD 48 0, dst := bs.getD 49 0,
           sender := BitVec.ofNat 64 (leField cert 16 8) }
  else none

/-! ### What a blob holds (R485) -/

/-- The bytes that stand for a list of numbers, 8 bytes each. -/
def words (xs : List Nat) : List Byte := xs.flatMap (bytesLE 8)

/-- A function's shape: its HOST and MODULE rings, and its enclaves with their rings (R489 step 5). -/
def shapeOf (lt : LightTable) (f : Nat) : List Nat :=
  let e := lt.entry f
  [e.hostRings, e.moduleRings] ++ (lt.enclavesOf f).flatMap fun d => [d.id, d.rings]

/-- The register values of one ring, RG_PROD among them. -/
def ringRegs (g : Ring) : List Nat :=
  [g.base.toNat, g.cplBase.toNat, g.size.toNat, bit g.enabled + 2 * bit g.badcfg + 4 * bit g.draining, g.notify.toNat,
   g.vector.toNat, g.evprio.toNat, g.prod.toNat, g.done.toNat, g.acceptSeq, g.doneSeq, g.trouble.toNat, g.event.toNat]

/-- State bits of a command: executed, unreadable, too long, to complete with ABORTED, to be executed again. -/
def cmdBits (c : Cmd) : Nat :=
  bit c.executed + 2 * bit c.unreadable + 4 * bit c.tooLong + 8 * bit c.aborted + 16 * bit c.reexec + 32 * bit c.seed.isSome

/-- A command: its ring's place, sequence, state, logged seed or result, and its descriptors. -/
def cmdWords (place : Nat) (c : Cmd) : List Byte :=
  let r := heldResult c
  words ([place, c.seq, cmdBits c, c.attempt, r.status, r.cflags, r.len, r.result32, c.descs.length])
    ++ bytesLE 48 (c.seed.getD 0).toNat ++ c.descs.flatMap lineBytes

/-- A key slot: its number, owner enclave, usage, algorithm and material. -/
def slotWords (n : Nat) (k : KeySlot) : List Byte :=
  words [n, k.encl, k.usage.toNat, k.alg, bit k.bad, k.key.length] ++ k.key

/-- The slots that a function owns, over all its enclaves. -/
def ownSlots (s : State) (f : Nat) : Tab KeySlot := s.cx.slots.filter fun e => decide (e.2.fn = f)

/-- What the blob of function `f` holds (R485). -/
def blobOf (s : State) (f : Nat) : List Byte :=
  let rs := s.lt.ringsOf f
  let shape := shapeOf s.lt f
  let cs := rs.zipIdx.flatMap fun e => (s.ring e.1).cmds.map fun c => cmdWords e.2 c
  let ks := (ownSlots s f).map fun e => slotWords e.1 e.2
  words [shape.length, rs.length, cs.length, ks.length] ++ words shape ++ (rs.flatMap fun r => words (ringRegs (s.ring r)))
    ++ cs.flatten ++ ks.flatten

/-- R485: P. -/
def blobP (s : State) (f : Nat) : Nat :=
  let rs := s.lt.ringsOf f
  let cs := heldCmds s rs
  256 + 256 * rs.length + 64 * cs.length + 64 * (cs.map (·.descs.length)).sum + 256 * (ownSlots s f).length

/-- `n` numbers of 8 bytes, and the rest. -/
def takeWords (n : Nat) (bs : List Byte) : List Nat × List Byte :=
  ((List.range n).map fun i => leField bs (8 * i) 8, bs.drop (8 * n))

/-- A held command as a blob carries it; its CT of acceptance is open, drawn as `n`. (DESIGN CHOICE, log 36.) -/
def readCmd (n : Nat) (bs : List Byte) : (Nat × Cmd) × List Byte :=
  let w := takeWords 9 bs
  let x := fun i => w.1.getD i 0
  let b := BitVec.ofNat 8 (x 2)
  let seed := BitVec.ofNat 384 (leField w.2 0 48)
  let rest := w.2.drop 48
  let ds := (List.range (x 8)).map fun i => lineOf ((rest.drop (64 * i)).take 64)
  let res : Result := ⟨x 4, x 5, x 6, x 7⟩
  ((x 0, { seq := x 1, descs := ds, ct := Config.freeBits n 64, unreadable := b.getLsbD 1, tooLong := b.getLsbD 2
           seed := if b.getLsbD 5 then some seed else none, seedZero := decide (seed = 0), attempt := x 3
           st := if b.getLsbD 0 then .finished res else .accepted, aborted := b.getLsbD 3, reexec := b.getLsbD 4 }),
   rest.drop (64 * x 8))

/-- `count` held commands. -/
def readCmds : Nat → Nat → List Byte → List (Nat × Cmd) × List Byte
  | 0, _, bs => ([], bs)
  | count + 1, n, bs =>
    let p := readCmd n bs
    let q := readCmds count (n + 1) p.2
    (p.1 :: q.1, q.2)

/-- `count` key slots of function `g`; their CT of creation is open. (DESIGN CHOICE, log 36.) -/
def readSlots (g : Nat) : Nat → Nat → List Byte → Tab KeySlot
  | 0, _, _ => []
  | count + 1, n, bs =>
    let w := takeWords 6 bs
    let x := fun i => w.1.getD i 0
    (x 0, { fn := g, encl := x 1, alg := x 3, usage := BitVec.ofNat 16 (x 2), key := w.2.take (x 5), ct := Config.freeBits n 64
            ring := 0xFFFF, seq := 0, bad := decide (x 4 = 1) }) :: readSlots g count (n + 1) (w.2.drop (x 5))

/-- What an opened blob says: the shape, each ring's registers, the held commands by place, and the key slots. -/
structure Moved where
  shape : List Nat
  rings : List (List Nat)
  cmds : List (Nat × Cmd)
  slots : Tab KeySlot
  deriving DecidableEq, Repr

/-- The inverse of `blobOf`; `n` is the first of the draws that open values take. -/
def readBlob (g n : Nat) (bs : List Byte) : Moved :=
  let h := takeWords 4 bs
  let x := fun i => h.1.getD i 0
  let sh := takeWords (x 0) h.2
  let rs := (List.range (x 1)).map fun i => (takeWords 13 (sh.2.drop (104 * i))).1
  let cs := readCmds (x 2) n (sh.2.drop (104 * x 1))
  { shape := sh.1, rings := rs, cmds := cs.1, slots := readSlots g (x 3) (n + x 2) cs.2 }

/-- The ring registers of a blob put into a ring of the destination, with its held commands. (DESIGN CHOICE, log 36.) -/
def Ring.load (g : Ring) (x : List Nat) (cs : List Cmd) : Ring :=
  let n := fun i => x.getD i 0
  let b := BitVec.ofNat 8 (n 3)
  { base := BitVec.ofNat 64 (n 0), cplBase := BitVec.ofNat 64 (n 1), size := BitVec.ofNat 5 (n 2), enabled := b.getLsbD 0
    badcfg := b.getLsbD 1, draining := b.getLsbD 2, notify := BitVec.ofNat 2 (n 4), vector := BitVec.ofNat 6 (n 5)
    evprio := BitVec.ofNat 4 (n 6), prod := BitVec.ofNat 32 (n 7), done := BitVec.ofNat 32 (n 8), acceptSeq := n 9, doneSeq := n 10
    trouble := BitVec.ofNat 4 (n 11), event := BitVec.ofNat 64 (n 12), recIdent := g.recIdent, former := g.former
    lastAcceptCt := g.lastAcceptCt, lastDoneCt := g.lastDoneCt, cmds := cs }

/-! ### Key agreement (R486, R487) -/

/-- K, from both shared secrets, the offer's digest and MIGRATION_ID. -/
def blobKey (kem dh offerDigest : List Byte) (id : BitVec 128) : List Byte :=
  kmac256 (kem ++ dh) (offerDigest ++ bytesLE 16 id.toNat) 32 (ascii "KLXMIG")

/-- ML-KEM-1024. -/
def kem1024 : KemSet := kemSet 0x31

/-- Bytes of a command's DRBG, from `i` on. (DEDUCED, log 45.) -/
def drawn (bs : List Byte) (i n : Nat) : List Byte := (bs.drop i).take n

/-! ### The commands -/

/-- An existing VF. -/
def isVf (s : State) (f : Nat) : Bool := decide (f ≠ 0) && s.lt.exists f

/-- Delivers a message whose length has been found to fit. (DESIGN CHOICE, log 34.) -/
def deliverMessage (i : RingIdent) (out : Nat × Nat) (bs : List Byte) (s : State) : State × Result :=
  (ringWrite i out.1 bs s, { status := 0, len := bs.length })

/-- VF_IMPORT_OFFER: a fresh offer, which voids the old one (R487). -/
def importOffer (i : RingIdent) (k : Cmd) (s : State) : State × Result :=
  let f := mFn k.first
  let out := mOut k.first
  if !lifeForm [0] k.first then (s, statusOf 0x11)
  else if out.2 < messageLen 1680 then (s, badLength (messageLen 1680))
  else if !isVf s f || decide ((s.fn f).vf ≠ .disabled) then (s, statusOf 0x100)
  else if seedless k then (s, statusOf 0x205)
  else
    let r := ((cmdDrbg k).generate 240).1
    let kem := drawn r 0 64
    let d := ecScalar (drawn r 64 64)
    let id := BitVec.ofNat 128 (ofBytesLE (drawn r 128 16))
    let signed := messageHeader s 1 1680 id (Config.offerSource f) (BitVec.ofNat 8 f) ++ List.replicate 8 0
      ++ fit 1568 (kemKeys kem1024 (kem.take 32)).1 ++ ecEncode (ecPublic d) ++ List.replicate 7 0
    let s := s.onFn f fun g => { g with offer := some ⟨id, kem, d, sha384 signed⟩ }
    deliverMessage i out (wholeMessage (drawn r 144 32) (drawn r 176 64) signed) s

/-- R488: the checks of VF_EXPORT in order, and the offer that passes them. (DEDUCED, log 35.) -/
def exportChecks (f : Nat) (input : List Byte) (out : Nat) (s : State) : Except Result Message :=
  let g := s.fn f
  if g.vf ≠ .moored ∨ g.cause = .ltChange then .error (statusOf 0x100)
  else if !(s.lt.entry f).migratable then .error (statusOf 0x101)
  else if s.lt.trustDomain = 0 then .error (statusOf 0x105)
  else match acceptMessage s 1 input with
    | none => .error (statusOf 0x104)
    | some m =>
      let rs := s.lt.ringsOf f
      let q := ecDecode ((m.body.drop 1576).take 97)
      if m.body.length ≠ 1680 ∨ kemEkOk kem1024 ((m.body.drop 8).take 1568) = false ∨ q.isNone = true then .error (statusOf 0x104)
      else if s.mu.sessions.any fun e => decide (e.2.fn = f) then .error (statusOf 0x102)
      else if (heldCmds s rs).any fun c => decide (dClass c.first = 3) then .error (statusOf 0x103)
      else if rs.any fun r => decide ((s.lt.ident r).origin = .module) && !(s.ring r).cmds.isEmpty then .error (statusOf 0x109)
      else if out < messageLen (1712 + blobP s f) then .error (badLength (messageLen (1712 + blobP s f)))
      else .ok m

/-- R486: the BLOB message that answers an offer, from 204 drawn bytes. (DESIGN CHOICE, log 34.) -/
def blobMessage (f : Nat) (m : Message) (r : List Byte) (s : State) : List Byte :=
  let p := blobP s f
  let kem := kemEncaps kem1024 ((m.body.drop 8).take 1568) (drawn r 0 32)
  let d := ecScalar (drawn r 32 64)
  let nonce := drawn r 96 12
  let key := blobKey kem.1 (ecdh d ((ecDecode ((m.body.drop 1576).take 97)).getD (0, 0))) (sha384 m.signed) m.id
  let header := messageHeader s 2 (1712 + p) m.id (BitVec.ofNat 8 f) m.dst
  let ct := gcmCrypt key nonce (fit p (Config.blobPlain (blobOf s f)))
  wholeMessage (drawn r 108 32) (drawn r 140 64) (header ++ fit 1568 kem.2 ++ ecEncode (ecPublic d) ++ List.replicate 7 0 ++ nonce
    ++ List.replicate 4 0 ++ gcmTag key nonce header ct ++ bytesLE 4 p ++ List.replicate 4 0 ++ ct)

/-- VF_EXPORT (R486, R488). -/
def vfExport (i : RingIdent) (k : Cmd) (s : State) : State × Result :=
  let f := mFn k.first
  let inp := mIn k.first
  if !lifeForm [0] k.first then (s, statusOf 0x11)
  else
    let (s, bs, poison) := ringRead i inp.1 inp.2 s
    if poison then (s, statusOf 0x70)
    else match exportChecks f bs (mOut k.first).2 s with
      | .error e => (s, e)
      | .ok m =>
        if seedless k then (s, statusOf 0x205)
        else
          let blob := blobMessage f m ((cmdDrbg k).generate 204).1 s
          deliverMessage i (mOut k.first) blob (s.onFn f fun g =>
            { g with vf := .exporting, sentDigest := sha384 blob, peer := m.sender, migrationId := m.id })

/-- R487: the plaintext of a BLOB message under the keys of an offer. (DESIGN CHOICE, log 34.) -/
def openBlob (o : Offer) (m : Message) : Option (List Byte) :=
  let kem := kemDecaps kem1024 (o.kem.take 32) (o.kem.drop 32) (m.body.take 1568)
  let nonce := (m.body.drop 1672).take 12
  let p := leField m.body 1704 4
  let ct := m.body.drop 1712
  (ecDecode ((m.body.drop 1568).take 97)).bind fun q =>
    let key := blobKey kem (ecdh o.scalar q) o.digest o.id
    if m.body.length = 1712 + p ∧ gcmTag key nonce m.header ct = (m.body.drop 1688).take 16 then some (gcmCrypt key nonce ct) else none

/-- R489: the checks of VF_IMPORT in order, and what the blob holds; `n` is the first draw of open values.
(DEDUCED, log 35.) -/
def importChecks (g : Nat) (input : List Byte) (n : Nat) (s : State) : Except Result (Message × Moved) :=
  match isVf s g && decide ((s.fn g).vf = .disabled), (s.fn g).offer with
  | true, some o =>
    if messageId input ≠ o.id then .error (statusOf 0x104)
    else if !(s.lt.entry g).migratable then .error (statusOf 0x101)
    else if s.lt.trustDomain = 0 then .error (statusOf 0x105)
    else match acceptMessage s 2 input with
      | none => .error (statusOf 0x104)
      | some m => match openBlob o m with
        | none => .error (statusOf 0x104)
        | some plain =>
          let b := readBlob g n (Config.blobContent plain)
          if b.shape ≠ shapeOf s.lt g then .error (statusOf 0x106)
          else if (b.slots.any fun e => (slotAt s e.1).isSome) || decide (s.lt.keyQuota g < slotsOf s g + b.slots.length) then
            .error (statusOf 0x107)
          else .ok (m, b)
  | _, _ => .error (statusOf 0x100)

/-- R489: keys, ring state and held commands are placed. (DESIGN CHOICE, log 36.) -/
def placeMoved (g : Nat) (b : Moved) (s : State) : State :=
  let s := s.onCx fun c => { c with slots := b.slots.foldl (fun t e => tput e.2 t e.1) c.slots }
  (s.lt.ringsOf g).zipIdx.foldl (fun t e =>
    t.onRing e.1 fun r => r.load (b.rings.getD e.2 []) ((b.cmds.filter fun c => c.1 == e.2).map (·.2))) s

/-- R897: Q_RING and Q_COMMAND commands of the rings have their snapshots formed again. (DEDUCED, log 32.) -/
def reformSnapshots (g : Nat) (s : State) : State :=
  (s.lt.ringsOf g).foldl (fun t r =>
    t.onRing r fun x => { x with cmds := x.cmds.map fun c => if c.unreadable || decide (c.descs.length ≠ 1) then c else { c with snapshot := snapshotFor s r c.first } }) s

/-- VF_IMPORT (R487, R489). (DEDUCED, log 35.) -/
def vfImport (i : RingIdent) (k : Cmd) (s : State) : State × Result :=
  let g := mFn k.first
  let inp := mIn k.first
  if !lifeForm [0] k.first then (s, statusOf 0x11)
  else if (mOut k.first).2 < messageLen 48 then (s, badLength (messageLen 48))
  else
    let (s, bs, poison) := ringRead i inp.1 inp.2 s
    if poison then (s, statusOf 0x70)
    else match importChecks g bs s.free s with
      | .error e => (s, e)
      | .ok (m, b) =>
        if seedless k then (s, statusOf 0x205)
        else
          let s := { s with free := s.free + b.cmds.length + b.slots.length }
          let s := commitMigrated false g m.id (reformSnapshots g (placeMoved g b s))
          let r := ((cmdDrbg k).generate 96).1
          let receipt := wholeMessage (drawn r 0 32) (drawn r 32 64) (messageHeader s 3 48 m.id m.src m.dst ++ sha384 bs)
          deliverMessage i (mOut k.first) receipt (s.onFn g fun x =>
            { x with vf := .imported, offer := none, sentDigest := sha384 receipt, peer := m.sender, migrationId := m.id })

/-- A commit's message: of its type, from the peer, and carrying the digest of what was sent (R490, R491). -/
def commitMessage (f type : Nat) (input : List Byte) (s : State) : Option Message :=
  (acceptMessage s type input).bind fun m =>
    if m.body = (s.fn f).sentDigest ∧ m.sender = (s.fn f).peer then some m else none

/-- The held work of a function's rings is dropped without completion; nothing of it is unfinished here any more.
(DESIGN CHOICE, log 37.) -/
def dropHeld (rings : List Nat) (s : State) : State :=
  rings.foldl (fun t r => t.onRing r fun g => { g with cmds := [], doneSeq := g.acceptSeq, draining := false }) s

/-- VF_EXPORT_COMMIT (R490). -/
def exportCommit (i : RingIdent) (k : Cmd) (s : State) : State × Result :=
  let f := mFn k.first
  let inp := mIn k.first
  if !lifeForm [0] k.first then (s, statusOf 0x11)
  else if (mOut k.first).2 < messageLen 48 then (s, badLength (messageLen 48))
  else if (s.fn f).vf ≠ .exporting then (s, statusOf 0x100)
  else
    let (s, bs, poison) := ringRead i inp.1 inp.2 s
    if poison then (s, statusOf 0x70)
    else match commitMessage f 3 bs s with
      | none => (s, statusOf 0x104)
      | some m =>
        if seedless k then (s, statusOf 0x205)
        else
          let s := commitMigrated true f (s.fn f).migrationId s
          let s := s.onCx fun c => { c with slots := c.slots.filter fun e => decide (e.2.fn ≠ f) }
          let s := toDisabled f (dropHeld (custodyRings s f) s)
          let r := ((cmdDrbg k).generate 96).1
          deliverMessage i (mOut k.first)
            (wholeMessage (drawn r 0 32) (drawn r 32 64) (messageHeader s 4 48 m.id m.src m.dst ++ sha384 bs)) s

/-- VF_IMPORT_COMMIT (R491): the held work belongs to the function, which becomes MOORED with a report of cause IMPORT. -/
def importCommit (i : RingIdent) (k : Cmd) (s : State) : State × Result :=
  let g := mFn k.first
  let inp := mIn k.first
  if !lifeForm [0] k.first then (s, statusOf 0x11)
  else if (s.fn g).vf ≠ .imported ∨ s.lt.exists g = false then (s, statusOf 0x100)
  else
    let (s, bs, poison) := ringRead i inp.1 inp.2 s
    if poison then (s, statusOf 0x70)
    else match commitMessage g 4 bs s with
      | none => (s, statusOf 0x104)
      | some _ => (enterMoored g .import (s.lt.ringsOf g) s, statusOf 0)

/-- VF_EXPORT_ABORT (Table 10.9): MOORED again, without a second report. (DEDUCED, log 35.) -/
def exportAbort (k : Cmd) (s : State) : State × Result :=
  let f := mFn k.first
  if !lifeForm [0] k.first then (s, statusOf 0x11)
  else if (s.fn f).vf ≠ .exporting then (s, statusOf 0x100)
  else (s.onFn f fun g => { g with vf := .moored }, statusOf 0)

/-- VF_IMPORT_DISCARD (Table 10.9, R487): the imported work, or the outstanding offer, is dropped. (DESIGN CHOICE, log 37.) -/
def importDiscard (k : Cmd) (s : State) : State × Result :=
  let f := mFn k.first
  let g := s.fn f
  if !lifeForm [0] k.first then (s, statusOf 0x11)
  else if g.vf = .imported then
    ((toDisabled f (dropHeld (custodyRings s f) s)).onFn f fun x => { x with offer := none }, statusOf 0)
  else if g.vf = .disabled ∧ g.offer.isSome = true then (s.onFn f fun x => { x with offer := none }, statusOf 0)
  else (s, statusOf 0x100)

/-- A migration command runs in its turn (R475), in the ring engine's MGMT work. (DEDUCED, log 35.) -/
def migrate (c : CmdRef) (op : Nat) (f : RingIdent → Cmd → State → State × Result) (s : State) : State :=
  if lifeTurn c s then runAtOnce c (isOpcode 1 op) 5 0 (fun k i t => f i k t) s else s

/-- VF_IMPORT_OFFER (R487). -/
def execVfImportOffer (c : CmdRef) (s : State) : Host.Outcome State Fault Refusal := ok s (migrate c 0x23 importOffer s)
/-- VF_EXPORT (R486, R488). -/
def execVfExport (c : CmdRef) (s : State) : Host.Outcome State Fault Refusal := ok s (migrate c 0x24 vfExport s)
/-- VF_IMPORT (R487, R489). -/
def execVfImport (c : CmdRef) (s : State) : Host.Outcome State Fault Refusal := ok s (migrate c 0x25 vfImport s)
/-- VF_EXPORT_COMMIT (R490). -/
def execVfExportCommit (c : CmdRef) (s : State) : Host.Outcome State Fault Refusal := ok s (migrate c 0x26 exportCommit s)
/-- VF_IMPORT_COMMIT (R491). -/
def execVfImportCommit (c : CmdRef) (s : State) : Host.Outcome State Fault Refusal := ok s (migrate c 0x27 importCommit s)
/-- VF_EXPORT_ABORT (Table 10.12). -/
def execVfExportAbort (c : CmdRef) (s : State) : Host.Outcome State Fault Refusal := ok s (migrate c 0x28 (fun _ => exportAbort) s)
/-- VF_IMPORT_DISCARD (Table 10.12). -/
def execVfImportDiscard (c : CmdRef) (s : State) : Host.Outcome State Fault Refusal := ok s (migrate c 0x29 (fun _ => importDiscard) s)

end Sys2Proof.Machine
end

