-- ==== Sys2Proof/Machine/Ports.lean ====
section
/-!
DEFINITION. The lands that no other unit serves: SMBus telemetry (19 §19.9), the TAP's boundary scan (19 §19.8), GPIO inputs
(Table 5.8), and an internal DMA channel's accesses (08 §8.6).
-/

namespace Sys2Proof.Machine

/-! ### SMBus (R877-R880) -/

/-- R877: the module's 7-bit address. -/
def smbAddress (s : State) : Nat := 0x40 + s.pwr.modId.toNat % 32

/-- R880: SMBus is served while the POL rails are good. -/
def smbServes (s : State) : Bool := decide (s.pwr.supply = .on)

/-- A read of a command: its data bytes, with a PEC over the whole transaction where the host clocks one (R878).
(DEDUCED, log 70.) -/
def smbRead (code : Byte) (data : List Byte) (pec : Bool) (s : State) : State :=
  if smbServes s then
    let a := BitVec.ofNat 8 (2 * smbAddress s)
    s.emit (.smbus (data ++ if pec then [pecOf ([a, code, a + 1] ++ data)] else []))
  else s

/-- Read Word: two bytes, the low one first. -/
def smbWord (code : Byte) (v : Nat) (pec : Bool) (s : State) : State := smbRead code (bytesLE 2 v) pec s
/-- Block Read: the byte count, then the bytes, the low one first. (DEDUCED, log 70.) -/
def smbBlock (code : Byte) (n v : Nat) (pec : Bool) (s : State) : State := smbRead code (bytesLE 1 n ++ bytesLE n v) pec s

/-- SMB_PS_STATUS (Table 19.9). -/
def execSmbPsStatus (pec : Bool) (s : State) : Host.Outcome State Fault Refusal := .next (smbWord 0 (psStatus s).toNat pec s)
/-- SMB_TROUBLE_SUM (Table 19.9): bit 5 at its true value. -/
def execSmbTroubleSum (pec : Bool) (s : State) : Host.Outcome State Fault Refusal := .next (smbBlock 1 4 (troubleSum s).toNat pec s)
/-- SMB_FEED_A_VOLTAGE (Table 19.9). -/
def execSmbFeedAVoltage (pec : Bool) (s : State) : Host.Outcome State Fault Refusal :=
  .next (smbWord 2 (min 0xFFFF s.pwr.feedA.volts.toNat) pec s)
/-- SMB_FEED_B_VOLTAGE (Table 19.9). -/
def execSmbFeedBVoltage (pec : Bool) (s : State) : Host.Outcome State Fault Refusal :=
  .next (smbWord 3 (min 0xFFFF s.pwr.feedB.volts.toNat) pec s)
/-- SMB_INPUT_POWER (Table 19.9). -/
def execSmbInputPower (pec : Bool) (s : State) : Host.Outcome State Fault Refusal := .next (smbWord 4 (min 0xFFFF s.pwr.inputDeciW) pec s)
/-- SMB_DIE_TEMPERATURE (Table 19.9): signed, in units of 0.1 degrees. -/
def execSmbDieTemperature (pec : Bool) (s : State) : Host.Outcome State Fault Refusal :=
  .next (smbWord 5 (BitVec.ofInt 16 (10 * s.pwr.dieTemp)).toNat pec s)
/-- SMB_MOD_ID (Table 19.9). -/
def execSmbModId (pec : Bool) (s : State) : Host.Outcome State Fault Refusal :=
  .next (smbWord 6 (s.pwr.modId.toNat + 256 * bit s.pwr.daymarkPin) pec s)
/-- SMB_PART_ID (Table 19.9). -/
def execSmbPartId (pec : Bool) (s : State) : Host.Outcome State Fault Refusal := .next (smbBlock 7 4 0x4B640128 pec s)
/-- SMB_DEVICE_SERIAL (Table 19.9). -/
def execSmbDeviceSerial (pec : Bool) (s : State) : Host.Outcome State Fault Refusal :=
  .next (smbBlock 8 8 Config.deviceSerial.toNat pec s)
/-- SMB_UP_STATUS (Table 19.9). -/
def execSmbUpStatus (pec : Bool) (s : State) : Host.Outcome State Fault Refusal := .next (smbBlock 9 4 (upStatus s).toNat pec s)

/-- SMB_WRITE (R878): acknowledged, without effect. -/
def execSmbWrite (_code : Byte) (_bytes : List Byte) (s : State) : Host.Outcome State Fault Refusal := .next s

/-- R879: SMB_ALERT# sinks. -/
def smbAlertSinks (s : State) : Bool :=
  smbServes s && (decide (bits (troubleSum s) 0 31 ≠ 0) || s.pwr.thermWarn)

/-- The answer to a read of the Alert Response Address 0x0C: the module's own address, in bits 7:1 (R879).
(DEDUCED, log 70.) -/
def smbAlertResponse (pec : Bool) (s : State) : State :=
  if smbServes s then
    let a := BitVec.ofNat 8 (2 * smbAddress s)
    s.emit (.smbus ([a] ++ if pec then [pecOf [0x19#8, a]] else []))
  else s

/-- SMB_ALERT_RESPONSE (R879). -/
def execSmbAlertResponse (pec : Bool) (s : State) : Host.Outcome State Fault Refusal := .next (smbAlertResponse pec s)

/-! ### JTAG (R873-R876) -/

/-- Bits shifted through the bypass register, which captures 0: the first bit out is 0, and the last one in stays. -/
def bypassScan (ins : List Bool) (s : State) : State :=
  (s.emit (.tdo ins.length (2 * ofBits ins % 2 ^ ins.length))).onPort fun q => { q with bypass := ins.getLast?.getD false }

/-- Bits shifted through the boundary register: the lands' capture comes out, and the update latches take what went in (R874).
(DESIGN CHOICE, log 71.) -/
def boundaryScan (cells : List Bool) (s : State) : State :=
  let (n, t) := s.draw
  (t.emit (.tdo cells.length (ofBits (fitBools cells.length (Config.landCells n))))).onPort fun q => { q with cells := cells }
where
  /-- A capture cut or padded to the register's length. -/
  fitBools (n : Nat) (bs : List Bool) : List Bool := (bs ++ List.replicate n false).take n

/-- EXTEST (R875): the boundary register while MOD_RESET# is low, the bypass register otherwise. (DEDUCED, log 70.) -/
def execExtest (cells : List Bool) (s : State) : Host.Outcome State Fault Refusal :=
  .next (scan 0 (fun t => if t.port.modResetLow then boundaryScan cells t else bypassScan cells t) s)

/-- IDCODE (Table 19.8). -/
def execIdcode (s : State) : Host.Outcome State Fault Refusal := .next (scan 1 (fun t => t.emit (.tdo 32 0x14B64857)) s)

/-- SAMPLE_PRELOAD (Table 19.8). -/
def execSamplePreload (cells : List Bool) (s : State) : Host.Outcome State Fault Refusal := .next (scan 2 (boundaryScan cells) s)

/-- CLAMP (R875): the lands follow the update latches while MOD_RESET# is low; the bypass register is between TDI and TDO. -/
def execClamp (s : State) : Host.Outcome State Fault Refusal := .next (scan 3 id s)

/-- HIGHZ (R875): the lands float while MOD_RESET# is low. -/
def execHighz (s : State) : Host.Outcome State Fault Refusal := .next (scan 4 id s)

/-- The instruction codes that Table 19.8 lists, BYPASS apart. -/
def listedInstructions : List (BitVec 5) := [0x00, 0x01, 0x02, 0x03, 0x04, 0x10, 0x11, 0x18, 0x19, 0x1A]

/-- BYPASS (R873): its own code and every unlisted one. -/
def execBypass (code : BitVec 5) (tdi : Bool) (s : State) : Host.Outcome State Fault Refusal :=
  .next (if listedInstructions.contains code then s else scan code (bypassScan [tdi]) s)

/-- DTMCS (Table 19.8): its content is the RISC-V debug specification's. (DESIGN CHOICE, log 71.) -/
def execDtmcs (_shiftIn : W32) (s : State) : Host.Outcome State Fault Refusal :=
  .next (scan 0x10 (fun t => t.emit (.tdo 32 Config.dtmcs.toNat)) s)

/-- JTAG_TRST (R876): the TAP controller is reset; its instruction becomes IDCODE. (DEDUCED, log 70.) -/
def execJtagTrst (s : State) : Host.Outcome State Fault Refusal := .next (s.onPort fun q => { q with ir := 1, bypass := false })

/-- What a boundary-scan instruction makes of the lands (R875). -/
inductive LandMode | functional | driven (cells : List Bool) | floating
  deriving DecidableEq, Repr

/-- The state that the TAP gives the lands with cells: only while MOD_RESET# is held low (R875). -/
def landMode (s : State) : LandMode :=
  if !s.port.modResetLow then .functional
  else if s.port.ir = 0 ∨ s.port.ir = 3 then .driven s.port.cells
  else if s.port.ir = 4 then .floating else .functional

/-! ### Lands (Table 19.10) -/

/-- A group of lands whose state Table 19.10 gives. -/
inductive LandGroup
  | trip (n : SiteId)
  | laneTx (n : SiteId)
  | chainTx (p : Port)
  | pwrGood | fault | therm | gpio (n : Fin 8) | xspiReset | clkreq | wake | uartTx | smbAlert
  deriving DecidableEq, Repr

/-- What a land does. -/
inductive LandState | floating | idle | released | sinks | low | high | drives
  deriving DecidableEq, Repr

/-- A land that sinks or is released. -/
def sinkLand (b : Bool) : LandState := if b then .sinks else .released

/-- R881: the state of a group of lands. While its supply lasts the module drives them; unpowered, PWR_GOOD's normally-on stage sinks.
GPIO floats outside ring service (R365). (DEDUCED, log 70.) -/
def landState (s : State) (g : LandGroup) : LandState :=
  let on := decide (s.pwr.supply = .on)
  match g with
  | .trip n => if on || (s.site n.val).asserted then sinkLand (s.site n.val).asserted else .floating
  | .laneTx n => if !on then .floating else if (s.lane n.val).st = .disabled then .idle else .drives
  | .chainTx p => if !on then .floating else if (s.bc p).st = .disabled then .idle else .drives
  | .pwrGood => sinkLand (!pwrGood s)
  | .fault => if on then sinkLand (faultSinks s) else .floating
  | .therm => if on then sinkLand (thermSinks s) else .floating
  | .gpio n => if on && inService s && s.kp.gpioOe.getLsbD n.val then (if s.kp.gpioOut.getLsbD n.val then .high else .low) else .floating
  | .xspiReset => if !on then .floating else if s.pwr.stage = .rails ∧ 3 ≥ s.pwr.cause then .low else .high
  | .clkreq => if on then .sinks else .floating
  | .wake => .floating
  | .uartTx => if !on then .floating else if s.up.daymark && s.up.retained.getLsbD 3 then .drives else .high
  | .smbAlert => sinkLand (smbAlertSinks s)

/-! ### GPIO -/

/-- GPIO_INPUT_CHANGE (R211): the lands' levels from outside; a land that rises asserts its source. (DEDUCED, log 70.) -/
def execGpioInputChange (levels : Byte) (s : State) : Host.Outcome State Fault Refusal :=
  .next (gpioEdges s (s.onKp fun k => { k with gpioLand := levels }))

/-! ### Internal DMA (R364) -/

/-- An internal DMA channel as the home slices check it: a Keeper-world channel is enclave KP_DMA_EIDk, and 0 means the
monitor region (R346, R364); requester 27 (R295). (DEDUCED, log 72.) -/
def dmaAgent (s : State) (k : Nat) : Agent :=
  if s.lt.dmaWorld.getLsbD k then
    let e := (tget 0 s.kp.dmaEid k).toNat
    ⟨(s.encl e).owner, e, true, decide (e = 0), true, 27⟩
  else openAgent 27

/-- INTERNAL_DMA_ACCESS's effect: a read that meets poison gives no data (Table 7.5), a write goes out line by line (R276).
The channel's APLIC source pulses (Table 5.8). (DEDUCED, log 72; DESIGN CHOICE, log 79.) -/
def internalDma (k a : Nat) (op : DmaOp) (s : State) : State :=
  let g := dmaAgent s k
  match op with
  | .read n =>
    let p := agentCheck g a n.val s
    if p.2 then poisonConsumed p.1 else p.1.emit (.dmaData k a (agentRead s g a n.val))
  | .write bs => agentWrite g (bs.length + 1) a bs s

/-- INTERNAL_DMA_ACCESS (R346, R364), once DRAM is zeroed (Table 4.3). (DEDUCED, log 72.) -/
def execInternalDmaAccess (channel : Fin 32) (addr : BitVec 48) (op : DmaOp) (s : State) : Host.Outcome State Fault Refusal :=
  ok s (if s.mesh.zeroed && !s.pwr.moduleReset then aplic (internalDma channel.val addr.toNat op s) (129 + channel.val) else s)

end Sys2Proof.Machine
end

