-- ==== Sys2Proof/Machine/Dispatch.lean ====
section
/-!
DEFINITION. One arm per command: the meaning that gives its effect.
-/

namespace Sys2Proof.Machine

/-- A command's effect on everything but the queue. -/
def exec (i : Instr) (s : State) : Host.Outcome State Fault Refusal :=
  match i with
  | .feedBecomesValid f v => Sys2Proof.Machine.execFeedBecomesValid f v s
  | .feedBecomesInvalid f v => Sys2Proof.Machine.execFeedBecomesInvalid f v s
  | .feedOvervoltage f v => Sys2Proof.Machine.execFeedOvervoltage f v s
  | .feedReversed f v => Sys2Proof.Machine.execFeedReversed f v s
  | .feedShorted f => Sys2Proof.Machine.execFeedShorted f s
  | .powerCapInterval deciWatts => Sys2Proof.Machine.execPowerCapInterval deciWatts s
  | .holdupCharged => Sys2Proof.Machine.execHoldupCharged s
  | .powerFailCommit => Sys2Proof.Machine.execPowerFailCommit s
  | .powerOnReset holdupLow => Sys2Proof.Machine.execPowerOnReset holdupLow s
  | .polRailsGood modId daymarkHigh => Sys2Proof.Machine.execPolRailsGood modId daymarkHigh s
  | .thermalHoldRelease temp => Sys2Proof.Machine.execThermalHoldRelease temp s
  | .romStart entropyOk => Sys2Proof.Machine.execRomStart entropyOk s
  | .lightTableCheck slot readError => Sys2Proof.Machine.execLightTableCheck slot readError s
  | .dramTrained => Sys2Proof.Machine.execDramTrained s
  | .pcieLinkTrained => Sys2Proof.Machine.execPcieLinkTrained s
  | .logbookReplay => Sys2Proof.Machine.execLogbookReplay s
  | .ringService => Sys2Proof.Machine.execRingService s
  | .bootSlowTimeout => Sys2Proof.Machine.execBootSlowTimeout s
  | .polFault => Sys2Proof.Machine.execPolFault s
  | .polLockoutEnd => Sys2Proof.Machine.execPolLockoutEnd s
  | .modResetPin => Sys2Proof.Machine.execModResetPin s
  | .psModuleReset who value => Sys2Proof.Machine.execPsModuleReset who value s
  | .moduleResetRelease modId daymarkHigh => Sys2Proof.Machine.execModuleResetRelease modId daymarkHigh s
  | .perstAssertion => Sys2Proof.Machine.execPerstAssertion s
  | .hotReset => Sys2Proof.Machine.execHotReset s
  | .linkLoss => Sys2Proof.Machine.execLinkLoss s
  | .perstDeassertion => Sys2Proof.Machine.execPerstDeassertion s
  | .configRequest f op => Sys2Proof.Machine.execConfigRequest f op s
  | .psHartReset who mask => Sys2Proof.Machine.execPsHartReset who mask s
  | .debugHartreset h => Sys2Proof.Machine.execDebugHartreset h s
  | .debugNdmreset => Sys2Proof.Machine.execDebugNdmreset s
  | .hartResetComplete h => Sys2Proof.Machine.execHartResetComplete h s
  | .thermWarnAssert temp => Sys2Proof.Machine.execThermWarnAssert temp s
  | .thermWarnRelease temp => Sys2Proof.Machine.execThermWarnRelease temp s
  | .throttleStep temp => Sys2Proof.Machine.execThrottleStep temp s
  | .dieTempShutdown temp => Sys2Proof.Machine.execDieTempShutdown temp s
  | .tcbFrame fr => Sys2Proof.Machine.execTcbFrame fr s
  | .tcbCoastLimit => Sys2Proof.Machine.execTcbCoastLimit s
  | .tcbAlignmentChange aligned inverted => Sys2Proof.Machine.execTcbAlignmentChange aligned inverted s
  | .tcbRefToleranceChange within => Sys2Proof.Machine.execTcbRefToleranceChange within s
  | .alarmFire f a => Sys2Proof.Machine.execAlarmFire f a s
  | .ctAlarmCmpWrite who a part value => Sys2Proof.Machine.execCtAlarmCmpWrite who a part value s
  | .ctAlarmCtrlWrite who a value => Sys2Proof.Machine.execCtAlarmCtrlWrite who a value s
  | .reg64LowHalfRead who offset => Sys2Proof.Machine.execReg64LowHalfRead who offset s
  | .load h rd signed acc => Sys2Proof.Machine.execLoad h rd signed acc s
  | .store h acc value => Sys2Proof.Machine.execStore h acc value s
  | .storeBufferDrain h => Sys2Proof.Machine.execStoreBufferDrain h s
  | .combiningBufferDrain h line => Sys2Proof.Machine.execCombiningBufferDrain h line s
  | .amo h rd op acc value aq rl => Sys2Proof.Machine.execAmo h rd op acc value aq rl s
  | .lr h rd acc aq rl constrained => Sys2Proof.Machine.execLr h rd acc aq rl constrained s
  | .sc h rd acc value aq rl => Sys2Proof.Machine.execSc h rd acc value aq rl s
  | .lrDeferralTimeout h => Sys2Proof.Machine.execLrDeferralTimeout h s
  | .fence h pred succ => Sys2Proof.Machine.execFence h pred succ s
  | .fenceTso h => Sys2Proof.Machine.execFenceTso h s
  | .fenceI h => Sys2Proof.Machine.execFenceI h s
  | .cboClean h acc => Sys2Proof.Machine.execCboClean h acc s
  | .cboFlush h acc => Sys2Proof.Machine.execCboFlush h acc s
  | .cboInval h acc => Sys2Proof.Machine.execCboInval h acc s
  | .cboZero h acc => Sys2Proof.Machine.execCboZero h acc s
  | .prefetch h kind acc => Sys2Proof.Machine.execPrefetch h kind acc s
  | .predFlush h word => Sys2Proof.Machine.execPredFlush h word s
  | .predBar h word => Sys2Proof.Machine.execPredBar h word s
  | .pause h => Sys2Proof.Machine.execPause h s
  | .wfi h => Sys2Proof.Machine.execWfi h s
  | .misaWrite h value insn => Sys2Proof.Machine.execMisaWrite h value insn s
  | .trapVectorWrite h reg value insn => Sys2Proof.Machine.execTrapVectorWrite h reg value insn s
  | .satpWrite h reg value insn => Sys2Proof.Machine.execSatpWrite h reg value insn s
  | .pmpcfgWrite h entry value insn => Sys2Proof.Machine.execPmpcfgWrite h entry value insn s
  | .mhpmeventWrite h n value insn => Sys2Proof.Machine.execMhpmeventWrite h n value insn s
  | .counterWrite h c value insn => Sys2Proof.Machine.execCounterWrite h c value insn s
  | .skulctlWrite h value insn => Sys2Proof.Machine.execSkulctlWrite h value insn s
  | .hkulctlWrite h value insn => Sys2Proof.Machine.execHkulctlWrite h value insn s
  | .seedCsrRead h rd insn => Sys2Proof.Machine.execSeedCsrRead h rd insn s
  | .rdShared core line chk => Sys2Proof.Machine.execRdShared core line chk s
  | .rdUnique core line chk => Sys2Proof.Machine.execRdUnique core line chk s
  | .upgrade core line => Sys2Proof.Machine.execUpgrade core line s
  | .wbDirty core line => Sys2Proof.Machine.execWbDirty core line s
  | .evictClean core line => Sys2Proof.Machine.execEvictClean core line s
  | .devRead who line chk => Sys2Proof.Machine.execDevRead who line chk s
  | .devWrite who line data mask => Sys2Proof.Machine.execDevWrite who line data mask s
  | .snpShared core line => Sys2Proof.Machine.execSnpShared core line s
  | .snpUnique core line => Sys2Proof.Machine.execSnpUnique core line s
  | .snpInv core line => Sys2Proof.Machine.execSnpInv core line s
  | .data core line => Sys2Proof.Machine.execData core line s
  | .dataDirty core line => Sys2Proof.Machine.execDataDirty core line s
  | .ack core line => Sys2Proof.Machine.execAck core line s
  | .retry who slice => Sys2Proof.Machine.execRetry who slice s
  | .trackerRelease slice line => Sys2Proof.Machine.execTrackerRelease slice line s
  | .creditGrant who slice => Sys2Proof.Machine.execCreditGrant who slice s
  | .patrolScrub channel chk => Sys2Proof.Machine.execPatrolScrub channel chk s
  | .dramZeroing => Sys2Proof.Machine.execDramZeroing s
  | .pmcClear h => Sys2Proof.Machine.execPmcClear h s
  | .pmcFreeze h freeze => Sys2Proof.Machine.execPmcFreeze h freeze s
  | .kenter h word => Sys2Proof.Machine.execKenter h word s
  | .kexit h word => Sys2Proof.Machine.execKexit h word s
  | .kresume h word => Sys2Proof.Machine.execKresume h word s
  | .asyncExit h cause => Sys2Proof.Machine.execAsyncExit h cause s
  | .enclaveBuild h e => Sys2Proof.Machine.execEnclaveBuild h e s
  | .enclaveSeal h e => Sys2Proof.Machine.execEnclaveSeal h e s
  | .enclaveDestroy h e => Sys2Proof.Machine.execEnclaveDestroy h e s
  | .kpRangeWrite h n base word1 => Sys2Proof.Machine.execKpRangeWrite h n base word1 s
  | .handoverRequest h value => Sys2Proof.Machine.execHandoverRequest h value s
  | .handoverBlockReset block => Sys2Proof.Machine.execHandoverBlockReset block s
  | .kpWdKick h value => Sys2Proof.Machine.execKpWdKick h value s
  | .watchdogPreExpiry => Sys2Proof.Machine.execWatchdogPreExpiry s
  | .watchdogExpiryHard => Sys2Proof.Machine.execWatchdogExpiryHard s
  | .watchdogExpirySoft => Sys2Proof.Machine.execWatchdogExpirySoft s
  | .kpVlogPop h value => Sys2Proof.Machine.execKpVlogPop h value s
  | .psGateWrite who value => Sys2Proof.Machine.execPsGateWrite who value s
  | .gateTakesEffect block => Sys2Proof.Machine.execGateTakesEffect block s
  | .psIdleHintWrite who value => Sys2Proof.Machine.execPsIdleHintWrite who value s
  | .idleHintUngate unit => Sys2Proof.Machine.execIdleHintUngate unit s
  | .kdbgChal => Sys2Proof.Machine.execKdbgChal s
  | .kdbgResp resp => Sys2Proof.Machine.execKdbgResp resp s
  | .kdbgStat shiftIn => Sys2Proof.Machine.execKdbgStat shiftIn s
  | .dmiAccess op => Sys2Proof.Machine.execDmiAccess op s
  | .dispNext h word sram => Sys2Proof.Machine.execDispNext h word sram s
  | .dispEnq h word => Sys2Proof.Machine.execDispEnq h word s
  | .dispWait h word sram => Sys2Proof.Machine.execDispWait h word sram s
  | .dispYield h word sram => Sys2Proof.Machine.execDispYield h word sram s
  | .hkuldispWrite h value insn => Sys2Proof.Machine.execHkuldispWrite h value insn s
  | .tickBoundary sram => Sys2Proof.Machine.execTickBoundary sram s
  | .wakeHeldMove d sram => Sys2Proof.Machine.execWakeHeldMove d sram s
  | .devicePost source d payload prio => Sys2Proof.Machine.execDevicePost source d payload prio s
  | .heldEventPost d => Sys2Proof.Machine.execHeldEventPost d s
  | .dsTraceRecLoRead who corrected => Sys2Proof.Machine.execDsTraceRecLoRead who corrected s
  | .dsTraceRecHiRead who corrected => Sys2Proof.Machine.execDsTraceRecHiRead who corrected s
  | .traceClrOvf who => Sys2Proof.Machine.execTraceClrOvf who s
  | .traceRestart who => Sys2Proof.Machine.execTraceRestart who s
  | .msixDeliverPending f v => Sys2Proof.Machine.execMsixDeliverPending f v s
  | .mbxVfSend f => Sys2Proof.Machine.execMbxVfSend f s
  | .mbxVfAck f => Sys2Proof.Machine.execMbxVfAck f s
  | .mbxPfSend who => Sys2Proof.Machine.execMbxPfSend who s
  | .mbxPfAck who => Sys2Proof.Machine.execMbxPfAck who s
  | .mbxMessageWrite who n part value => Sys2Proof.Machine.execMbxMessageWrite who n part value s
  | .vfEnableWrite enable => Sys2Proof.Machine.execVfEnableWrite enable s
  | .numvfsWrite n => Sys2Proof.Machine.execNumvfsWrite n s
  | .vfFlr f => Sys2Proof.Machine.execVfFlr f s
  | .vfFlrComplete f => Sys2Proof.Machine.execVfFlrComplete f s
  | .pfFlr => Sys2Proof.Machine.execPfFlr s
  | .vfMoored f => Sys2Proof.Machine.execVfMoored f s
  | .custodyWait c => Sys2Proof.Machine.execCustodyWait c s
  | .vfQuiesce c => Sys2Proof.Machine.execVfQuiesce c s
  | .vfDisposeRelease c => Sys2Proof.Machine.execVfDisposeRelease c s
  | .vfDisposeReset c => Sys2Proof.Machine.execVfDisposeReset c s
  | .vfImportOffer c => Sys2Proof.Machine.execVfImportOffer c s
  | .vfExport c => Sys2Proof.Machine.execVfExport c s
  | .vfImport c => Sys2Proof.Machine.execVfImport c s
  | .vfExportCommit c => Sys2Proof.Machine.execVfExportCommit c s
  | .vfImportCommit c => Sys2Proof.Machine.execVfImportCommit c s
  | .vfExportAbort c => Sys2Proof.Machine.execVfExportAbort c s
  | .vfImportDiscard c => Sys2Proof.Machine.execVfImportDiscard c s
  | .dirtySwitch who => Sys2Proof.Machine.execDirtySwitch who s
  | .fnDirtyBaseWrite who bitmap part value => Sys2Proof.Machine.execFnDirtyBaseWrite who bitmap part value s
  | .hostReadCompletion r => Sys2Proof.Machine.execHostReadCompletion r s
  | .hostAccessResume f => Sys2Proof.Machine.execHostAccessResume f s
  | .ringEnable who r value => Sys2Proof.Machine.execRingEnable who r value s
  | .ringDisable who r value => Sys2Proof.Machine.execRingDisable who r value s
  | .rgNotifyWrite who r value => Sys2Proof.Machine.execRgNotifyWrite who r value s
  | .ringConfigWrite who r reg part value => Sys2Proof.Machine.execRingConfigWrite who r reg part value s
  | .rgProdWrite who r value => Sys2Proof.Machine.execRgProdWrite who r value s
  | .commandAccept r => Sys2Proof.Machine.execCommandAccept r s
  | .commandComplete r => Sys2Proof.Machine.execCommandComplete r s
  | .nop c => Sys2Proof.Machine.execNop c s
  | .qRing c => Sys2Proof.Machine.execQRing c s
  | .qCommand c => Sys2Proof.Machine.execQCommand c s
  | .qRecords c => Sys2Proof.Machine.execQRecords c s
  | .recordCommitted a b => Sys2Proof.Machine.execRecordCommitted a b s
  | .bankSuspend b => Sys2Proof.Machine.execBankSuspend b s
  | .bankResume b => Sys2Proof.Machine.execBankResume b s
  | .bankFail b => Sys2Proof.Machine.execBankFail b s
  | .carriedCopy lsn => Sys2Proof.Machine.execCarriedCopy lsn s
  | .hash c => Sys2Proof.Machine.execHash c s
  | .aesCbc c => Sys2Proof.Machine.execAesCbc c s
  | .aesCtr c => Sys2Proof.Machine.execAesCtr c s
  | .aesGcm c => Sys2Proof.Machine.execAesGcm c s
  | .aesXts c => Sys2Proof.Machine.execAesXts c s
  | .aesCmac c => Sys2Proof.Machine.execAesCmac c s
  | .aesKw c => Sys2Proof.Machine.execAesKw c s
  | .aesKwp c => Sys2Proof.Machine.execAesKwp c s
  | .chachaPoly c => Sys2Proof.Machine.execChachaPoly c s
  | .hmac c => Sys2Proof.Machine.execHmac c s
  | .kmac c => Sys2Proof.Machine.execKmac c s
  | .random c => Sys2Proof.Machine.execRandom c s
  | .keyImport c => Sys2Proof.Machine.execKeyImport c s
  | .keyGenerate c => Sys2Proof.Machine.execKeyGenerate c s
  | .keyDerive c => Sys2Proof.Machine.execKeyDerive c s
  | .keyExport c => Sys2Proof.Machine.execKeyExport c s
  | .keyDestroy c => Sys2Proof.Machine.execKeyDestroy c s
  | .keyInfo c => Sys2Proof.Machine.execKeyInfo c s
  | .kekRelease c => Sys2Proof.Machine.execKekRelease c s
  | .entropyHealthFail => Sys2Proof.Machine.execEntropyHealthFail s
  | .entropyRestartDone => Sys2Proof.Machine.execEntropyRestartDone s
  | .drbgReseed => Sys2Proof.Machine.execDrbgReseed s
  | .cryptoLaneSelfTest lane passed => Sys2Proof.Machine.execCryptoLaneSelfTest lane passed s
  | .cryptoLaneFail lane chain => Sys2Proof.Machine.execCryptoLaneFail lane chain s
  | .mopen c => Sys2Proof.Machine.execMopen c s
  | .mclose c => Sys2Proof.Machine.execMclose c s
  | .mabort c => Sys2Proof.Machine.execMabort c s
  | .mload c => Sys2Proof.Machine.execMload c s
  | .mstore c => Sys2Proof.Machine.execMstore c s
  | .mldkey c => Sys2Proof.Machine.execMldkey c s
  | .madd c => Sys2Proof.Machine.execMadd c s
  | .msub c => Sys2Proof.Machine.execMsub c s
  | .mmul c => Sys2Proof.Machine.execMmul c s
  | .msqr c => Sys2Proof.Machine.execMsqr c s
  | .minv c => Sys2Proof.Machine.execMinv c s
  | .mexp c => Sys2Proof.Machine.execMexp c s
  | .p384Sign c => Sys2Proof.Machine.execP384Sign c s
  | .p384Verify c => Sys2Proof.Machine.execP384Verify c s
  | .p384Agree c => Sys2Proof.Machine.execP384Agree c s
  | .mlkemEncaps c => Sys2Proof.Machine.execMlkemEncaps c s
  | .mlkemDecaps c => Sys2Proof.Machine.execMlkemDecaps c s
  | .mldsaSign c => Sys2Proof.Machine.execMldsaSign c s
  | .mldsaVerify c => Sys2Proof.Machine.execMldsaVerify c s
  | .luNtt c => Sys2Proof.Machine.execLuNtt c s
  | .luIntt c => Sys2Proof.Machine.execLuIntt c s
  | .luPwmul c => Sys2Proof.Machine.execLuPwmul c s
  | .luSample c => Sys2Proof.Machine.execLuSample c s
  | .luCompress c => Sys2Proof.Machine.execLuCompress c s
  | .unitCommandEnd unit how => Sys2Proof.Machine.execUnitCommandEnd unit how s
  | .muAbortWrite who value => Sys2Proof.Machine.execMuAbortWrite who value s
  | .muSelfTest unit passed memory => Sys2Proof.Machine.execMuSelfTest unit passed memory s
  | .muUnitFail unit memory => Sys2Proof.Machine.execMuUnitFail unit memory s
  | .luUnitFail unit memory => Sys2Proof.Machine.execLuUnitFail unit memory s
  | .measWindow c => Sys2Proof.Machine.execMeasWindow c s
  | .windowClose c => Sys2Proof.Machine.execWindowClose c s
  | .tripArm c => Sys2Proof.Machine.execTripArm c s
  | .tripRelease c => Sys2Proof.Machine.execTripRelease c s
  | .tripAssert c => Sys2Proof.Machine.execTripAssert c s
  | .tripWait c => Sys2Proof.Machine.execTripWait c s
  | .sampleOutput c bits => Sys2Proof.Machine.execSampleOutput c bits s
  | .fastPathOutput c bits => Sys2Proof.Machine.execFastPathOutput c bits s
  | .noclkDeclared c => Sys2Proof.Machine.execNoclkDeclared c s
  | .noclkCleared c => Sys2Proof.Machine.execNoclkCleared c s
  | .clkRangeMeasurement c tenKHz => Sys2Proof.Machine.execClkRangeMeasurement c tenKHz s
  | .stuckDeclared c => Sys2Proof.Machine.execStuckDeclared c s
  | .stuckCleared c => Sys2Proof.Machine.execStuckCleared c s
  | .tripShortDetect n high => Sys2Proof.Machine.execTripShortDetect n high s
  | .tripOpenDetect n land => Sys2Proof.Machine.execTripOpenDetect n land s
  | .sdHistRead who c k => Sys2Proof.Machine.execSdHistRead who c k s
  | .laneDetectProbe l far => Sys2Proof.Machine.execLaneDetectProbe l far s
  | .laneSwapDetect l => Sys2Proof.Machine.execLaneSwapDetect l s
  | .laneBlockLock l inverted crossed => Sys2Proof.Machine.execLaneBlockLock l inverted crossed s
  | .laneBlockLockLoss l => Sys2Proof.Machine.execLaneBlockLockLoss l s
  | .laneHelloTimer l => Sys2Proof.Machine.execLaneHelloTimer l s
  | .laneHelloReceived n blocks => Sys2Proof.Machine.execLaneHelloReceived n blocks s
  | .laneDownTimeout l => Sys2Proof.Machine.execLaneDownTimeout l s
  | .dataFrameReceived n blocks => Sys2Proof.Machine.execDataFrameReceived n blocks s
  | .voidFrameReceived l blocks => Sys2Proof.Machine.execVoidFrameReceived l blocks s
  | .ackFrameReceived l blocks => Sys2Proof.Machine.execAckFrameReceived l blocks s
  | .epochStartReceived n blocks => Sys2Proof.Machine.execEpochStartReceived n blocks s
  | .badFrameReceived l blocks codeError => Sys2Proof.Machine.execBadFrameReceived l blocks codeError s
  | .laneAckTimeout l => Sys2Proof.Machine.execLaneAckTimeout l s
  | .laneSend c => Sys2Proof.Machine.execLaneSend c s
  | .laneRecv c => Sys2Proof.Machine.execLaneRecv c s
  | .updOpen c worn => Sys2Proof.Machine.execUpdOpen c worn s
  | .updBlock c worn => Sys2Proof.Machine.execUpdBlock c worn s
  | .updClose c worn => Sys2Proof.Machine.execUpdClose c worn s
  | .updActivate c => Sys2Proof.Machine.execUpdActivate c s
  | .updAbort c => Sys2Proof.Machine.execUpdAbort c s
  | .chainReport c => Sys2Proof.Machine.execChainReport c s
  | .upConfirm who value cutAfter => Sys2Proof.Machine.execUpConfirm who value cutAfter s
  | .healthWindowExpiry => Sys2Proof.Machine.execHealthWindowExpiry s
  | .norCommandTimeout => Sys2Proof.Machine.execNorCommandTimeout s
  | .bcHello p blocks => Sys2Proof.Machine.execBcHello p blocks s
  | .bcOffer blocks worn => Sys2Proof.Machine.execBcOffer blocks worn s
  | .bcAnswer blocks => Sys2Proof.Machine.execBcAnswer blocks s
  | .bcBlockHdr blocks => Sys2Proof.Machine.execBcBlockHdr blocks s
  | .bcBlockData blocks worn => Sys2Proof.Machine.execBcBlockData blocks worn s
  | .bcResult blocks => Sys2Proof.Machine.execBcResult blocks s
  | .bcReport blocks => Sys2Proof.Machine.execBcReport blocks s
  | .bcPortLeavesUp p => Sys2Proof.Machine.execBcPortLeavesUp p s
  | .bcReofferTimer => Sys2Proof.Machine.execBcReofferTimer s
  | .dmOpen who arg worn => Sys2Proof.Machine.execDmOpen who arg worn s
  | .dmBlock who worn => Sys2Proof.Machine.execDmBlock who worn s
  | .dmClose who arg worn => Sys2Proof.Machine.execDmClose who arg worn s
  | .dmActivate who arg => Sys2Proof.Machine.execDmActivate who arg s
  | .dmAbort who => Sys2Proof.Machine.execDmAbort who s
  | .dmStatus who => Sys2Proof.Machine.execDmStatus who s
  | .uartRequest bytes worn => Sys2Proof.Machine.execUartRequest bytes worn s
  | .troubleW1cWrite w => Sys2Proof.Machine.execTroubleW1cWrite w s
  | .psViolClr who value => Sys2Proof.Machine.execPsViolClr who value s
  | .registerWrite w => Sys2Proof.Machine.execRegisterWrite w s
  | .smbPsStatus pec => Sys2Proof.Machine.execSmbPsStatus pec s
  | .smbTroubleSum pec => Sys2Proof.Machine.execSmbTroubleSum pec s
  | .smbFeedAVoltage pec => Sys2Proof.Machine.execSmbFeedAVoltage pec s
  | .smbFeedBVoltage pec => Sys2Proof.Machine.execSmbFeedBVoltage pec s
  | .smbInputPower pec => Sys2Proof.Machine.execSmbInputPower pec s
  | .smbDieTemperature pec => Sys2Proof.Machine.execSmbDieTemperature pec s
  | .smbModId pec => Sys2Proof.Machine.execSmbModId pec s
  | .smbPartId pec => Sys2Proof.Machine.execSmbPartId pec s
  | .smbDeviceSerial pec => Sys2Proof.Machine.execSmbDeviceSerial pec s
  | .smbUpStatus pec => Sys2Proof.Machine.execSmbUpStatus pec s
  | .smbWrite code bytes => Sys2Proof.Machine.execSmbWrite code bytes s
  | .smbAlertResponse pec => Sys2Proof.Machine.execSmbAlertResponse pec s
  | .extest cells => Sys2Proof.Machine.execExtest cells s
  | .idcode => Sys2Proof.Machine.execIdcode s
  | .samplePreload cells => Sys2Proof.Machine.execSamplePreload cells s
  | .clamp => Sys2Proof.Machine.execClamp s
  | .highz => Sys2Proof.Machine.execHighz s
  | .bypass code tdi => Sys2Proof.Machine.execBypass code tdi s
  | .dtmcs shiftIn => Sys2Proof.Machine.execDtmcs shiftIn s
  | .jtagTrst => Sys2Proof.Machine.execJtagTrst s
  | .timerInterrupt h k => Sys2Proof.Machine.execTimerInterrupt h k s
  | .polRailNotGood => Sys2Proof.Machine.execPolRailNotGood s
  | .holdupExhausted => Sys2Proof.Machine.execHoldupExhausted s
  | .gpioInputChange levels => Sys2Proof.Machine.execGpioInputChange levels s
  | .internalDmaAccess channel addr op => Sys2Proof.Machine.execInternalDmaAccess channel addr op s

end Sys2Proof.Machine
end

