-- ==== Sys2Proof/Machine/Step.lean ====
section
/-!
DEFINITION. The step: the command at the front of the queue, or, on an empty queue, one measurement clock.
-/

namespace Sys2Proof.Machine

/-- The core clocks that pass in one measurement clock, for every hart (R187, R189). -/
def coreTime (s : State) : State :=
  let p := coreClocks s.pwr
  forAll allHarts (fun h t => hartClocks h p.1 t) (s.onPwr fun w => { w with clockPart := p.2 })

/-- The watchdog's own counter runs (R375). -/
def watchdogClock (s : State) : State := if watchdogRuns s then s.onKp fun k => { k with wdCount := k.wdCount + 1 } else s

/-- What became possible by the end of a clock: stores of harts in reset drain (R291, R292), the APLIC domains forward what pends
(R210), and what waited for a deferral goes on (R285). (DESIGN CHOICE, log 79; DESIGN CHOICE, log 83.) -/
def settleClock (s : State) : State :=
  let s := forAll (allHarts.filter fun h => (s.hart h).inReset) drainBoth s
  wakeAll (forwardMsis false (forwardMsis true s))

/-- What happens with no command waiting: one clock passes. What the present clock has seen is over (R54, R57), and the free-running
clocks advance by one measurement clock (R60, R62): cycle time, the cores' counters, the watchdog, and the acceptance allowance's
share (R532). (DESIGN CHOICE, log 2; DESIGN CHOICE, log 73.) -/
def idle (s : State) : State :=
  let s := { s with clock := {} }
  if s.pwr.supply = .on then troubleEdges s (settleClock (watchdogClock (coreTime (refill (measurementClock s))))) else s

/-- One step. (DESIGN CHOICE, log 2; DESIGN CHOICE, log 5; DESIGN CHOICE, log 6; DESIGN CHOICE, log 73.) -/
def step (s : State) : Host.Outcome State Fault Refusal :=
  match s.pending with
  | [] => .next (idle s)
  | c :: rest => exec c { s with pending := rest }

/-- The state with the command that a word spells put at the front of its queue. (DESIGN CHOICE, log 6.) -/
def State.withFetchWord (s : State) (nbits w : Nat) : State :=
  match decodeTableWord nbits w with
  | some c => { s with pending := c :: s.pending }
  | none => s

end Sys2Proof.Machine
end

