-- ==== Sys2Proof/Safety.lean ====
section
/-!
DEFINITION. What counts as a safe run of the module, the invariants that claims are stated with, and the conditions under
which a ring command starts.
-/

namespace Sys2Proof.Machine

/-- The tables of numbered parts have rising numbers: harts, rings, functions, dispatch domains, enclaves, lines, home slices,
channels, TRIP sites and lanes. -/
def TablesInv (s : State) : Prop :=
  rises s.harts = true ∧ rises s.rings.tab = true ∧ rises s.host.fns = true ∧ rises s.disp.doms = true ∧ rises s.kp.encl = true ∧
    rises s.mesh.lines = true ∧ rises s.mesh.slices = true ∧ rises s.sd.chans = true ∧ rises s.sd.sites = true ∧
    rises s.ln.tab = true

/-- Every memory of the module, its NOR flash, and host memory as it sees it are in their canonical form, and its tables of parts
rise. -/
def MemoryInv (s : State) : Prop :=
  Memory.wf s.mesh.mem = true ∧ Memory.wf s.mesh.sram = true ∧ Memory.wf s.host.hostMem = true ∧ Memory.wf s.up.dmBuf = true ∧
    twf 0xFF s.up.nor = true ∧ TablesInv s

/-- A step is safe when the module goes on. -/
def SafeStep (s : State) : Prop := ∃ t, step s = .next t

/-- A feed row whose voltage is beyond the absolute maximum of Table 19.1 (R855). -/
def beyondMaximum : Instr → Bool
  | .feedBecomesValid _ v | .feedBecomesInvalid _ v | .feedOvervoltage _ v | .feedReversed _ v => decide (v < -8000 ∨ 10000 < v)
  | _ => false

/-- The command `k` that a row names can start: it was accepted and is of the row's opcode, no status of the ring engine ends
it, its turn has come (R523), and it has no result of an execution before a reset. -/
def Starts (c : CmdRef) (isOp : Line → Bool) (k : Cmd) (s : State) : Prop :=
  (s.ring c.ring).find c.seq = some k ∧ isOp k.first = true ∧ ringEngineResult (s.lt.ident c.ring) c.ring k = none ∧
    mayStart s c.ring k = true ∧ k.prior = none

/-- A command of ch. 14 starts a run `x` on unit `u`, in the state `t` that holds what its start already changed, the check code's
finds in the key store among it (§13.11): no ring of a lower number wants the unit (R636). -/
def UnitStarts (c : CmdRef) (op : Nat) (k : Cmd) (s : State) (u : Nat) (x : UnitRun) (t : State) : Prop :=
  Starts c (isOpcode 2 op) k s ∧ Starts c (isOpcode 2 op) k t ∧
    unitStart c.ring k (s.lt.ident c.ring) (slotErrors c.store k (s.lt.ident c.ring) s) = .run u x t ∧
    lowerRingFirst s c.ring u = false

/-- A run takes its units. -/
def occupied (u : Nat) (x : UnitRun) (s : State) : State :=
  (x.units u).foldl (fun v n => v.onMu fun m => { m with busy := tput x m.busy n }) s

/-- The command has ended with what its effect gave. -/
def ended (c : CmdRef) (k : Cmd) (p : State × Result) : State := finishCmd c.ring k.seq p.2 p.1

/-- Neither the cached copies of a line nor DRAM's are marked poisoned. -/
def soundLine (s : State) (l : Nat) : Prop := (s.lineAt l).bad = false ∧ s.mesh.poison.contains l = false

/-- At the home slice of a line no request waits for the line, and none of a core's waits for a grant. -/
def quiet (s : State) (core l : Nat) : Prop :=
  (∀ q ∈ (s.slice (homeOf l)).queued, q.line ≠ l) ∧
    ∀ q ∈ (s.slice (homeOf l)).waiting ++ (s.slice (homeOf l)).refused, q.who ≠ core

/-- A hart's access reaches its range: it runs, no other hart defers a line that the instruction `op` needs (R285), and no trigger,
page fault or PMP entry stops the untranslated access. -/
def proceeds (s : State) (h : HartId) (op : Instr) (k : AccessKind) (n : Nat) (c : Access) : Prop :=
  (s.hart h).runs = true ∧ waits s h op = false ∧ c.walk = none ∧ accessStop (s.hart h) k n c = none

/-- `n` bytes of DRAM may be read by a hart: it may reach their lines, which are sound and quiet, and the caches meet no error. -/
def readable (s : State) (h : HartId) (c : Access) (n : Nat) : Prop :=
  regionOf c.pa.toNat n = .dram ∧ c.cache = {} ∧
    (∀ l ∈ linesOf c.pa.toNat n, mayReach s (hartAgent s h c.fetchedInside) (64 * l) = true ∧ soundLine s l ∧ quiet s h.val l) ∧
    ∀ i, i < n → mayReach s (hartAgent s h c.fetchedInside) (c.pa.toNat + i) = true

/-- Where an atomic instruction acts on DRAM: aligned, in the virtual and so in the physical address, and of 4 or 8 bytes (R277). -/
def atomicPlace (c : Access) : Prop :=
  c.aligned = true ∧ c.pa.toNat % c.width.bytes = 0 ∧ 4 ≤ c.width.bytes ∧ regionOf c.pa.toNat c.width.bytes = .dram

/-- The hart has nothing in its store buffer or its combining buffer. -/
def unbuffered (s : State) (h : HartId) : Prop := (s.hart h).storeBuf = [] ∧ (s.hart h).combining = []

/-- No older store of the requester stands before its register access (R244, R250). -/
def nothingBefore (s : State) : Requester → Prop
  | .fn _ => True
  | .hart h => (s.hart h).storeBuf = []

/-- Nothing waits that the end of a clock lets go on: no store of a hart in reset, no write or access held back for a deferral, no
interrupt that an APLIC domain may forward. -/
def settled (s : State) : Prop :=
  (∀ h, (s.hart h).inReset = true → unbuffered s h) ∧ s.mesh.behind = [] ∧ (∀ h op, (s.hart h).stall ≠ .line op) ∧
    s.aplic.root.ready = [] ∧ s.aplic.child.ready = []

/-- A hart but for what lines moving between caches, and events counted, change: its counters, its L1 contents, its reservation. -/
def Hart.bare (x : Hart) : Hart := { x with counters := [], l1i := [], l1d := [], reserved := none, deferring := false }

/-- Only cache and tracker bookkeeping, and of the harts what `Hart.bare` leaves out, differ from `s`: no byte of memory and no
other unit does. -/
def linesMoved (s u : State) : Prop :=
  u = { s with harts := u.harts, mesh := u.mesh, out := u.out, free := u.free } ∧ u.mesh.mem = s.mesh.mem ∧
    u.mesh.sram = s.mesh.sram ∧ ∀ h, (u.hart h).bare = (s.hart h).bare

/-- As `linesMoved`, but for the `n` bytes of DRAM at `a`, which hold a little-endian value. -/
def stored (s u : State) (a n v : Nat) : Prop :=
  u = { s with harts := u.harts, mesh := u.mesh, out := u.out, free := u.free } ∧ u.mesh.sram = s.mesh.sram ∧
    (∀ h, (u.hart h).bare = (s.hart h).bare) ∧
    ∀ b, bget u.mesh.mem b = if a ≤ b ∧ b < a + n then (bytesLE n v).getD (b - a) 0 else bget s.mesh.mem b

/-- What SMBus returns for a command: the data, and a PEC where the host clocks one. -/
def smbAnswer (s : State) (code : Byte) (data : List Byte) (pec : Bool) : OutEvent :=
  let a := BitVec.ofNat 8 (2 * (0x40 + s.pwr.modId.toNat % 32))
  .smbus (data ++ if pec then [pecOf ([a, code, a + 1] ++ data)] else [])

end Sys2Proof.Machine
end

