-- ==== Sys2Proof/Certificates/Slice0/Obligations.lean ====
section
/-!
DEFINITION. The statements for the provers, by chapter of the spec: what each command leaves, when a step stops, and the
invariants that every step keeps.
-/

open Sys2Proof Sys2Proof.Machine

/-- A feed that becomes valid (31.5 V or more; after an overvoltage, below 80.5 V) is recorded valid with its voltage and nothing
else changes. With the other feed valid, a feed that becomes invalid, goes above 84 V, is reversed or shorted is recorded so
and sets its trouble bit of PS_TROUBLE, and the module runs on. Each of the five rows answers a next state. (R132, R133,
R134.) -/
def Obligations.FeedChanges : Prop :=
  (∀ (f : Feed) (v : Int) (s : State), 3150 ≤ v → v ≤ 8400 → ((s.feed f).overvoltage = false ∨ v < 8050) →
    exec (.feedBecomesValid f v) s
      = .next (s.onFeed f fun x => { x with ok := true, overvoltage := false, shorted := false, volts := v })) ∧
  (∀ (f g : Feed) (v : Int) (s : State), -500 ≤ v → v < 3000 → g ≠ f → (s.feed g).ok = true → (s.feed f).ok = true →
    exec (.feedBecomesInvalid f v) s
      = .next (troubleEdges s (feedLost f (s.onFeed f fun x => { x with ok := false, volts := v })))) ∧
  (∀ (f g : Feed) (v : Int) (s : State), 8400 < v → v ≤ 10000 → g ≠ f → (s.feed g).ok = true →
    exec (.feedOvervoltage f v) s
      = .next (troubleEdges s (psEvent (feedBit f 6)
          (s.onFeed f fun x => { x with ok := false, overvoltage := true, volts := v })))) ∧
  (∀ (f g : Feed) (v : Int) (s : State), -8000 ≤ v → v < -500 → g ≠ f → (s.feed g).ok = true →
    exec (.feedReversed f v) s
      = .next (troubleEdges s (psEvent (feedBit f 4) (s.onFeed f fun x => { x with ok := false, volts := v })))) ∧
  (∀ (f g : Feed) (s : State), g ≠ f → (s.feed g).ok = true →
    exec (.feedShorted f) s
      = .next (troubleEdges s (psEvent (feedBit f 2) (s.onFeed f fun x => { x with ok := false, shorted := true }))))

/-- While the module is on, the other feed is invalid and the power-fail commit is not yet armed, each of the four rows by which
a feed is lost completes, and leaves the supply off with no hart state kept. (R140, R182.) -/
def Obligations.BothFeedsGone : Prop :=
  (∀ (f g : Feed) (s : State), g ≠ f → (s.feed g).ok = false → s.pwr.supply = .on → s.pwr.commitArmed = false →
    (∀ v : Int, -500 ≤ v → v < 3000 → ∃ t, exec (.feedBecomesInvalid f v) s = .next t ∧ t.pwr.supply = .off ∧ t.harts = []) ∧
    (∀ v : Int, -8000 ≤ v → v < -500 → ∃ t, exec (.feedReversed f v) s = .next t ∧ t.pwr.supply = .off ∧ t.harts = []) ∧
    (∀ v : Int, 8400 < v → v ≤ 10000 → ∃ t, exec (.feedOvervoltage f v) s = .next t ∧ t.pwr.supply = .off ∧ t.harts = []) ∧
    (∃ t, exec (.feedShorted f) s = .next t ∧ t.pwr.supply = .off ∧ t.harts = []))

/-- With a feed present HOLDUP_CHARGED sets HOLDUP_READY. With both feeds gone and the commit armed, POWER_FAIL_COMMIT runs the
commit: the supply is then off, no boot stage stands, the commit mark is clear (an ended commit leaves its end mark), the
next cause is POWER_FAIL, and no hart state is kept; HOLDUP_EXHAUSTED instead leaves a torn commit, off and with HOLDUP_READY
0. Without an armed commit HOLDUP_EXHAUSTED clears HOLDUP_READY alone. That the whole commit is one step is the model's
choice (log 20). (R137-R144, R176, R843.) -/
def Obligations.HoldupAndCommit : Prop :=
  (∀ s : State, feedPresent s = true → exec .holdupCharged s = .next (s.onPwr fun p => { p with holdupReady := true })) ∧
  (∀ s : State, feedPresent s = false → s.pwr.commitArmed = true → s.pwr.supply = .on →
    exec .powerFailCommit s = .next (troubleEdges s (powerFailCommit 2 s)) ∧
    (powerFailCommit 2 s).pwr.supply = .off ∧ (powerFailCommit 2 s).pwr.stage = .none ∧
    (powerFailCommit 2 s).pwr.commitMark = false ∧ (powerFailCommit 2 s).pwr.nextCause = 2 ∧ (powerFailCommit 2 s).harts = []) ∧
  (∀ s : State, feedPresent s = false → s.pwr.commitArmed = true → s.pwr.supply = .on →
    exec .holdupExhausted s = .next (troubleEdges s (tornCommit s)) ∧
    (tornCommit s).pwr.supply = .off ∧ (tornCommit s).pwr.holdupReady = false) ∧
  (∀ s : State, feedPresent s = false → s.pwr.commitArmed = false →
    exec .holdupExhausted s = .next (troubleEdges s (s.onPwr fun p => { p with holdupReady := false })))

/-- A POL fault, or a rail not good, during start-up locks the module out; a POL fault while on sets POL_FAULT and switches off
with cause POL_FAULT, through the power-fail commit where it is armed; the lockout ends once no feed is present; 125 degrees
acts as a POL fault with bit 12 set. The temperature rows keep the reading and set or clear THERM_WARN, the start hold and
the throttling state at the light table's thresholds, a throttle step moves the core clock by 100 MHz within 1000 to 3000,
and a power-cap interval moves the cap by 100 MHz. (R154, R183-R188, R850, R851.) -/
def Obligations.PolFaultsAndTemperature : Prop :=
  (∀ s : State, s.pwr.supply = .starting →
    exec .polRailNotGood s = .next (troubleEdges s (lockOut s)) ∧ exec .polFault s = .next (troubleEdges s (lockOut s)) ∧
    (lockOut s).pwr.supply = .lockout ∧ (lockOut s).harts = []) ∧
  (∀ s : State, s.pwr.supply = .on → s.pwr.commitArmed = false →
    exec .polFault s = .next (troubleEdges s (switchOff ((psSet 9 s).onPwr fun p => { p with nextCause := 3 })))) ∧
  (∀ s : State, s.pwr.supply = .on → s.pwr.commitArmed = true →
    exec .polFault s = .next (troubleEdges s (powerFailCommit 3 (psSet 9 s)))) ∧
  (∀ s : State, s.pwr.supply = .lockout → feedPresent s = false →
    exec .polLockoutEnd s = .next (s.onPwr fun p => { p with supply := .off })) ∧
  (∀ (s : State) (v : Int), s.pwr.supply = .on → 125 ≤ v →
    exec (.dieTempShutdown v) s
      = .next (troubleEdges s (polFault (s.onPwr fun p => { p with dieTemp := v, trouble := setBit p.trouble 12 })))) ∧
  (∀ (s : State) (v : Int), exec (.thermWarnAssert v) s = .next (s.onPwr fun p =>
    { p with dieTemp := v, thermWarn := p.thermWarn || (decide (s.lt.warnC ≤ v) && decide (p.supply = .on)) })) ∧
  (∀ (s : State) (v : Int), exec (.thermWarnRelease v) s = .next (s.onPwr fun p =>
    { p with dieTemp := v, thermWarn := p.thermWarn && decide (s.lt.warnC - 5 ≤ v) })) ∧
  (∀ (s : State) (v : Int), exec (.thermalHoldRelease v) s = .next (s.onPwr fun p =>
    { p with dieTemp := v, thermalHold := p.thermalHold && decide (s.lt.throttleC - 3 ≤ v) })) ∧
  (∀ (s : State) (v : Int), s.pwr.supply = .on → s.lt.throttleC ≤ v → 1000 < s.pwr.coreMHz → s.pwr.throttling = true →
    exec (.throttleStep v) s = .next (troubleEdges s (s.onPwr fun p =>
      { p with dieTemp := v, coreMHz := max 1000 (p.coreMHz - 100) }))) ∧
  (∀ (s : State) (v : Int), s.pwr.supply = .on → v < s.lt.throttleC - 3 → s.pwr.throttling = true →
    exec (.throttleStep v) s = .next (troubleEdges s (s.onPwr fun p =>
      { p with dieTemp := v, throttling := false, coreMHz := min (min 3000 p.capMHz) (p.coreMHz + 100) }))) ∧
  (∀ (s : State) (w : Nat), s.pwr.supply = .on → 10 * s.lt.powerCapW < w → 200 ≤ s.pwr.capMHz → s.pwr.capMHz ≤ 3000 →
    ∃ t, exec (.powerCapInterval w) s = .next t ∧ t.pwr.capMHz = s.pwr.capMHz - 100 ∧ t.pwr.coreMHz ≤ t.pwr.capMHz ∧
      t.pwr.capping = true ∧ t.pwr.inputDeciW = w) ∧
  (∀ (s : State) (w : Nat), s.pwr.supply = .on → w ≤ 10 * s.lt.powerCapW →
    ∃ t, exec (.powerCapInterval w) s = .next t ∧ t.pwr.capMHz = min 3000 (s.pwr.capMHz + 100) ∧ t.pwr.inputDeciW = w)

/-- From the off state with a feed present POWER_ON_RESET starts the module with the recorded next cause, zero MODULE resets
counted, and measurement, rings, update and logbook state kept. When the rails are good POL_RAILS_GOOD
turns it on, samples MOD_ID and DAYMARK#, and asserts every TRIP output with cause 4. (R145, R147, R166, R176.) -/
def Obligations.PowerOn : Prop :=
  (∀ (s : State) (low : Bool), s.pwr.supply = .off → feedPresent s = true →
    ∃ t, exec (.powerOnReset low) s = .next t ∧ t.pwr.supply = .starting ∧ t.pwr.stage = .none ∧ t.pwr.cause = s.pwr.nextCause ∧
      t.pwr.nextCause = 1 ∧ t.pwr.modResets = 0 ∧ t.sd = s.sd ∧ t.rings = s.rings ∧ t.up = s.up ∧ t.lb = s.lb) ∧
  (∀ (s : State) (id : BitVec 6) (high : Bool), s.pwr.supply = .starting → TablesInv s →
    ∃ t, exec (.polRailsGood id high) s = .next t ∧ t.pwr.supply = .on ∧ t.pwr.stage = .rails ∧ t.pwr.modId = id ∧
      t.pwr.daymarkPin = high ∧ (∀ n < 64, (t.site n).asserted = true ∧ (t.site n).cause = 4) ∧ t.up = s.up ∧ t.rings = s.rings)

/-- ROM start runs its effect when the ROM may start, and with DAYMARK# low enters Daymark mode with cause 1. LIGHT_TABLE_CHECK
marks the slot booting, counts a TRIAL attempt, and applies a good table, or fails the slot with the table's code, or as an
unverified slot; a read error fails it with code 1. A NOR time-out below the limit resets the device, counts a retry and sets UP_TROUBLE bit 3.
DRAM training, replay and ring service each run in their order and move to their stage, arming the power-fail commit, opening
and replaying the logbook, zeroing DRAM. A late boot sets BOOT_SLOW. PCIe training completes while PERST# is high.
(R126-R131, R155-R158, R792, R801-R804, R829.) -/
def Obligations.BootSequence : Prop :=
  (∀ (s : State) (e : Bool), romReady s = true →
    exec (.romStart e) s = .next (troubleEdges s (romStart e s))) ∧
  (∀ (s : State) (e : Bool), romReady s = true → s.pwr.daymarkPin = false →
    ∃ t, exec (.romStart e) s = .next t ∧ t.pwr.stage = .daymark ∧ t.up.daymark = true ∧ t.up.daymarkCause = 1) ∧
  (∀ (s : State) (k : Slot), s.pwr.stage = .rom → s.up.tries.head? = some k →
    let m := s.onUp fun u => u.onSlot k fun r =>
      { r with booting := true, attempts := if r.st = .trial then r.attempts + 1 else r.attempts }
    exec (.lightTableCheck k false) s = .next (troubleEdges s
      (if firmwareVerifies m k then
        match slotLight m k with
        | .good lt => applyTable k lt (setResult k 0 m)
        | .code n => slotFails k true (setResult k n m)
      else slotFails k false m)) ∧
    exec (.lightTableCheck k true) s = .next (troubleEdges s (slotFails k true (setResult k 1 m)))) ∧
  (∀ s : State, s.pwr.supply = .on → s.up.norRetries < 3 →
    exec .norCommandTimeout s = .next (troubleEdges s
      (norReset (s.onUp fun u => { u with norRetries := u.norRetries + 1, trouble := setBit u.trouble 3 })))) ∧
  (∀ s : State, s.pwr.stage = .lightTable →
    exec .dramTrained s = .next (troubleEdges s (dramTrained s)) ∧ (dramTrained s).pwr.stage = .dram ∧
    (dramTrained s).pwr.commitArmed = true ∧ (dramTrained s).kp.started = true ∧ (dramTrained s).lb.opened = true ∧
    (dramTrained s).rings = s.rings ∧ (dramTrained s).up = s.up) ∧
  (∀ s : State, s.pwr.stage = .dram →
    exec .logbookReplay s = .next (troubleEdges s (logbookReplay s)) ∧ (logbookReplay s).pwr.stage = .replayed ∧
    (logbookReplay s).mesh.zeroed = true ∧ (logbookReplay s).lb.replaying = false) ∧
  (∀ s : State, s.pwr.stage = .replayed →
    exec .ringService s = .next (troubleEdges s (ringService s)) ∧ (ringService s).pwr.stage = .service ∧
    (ringService s).pwr.slow = false ∧ (ringService s).lb = s.lb) ∧
  (∀ s : State, s.pwr.supply = .on → s.pwr.stage ≠ .service →
    exec .bootSlowTimeout s = .next (troubleEdges s
      (s.onPwr fun p => { p with slow := true, trouble := setBit p.trouble 13 }))) ∧
  (∀ s : State, s.host.training = true → s.pwr.perst = false →
    exec .pcieLinkTrained s = .next (s.onHost fun h => { h with linkUp := true }))

/-- While no MODULE reset is in progress, PERST# assertion, a Hot Reset received on the link, and loss of the link each perform
the PCIe endpoint reset, the link falling with PERST# and with its loss, and change nothing else. During a MODULE reset
PERST# only drops the link. The endpoint reset clears VF Enable, NumVFs, ARI Capable Hierarchy, the PF's mailbox registers and
the alarms; with the link what functions read halfway is forgotten, and no latch of a hart is. PERST# deassertion starts link
training. (R159-R164, R179.) -/
def Obligations.EndpointResets : Prop :=
  (∀ s : State, s.pwr.supply = .on → s.pwr.moduleReset = false →
    exec .perstAssertion s = .next (endpointReset (linkDown (s.onPwr fun p => { p with perst := true })))) ∧
  (∀ s : State, s.pwr.moduleReset = true →
    exec .perstAssertion s = .next (linkDown (s.onPwr fun p => { p with perst := true }))) ∧
  (∀ s : State, s.host.linkUp = true → exec .hotReset s = .next (endpointReset s)) ∧
  (∀ s : State, s.host.linkUp = true → s.pwr.supply = .on → s.pwr.moduleReset = false →
    exec .linkLoss s = .next (endpointReset (linkDown s))) ∧
  (∀ s : State, (endpointReset s).host.vfEnable = false ∧ (endpointReset s).host.numVfs = 0 ∧ (endpointReset s).ct.alarms = [] ∧
    (endpointReset s).host.ariHierarchy = false ∧ (endpointReset s).host.mbxSel = 0 ∧ (endpointReset s).host.mbxVector = 0 ∧
    (linkDown s).host.linkUp = false ∧ (∀ f l, (.fn f, l) ∉ (linkDown s).host.latches) ∧
    ∀ h l, (.hart h, l) ∈ (linkDown s).host.latches ↔ (.hart h, l) ∈ s.host.latches) ∧
  (∀ s : State, s.pwr.supply = .on → s.pwr.moduleReset = false → s.pwr.stage ≠ .none → s.pwr.stage ≠ .rails →
    exec .perstDeassertion s
      = .next ((s.onPwr fun p => { p with perst := false }).onHost fun h => { h with training := true }))

/-- A MODULE reset that starts marks the module in reset at stage rails with the source's cause, counts it, stops link training
and leaves the power-fail commit armed as it was; a source outside the registers' own order first drains the harts' buffers. Of
two sources in the clock in which it starts the first of the order of causes is recorded. The MOD_RESET# pin starts it with cause
4, a write of 0x4D525354 to PS_MODULE_RESET with cause 5 and any other value nothing, watchdog expiry in HARD mode with cause 6
(WATCHDOG_HARD). Its release samples the straps and leaves no hart state. (R147, R150, R158, R165, R175, R177, R292, R378.) -/
def Obligations.ModuleReset : Prop :=
  (∀ (s : State) (cause : Nat), mayReset s = true →
    resetModule cause s = beginModuleReset cause (drainHarts allHarts s) ∧
    (beginModuleReset cause s).pwr.moduleReset = true ∧ (beginModuleReset cause s).pwr.stage = .rails ∧
    (beginModuleReset cause s).pwr.cause = cause ∧ (beginModuleReset cause s).clock.reset = some cause ∧
    (beginModuleReset cause s).pwr.modResets = min 0xFFFF (s.pwr.modResets + 1) ∧
    (beginModuleReset cause s).host.training = false ∧ (beginModuleReset cause s).pwr.commitArmed = s.pwr.commitArmed) ∧
  (∀ (s : State) (cause first : Nat), mayReset s = false → s.clock.reset = some first →
    (resetRank cause < resetRank first → (resetModule cause s).pwr.cause = cause) ∧
    (¬ resetRank cause < resetRank first → resetModule cause s = s)) ∧
  (∀ s : State, exec .modResetPin s
    = .next (troubleEdges s (resetModule 4 (s.onPort fun p => { p with modResetLow := true })))) ∧
  (∀ (s : State) (w : Requester), seesPf s w = true → nothingBefore s w → resetsHeld s = false →
    exec (.psModuleReset w 0x4D525354#32) s = .next (troubleEdges s (resetModule 5 s))) ∧
  (∀ (s : State) (w : Requester) (v : W32), nothingBefore s w → v ≠ 0x4D525354#32 →
    exec (.psModuleReset w v) s = .next s) ∧
  (∀ s : State, watchdogExpires s = true → s.lt.wdHard = true →
    exec .watchdogExpiryHard s = .next (troubleEdges s (resetModule 6 s))) ∧
  (∀ (s : State) (id : BitVec 6) (high : Bool), s.pwr.moduleReset = true →
    exec (.moduleResetRelease id high) s = .next (troubleEdges s (moduleRelease id high s)) ∧
    (moduleRelease id high s).pwr.moduleReset = false ∧ (moduleRelease id high s).pwr.stage = .rails ∧
    (moduleRelease id high s).pwr.modId = id ∧ (moduleRelease id high s).pwr.daymarkPin = high ∧
    (moduleRelease id high s).port.modResetLow = false ∧ (moduleRelease id high s).harts = []) ∧
  (∀ (s : State) (id : BitVec 6) (high : Bool), s.pwr.moduleReset = false →
    exec (.moduleResetRelease id high) s = .next (troubleEdges s (releasePin s)))

/-- While neither a MODULE reset is in progress nor MOD_RESET# is held low, a HART reset drains the buffers of its harts, puts them
in reset, and ends their stall and their halt: from PS_HART_RESET for each hart of the mask, and from the unlocked debug module for
one hart or all. Otherwise none of them, nor a write of PS_MODULE_RESET, has an effect. HART_RESET_COMPLETE restarts a hart in reset
once the monitor runs: it leaves reset at the monitor's restart entry, in M-mode, and takes nothing else along. In SOFT mode expiry
declares the Keeper world down; at 90 % of the timeout source 192 is asserted. (R165, R173, R174, R178, R291, R377, R379.) -/
def Obligations.HartResets : Prop :=
  (∀ (s : State) (h : HartId), resetsHeld s = false →
    startHartReset h s = s.onHart h fun x => { x with inReset := true, stall := .none, halted := false }) ∧
  (∀ (s : State) (w : Requester) (mask v : W32) (h : HartId), resetsHeld s = true → nothingBefore s w →
    exec (.psModuleReset w v) s = .next s ∧ exec (.psHartReset w mask) s = .next s ∧ exec (.debugHartreset h) s = .next s ∧
    exec .debugNdmreset s = .next s) ∧
  (∀ (s : State) (w : Requester) (mask : W32), resetsHeld s = false → seesPf s w = true → nothingBefore s w →
    let hs := allHarts.filter fun h => mask.getLsbD h.val
    exec (.psHartReset w mask) s = .next (troubleEdges s (forAll hs startHartReset (drainHarts hs s)))) ∧
  (∀ (s : State) (h : HartId), resetsHeld s = false → s.kp.granted ≠ 0 →
    exec (.debugHartreset h) s = .next (troubleEdges s (startHartReset h (drainBoth h s)))) ∧
  (∀ s : State, resetsHeld s = false → s.kp.granted ≠ 0 →
    exec .debugNdmreset s = .next (troubleEdges s (forAll allHarts startHartReset (drainHarts allHarts s)))) ∧
  (∀ (s : State) (h : HartId), (s.hart h).inReset = true → s.kp.started = true → s.pwr.moduleReset = false →
    exec (.hartResetComplete h) s = .next (troubleEdges s (hartRestart h s)) ∧
    (TablesInv s → (hartRestart h s).hart h = { inReset := false, pc := Config.monitorEntry })) ∧
  (∀ s : State, watchdogExpires s = true → s.lt.wdHard = false →
    exec .watchdogExpirySoft s = .next (troubleEdges s (keeperDown s))) ∧
  (∀ s : State, watchdogRuns s = true →
    exec .watchdogPreExpiry s = .next (aplic (s.onKp fun k => { k with preExpiry := true }) 192))

/-- An unaligned frame changes nothing; an unsound one adds one to CT_BADFRAMES, sets its trouble bit and is the first since
alignment no longer; a sound one, judged against a coast limit it was in time for, acts on the cycle-time unit, the measurement
flags, the APLIC and the outputs alone. At the coast limit a running CT coasts: COASTING 1, LOCKED 0, at the last period, with its
trouble bit. Alignment and reference changes are recorded, a reference lost sets its bit. A slew's part of one measurement clock
keeps CT's rate within 0.9 and 1.1 of nominal. (R73-R85, R888.) -/
def Obligations.CycleTime : Prop :=
  (∀ (s : State) (fr : TcbFrame), s.ct.aligned = false → exec (.tcbFrame fr) s = .next s) ∧
  (∀ (s : State) (fr : TcbFrame), s.ct.aligned = true → s.pwr.supply = .on → (s.ct.refOk && fr.sound s.ct.offGrid) = false →
    exec (.tcbFrame fr) s = .next (troubleEdges s
      (s.onCt fun c => { c with badFrames := satInc c.badFrames, trouble := setBit c.trouble 4, fresh := false }))) ∧
  (∀ (s : State) (fr : TcbFrame), s.ct.aligned = true → s.pwr.supply = .on → s.ct.refOk = true →
    fr.sound s.ct.offGrid = true →
    ∃ t, exec (.tcbFrame fr) s = .next t ∧
      t = { s with ct := (s.ct.judge fr).valid fr, sd := t.sd, aplic := t.aplic, clock := t.clock, out := t.out }) ∧
  (∀ s : State, s.ct.running = true → s.ct.coasting = false →
    ∃ t, exec .tcbCoastLimit s = .next t ∧
      t.ct = { s.ct with coasting := true, locked := false, coastPeriod := s.ct.period, trouble := setBit s.ct.trouble 2
                         coastAge := 0, beforeCoast := some (s.ct.locked, s.ct.trouble) } ∧
      t = { s with ct := t.ct, sd := t.sd, aplic := t.aplic, clock := t.clock, out := t.out }) ∧
  (∀ (s : State) (a i : Bool), s.pwr.supply = .on →
    exec (.tcbAlignmentChange a i) s = .next (s.onCt fun c => { c with aligned := a, datInverted := a && i, fresh := true })) ∧
  (∀ (s : State) (w : Bool), exec (.tcbRefToleranceChange w) s
    = .next (troubleEdges s (s.onCt fun c => { c with refOk := w, trouble := setBitIf (c.refOk && !w) c.trouble 3 }))) ∧
  (∀ (err : Int) (left nominal pick : Nat),
    -(nominal / 10 : Int) ≤ slewPart err left nominal pick ∧ slewPart err left nominal pick ≤ (nominal / 10 : Int))

/-- An enabled alarm whose compare value is at or below CT fires: FIRED is set, ENABLE cleared, and one MSI-X message sent on the
vector that VECTOR gives; a disabled alarm does not fire. A compare write stores its part; a control write clears FIRED where
it writes 1 to it, sets ENABLE and VECTOR; either by a hart with no owner's binding is a violation. (R88-R91, R99, R101.) -/
def Obligations.Alarms : Prop :=
  (∀ (s : State) (f : FnId) (a : Fin 4), (s.alarm f.val a).enable = true → (s.alarm f.val a).cmp ≤ s.ct.now →
    exec (.alarmFire f a) s
      = .next (msix (s.onAlarm f.val a fun x => { x with fired := true, enable := false }) f.val (s.alarm f.val a).vector.toNat)) ∧
  (∀ (s : State) (f : FnId) (a : Fin 4), (s.alarm f.val a).enable = false → exec (.alarmFire f a) s = .next s) ∧
  (∀ (s : State) (w : Requester) (f : Nat) (a : Fin 4) (p : Part) (v : W64), visible s w = true → nothingBefore s w → alarmFn s w = some f →
    exec (.ctAlarmCmpWrite w a p v) s = .next (troubleEdges s (s.onAlarm f a fun x => { x with cmp := putPart p x.cmp v }))) ∧
  (∀ (s : State) (w : Requester) (f : Nat) (a : Fin 4) (v : W32), visible s w = true → nothingBefore s w → alarmFn s w = some f →
    exec (.ctAlarmCtrlWrite w a v) s = .next (troubleEdges s (s.onAlarm f a fun x =>
      { x with fired := x.fired && !v.getLsbD 1, enable := v.getLsbD 0, vector := v.extractLsb' 8 8 }))) ∧
  (∀ (s : State) (w : Requester) (a : Fin 4) (p : Part) (v : W64) (u : W32), visible s w = true → nothingBefore s w →
    alarmFn s w = none →
    exec (.ctAlarmCmpWrite w a p v) s = .next (troubleEdges s (violateBy s w true .functionOwner (0x2040 + 0x10 * a.val))) ∧
    exec (.ctAlarmCtrlWrite w a u) s = .next (troubleEdges s (violateBy s w true .functionOwner (0x2048 + 0x10 * a.val))))

/-- A configuration request before the light table is applied answers CRS; after it a read returns the function's word, whose
identifiers are those of Table 10.1, and writes of bus-master, device control (within the sizes supported), MSI-X control, the
PF's power state and its ARI Capable Hierarchy are stored. A pending vector that may be sent is sent and its pending bit cleared;
writes and messages held for a function go out in order when it becomes reachable. Data of a host read enters host memory as the
module sees it; a failed read of a command's data finishes that command with 0x70 and sets RG_TROUBLE.POISONED (log 15), and a
failed descriptor read is noted for its sequence. (R156, R162, R443-R453, R533.) -/
def Obligations.ConfigMessagesAndHostReads : Prop :=
  (∀ (s : State) (f : FnId) (op : ConfigOp), tableUp s = false → s.pwr.stage ≠ .daymark →
    exec (.configRequest f op) s = .next (s.emit (.config f.val true))) ∧
  (∀ (s : State) (f : FnId), tableUp s = true →
    let t := s.emit (.config f.val false)
    (∀ d : Nat, exec (.configRequest f (.read d)) s = .next (t.emit (.readData ((configWord s f.val d).zeroExtend 64)))) ∧
    (∀ on : Bool, exec (.configRequest f (.busMaster on)) s = .next (t.onFn f.val fun g => { g with busMaster := on })) ∧
    (∀ p r : BitVec 3, p.toNat ≤ 2 → r.toNat ≤ 5 →
      exec (.configRequest f (.deviceControl p r)) s = .next (t.onFn f.val fun g => { g with maxPayload := p, maxRead := r })) ∧
    (∀ e m : Bool, exec (.configRequest f (.msixControl e m)) s
      = .next (t.onFn f.val fun g => { g with msixEnable := e, fnMask := m })) ∧
    (∀ b : Bool, f.val = 0 → exec (.configRequest f (.powerState b)) s = .next (t.onFn 0 fun g => { g with d3hot := b }) ∧
      exec (.configRequest f (.ariHierarchy b)) s = .next (t.onHost fun h => { h with ariHierarchy := b })) ∧
    (f.val ≠ 0 → ∀ b : Bool, exec (.configRequest f (.powerState b)) s = .next t ∧
      exec (.configRequest f (.ariHierarchy b)) s = .next t)) ∧
  (∀ (s : State) (f : Nat), configWord s 0 0 = 0x4B641F3C#32 ∧ (f ≠ 0 → configWord s f 0 = 0xFFFFFFFF#32) ∧
    configWord s f 2 = 0x12000010#32 ∧ configWord s f 11 = 0x01281F3C#32) ∧
  (∀ (s : State) (f : FnId) (v : Nat), (tget {} (s.fn f.val).msix v).pba = true → (tget {} (s.fn f.val).msix v).masked = false →
    (s.fn f.val).fnMask = false → (s.fn f.val).msixEnable = true → hostReachable s f.val = true →
    exec (.msixDeliverPending f v) s
      = .next ((s.onFn f.val fun g => { g with msix := tmod {} g.msix v fun e => { e with pba := false } }).emit (.msix f.val v))) ∧
  (∀ (s : State) (f : FnId), hostReachable s f.val = true →
    exec (.hostAccessResume f) s = .next (msixRelease ((s.fn f.val).heldWrites.foldl (fun t w => hostWriteNow f.val w.1 w.2 t)
      (s.onFn f.val fun g => { g with heldWrites := [] })) f.val)) ∧
  (∀ (s : State) (f : FnId), hostReachable s f.val = true →
    msixRelease s f.val = (s.fn f.val).heldMsgs.foldl (fun t v => msixNow t f.val v)
      (s.onFn f.val fun g => { g with heldMsgs := [] })) ∧
  (∀ (s : State) (a : W64) (bs : List Byte),
    exec (.hostReadCompletion (.data a bs)) s
      = .next (troubleEdges s (s.onHost fun h => { h with hostMem := writeBytes h.hostMem a.toNat bs }))) ∧
  (∀ (s : State) (r : RingId) (q : Nat) (k : Cmd), (s.ring r.val).find q = some k → k.isFinished = false →
    (s.lt.ident r.val).origin = .host →
    exec (.hostReadCompletion (.commandError r q)) s
      = .next (troubleEdges s ((finishCmd r.val q (statusOf 0x70) s).onRing r.val fun g =>
          { g with trouble := setBit g.trouble 2 }))) ∧
  (∀ (s : State) (r : RingId) (q : Nat), (s.ring r.val).acceptSeq ≤ q → (s.lt.ident r.val).origin = .host →
    exec (.hostReadCompletion (.descriptorError r q)) s
      = .next (troubleEdges s (s.onRing r.val fun g => { g with descError := some q })))

/-- A SEND with PENDING 0 sets PENDING of its direction and notifies the receiver; with PENDING 1 it does nothing. An ACK of a
pending message clears PENDING and notifies the sender. A message write by the sender is stored unless PENDING of its
direction is 1. (R454-R458.) -/
def Obligations.Mailboxes : Prop :=
  (∀ (s : State) (f : FnId), visible s (.fn f) = true → hasMailbox s f.val = true → (s.fn f.val).mbx.outPending = false →
    exec (.mbxVfSend f) s = .next (notifyPf (s.onFn f.val fun g => { g with mbx := { g.mbx with outPending := true } }))) ∧
  (∀ (s : State) (f : FnId), (s.fn f.val).mbx.outPending = true → exec (.mbxVfSend f) s = .next s) ∧
  (∀ (s : State) (w : Requester), nothingBefore s w → (s.fn s.host.mbxSel.toNat).mbx.inPending = true →
    exec (.mbxPfSend w) s = .next s) ∧
  (∀ (s : State) (f : FnId), visible s (.fn f) = true → hasMailbox s f.val = true → (s.fn f.val).mbx.inPending = true →
    exec (.mbxVfAck f) s = .next (notifyPf (s.onFn f.val fun g => { g with mbx := { g.mbx with inPending := false } }))) ∧
  (∀ (s : State) (w : Requester), let f := s.host.mbxSel.toNat
    seesPf s w = true → nothingBefore s w → hasMailbox s f = true → (s.fn f).mbx.inPending = false →
    exec (.mbxPfSend w) s = .next (troubleEdges s (notifyVf f (s.onFn f fun g => { g with mbx := { g.mbx with inPending := true } })))) ∧
  (∀ (s : State) (w : Requester), let f := s.host.mbxSel.toNat
    seesPf s w = true → nothingBefore s w → hasMailbox s f = true → (s.fn f).mbx.outPending = true →
    exec (.mbxPfAck w) s = .next (troubleEdges s (notifyVf f (s.onFn f fun g => { g with mbx := { g.mbx with outPending := false } })))) ∧
  (∀ (s : State) (f : FnId) (n : Fin 16) (p : Part) (v : W64), f.val ≠ 0 → visible s (.fn f) = true →
    hasMailbox s f.val = true →
    exec (.mbxMessageWrite (.fn f) n p v) s = .next (troubleEdges s (s.onFn f.val fun g =>
      { g with mbx := if g.mbx.outPending then g.mbx
                      else { g.mbx with out := tmod 0 g.mbx.out n.val fun o => putPart p o v } }))) ∧
  (∀ (s : State) (w : Requester) (n : Fin 16) (p : Part) (v : W64), (∀ f : FnId, w = .fn f → f.val = 0) →
    visible s w = true → nothingBefore s w → hasMailbox s s.host.mbxSel.toNat = true →
    exec (.mbxMessageWrite w n p v) s = .next (troubleEdges s (s.onFn s.host.mbxSel.toNat fun g =>
      { g with mbx := if g.mbx.inPending then g.mbx
                      else { g.mbx with inn := tmod 0 g.mbx.inn n.val fun o => putPart p o v } })))

/-- Setting VF Enable makes the enabled DISABLED VFs ACTIVE; clearing it, a lower NumVFs, an FLR of the VF or of the PF takes VFs
out of ACTIVE by the cause named; a write of NumVFs above TotalVFs or while VF Enable is 1 has no effect; before the light table is applied each of these answers CRS. A finished FLR
clears its busy bit and re-activates an enabled DISABLED VF without an offer. A VF whose work is moored becomes MOORED and a
custody report is queued. (R156, R448, R460-R471, R493.) -/
def Obligations.VfLifecycle : Prop :=
  (∀ s : State, tableUp s = true → s.host.vfEnable = false →
    exec (.vfEnableWrite true) s = .next (troubleEdges s ((vfsUpTo s.host.numVfs).foldl
      (fun t f => if (t.fn f).vf = .disabled then t.onFn f fun g => { g with vf := .active } else t)
      (s.onHost fun h => { h with vfEnable := true })))) ∧
  (∀ s : State, tableUp s = true → s.host.vfEnable = true →
    exec (.vfEnableWrite false) s = .next (troubleEdges s ((vfsUpTo s.lt.vfCount).foldl
      (fun t f => leaveActive f .vfDisable t) (s.onHost fun h => { h with vfEnable := false })))) ∧
  (∀ (s : State) (n : BitVec 16), tableUp s = true → s.host.vfEnable = false → n.toNat ≤ s.lt.vfCount →
    exec (.numvfsWrite n) s = .next (troubleEdges s ((vfsUpTo s.lt.vfCount).foldl
      (fun t f => if n.toNat < f then leaveActive f .vfDisable t else t)
      (s.onHost fun h => { h with numVfs := n.toNat })))) ∧
  (∀ (s : State) (n : BitVec 16), tableUp s = true → s.lt.vfCount < n.toNat ∨ s.host.vfEnable = true →
    exec (.numvfsWrite n) s = .next s) ∧
  (∀ (s : State) (b : Bool) (n : BitVec 16) (f : FnId), tableUp s = false → s.pwr.stage ≠ .daymark →
    exec (.vfEnableWrite b) s = .next (troubleEdges s (s.emit (.config 0 true))) ∧
    exec (.numvfsWrite n) s = .next (troubleEdges s (s.emit (.config 0 true))) ∧
    exec (.vfFlr f) s = .next (troubleEdges s (s.emit (.config f.val true))) ∧
    exec .pfFlr s = .next (troubleEdges s (s.emit (.config 0 true)))) ∧
  (∀ (s : State) (f : FnId), tableUp s = true → f.val ≠ 0 → s.lt.exists f.val = true →
    exec (.vfFlr f) s = .next (troubleEdges s ((leaveActive f.val .flr (functionReset f.val s)).onFn f.val fun g =>
      { g with flrBusy := true }))) ∧
  (∀ (s : State) (f : FnId), (s.fn f.val).flrBusy = true → s.host.vfEnable = true → f.val ≤ s.host.numVfs →
    exec (.vfFlrComplete f) s = .next (s.onFn f.val fun g =>
      { g with flrBusy := false, vf := if g.vf = .disabled ∧ g.offer = none then .active else g.vf })) ∧
  (∀ s : State, tableUp s = true → exec .pfFlr s = .next (troubleEdges s ((vfsUpTo s.lt.vfCount).foldl (fun t f => leaveActive f .pfFlr t)
      ((functionReset 0 s).onHost fun h => { h with vfEnable := false, numVfs := 0, ariHierarchy := false })))) ∧
  (∀ (s : State) (f : FnId), (s.fn f.val).vf = .mooring → moorDone s f.val = true →
    let t := s.onFn f.val fun g => { g with vf := .moored, cause := (s.fn f.val).cause, drain := false }
    exec (.vfMoored f) s = .next (t.onHost fun h =>
      { h with reports := h.reports ++ [custodyReport t f.val (s.fn f.val).cause (s.lt.ringsOf f.val)] }))

/-- CUSTODY_WAIT starts and waits while no report is queued, and otherwise writes the oldest report and ends. VF_QUIESCE of an
ACTIVE VF starts and moves it to MOORING with its DRAIN argument. VF_DISPOSE RELEASE and RESET end with what they do to the
function. (R463-R475.) -/
def Obligations.LifecycleCommands : Prop :=
  (∀ (s : State) (c : CmdRef) (k : Cmd), c.ring.val = 3 → Starts c (isOpcode 1 0x21) k s → lifeForm [0] k.first = true →
    64 ≤ (mOut k.first).2 → s.host.reports = [] →
    exec (.custodyWait c) s = .next (troubleEdges s (startCmd c.ring k 5 0 s))) ∧
  (∀ (s : State) (c : CmdRef) (k : Cmd) (r : CustodyReport) (rest : List CustodyReport), c.ring.val = 3 →
    Starts c (isOpcode 1 0x21) k s → lifeForm [0] k.first = true → 64 ≤ (mOut k.first).2 → s.host.reports = r :: rest →
    exec (.custodyWait c) s = .next (troubleEdges s (ended c k (output (s.lt.ident c.ring) (mOut k.first).1 (mOut k.first).2
      (lineBytes r) ((startCmd c.ring k 5 0 s).onHost fun h => { h with reports := rest }))))) ∧
  (∀ (s : State) (c : CmdRef) (k : Cmd), Starts c (isOpcode 1 0x20) k s → lifeTurn c s = true → lifeForm [0, 1] k.first = true →
    (s.fn (mFn k.first)).vf = .active → mFn k.first ≠ 0 → rises s.host.fns = true →
    exec (.vfQuiesce c) s = .next (troubleEdges s ((startCmd c.ring k 5 0 s).onFn (mFn k.first) fun g =>
      { g with vf := .mooring, cause := .pfQuiesce, drain := mArg k.first % 2 == 1 }))) ∧
  (∀ (s : State) (c : CmdRef) (k : Cmd), Starts c (fun d => isOpcode 1 0x22 d && decide (mArg d ≠ 2)) k s →
    lifeTurn c s = true → lifeForm [1] k.first = true →
    exec (.vfDisposeRelease c) s
      = .next (troubleEdges s (ended c k (disposeRelease (mFn k.first) (startCmd c.ring k 5 0 s))))) ∧
  (∀ (s : State) (c : CmdRef) (k : Cmd), Starts c (fun d => isOpcode 1 0x22 d && decide (mArg d = 2)) k s →
    lifeTurn c s = true → lifeForm [2] k.first = true →
    exec (.vfDisposeReset c) s = .next (troubleEdges s
      (ended c k (disposeReset (s.lt.ident c.ring) (mFn k.first) (mOut k.first) (startCmd c.ring k 5 0 s)))))

/-- In its turn, a VF_IMPORT_OFFER, VF_EXPORT, VF_IMPORT, VF_EXPORT_COMMIT, VF_IMPORT_COMMIT, VF_EXPORT_ABORT or
VF_IMPORT_DISCARD that starts ends with the state and the result that its operation gives on the started command. (R475,
R483-R492.) -/
def Obligations.MigrationCommands : Prop :=
  ∀ (s : State) (c : CmdRef) (k : Cmd), lifeTurn c s = true →
    let i := s.lt.ident c.ring
    let t := startCmd c.ring k 5 0 s
    (Starts c (isOpcode 1 0x23) k s → exec (.vfImportOffer c) s = .next (troubleEdges s (ended c k (importOffer i k t)))) ∧
    (Starts c (isOpcode 1 0x24) k s → exec (.vfExport c) s = .next (troubleEdges s (ended c k (vfExport i k t)))) ∧
    (Starts c (isOpcode 1 0x25) k s → exec (.vfImport c) s = .next (troubleEdges s (ended c k (vfImport i k t)))) ∧
    (Starts c (isOpcode 1 0x26) k s → exec (.vfExportCommit c) s = .next (troubleEdges s (ended c k (exportCommit i k t)))) ∧
    (Starts c (isOpcode 1 0x27) k s → exec (.vfImportCommit c) s = .next (troubleEdges s (ended c k (importCommit i k t)))) ∧
    (Starts c (isOpcode 1 0x28) k s → exec (.vfExportAbort c) s = .next (troubleEdges s (ended c k (exportAbort k t)))) ∧
    (Starts c (isOpcode 1 0x29) k s → exec (.vfImportDiscard c) s = .next (troubleEdges s (ended c k (importDiscard k t))))

/-- DIRTY_SWITCH makes the other bitmap active and sets SWITCHED. A write to the base of the active bitmap has no effect, one to
the other is stored with bits 11:0 zero. Logging a page below FN_DIRTY_LIMIT sets bit page mod 8 of byte page / 8 of the
active bitmap and changes no other byte of host memory; at or above the limit it sets OVERFLOW and nothing else. (R476-R481.) -/
def Obligations.DirtyLogging : Prop :=
  (∀ (s : State) (w : Requester), seesPf s w = true → nothingBefore s w →
    exec (.dirtySwitch w) s = .next (troubleEdges s (s.onFn s.host.dirtySel.toNat fun g =>
      { g with dirty := { g.dirty with active := !g.dirty.active, switched := true } }))) ∧
  (∀ (s : State) (w : Requester) (p : Part) (v : W64), seesPf s w = true → nothingBefore s w →
    exec (.fnDirtyBaseWrite w false p v) s = .next (troubleEdges s (s.onFn s.host.dirtySel.toNat fun g =>
      if g.dirty.active then { g with dirty := { g.dirty with base0 := putPart p g.dirty.base0 v &&& ~~~0xFFF#64 } } else g))) ∧
  (∀ (s : State) (w : Requester) (p : Part) (v : W64), seesPf s w = true → nothingBefore s w →
    exec (.fnDirtyBaseWrite w true p v) s = .next (troubleEdges s (s.onFn s.host.dirtySel.toNat fun g =>
      if g.dirty.active then g else { g with dirty := { g.dirty with base1 := putPart p g.dirty.base1 v &&& ~~~0xFFF#64 } }))) ∧
  (∀ (s : State) (f page : Nat), page * 4096 < (s.fn f).dirty.limit.toNat → Memory.wf s.host.hostMem = true →
    let a := (s.fn f).dirty.base + page / 8
    bget (logPage f page s).host.hostMem a = setBit (bget s.host.hostMem a) (page % 8) ∧
    ∀ b, b ≠ a → bget (logPage f page s).host.hostMem b = bget s.host.hostMem b) ∧
  (∀ (s : State) (f page : Nat), (s.fn f).dirty.limit.toNat ≤ page * 4096 →
    logPage f page s = s.onFn f fun g => { g with dirty := { g.dirty with overflow := true } })

/-- A write of RG_CTRL, of RG_BASE, RG_CPL_BASE or RG_SIZE, or of RG_PROD that its writer may make acts as the register says.
Enabling a ring at rest with a size of 4 to 16 sets PROD to CONS, zeroes DONE, clears BADCFG and enables it; another size
sets BADCFG and leaves it disabled. Disabling an enabled ring leaves it draining while commands are outstanding. (R499-R511,
R893.) -/
def Obligations.RingRegisters : Prop :=
  (∀ (s : State) (w : Requester) (r : RingId) (v : W32), visible s w = true → nothingBefore s w → ringReach s w r.val = .full →
    ringWriteLevel s r.val = 2 →
    exec (.ringEnable w r v) s = .next (troubleEdges s (writeCtrl r.val (setBit v 0) s)) ∧
    exec (.ringDisable w r v) s = .next (troubleEdges s (writeCtrl r.val (clearBit v 0) s)) ∧
    exec (.rgNotifyWrite w r v) s = .next (troubleEdges s (writeCtrl r.val v s))) ∧
  (∀ (s : State) (w : Requester) (r : RingId) (reg : Fin 3) (p : Part) (v : W64), visible s w = true → nothingBefore s w →
    ringReach s w r.val = .full → ringWriteLevel s r.val = 2 →
    exec (.ringConfigWrite w r reg p v) s = .next (troubleEdges s (writeConfig r.val reg.val p v s))) ∧
  (∀ (s : State) (w : Requester) (r : RingId) (v : W32), visible s w = true → nothingBefore s w → ringReach s w r.val = .full →
    1 ≤ ringWriteLevel s r.val →
    exec (.rgProdWrite w r v) s = .next (troubleEdges s (s.onRing r.val fun g => g.doorbell v))) ∧
  (∀ g : Ring, g.enabled = false → g.draining = false → 4 ≤ g.size.toNat → g.size.toNat ≤ 16 →
    g.enable = { g with prod := g.cons, done := 0, badcfg := false, enabled := true }) ∧
  (∀ g : Ring, g.enabled = false → g.draining = false → (g.size.toNat < 4 ∨ 16 < g.size.toNat) → g.enable = { g with badcfg := true }) ∧
  (∀ g : Ring, g.enabled = true → g.disable = { g with enabled := false, draining := decide (g.doneSeq ≠ g.acceptSeq) })

/-- COMMAND_ACCEPT accepts the command that the ring whose turn it is announces, when the module may accept, having read its descriptors; else
it does nothing. COMMAND_COMPLETE writes the completion of the ring's oldest command when that has its result and can complete;
without a result it does nothing. (R512-R515, R525-R528, R532.) -/
def Obligations.AcceptAndComplete : Prop :=
  (∀ (s : State) (r : RingId) (ds : List Line) (u p l : Bool), mayAccept s = true → turnRing s = some r.val →
    gatherRing s r.val = .command ds u p l →
    exec (.commandAccept r) s = .next (troubleEdges s (acceptCommand r.val ds u p l
      (fetchDescs (s.lt.ident r.val) (s.ring r.val) ds.length (s.ring r.val).acceptSeq s)))) ∧
  (∀ (s : State) (r : RingId), mayAccept s = false → exec (.commandAccept r) s = .next s) ∧
  (∀ (s : State) (r : RingId) (k : Cmd) (x : Result), headResult s r.val = some (k, x) → canComplete s r.val = true →
    exec (.commandComplete r) s = .next (troubleEdges s (completeHead r.val k x s))) ∧
  (∀ (s : State) (r : RingId), headResult s r.val = none → exec (.commandComplete r) s = .next s)

/-- Entering a command on ring r adds its number of descriptors to the ring's accept sequence, appends it to the ring's commands,
records CT as the last accept, keeps the done sequence, leaves every other ring, the logbook, the mesh and the host side as
they were, and passes the turn to the next ring. The premise is that the ring table is in its canonical form. (R37, R502,
R512.) -/
def Obligations.AcceptCounts : Prop :=
  ∀ (s : State) (r : Nat) (k : Cmd) (p : Bool), rises s.rings.tab = true →
    let t := enterCommand r k p s
    (t.ring r).acceptSeq = (s.ring r).acceptSeq + k.descs.length ∧ (t.ring r).cmds = (s.ring r).cmds ++ [k] ∧
    (t.ring r).lastAcceptCt = s.ct.now ∧ (t.ring r).doneSeq = (s.ring r).doneSeq ∧
    (∀ q, q ≠ r → t.ring q = s.ring q) ∧ t.rings.turn = (r + 1) % 1024 ∧ t.lb = s.lb ∧ t.mesh = s.mesh ∧ t.host = s.host

/-- A NOP that starts ends with its result; Q_RING, Q_COMMAND and Q_RECORDS that start end with what the query writes.
(R535-R539.) -/
def Obligations.RingCommands : Prop :=
  ∀ (s : State) (c : CmdRef) (k : Cmd),
    let i := s.lt.ident c.ring
    (Starts c (fun d => dOpcode d == 0) k s →
      exec (.nop c) s = .next (troubleEdges s (ended c k (startCmd c.ring k 8 0 s, nopResult k.first)))) ∧
    (Starts c (isOpcode 4 1) k s → exec (.qRing c) s = .next (troubleEdges s (ended c k (queryRun c.ring k i (startCmd c.ring k 6 0 s))))) ∧
    (Starts c (isOpcode 4 2) k s →
      exec (.qCommand c) s = .next (troubleEdges s (ended c k (queryRun c.ring k i (startCmd c.ring k 6 0 s))))) ∧
    (Starts c (isOpcode 4 3) k s →
      exec (.qRecords c) s = .next (troubleEdges s (ended c k (qRecordsRun c.ring k i (startCmd c.ring k 6 0 s)))))

/-- RECORD_COMMITTED takes the oldest formed record off with its banks' wear, and fails a bank that wears too fast. A bank in service can be suspended; a resumed bank
has nothing missed left, the head stands and only the logbook changes. A failed bank is marked and sets its trouble bit, and
with both failed acceptance closes. CARRIED_COPY of a live record commits it again with the CARRIED flag. That a record is
committed when formed is the model's choice (log 30). (R543-R549, R564, R566, R890.) -/
def Obligations.LogbookRows : Prop :=
  (∀ (s : State) (a b : BankWrite) (n : Nat × Nat) (rest : List (Nat × Nat)), s.lb.formed = n :: rest →
    exec (.recordCommitted a b) s = .next (troubleEdges s (noteLive (failWorn (noteWear a b (s.onLb fun g => { g with formed := rest })))))) ∧
  (∀ (s : State) (b : Bank), (s.lb.bank b).failed = false →
    exec (.bankSuspend b) s = .next (s.onBank b fun x => { x with suspended := true })) ∧
  (∀ (s : State) (b : Bank), (s.lb.bank b).failed = false → (s.lb.bank b).suspended = true →
    ∃ t, exec (.bankResume b) s = .next t ∧ (t.lb.bank b).suspended = false ∧ (t.lb.bank b).missed = [] ∧
      t.lb.head = s.lb.head ∧ t = { s with lb := t.lb }) ∧
  (∀ s : State, ∃ t, exec (.bankFail .a) s = .next t ∧ t.lb.a.failed = true ∧ t.lb.b = s.lb.b ∧
      t.lb.trouble = setBit s.lb.trouble 0 ∧ t.rings.closed = (s.rings.closed || s.lb.b.failed)) ∧
  (∀ s : State, ∃ t, exec (.bankFail .b) s = .next t ∧ t.lb.b.failed = true ∧ t.lb.a = s.lb.a ∧
      t.lb.trouble = setBit s.lb.trouble 1 ∧ t.rings.closed = (s.rings.closed || s.lb.a.failed)) ∧
  (∀ (s : State) (n : Nat) (r : Record), (records s).find? (·.lsn == n) = some r → canCommit s = true →
    isLive (records s) s.lb.restored r = true →
    exec (.carriedCopy n) s = .next (troubleEdges s (commit { r with flags := (BitVec.ofNat 8 r.flags ||| 2#8).toNat } s)))

/-- HASH, AES_CBC, AES_CTR, AES_GCM, AES_XTS, AES_CMAC, AES_KW, AES_KWP, CHACHA_POLY, HMAC, KMAC and RANDOM, when they start and
a lane is free for their world, end with what the chain run gives, the slots it reads as the row's store error leaves them, after
the record of a violation where the key was not the submitter's, and pulse the lane's APLIC source (logs 43, 79). (R588-R605, R898.) -/
def Obligations.CryptoChains : Prop :=
  ∀ (s : State) (c : CmdRef) (k : Cmd) (n : Nat), freeCryptoLane s (decide ((s.lt.ident c.ring).encl ≠ 0)) = some n →
    let i := s.lt.ident c.ring
    let p := runChain k i (slotErrors c.store k i (startCmd c.ring k 1 n s))
    let t := troubleEdges s (ended c k (aplic (noKeyViolation 24 k i p.2 p.1) (169 + n), p.2))
    (Starts c (isOpcode 2 0x01) k s → exec (.hash c) s = .next t) ∧
    (Starts c (isOpcode 2 0x02) k s → exec (.aesCbc c) s = .next t) ∧
    (Starts c (isOpcode 2 0x03) k s → exec (.aesCtr c) s = .next t) ∧
    (Starts c (isOpcode 2 0x04) k s → exec (.aesGcm c) s = .next t) ∧
    (Starts c (isOpcode 2 0x05) k s → exec (.aesXts c) s = .next t) ∧
    (Starts c (isOpcode 2 0x06) k s → exec (.aesCmac c) s = .next t) ∧
    (Starts c (isOpcode 2 0x07) k s → exec (.aesKw c) s = .next t) ∧
    (Starts c (isOpcode 2 0x08) k s → exec (.aesKwp c) s = .next t) ∧
    (Starts c (isOpcode 2 0x09) k s → exec (.chachaPoly c) s = .next t) ∧
    (Starts c (isOpcode 2 0x0A) k s → exec (.hmac c) s = .next t) ∧
    (Starts c (isOpcode 2 0x0B) k s → exec (.kmac c) s = .next t) ∧
    (Starts c (isOpcode 2 0x0C) k s → exec (.random c) s = .next t)

/-- KEY_IMPORT, KEY_GENERATE, KEY_DERIVE, KEY_EXPORT, KEY_DESTROY, KEY_INFO and KEK_RELEASE, when they start and a lane is free
for their world, end with what their operation gives on the slots as the row's store error leaves them, and pulse the lane's
APLIC source (logs 43, 79). (R611-R627.) -/
def Obligations.KeyCommands : Prop :=
  ∀ (s : State) (c : CmdRef) (k : Cmd) (n : Nat), freeCryptoLane s (decide ((s.lt.ident c.ring).encl ≠ 0)) = some n →
    let i := s.lt.ident c.ring
    let u := slotErrors c.store k i (startCmd c.ring k 1 n s)
    let t := fun (p : State × Result) => troubleEdges s (ended c k (aplic (noKeyViolation 24 k i p.2 p.1) (169 + n), p.2))
    (Starts c (isOpcode 2 0x10) k s → exec (.keyImport c) s = .next (t (keyImport c.ring k i u))) ∧
    (Starts c (isOpcode 2 0x11) k s → exec (.keyGenerate c) s = .next (t (keyGenerate c.ring k i u))) ∧
    (Starts c (isOpcode 2 0x12) k s → exec (.keyDerive c) s = .next (t (keyDerive c.ring k i u))) ∧
    (Starts c (isOpcode 2 0x13) k s → exec (.keyExport c) s = .next (t (keyExport k i u))) ∧
    (Starts c (isOpcode 2 0x14) k s → exec (.keyDestroy c) s = .next (t (keyDestroy k i u))) ∧
    (Starts c (isOpcode 2 0x15) k s → exec (.keyInfo c) s = .next (t (keyInfo k i u))) ∧
    (Starts c (isOpcode 2 0x16) k s → exec (.kekRelease c) s = .next (t (kekRelease k i u)))

/-- A failed health test clears the source's and sets ENTROPY_FAIL; a restart sets both the source and the DRBG good; a reseed
leaves the DRBG as good as the source. A failed self-test or a failed lane leaves the lane out of service with LANE_FAIL set,
and the chain it ran starts again; a passed self-test changes nothing. (R606-R610, R628, R899.) -/
def Obligations.CryptoUnits : Prop :=
  (∀ s : State, exec .entropyHealthFail s
    = .next (troubleEdges s (s.onCx fun c => { c with esOk := false, trouble := setBit c.trouble 2 }))) ∧
  (∀ s : State, exec .entropyRestartDone s = .next (s.onCx fun c => { c with esOk := true, drbgOk := true })) ∧
  (∀ s : State, exec .drbgReseed s = .next (s.onCx fun c => { c with drbgOk := c.esOk })) ∧
  (∀ (s : State) (n : LaneNo), s.cx.laneOk.getLsbD n.val = true →
    exec (.cryptoLaneSelfTest n false) s
      = .next (troubleEdges s (s.onCx fun c => { c with laneOk := clearBit c.laneOk n.val, trouble := setBit c.trouble 0 }))) ∧
  (∀ (s : State) (n : LaneNo), exec (.cryptoLaneSelfTest n true) s = .next s) ∧
  (∀ (s : State) (n : LaneNo), s.cx.laneOk.getLsbD n.val = true →
    exec (.cryptoLaneFail n none) s
      = .next (troubleEdges s (s.onCx fun c => { c with laneOk := clearBit c.laneOk n.val, trouble := setBit c.trouble 0 }))) ∧
  (∀ (s : State) (n : LaneNo) (c : CmdRef), s.cx.laneOk.getLsbD n.val = true →
    exec (.cryptoLaneFail n (some c)) s
      = .next (troubleEdges s ((restartChain c n s).onCx fun x =>
          { x with laneOk := clearBit x.laneOk n.val, trouble := setBit x.trouble 0 })))

/-- In M-mode the seed CSR reads state DEAD (bits 31:30 = 3) while DRBG_OK is 0, and otherwise state ES16 (bits 31:30 = 2) with
16 bits of entropy, whatever these are; in a lower mode the read is an illegal instruction. (R191, R609.) -/
def Obligations.SeedCsr : Prop :=
  ∀ (s : State) (h : HartId) (rd : Fin 32) (insn : W32), TablesInv s → (s.hart h).runs = true →
    let u := breakLoop h s
    let put := fun v : W64 => Host.Outcome.next (retire h ({ u with free := u.free + 1 }.onHart h fun x => x.setX rd.val v))
    ((s.hart h).priv = .m → s.cx.drbgOk = false → exec (.seedCsrRead h rd insn) s = put 0xC0000000#64) ∧
    ((s.hart h).priv = .m → s.cx.drbgOk = true →
      ∃ v : BitVec 16, exec (.seedCsrRead h rd insn) s = put (0x80000000#64 ||| v.zeroExtend 64)) ∧
    ((s.hart h).priv ≠ .m → exec (.seedCsrRead h rd insn) s = .next (illegal h insn u))

/-- MOPEN, MCLOSE, MLOAD, MSTORE, MLDKEY, MADD, MSUB, MMUL, MSQR, MINV and MEXP that start on a unit take it with their run;
MABORT stops the session and ends. (R635-R660.) -/
def Obligations.SessionCommands : Prop :=
  ∀ (s t : State) (c : CmdRef) (k : Cmd) (u : Nat) (x : UnitRun),
    let r := troubleEdges s (occupied u x (startCmd c.ring k (unitEngine u).1 (unitEngine u).2 t))
    (UnitStarts c 0x80 k s u x t → exec (.mopen c) s = .next r) ∧
    (UnitStarts c 0x81 k s u x t → exec (.mclose c) s = .next r) ∧
    (UnitStarts c 0x82 k s u x t →
      exec (.mabort c) s = .next (troubleEdges s (ended c k (stopSession u (startCmd c.ring k 2 u s), statusOf 0)))) ∧
    (UnitStarts c 0x83 k s u x t → exec (.mload c) s = .next r) ∧
    (UnitStarts c 0x84 k s u x t → exec (.mstore c) s = .next r) ∧
    (UnitStarts c 0x85 k s u x t → exec (.mldkey c) s = .next r) ∧
    (UnitStarts c 0x86 k s u x t → exec (.madd c) s = .next r) ∧
    (UnitStarts c 0x87 k s u x t → exec (.msub c) s = .next r) ∧
    (UnitStarts c 0x88 k s u x t → exec (.mmul c) s = .next r) ∧
    (UnitStarts c 0x89 k s u x t → exec (.msqr c) s = .next r) ∧
    (UnitStarts c 0x8A k s u x t → exec (.minv c) s = .next r) ∧
    (UnitStarts c 0x8B k s u x t → exec (.mexp c) s = .next r)

/-- P384_SIGN, P384_VERIFY, P384_AGREE, MLKEM_ENCAPS, MLKEM_DECAPS, MLDSA_SIGN, MLDSA_VERIFY, LU_NTT, LU_INTT, LU_PWMUL,
LU_SAMPLE and LU_COMPRESS that start on a unit take it with their run. (R636, R672-R683.) -/
def Obligations.LoneUnitCommands : Prop :=
  ∀ (s t : State) (c : CmdRef) (k : Cmd) (u : Nat) (x : UnitRun),
    let r := troubleEdges s (occupied u x (startCmd c.ring k (unitEngine u).1 (unitEngine u).2 t))
    (UnitStarts c 0x90 k s u x t → exec (.p384Sign c) s = .next r) ∧
    (UnitStarts c 0x91 k s u x t → exec (.p384Verify c) s = .next r) ∧
    (UnitStarts c 0x92 k s u x t → exec (.p384Agree c) s = .next r) ∧
    (UnitStarts c 0xA0 k s u x t → exec (.mlkemEncaps c) s = .next r) ∧
    (UnitStarts c 0xA1 k s u x t → exec (.mlkemDecaps c) s = .next r) ∧
    (UnitStarts c 0xA2 k s u x t → exec (.mldsaSign c) s = .next r) ∧
    (UnitStarts c 0xA3 k s u x t → exec (.mldsaVerify c) s = .next r) ∧
    (UnitStarts c 0xA8 k s u x t → exec (.luNtt c) s = .next r) ∧
    (UnitStarts c 0xA9 k s u x t → exec (.luIntt c) s = .next r) ∧
    (UnitStarts c 0xAA k s u x t → exec (.luPwmul c) s = .next r) ∧
    (UnitStarts c 0xAB k s u x t → exec (.luSample c) s = .next r) ∧
    (UnitStarts c 0xAC k s u x t → exec (.luCompress c) s = .next r)

/-- A run that ends writes its outputs, frees its unit and finishes its command; a CHECK or TWIN mismatch acts as the mismatch
rule says. A failed modular or lattice unit leaves service with its trouble bits; a self-test that fails, or that meets an
uncorrectable error in the unit's memory, takes an idle unit in service out, a corrected error sets its bit, and a passed one
changes nothing; MU_ABORT aborts each unit of the mask. (R658-R670, R688.) -/
def Obligations.UnitEnds : Prop :=
  (∀ (s : State) (u : UnitNo) (x : UnitRun), runOn s u.val = some x →
    let n := lowerUnit x u.val
    let p := unitWrites n x (unitFree n x s)
    exec (.unitCommandEnd u .done) s = .next (troubleEdges s (finishCmd x.ring x.seq p.2 p.1)) ∧
    (x.check = true → exec (.unitCommandEnd u .checkMismatch) s = .next (troubleEdges s (unitMismatch n x 1 s))) ∧
    (x.twin = true → exec (.unitCommandEnd u .twinMismatch) s = .next (troubleEdges s (unitMismatch n x 2 s)))) ∧
  (∀ (s : State) (u : Fin 4) (b : Bool), s.mu.ok.getLsbD u.val = true →
    ∃ t, exec (.muUnitFail u b) s = .next t ∧ t.mu.ok = clearBit s.mu.ok u.val ∧ t.mu.muTrouble.getLsbD 0 = true ∧
      (b = true → t.mu.muTrouble.getLsbD 4 = true)) ∧
  (∀ (s : State) (u : Fin 2) (b : Bool), s.mu.ok.getLsbD (4 + u.val) = true →
    ∃ t, exec (.luUnitFail u b) s = .next t ∧ t.mu.ok = clearBit s.mu.ok (4 + u.val) ∧ t.mu.luTrouble.getLsbD 0 = true ∧
      (b = true → t.mu.luTrouble.getLsbD 2 = true)) ∧
  (∀ (s : State) (u : UnitNo) (b : BitError), runOn s u.val = none → s.mu.ok.getLsbD u.val = true →
    exec (.muSelfTest u false b) s = .next (troubleEdges s (unitLeaves u.val (memoryError u.val b s))) ∧
    exec (.muSelfTest u true .double) s = .next (troubleEdges s (unitLeaves u.val (memoryError u.val .double s))) ∧
    exec (.muSelfTest u true .single) s = .next (troubleEdges s (memoryError u.val .single s)) ∧
    exec (.muSelfTest u true .none) s = .next s) ∧
  (∀ (s : State) (w : Requester) (v : W32), seesPf s w = true → nothingBefore s w → s.kp.world = 0 →
    exec (.muAbortWrite w v) s
      = .next (troubleEdges s (([0, 1, 2, 3].filter fun u => v.getLsbD u).foldl (fun t u => pfAbort u t) s)))

/-- A load of a running hart acts by its shared operation, unless it needs a line that another hart holds for its constrained loop:
then the hart stalls. Where nothing stops the access, with the hart's older stores out of its buffers, an aligned load of 4 or 8
bytes of the SRAM beyond the dispatch lists gives those bytes, and one of DRAM memory's bytes, lines moving between caches
alone; a DRAM load whose bytes are all in the youngest overlapping store-buffer entry gives that entry's. The value is extended
by its sign into rd, and the instruction retires. (R197, R243-R253, R285.) -/
def Obligations.HartLoads : Prop :=
  (∀ (s : State) (h : HartId) (rd : Fin 32) (sg : Bool) (c : Access), (s.hart h).runs = true →
    (waits s h (.load h rd sg c) = false → exec (.load h rd sg c) s = .next (troubleEdges s (load h rd.val sg c s))) ∧
    (waits s h (.load h rd sg c) = true →
      exec (.load h rd sg c) s = .next (troubleEdges s (s.onHart h fun x => { x with stall := .line (.load h rd sg c) })))) ∧
  (∀ (s : State) (h : HartId) (rd : Fin 32) (sg : Bool) (c : Access), TablesInv s →
    proceeds s h (.load h rd sg c) .load c.width.bytes c →
    let put := fun (v : Nat) (t : State) => troubleEdges s (retireLen h c.length (t.onHart h fun x =>
      x.setX rd.val (extend sg c.width.bytes v)))
    (regionOf c.pa.toNat c.width.bytes = .sram → c.aligned = true → 4 ≤ c.width.bytes → 0x4000180000 ≤ c.pa.toNat →
      (s.hart h).storeBuf = [] → exec (.load h rd sg c) s
        = .next (put (ofBytesLE (readBytes s.mesh.sram c.pa.toNat c.width.bytes)) (breakLoop h s))) ∧
    (∀ bs, regionOf c.pa.toNat c.width.bytes = .dram → (s.hart h).combining = [] →
      forwarded (s.hart h) c.pa.toNat c.width.bytes = some bs →
      exec (.load h rd sg c) s = .next (put (ofBytesLE bs) (breakLoop h s))) ∧
    (unbuffered s h → readable s h c c.width.bytes → ∃ u, linesMoved (breakLoop h s) u ∧
      exec (.load h rd sg c) s = .next (put (ofBytesLE (readBytes s.mesh.mem c.pa.toNat c.width.bytes)) u)))

/-- A store of a running hart acts by its shared operation, or stalls the hart on a line that another defers. Where nothing stops it,
it enters the store buffer as one entry and retires: an I/O store at an allowed width and alignment always, a DRAM store with
nothing buffered, while one that lies in the 8-byte word of the youngest entry, of the same world and enclave, merges into that
entry. Draining the oldest entry acts by its shared operation; of a DRAM entry inside one line it changes exactly the bytes that
the entry holds, and draining a combining-buffer entry exactly the bytes of its mask: every other byte of DRAM, the SRAM and all
else of the harts but their caches, reservations and event counters stay. (R197, R243-R257, R285.) -/
def Obligations.HartStores : Prop :=
  (∀ (s : State) (h : HartId) (c : Access) (v : W64), (s.hart h).runs = true →
    (waits s h (.store h c v) = false → exec (.store h c v) s = .next (troubleEdges s (store h c v s))) ∧
    (waits s h (.store h c v) = true →
      exec (.store h c v) s = .next (troubleEdges s (s.onHart h fun x => { x with stall := .line (.store h c v) })))) ∧
  (∀ (s : State) (h : HartId) (c : Access) (v : W64), TablesInv s → proceeds s h (.store h c v) .store c.width.bytes c →
    let n := c.width.bytes
    let r := regionOf c.pa.toNat n
    let bs := storeBytes c.pa.toNat n v
    let put := fun (f : Hart → List SbEntry) => troubleEdges s (retireLen h c.length ((breakLoop h s).onHart h fun x =>
      { x with storeBuf := f x }))
    let new := fun (x : Hart) (io : Bool) =>
      (⟨bs, io, x.keeper, x.kenc, c.fetchedInside, c.va.toNat, Ntl.low c.hint, c.cache⟩ : SbEntry)
    (c.hint ≠ .all → r = .dram → unbuffered s h → exec (.store h c v) s = .next (put fun x => x.storeBuf ++ [new x false])) ∧
    (r ≠ .dram → r ≠ .rom → widthAllowed r c = true → (s.hart h).storeBuf.length < 64 →
      exec (.store h c v) s = .next (put fun x => x.storeBuf ++ [new x true])) ∧
    (∀ (older : List SbEntry) (e : SbEntry), c.hint ≠ .all → r = .dram → (s.hart h).combining = [] →
      (s.hart h).storeBuf = older ++ [e] → e.io = false → sameWord e c.pa.toNat n = true → e.kenc = (s.hart h).kenc →
      e.keeper = (s.hart h).keeper → e.inside = c.fetchedInside → exec (.store h c v) s
        = .next (put fun _ => older ++ [{ e with bytes := bs.foldl (fun t b => tput b.2 t b.1) e.bytes }]))) ∧
  (∀ (s : State) (h : HartId) (e : SbEntry) (rest : List SbEntry), (s.hart h).storeBuf = e :: rest →
    (e.io = true ∨ ∀ l ∈ linesIn e.bytes, deferredBy s l h.val = false) →
    exec (.storeBufferDrain h) s = .next (troubleEdges s (drainOne h s)) ∧
    (∀ l, e.io = false → e.bytes ≠ [] → rises e.bytes = true → (∀ b ∈ e.bytes, b.1 / 64 = l) → e.cache = {} → MemoryInv s →
      mayReach s (entryAgent s h e.keeper e.kenc e.inside) (64 * l) = true → quiet s h.val l →
      ∃ u, exec (.storeBufferDrain h) s = .next (troubleEdges s u) ∧
        u = { s with harts := u.harts, mesh := u.mesh, out := u.out, free := u.free } ∧ u.mesh.sram = s.mesh.sram ∧
        (∀ i, (u.hart i).bare = ((s.onHart h fun x => { x with storeBuf := rest }).hart i).bare) ∧
        ∀ a, bget u.mesh.mem a = if e.bytes.any (fun b => b.1 == a) then tget 0 e.bytes a else bget s.mesh.mem a)) ∧
  (∀ (s : State) (h : HartId) (l : LineNo) (e : NtEntry), (s.hart h).combining.find? (·.line == l.toNat) = some e →
    exec (.combiningBufferDrain h l) s = .next (troubleEdges s (drainEntry h e s)) ∧
    (l.toNat < dramLines → MemoryInv s → mayReach s (entryAgent s h e.keeper e.kenc e.inside) (64 * l.toNat) = true →
      (∀ q ∈ (s.slice (homeOf l.toNat)).queued, q.line ≠ l.toNat) → deferredBy s l.toNat h.val = false → s.mesh.behind = [] →
      ∃ u, exec (.combiningBufferDrain h l) s = .next (troubleEdges s u) ∧
        u = { s with harts := u.harts, mesh := u.mesh, out := u.out, free := u.free } ∧ u.mesh.sram = s.mesh.sram ∧
        (∀ i, (u.hart i).bare = ((s.onHart h fun x => { x with combining := x.combining.erase e }).hart i).bare) ∧
        ∀ a, bget u.mesh.mem a = if a / 64 = l.toNat ∧ e.mask.getLsbD (a % 64) = true then (lineBytes e.data).getD (a % 64) 0
          else bget s.mesh.mem a))

/-- An AMO, LR or SC of a running hart acts by its shared operation, or stalls the hart on a line that another defers. Where nothing
stops it and the hart's buffers are empty: an aligned AMO of 4 or 8 bytes of DRAM, or of the SRAM beyond the dispatch lists, gives
rd the old value by its sign and stores the operation's result in those bytes alone; LR gives rd the bytes and reserves the line;
SC at the reserved address stores its value in those bytes alone and gives 0, unless a free value fails it, which the 25th SC of a
constrained loop does not allow; a failing SC stores nothing, gives 1 and counts event 0x0D; either ends the reservation and the
deferral. The ordering bits change nothing more there. LR_DEFERRAL_TIMEOUT ends the deferral, but not before that 25th SC, a
reading of the model (log 83). (R277-R287.) -/
def Obligations.HartAtomics : Prop :=
  (∀ (s : State) (h : HartId) (rd : Fin 32) (op : AmoOp) (c : Access) (v : W64) (aq rl k : Bool), (s.hart h).runs = true →
    let held := fun (i : Instr) => s.onHart h fun x => { x with stall := .line i }
    exec (.amo h rd op c v aq rl) s = .next (troubleEdges s (if waits s h (.amo h rd op c v aq rl)
      then held (.amo h rd op c v aq rl) else amo h rd.val op c v aq rl s)) ∧
    exec (.lr h rd c aq rl k) s = .next (troubleEdges s (if waits s h (.lr h rd c aq rl k)
      then held (.lr h rd c aq rl k) else loadReserved h rd.val c aq rl k s)) ∧
    exec (.sc h rd c v aq rl) s = .next (troubleEdges s (if waits s h (.sc h rd c v aq rl)
      then held (.sc h rd c v aq rl) else wakeAll (storeConditional h rd.val c v aq rl s)))) ∧
  (∀ (s : State) (h : HartId) (rd : Fin 32) (op : AmoOp) (c : Access) (v : W64) (aq rl : Bool), TablesInv s →
    proceeds s h (.amo h rd op c v aq rl) .store c.width.bytes c → unbuffered s h →
    let a := c.pa.toNat
    let n := c.width.bytes
    (atomicPlace c → readable s h c n → Memory.wf s.mesh.mem = true →
      let old := ofBytesLE (readBytes s.mesh.mem a n)
      ∃ u, stored (breakLoop h s) u a n (amoBytes op n old v) ∧ exec (.amo h rd op c v aq rl) s
        = .next (troubleEdges s (retire h (u.onHart h fun x => x.setX rd.val (extend true n old))))) ∧
    (c.aligned = true → 4 ≤ n → regionOf a n = .sram → 0x4000180000 ≤ a →
      let old := ofBytesLE (readBytes s.mesh.sram a n)
      exec (.amo h rd op c v aq rl) s = .next (troubleEdges s (retire h (((breakLoop h s).onMesh fun m =>
          { m with sram := writeBytes m.sram a (bytesLE n (amoBytes op n old v)) }).onHart h
        fun x => x.setX rd.val (extend true n old)))))) ∧
  (∀ (s : State) (h : HartId) (rd : Fin 32) (c : Access) (aq rl k : Bool), TablesInv s →
    proceeds s h (.lr h rd c aq rl k) .load c.width.bytes c → unbuffered s h → atomicPlace c → readable s h c c.width.bytes →
    let a := c.pa.toNat
    ∃ u, linesMoved s u ∧ exec (.lr h rd c aq rl k) s = .next (troubleEdges s (retire h (u.onHart h fun x =>
      { (x.setX rd.val (extend true c.width.bytes (ofBytesLE (readBytes s.mesh.mem a c.width.bytes)))) with
        reserved := some (a / 64), resAddr := a, deferring := k, looping := k
        scFails := if k = true ∧ x.resAddr = a then x.scFails else 0 })))) ∧
  (∀ (s : State) (h : HartId) (rd : Fin 32) (c : Access) (v : W64) (aq rl : Bool), TablesInv s →
    proceeds s h (.sc h rd c v aq rl) .store c.width.bytes c → unbuffered s h → atomicPlace c →
    soundLine s (c.pa.toNat / 64) →
    let a := c.pa.toNat
    let held := (s.hart h).reserved = some (a / 64) ∧ (s.hart h).resAddr = a
    ((held → spurious s h = true) → exec (.sc h rd c v aq rl) s = .next (troubleEdges s (wakeAll (retire h
      ((countEvent h 0x0D 1 { s with free := s.free + 1 }).onHart h fun x => (x.setX rd.val 1).afterSc false))))) ∧
    (held → spurious s h = false → readable s h c c.width.bytes → Memory.wf s.mesh.mem = true →
      ∃ u, stored s u a c.width.bytes v.toNat ∧ exec (.sc h rd c v aq rl) s = .next (troubleEdges s (wakeAll (retire h
        (u.onHart h fun x => (x.setX rd.val 0).afterSc true))))) ∧
    ((s.hart h).looping = true → 24 ≤ (s.hart h).scFails → spurious s h = false)) ∧
  (∀ (s : State) (h : HartId), exec (.lrDeferralTimeout h) s = .next (troubleEdges s
    (if (s.hart h).looping = true ∧ 24 ≤ (s.hart h).scFails then s
     else wakeAll (s.onHart h fun x => { x with deferring := false }))))

/-- FENCE, FENCE.TSO and FENCE.I of a running hart act by their shared operations, or stall the hart on a line that another defers;
with both buffers empty they only retire, FENCE.I emptying the L1I and what was fetched. A cache-block instruction that its enables
admit and nothing stops, on a DRAM line with both buffers empty: CBO.CLEAN and CBO.FLUSH leave every byte, of an idle line the
first leaves no dirty copy and the second no copy; CBO.INVAL, where no field turns it into a flush, brings back what DRAM holds of
an idle line and leaves no copy; CBO.ZERO zeroes the line's 64 bytes alone. On an I/O range the first three do nothing and CBO.ZERO
raises cause 7. An enable of 0 in menvcfg raises an illegal instruction, one of 0 in henvcfg alone, with V = 1, a virtual
instruction. A prefetch that reaches a quiet DRAM line moves lines alone, and one that PMP or a trigger would stop does nothing.
Each that completes counts event 0x0F. (R219, R220, R259-R264.) -/
def Obligations.FencesAndBlocks : Prop :=
  (∀ (s : State) (h : HartId) (p q : FenceSet), (s.hart h).runs = true →
    let held := fun (i : Instr) => s.onHart h fun x => { x with stall := .line i }
    let b := breakLoop h s
    exec (.fence h p q) s = .next (troubleEdges s (if waits s h (.fence h p q) then held (.fence h p q)
      else retire h (fence h p q b))) ∧
    exec (.fenceTso h) s = .next (troubleEdges s (if waits s h (.fenceTso h) then held (.fenceTso h)
      else retire h (fenceTso h b))) ∧
    exec (.fenceI h) s = .next (troubleEdges s (if waits s h (.fenceI h) then held (.fenceI h) else retire h (fenceI h b))) ∧
    (TablesInv s → unbuffered s h → exec (.fence h p q) s = .next (troubleEdges s (retire h b)) ∧
      exec (.fenceTso h) s = .next (troubleEdges s (retire h b)) ∧ exec (.fenceI h) s
        = .next (troubleEdges s (retire h (b.onHart h fun x => { x with l1i := [], prefetched := false }))))) ∧
  (∀ (s : State) (h : HartId) (c : Access), TablesInv s → unbuffered s h →
    let b := breakLoop h s
    let l := c.pa.toNat / 64
    let does := fun (op : Instr) (k : AccessKind) (fld : W64 → Bool) => proceeds s h op k 1 c ∧ envAllows (s.hart h) fld = 2
    let inRange := regionAt c.pa.toNat = .dram ∧ mayReach s (hartAgent s h c.fetchedInside) (64 * l) = true
    let device := regionAt c.pa.toNat = .regs ∨ regionAt c.pa.toNat = .sram ∨ regionAt c.pa.toNat = .outbound
    (does (.cboClean h c) .cbo (·.getLsbD 6) →
      (inRange → exec (.cboClean h c) s = .next (troubleEdges s (cboRetire h (cleanLine l b))) ∧
        ((s.lineAt l).txn = none → linesMoved b (cleanLine l b) ∧ ((cleanLine l b).lineAt l).dirty = false)) ∧
      (device → exec (.cboClean h c) s = .next (troubleEdges s (cboRetire h b)))) ∧
    (does (.cboFlush h c) .cbo (·.getLsbD 6) →
      (inRange → exec (.cboFlush h c) s = .next (troubleEdges s (cboRetire h (flushLine l b))) ∧
        ((s.lineAt l).txn = none → linesMoved b (flushLine l b) ∧ (flushLine l b).lineAt l = {})) ∧
      (device → exec (.cboFlush h c) s = .next (troubleEdges s (cboRetire h b)))) ∧
    (does (.cboInval h c) .cbo (fun w => decide (bits w 4 2 ≠ 0)) →
      (inRange → exec (.cboInval h c) s
        = .next (troubleEdges s (cboRetire h (if invalFlushes (s.hart h) then flushLine l b else dropLine l b))) ∧
        ((s.lineAt l).txn = none → (dropLine l b).lineAt l = {} ∧ (dropLine l b).mesh.mem = (match s.mesh.stale.find? (·.1 == l) with
          | some e => writeBytes s.mesh.mem (64 * l) (lineBytes e.2)
          | none => s.mesh.mem))) ∧
      (device → exec (.cboInval h c) s = .next (troubleEdges s (cboRetire h b)))) ∧
    (does (.cboZero h c) .store (·.getLsbD 7) →
      (inRange → quiet s h.val l → c.cache = {} → Memory.wf s.mesh.mem = true → ∃ u,
        exec (.cboZero h c) s = .next (troubleEdges s (cboRetire h u)) ∧ u = { s with harts := u.harts, mesh := u.mesh, out := u.out, free := u.free } ∧
        u.mesh.sram = s.mesh.sram ∧ (∀ i, (u.hart i).bare = (b.hart i).bare) ∧ (u.lineAt l).bad = false ∧
        ∀ a, bget u.mesh.mem a = if a / 64 = l then 0 else bget s.mesh.mem a) ∧
      (device → exec (.cboZero h c) s = .next (troubleEdges s (raise h 7 c.va b))))) ∧
  (∀ (s : State) (h : HartId) (c : Access) (i : Instr) (fld : W64 → Bool), TablesInv s → (s.hart h).runs = true →
    waits s h i = false → (s.hart h).priv ≠ .m →
    (i, fld) ∈ [(Instr.cboClean h c, fun w : W64 => w.getLsbD 6), (.cboFlush h c, fun w => w.getLsbD 6),
      (.cboInval h c, fun w => decide (bits w 4 2 ≠ 0)), (.cboZero h c, fun w => w.getLsbD 7)] →
    (fld (s.hart h).menvcfg = false → exec i s = .next (troubleEdges s (illegal h c.insn (breakLoop h s)))) ∧
    (fld (s.hart h).menvcfg = true → (s.hart h).v = true → fld (s.hart h).henvcfg = false →
      exec i s = .next (troubleEdges s (virtualInstr h (breakLoop h s))))) ∧
  (∀ (s : State) (h : HartId) (k : PrefetchKind) (c : Access), TablesInv s → (s.hart h).runs = true →
    let b := breakLoop h s
    let l := c.pa.toNat / 64
    exec (.prefetch h k c) s = .next (troubleEdges s (cboRetire h (prefetchLine h k c b))) ∧
    (c.walk = none → (accessStop (s.hart h) (prefetchKind k) 1 c).isSome = true → prefetchLine h k c b = b) ∧
    (c.walk = none → accessStop (s.hart h) (prefetchKind k) 1 c = none → regionAt c.pa.toNat = .dram → c.cache = {} →
      mayReach s (hartAgent s h c.fetchedInside) (64 * l) = true → quiet s h.val l → linesMoved b (prefetchLine h k c b)))

/-- PRED.FLUSH forgets every prediction and PRED.BAR stalls its hart while a branch is in flight; a word that the tables do not
allocate raises an illegal instruction with its bits. PAUSE stalls for 64 clocks with nothing pending, WFI with no enabled
interrupt pending; elsewhere both only retire; WFI under TW below M-mode is illegal and under VTW in a guest a virtual instruction.
A timer row makes its pending bit what its compare value says and may wake the hart. In M-mode writes of misa, mtvec, pmpcfg,
mhpmevent and the counters leave the value that Table 5.4 and 5.13 give; in M-mode or HS-mode so do stvec, vstvec, satp, vsatp,
hgatp, skulctl and hkulctl, and in VS-mode stvec and satp stand for vstvec and vsatp; a counter's own increment is overwritten. In
the modes that may not write they raise an illegal or a virtual instruction. A locked PMP entry stays. (R191-R213, R229-R241.) -/
def Obligations.HartHintsAndCsrs : Prop :=
  (∀ (s : State) (h : HartId) (w : W32), (s.hart h).runs = true →
    let b := breakLoop h s
    (vendorDecode w = some .predFlush → exec (.predFlush h w) s
      = .next (retire h (b.onHart h fun x => { x with pred := {}, prefetched := false }))) ∧
    (vendorDecode w = some .predBar → exec (.predBar h w) s
      = .next (retire h (b.onHart h fun x => if x.pred.inFlight = [] then x else { x with stall := .predBar }))) ∧
    (vendorDecode w = none → exec (.predFlush h w) s = .next (illegal h w b) ∧ exec (.predBar h w) s = .next (illegal h w b))) ∧
  vendorDecode 0x0000000B#32 = some .predFlush ∧ vendorDecode 0x0010000B#32 = some .predBar ∧
  vendorDecode 0x0020000B#32 = none ∧ vendorDecode 0x0000008B#32 = none ∧
  (∀ (s : State) (h : HartId), TablesInv s → (s.hart h).runs = true →
    let b := breakLoop h s
    let x := s.hart h
    (x.mip = 0 → exec (.pause h) s = .next (retire h (b.onHart h fun y => { y with stall := .pause 64 }))) ∧
    (x.mip ≠ 0 → exec (.pause h) s = .next (retire h b)) ∧
    ((x.tw = false ∨ x.priv = .m) → (x.v = false ∨ x.vtw = false) →
      (x.mip &&& x.mie = 0 → exec (.wfi h) s = .next (retire h (b.onHart h fun y => { y with stall := .wfi }))) ∧
      (x.mip &&& x.mie ≠ 0 → exec (.wfi h) s = .next (retire h b))) ∧
    (x.tw = true → x.priv ≠ .m → exec (.wfi h) s = .next (illegal h 0x10500073#32 b)) ∧
    (x.tw = false → x.v = true → x.vtw = true → exec (.wfi h) s = .next (virtualInstr h b))) ∧
  (∀ (s : State) (h : HartId) (k : TimerKind), exec (.timerInterrupt h k) s
    = .next (s.onHart h fun x => Hart.wake { x with mip := putBit x.mip k.bit (timerDue s h k) })) ∧
  (∀ (s : State) (h : HartId) (w : W32), (s.hart h).runs = false →
    ∀ i ∈ [Instr.predFlush h w, .predBar h w, .pause h, .wfi h], exec i s = .next s) ∧
  (∀ (s : State) (h : HartId) (v : W64) (n : W32), TablesInv s → (s.hart h).runs = true →
    let b := breakLoop h s
    let x := s.hart h
    let put := fun (f : Hart → Hart) => Host.Outcome.next (passOn h ((b.onHart h Hart.countRetired).onHart h f))
    (x.priv = .m → exec (.misaWrite h v n) s = put id ∧
      exec (.trapVectorWrite h .mtvec v n) s = put (fun y => { y with mtvec := tvecValue y.mtvec v }) ∧
      (∀ (e : Fin 16) (c : Byte), exec (.pmpcfgWrite h e c n) s = .next (retire h (b.onHart h fun y =>
        if (tget 0 y.pmpcfg e.val).getLsbD 7 then y else { y with pmpcfg := tset 0 y.pmpcfg e.val (pmpcfgValue c) }))) ∧
      (∀ k : Fin 8, exec (.mhpmeventWrite h k v n) s
        = put (fun y => { y with mhpmevent := tset 0 y.mhpmevent k.val (eventCode v) })) ∧
      (∀ c : CounterId, exec (.counterWrite h c v n) s = put (fun y => { y with counters := tset 0 y.counters (match c with | .cycle => 0 | .instret => 1 | .hpm k => k.val + 2) v }))) ∧
    (x.priv = .m ∨ (x.priv = .s ∧ x.v = false) →
      exec (.trapVectorWrite h .stvec v n) s = put (fun y => { y with stvec := tvecValue y.stvec v }) ∧
      exec (.trapVectorWrite h .vstvec v n) s = put (fun y => { y with vstvec := tvecValue y.vstvec v }) ∧
      (x.priv = .m ∨ x.tvm = false →
        exec (.satpWrite h .satp v n) s = put (fun y => { y with satp := atpValue .satp y.satp v })) ∧
      exec (.satpWrite h .vsatp v n) s = put (fun y => { y with vsatp := atpValue .vsatp y.vsatp v }) ∧
      exec (.satpWrite h .hgatp v n) s = put (fun y => { y with hgatp := atpValue .hgatp y.hgatp v }) ∧
      exec (.skulctlWrite h v n) s = put (fun y => { y with skulctl := v.getLsbD 0 }) ∧
      exec (.hkulctlWrite h v n) s = put (fun y => { y with hkulctl := v.getLsbD 0 })) ∧
    (x.priv = .s → x.v = true →
      exec (.trapVectorWrite h .stvec v n) s = put (fun y => { y with vstvec := tvecValue y.vstvec v }) ∧
      (x.vtvm = false → exec (.satpWrite h .satp v n) s = put (fun y => { y with vsatp := atpValue .vsatp y.vsatp v }))) ∧
    (x.priv ≠ .m → (∀ (e : Fin 16) (c : Byte) (k : Fin 8) (d : CounterId), ∀ i ∈ [Instr.misaWrite h v n,
      .trapVectorWrite h .mtvec v n, .pmpcfgWrite h e c n, .mhpmeventWrite h k v n, .counterWrite h d v n],
        exec i s = .next (illegal h n b))) ∧
    (x.priv = .u → x.v = false → ∀ i ∈ [Instr.trapVectorWrite h .stvec v n, .trapVectorWrite h .vstvec v n, .satpWrite h .satp v n,
      .satpWrite h .vsatp v n, .satpWrite h .hgatp v n, .skulctlWrite h v n, .hkulctlWrite h v n], exec i s = .next (illegal h n b)) ∧
    (x.priv ≠ .m → x.v = true → ∀ i ∈ [Instr.trapVectorWrite h .vstvec v n, .satpWrite h .vsatp v n, .satpWrite h .hgatp v n,
      .skulctlWrite h v n, .hkulctlWrite h v n], exec i s = .next (virtualInstr h b))) ∧
  (∀ v : Byte, bits v 3 2 = 2 → bits (pmpcfgValue v) 3 2 = 0) ∧ (∀ v : W64, 0x11 < v.toNat → eventCode v = 0)

/-- The five requests of an L2 go to the line's home slice: with no earlier request of the core waiting there, a request takes a
general tracker, or where 36 are in use the core's reserved one, or is refused with RETRY; at the requester's limit it is not sent,
and behind an earlier retried one it waits. A read or upgrade that may reach its idle line starts its transaction, with no error
met lines moving alone; a forbidden one is recorded and ends; one for a busy line waits in its tracker. On an idle line a dirty
writeback takes the copy away into the L3 and a clean eviction takes it away. A snoop that the transaction awaits is answered
unless the line is deferred, another changes nothing; data installs the requester's copy, and the ACK completes, making an
UPGRADE's copy M. A complete transaction's release frees its tracker; RETRY makes the refused request wait; CREDIT_GRANT resends
the oldest into the reserved tracker. (R304-R317.) -/
def Obligations.CoherenceRows : Prop :=
  (∀ (s : State) (core : HartId) (line : LineNo) (chk : HomeCheck),
    let go := fun (k : ReqKind) (c : HomeCheck) => Host.Outcome.next (troubleEdges s (request ⟨core.val, line.toNat, k, c, none⟩ s))
    exec (.rdShared core line chk) s = go .rdShared chk ∧ exec (.rdUnique core line chk) s = go .rdUnique chk ∧
    exec (.upgrade core line) s = go .upgrade {} ∧ exec (.wbDirty core line) s = go .wbDirty {} ∧
    exec (.evictClean core line) s = go .evictClean {}) ∧
  (∀ (s : State) (q : MeshRequest), q.kind ∈ [ReqKind.rdShared, .rdUnique, .upgrade, .evictClean, .devRead] →
    let i := homeOf q.line
    let x := s.slice i
    let take := fun (f : Slice → Slice) => beginOrQueue q (noteUse i (s.onSlice i f))
    (2 ^ 31 ≤ q.line ∨ requestLimit q.who ≤ outstanding q.who s → request q s = s) ∧
    (q.line < 2 ^ 31 → outstanding q.who s < requestLimit q.who →
      (x.waiting.any (·.who == q.who) = true → request q s = s.onSlice i fun y => { y with waiting := y.waiting ++ [q] }) ∧
      (x.waiting.any (·.who == q.who) = false →
        (x.general.length < 36 → request q s = take fun y => { y with general := y.general ++ [q] }) ∧
        (36 ≤ x.general.length → x.reserved.any (·.who == q.who) = false → x.held.contains q.who = false →
          request q s = take fun y => { y with reserved := y.reserved ++ [q] }) ∧
        (36 ≤ x.general.length → x.reserved.any (·.who == q.who) = true ∨ x.held.contains q.who = true → 
          let r := s.onSlice i fun y => { y with refused := y.refused ++ [q] }
          request q s = (if s.mesh.freeze then r else r.onSlice i fun y => { y with retries := y.retries + 1 }).emit (.retry q.who i)))) ∧
    (mustWait q s = true → beginOrQueue q s = s.onSlice i fun y => { y with queued := y.queued ++ [q] })) ∧
  (∀ (s : State) (core : HartId) (line : LineNo) (k : ReqKind) (i : Instr),
    (i, k) ∈ [(Instr.rdShared core line {}, ReqKind.rdShared), (.rdUnique core line {}, .rdUnique), (.upgrade core line, .upgrade)] →
    let l := line.toNat
    let q : MeshRequest := ⟨core.val, l, k, {}, none⟩
    let x := s.slice (homeOf l)
    let got := noteUse (homeOf l) (s.onSlice (homeOf l) fun y => { y with general := y.general ++ [q] })
    TablesInv s → l < 2 ^ 31 → outstanding core.val s < 32 → x.waiting.any (·.who == core.val) = false → x.general.length < 36 →
    (s.lineAt l).txn = none →
    (mayReach s (coreAgent s core.val) (64 * l) = true → ∃ t u, exec i s = .next (troubleEdges s t) ∧ linesMoved s t ∧
      (t.lineAt l).txn = some u ∧ u.core = core.val ∧ u.tracker = .general ∧ u.acked = false) ∧
    (mayReach s (coreAgent s core.val) (64 * l) = false → exec i s = .next (troubleEdges s
      ((rangeViolation got (coreAgent s core.val) (decide (k ≠ .rdShared)) (64 * l)).onLine l fun ls =>
        { ls with txn := some ⟨core.val, k, .general, [], false, true, true, .s⟩ })))) ∧
  (∀ (s : State) (core : HartId) (line : LineNo) (c : Copy), let l := line.toNat
    TablesInv s → l < 2 ^ 31 → outstanding core.val s < 32 → (s.slice (homeOf l)).waiting.any (·.who == core.val) = false →
    (s.slice (homeOf l)).general.length < 36 → (s.lineAt l).txn = none →
    (s.lineAt l).copies.find? (·.core == core.val) = some c →
    (c.st = .m ∨ c.st = .o → mayReach s (tagAgent (coreFn s core.val) c.keeper c.kenc core.val) (64 * l) = true →
      ∃ t, exec (.wbDirty core line) s = .next (troubleEdges s t) ∧ linesMoved s t ∧ (t.lineAt l).l3 = .dirty ∧
        (t.lineAt l).copies = (s.lineAt l).copies.filter (·.core ≠ core.val)) ∧
    (c.st = .e ∨ c.st = .s → ∃ t, exec (.evictClean core line) s = .next (troubleEdges s t) ∧ linesMoved s t ∧
      (t.lineAt l).l3 = (s.lineAt l).l3 ∧ (t.lineAt l).copies = (s.lineAt l).copies.filter (·.core ≠ core.val))) ∧
  (∀ (s : State) (core : HartId) (line : LineNo) (t : Txn) (i : Instr) (k : SnoopKind), (s.lineAt line.toNat).txn = some t →
    (i, k) ∈ [(Instr.snpShared core line, SnoopKind.shared), (.snpUnique core line, .unique), (.snpInv core line, .inv)] →
    (t.snoops.contains (core.val, k) = true → deferredBy s line.toNat t.core = false →
      exec i s = .next (answerSnoop core.val line.toNat k s) ∧ (TablesInv s → linesMoved s (answerSnoop core.val line.toNat k s))) ∧
    (t.snoops.contains (core.val, k) = false ∨ deferredBy s line.toNat t.core = true → exec i s = .next s)) ∧
  (∀ (s : State) (core : HartId) (line : LineNo) (t : Txn), (s.lineAt line.toNat).txn = some t → t.core = core.val → t.snoops = [] →
    let got := fun (u : State) => u.onLine line.toNat fun ls => { ls with txn := some { t with delivered := true } }
    let done := fun (u : State) => u.onLine line.toNat fun ls => { ls with txn := some { t with acked := true } }
    (t.delivered = false → t.dirtyData = false → exec (.data core line) s = .next (got (install core.val line.toNat t.into s))) ∧
    (t.delivered = false → t.dirtyData = true → exec (.dataDirty core line) s = .next (got (install core.val line.toNat t.into s))) ∧
    (t.delivered = true → exec (.ack core line) s
      = .next (done (if t.kind = .upgrade then install core.val line.toNat .m s else s)))) ∧
  (∀ (s : State) (i : SliceId) (line : LineNo) (t : Txn), (s.lineAt line.toNat).txn = some t → TablesInv s →
    (t.acked = false ∨ homeOf line.toNat ≠ i.val → exec (.trackerRelease i line) s = .next (troubleEdges s s)) ∧
    (t.acked = true → homeOf line.toNat = i.val → t.tracker = .general → (∀ q ∈ (s.slice i.val).queued, q.line ≠ line.toNat) →
      exec (.trackerRelease i line) s = .next (troubleEdges s ((s.onLine line.toNat fun ls => { ls with txn := none }).onSlice i.val
        fun y => { y with general := y.general.eraseP fun q => q.line == line.toNat && q.who == t.core })))) ∧
  (∀ (s : State) (who : MeshReq) (i : SliceId) (q : MeshRequest), (s.slice i.val).refused.find? (·.who == who.val) = some q →
    let t := s.onSlice i.val fun x => { x with refused := x.refused.erase q, waiting := x.waiting ++ [q] }
    exec (.retry who i) s = .next (match hartOf who.val with | some h => countEvent h 0x0C 1 t | none => t)) ∧
  (∀ (s : State) (who : MeshReq) (i : SliceId),
    ((s.slice i.val).held.contains who.val = false → exec (.creditGrant who i) s = .next (troubleEdges s s)) ∧
    (∀ q, (s.slice i.val).held.contains who.val = true → (s.slice i.val).waiting.find? (·.who == who.val) = some q →
      exec (.creditGrant who i) s = .next (troubleEdges s (sendBehind who.val (beginOrQueue q (s.onSlice i.val fun y =>
        { y with waiting := y.waiting.erase q, held := y.held.erase who.val, reserved := y.reserved ++ [q] }))))))

/-- A device's read and write are requests to the line's home slice. With a general tracker free and nothing before it, on an idle
line that nobody defers, a permitted read of a sound line delivers the line's bytes, lines moving alone, and a permitted write
changes exactly the enabled bytes of its line; a write behind an unserved one of the same device waits. The patrol scrub checks the
next line and counts a pass after the last; a corrected error is counted and a device's 64th of a pass marks it failing; an
uncorrectable line is poisoned and its address recorded. Zeroing clears the next line that nothing has written. PMC_FREEZE and
PMC_CLEAR of a hart with an empty store buffer change the PMC counters alone. (R276, R289, R312, R321-R327, R332, R333.) -/
def Obligations.MemoryRows : Prop :=
  (∀ (s : State) (who : MeshReq) (line : LineNo) (chk : HomeCheck) (d : Line) (m : BitVec 64),
    exec (.devRead who line chk) s = .next (troubleEdges s (request ⟨who.val, line.toNat, .devRead, chk, none⟩ s)) ∧
    exec (.devWrite who line d m) s = .next (troubleEdges s (request ⟨who.val, line.toNat, .devWrite d m, {}, none⟩ s)) ∧
    (line.toNat < 2 ^ 31 → outstanding who.val s < requestLimit who.val → writesBehind who.val s = true →
      exec (.devWrite who line d m) s = .next (troubleEdges s (s.onMesh fun x =>
        { x with behind := x.behind ++ [⟨who.val, line.toNat, .devWrite d m, {}, none⟩] })))) ∧
  (∀ (s : State) (who : MeshReq) (line : LineNo) (d : Line) (m : BitVec 64), let l := line.toNat
    TablesInv s → l < 2 ^ 31 → outstanding who.val s < requestLimit who.val → (s.slice (homeOf l)).general.length < 36 →
    (s.lineAt l).txn = none → deferredBy s l who.val = false → mayReach s (openAgent who.val) (64 * l) = true →
    ((s.slice (homeOf l)).waiting.any (·.who == who.val) = false → soundLine s l →
      ∃ u, linesMoved s u ∧ exec (.devRead who line {}) s = .next (troubleEdges s
        ((u.emit (.devData who.val l (lineValue s l))).onLine l fun ls =>
          { ls with txn := some ⟨who.val, .devRead, .general, [], false, true, true, .s⟩ }))) ∧
    (writesBehind who.val s = false → Memory.wf s.mesh.mem = true →
      ∃ u, exec (.devWrite who line d m) s = .next (troubleEdges s u) ∧
        u = { s with harts := u.harts, mesh := u.mesh, out := u.out, free := u.free } ∧ u.mesh.sram = s.mesh.sram ∧
        (∀ i, (u.hart i).bare = (s.hart i).bare) ∧
        ∀ a, bget u.mesh.mem a = if a / 64 = l ∧ m.getLsbD (a % 64) = true then (lineBytes d).getD (a % 64) 0
          else bget s.mesh.mem a)) ∧
  (∀ (s : State) (c : Fin 4), let n := tget 0 s.mesh.scrubNext c.val
    (n + 1 < 2 ^ 29 → exec (.patrolScrub c .sound) s
      = .next (troubleEdges s (s.onMesh fun m => { m with scrubNext := tset 0 m.scrubNext c.val (n + 1) }))) ∧
    (2 ^ 29 ≤ n + 1 → exec (.patrolScrub c .sound) s = .next (troubleEdges s (s.onMesh fun m =>
      { m with scrubNext := tset 0 m.scrubNext c.val 0, scrubPass := tmod 0 m.scrubPass c.val (· + 1),
               devErrors := m.devErrors.filter fun e => decide (e.1 / 40 ≠ c.val) })))) ∧
  (∀ (s : State) (c : Fin 4) (d : Fin 10) (sub rank : Bool), let n := tget 0 s.mesh.scrubNext c.val
    let l := n / 4 * 16 + 4 * c.val + n % 4
    let k := 40 * c.val + 20 * bit sub + 10 * bit rank + d.val
    n + 1 < 2 ^ 29 →
    (∃ u, exec (.patrolScrub c .uncorrectable) s = .next (troubleEdges s u) ∧ u.mesh.poison = addSorted l s.mesh.poison ∧
      u.mesh.errAddr = BitVec.ofNat 64 (64 * l) ∧ u.mesh.trouble = setBit s.mesh.trouble 3 ∧ u.mesh.mem = s.mesh.mem ∧
      u.mesh.ueCount = tmod 0 s.mesh.ueCount c.val satInc ∧ u = { s with mesh := u.mesh }) ∧
    (∃ u, exec (.patrolScrub c (.corrected d sub rank)) s = .next (troubleEdges s u) ∧ u = { s with mesh := u.mesh } ∧
      u.mesh.mem = s.mesh.mem ∧ u.mesh.poison = s.mesh.poison ∧ u.mesh.ceCount = tmod 0 s.mesh.ceCount c.val satInc ∧
      u.mesh.devErrors = tset 0 s.mesh.devErrors k (tget 0 s.mesh.devErrors k + 1) ∧
      (tget 0 s.mesh.devErrors k + 1 < 64 → u.mesh.trouble = setBit s.mesh.trouble 0 ∧ u.mesh.devFail = s.mesh.devFail) ∧
      (64 ≤ tget 0 s.mesh.devErrors k + 1 → u.mesh.trouble = setBit (setBit s.mesh.trouble 0) 1 ∧
        u.mesh.devFail = tset 0 s.mesh.devFail c.val (devFailWord d sub rank) ∧
        u.mesh.devFailing = setBit s.mesh.devFailing c.val))) ∧
  (∀ s : State,
    (s.mesh.zeroed = false → s.pwr.stage = .dram ∨ s.pwr.stage = .replayed ∨ s.pwr.stage = .service → exec .dramZeroing s
      = .next (s.onMesh fun m =>
        { m with mem := if m.written.contains m.zeroNext then m.mem else writeBytes m.mem (64 * m.zeroNext) (List.replicate 64 0),
                 zeroNext := m.zeroNext + 1, zeroed := decide (2 ^ 31 ≤ m.zeroNext + 1) })) ∧
    (s.mesh.zeroed = true → exec .dramZeroing s = .next s)) ∧
  (∀ (s : State) (h : HartId) (on : Bool), (s.hart h).inReset = false → nothingBefore s (.hart h) →
    exec (.pmcFreeze h on) s = .next (troubleEdges s (s.onMesh fun m => { m with freeze := on })) ∧
    exec (.pmcClear h) s = .next (troubleEdges s (s.onMesh fun m => { m with slices := m.slices.map fun e =>
      (e.1, { e.2 with l3Hit := 0, l3Miss := 0, snoops := 0, retries := 0, hwm := 0 }) })))

/-- A word of Table 8.2 with another imm or rd, or KEXIT with rs1 other than 0, raises an illegal instruction with its bits. From
S-, HS- or VS-mode KENTER enters a READY enclave and KRESUME restores a SUSPENDED one, or, its save area poisoned, makes it READY
and returns KS_POISONED; a running, suspended or not suspended enclave, an undeclared one, and a Keeper world that is down, return
their KS code in a0. In M-mode and U-mode both are illegal, in VU-mode virtual instructions. KEXIT inside an enclave leaves it
READY with the registers scrubbed but a0 and a1; outside it is illegal. An asynchronous exit whose interrupt pends for the caller
suspends the enclave and takes the interrupt; with none pending, or outside an enclave, it does nothing. (R349-R360, R393.) -/
def Obligations.EnclaveEntryAndExit : Prop :=
  (∀ (s : State) (h : HartId) (w : W32), (s.hart h).runs = true → vendorDecode w = none →
    exec (.kenter h w) s = .next (troubleEdges s (illegal h w (breakLoop h s))) ∧
    exec (.kresume h w) s = .next (troubleEdges s (illegal h w (breakLoop h s))) ∧
    exec (.kexit h w) s = .next (troubleEdges s (illegal h w (breakLoop h s)))) ∧
  vendorDecode 0x0005100B#32 = some .kenter ∧ vendorDecode 0x0010100B#32 = some .kexit ∧
  vendorDecode 0x0025900B#32 = some .kresume ∧ vendorDecode 0x0015100B#32 = none ∧ vendorDecode 0x0000108B#32 = none ∧
  vendorDecode 0x0030100B#32 = none ∧
  (∀ (s : State) (h : HartId) (w : W32), TablesInv s → (s.hart h).runs = true → (s.hart h).priv = .s →
    let u := breakLoop h s
    let e := ((s.hart h).getX (wRs1 w).toNat).toNat
    let status := fun n : Nat => Host.Outcome.next (troubleEdges s (keeperStatus h n u))
    (vendorDecode w = some .kenter →
      (s.kp.down = true → exec (.kenter h w) s = status 3) ∧
      (s.kp.down = false → (e = 0 ∨ 256 ≤ e ∨ (s.lt.enclave e).isNone = true) → exec (.kenter h w) s = status 1) ∧
      (s.kp.down = false → 0 < e → e < 256 → (s.lt.enclave e).isSome = true →
        ((s.encl e).st = .ready → exec (.kenter h w) s = .next (troubleEdges s (enterEnclave h e u))) ∧
        ((s.encl e).st = .free ∨ (s.encl e).st = .building → exec (.kenter h w) s = status 1) ∧
        ((s.encl e).st = .running → exec (.kenter h w) s = status 2) ∧
        ((s.encl e).st = .suspended → exec (.kenter h w) s = status 5))) ∧
    (vendorDecode w = some .kresume →
      (s.kp.down = true → exec (.kresume h w) s = status 3) ∧
      (s.kp.down = false → (e = 0 ∨ 256 ≤ e ∨ (s.lt.enclave e).isNone = true) → exec (.kresume h w) s = status 1) ∧
      (s.kp.down = false → 0 < e → e < 256 → (s.lt.enclave e).isSome = true →
        ((s.encl e).st = .suspended → (linesOf (s.encl e).save.toNat 576).any (poisoned s) = false →
          exec (.kresume h w) s = .next (troubleEdges s (restoreSaved h (s.encl e).save.toNat (enterEnclave h e u)))) ∧
        ((s.encl e).st = .suspended → (linesOf (s.encl e).save.toNat 576).any (poisoned s) = true →
          exec (.kresume h w) s
            = .next (troubleEdges s (keeperStatus h 8 ((poisonConsumed u).onEncl e fun x => { x with st := .ready })))) ∧
        ((s.encl e).st = .free ∨ (s.encl e).st = .building → exec (.kresume h w) s = status 1) ∧
        ((s.encl e).st = .running → exec (.kresume h w) s = status 2) ∧
        ((s.encl e).st = .ready → exec (.kresume h w) s = status 6)))) ∧
  (∀ (s : State) (h : HartId) (w : W32), TablesInv s → (s.hart h).runs = true → (s.hart h).priv ≠ .s →
    let stop := if (s.hart h).priv = .u ∧ (s.hart h).v = true then virtualInstr h (breakLoop h s) else illegal h w (breakLoop h s)
    (vendorDecode w = some .kenter → exec (.kenter h w) s = .next (troubleEdges s stop)) ∧
    (vendorDecode w = some .kresume → exec (.kresume h w) s = .next (troubleEdges s stop))) ∧
  (∀ (s : State) (h : HartId) (w : W32), TablesInv s → (s.hart h).runs = true → vendorDecode w = some .kexit →
    ((s.hart h).priv = .u → (s.hart h).kenc ≠ 0 → exec (.kexit h w) s = .next (troubleEdges s
      (leaveEnclave h .ready ((breakLoop h s).onHart h fun y => y.setX 10 (exitValue (y.getX 10)))))) ∧
    ((s.hart h).priv ≠ .u ∨ (s.hart h).kenc = 0 → exec (.kexit h w) s = .next (troubleEdges s (illegal h w (breakLoop h s))))) ∧
  (∀ (s : State) (h : HartId) (cause : W64), (s.hart h).kenc ≠ 0 → (s.hart h).inReset = false →
    exitPends (s.hart h) cause = true →
    exec (.asyncExit h cause) s = .next (troubleEdges s (takeInterrupt h cause (suspendEnclave h cause s)))) ∧
  (∀ (s : State) (h : HartId) (cause : W64), (s.hart h).kenc = 0 ∨ exitPends (s.hart h) cause = false →
    exec (.asyncExit h cause) s = .next s) ∧
  (∀ x : Hart, (∀ i, i ≠ 10 → i ≠ 11 → x.scrub.getX i = 0) ∧ x.scrub.getX 10 = x.getX 10 ∧ x.scrub.getX 11 = x.getX 11 ∧
    x.scrub.f = [] ∧ x.scrub.fcsr = 0) ∧
  (∀ a0 : W64, exitValue a0 = if 0xFFFFFFFFFFFFFF00#64 ≤ a0 then 0xFFFFFFFFFFFFFF07#64 else a0)

/-- In the Keeper world BUILD, SEAL and DESTROY move an enclave as its state allows, and DESTROY of a RUNNING one is ignored; a
range entry is stored, what its pages held then read through the enclave's key and what an old one's held as ciphertext, or refused; a hand-over request is queued; a kick with the right value restarts the watchdog. From the
Open world each is one violation. A block reset of a hand-over moves the block; gates read zero where barred and take effect
when the block is idle; hints gate and ungate. (R344-R349, R366-R376, R395, R885.) -/
def Obligations.KeeperRegisters : Prop :=
  (∀ (s : State) (h : HartId), (s.hart h).inReset = false → (s.hart h).keeper = true → (s.hart h).storeBuf = [] →
    (∀ e : Byte, (s.lt.enclave e.toNat).isSome = true → (s.encl e.toNat).st = .free → exec (.enclaveBuild h e) s
      = .next (troubleEdges s (makeKey e.toNat (s.onEncl e.toNat fun x =>
          { x with st := .building, owner := ((s.lt.enclave e.toNat).map (·.owner)).getD 0 })))) ∧
    (∀ e : Byte, (s.lt.enclave e.toNat).isSome = true → (s.encl e.toNat).st = .building →
      let sound := ownsBytes s e.toNat (s.encl e.toNat).entry.toNat 1 && ownsBytes s e.toNat (atpRoot (s.encl e.toNat).satp) 4096
        && ownsBytes s e.toNat (s.encl e.toNat).save.toNat 576
      (sound = true → exec (.enclaveSeal h e) s = .next (troubleEdges s (s.onEncl e.toNat fun x => { x with st := .ready }))) ∧
      (sound = false → exec (.enclaveSeal h e) s = .next (troubleEdges s (s.onKp fun k => { k with trouble := setBit k.trouble 1 })))) ∧
    (∀ e : Byte, (s.lt.enclave e.toNat).isSome = true →
      (s.encl e.toNat).st = .building ∨ (s.encl e.toNat).st = .ready ∨ (s.encl e.toNat).st = .suspended →
      exec (.enclaveDestroy h e) s = .next (troubleEdges s (destroyEnclave e.toNat s))) ∧
    (∀ (e : Byte), (s.encl e.toNat).st = .running → exec (.enclaveDestroy h e) s = .next s) ∧
    (∀ (i : Fin 1024) (b w : W64), let r : RangeEntry := ⟨b.toNat / 4096 * 4096, bits w 0 26, w.extractLsb' 32 8, w.getLsbD 63⟩
      let old := tget {} s.kp.ranges i.val
      let free := if old.valid then releaseRange old s else s
      let put := free.onKp fun k => { k with ranges := tset {} k.ranges i.val r }
      (s.encl r.encl.toNat).st = .building → (old.valid = true → (s.encl old.encl.toNat).st = .building) →
      (r.valid = true → rangeRefused s i.val r = false →
        exec (.kpRangeWrite h i b w) s = .next (troubleEdges s (acquireRange r put))) ∧
      (r.valid = true → rangeRefused s i.val r = true → exec (.kpRangeWrite h i b w) s
        = .next (troubleEdges s (s.onKp fun k => { k with trouble := setBit k.trouble 0 }))) ∧
      (r.valid = false → exec (.kpRangeWrite h i b w) s = .next (troubleEdges s put))) ∧
    (∀ v : W32, bits v 0 5 ∈ movableBlocks → s.kp.handover.any (·.1 == bits v 0 5) = false →
      s.kp.world.getLsbD (bits v 0 5) ≠ v.getLsbD 8 → exec (.handoverRequest h v) s
      = .next (troubleEdges s (s.onKp fun k => { k with handover := k.handover ++ [(bits v 0 5, v.getLsbD 8)] }))) ∧
    exec (.kpWdKick h 0x4B49434B#32) s
      = .next (troubleEdges s { s.onKp fun k => { k with preExpiry := false, wdCount := 0 } with clock := { s.clock with kicked := true } }) ∧
    (∀ v : W32, v ≠ 0x4B49434B#32 → exec (.kpWdKick h v) s = .next s)) ∧
  (∀ (s : State) (h : HartId) (i : Instr) (a : Nat), (s.hart h).inReset = false → (s.hart h).keeper = false →
    (s.hart h).storeBuf = [] →
    (∃ e, (i = .enclaveBuild h e ∨ i = .enclaveSeal h e ∨ i = .enclaveDestroy h e) ∧ a = 0x400028) ∨
      (∃ n b w, i = .kpRangeWrite h n b w ∧ a = 0x404000 + 16 * n.val) ∨ (∃ v, i = .handoverRequest h v ∧ a = 0x400020) ∨
      (∃ v, i = .kpWdKick h v ∧ a = 0x400010) ∨ (∃ v, i = .kpVlogPop h v ∧ a = 0x400048) →
    exec i s = .next (troubleEdges s (violate s (actingFn s (.hart h)) (s.hart h).kenc.toNat false true .worldAttr h.val
      (0x5000000000 + a)))) ∧
  (∀ (s : State) (b : Fin 16) (w : Bool), s.kp.handover.find? (·.1 == b.val) = some (b.val, w) →
    (b.val < 8 → runOn s b.val = none) → exec (.handoverBlockReset b) s = .next (troubleEdges s ((blockReset b.val s).onKp fun k =>
      { k with handover := k.handover.filter fun e => decide (e.1 ≠ b.val), world := putBit k.world b.val w,
               gate := clearBit k.gate b.val, gated := clearBit k.gated b.val, hoDone := true, hoBlock := BitVec.ofNat 5 b.val }))) ∧
  (∀ (s : State) (w : Requester) (v : W32), seesPf s w = true → nothingBefore s w → exec (.psGateWrite w v) s = .next (troubleEdges s (gateWrite w v s)) ∧
    ∀ b ∈ movableBlocks, (gateWrite w v s).kp.gate.getLsbD b = if gateBarred s b then s.kp.gate.getLsbD b else v.getLsbD b) ∧
  (∀ (s : State) (b : Fin 16), s.kp.gate.getLsbD b.val = true → s.kp.gated.getLsbD b.val = false →
    (b.val < 8 → runOn s b.val = none) → exec (.gateTakesEffect b) s
      = .next (troubleEdges s (noteWindows 0 (s.onKp fun k => { k with gated := setBit k.gated b.val })))) ∧
  (∀ (s : State) (w : Requester) (v : W32), seesPf s w = true → nothingBefore s w → ∃ g, g &&& ~~~(v.extractLsb' 0 22) = 0 ∧
    exec (.psIdleHintWrite w v) s
      = .next (troubleEdges s (s.onKp fun k => { k with hint := v.extractLsb' 0 22, selfGated := g }))) ∧
  (∀ (s : State) (u : Fin 22), exec (.idleHintUngate u) s = .next (s.onKp fun k => { k with selfGated := clearBit k.selfGated u.val }))

/-- Read from the Keeper world, KP_VLOG_CT, KP_VLOG_ADDR and KP_VLOG_INFO give the oldest entry's three words. A write of 1 to
KP_VLOG_POP removes that entry and no other; another value does nothing. (R382.) -/
def Obligations.ViolationLogRegisters : Prop :=
  ∀ (s : State) (h : HartId), (s.hart h).inReset = false → (s.hart h).keeper = true → (s.hart h).storeBuf = [] →
    (∀ (e : VlogEntry) (rest : List VlogEntry), s.kp.vlog = e :: rest →
      regRead (.hart h) 0x400030 .full s = (s, e.ct) ∧ regRead (.hart h) 0x400038 .full s = (s, e.addr) ∧
      regRead (.hart h) 0x400040 .full s = (s, e.info) ∧
      exec (.kpVlogPop h 1) s = .next (troubleEdges s (s.onKp fun k => { k with vlog := rest }))) ∧
    (∀ v : W32, v ≠ 1 → exec (.kpVlogPop h v) s = .next s)

/-- KDBG_CHAL draws a challenge for the level and key asked for; KDBG_STAT reports and takes the request. A response with no
challenge, while locked, or that does not verify counts as failed, the third locks; one that verifies grants its level, and
KEEPER level empties the enclaves' key slots and sets its trouble bit. Until an unlock DMI reads answer zero and writes are
ignored; afterwards they reach the debug module (log 64), whose data, program-buffer and system-bus data registers hold what is
written. (R385-R391.) -/
def Obligations.DebugUnlock : Prop :=
  (∀ s : State, s.pwr.supply = .on → ∃ t, exec .kdbgChal s = .next t ∧
    let key := if s.kp.reqLevel = 1 then s.kp.reqKey.toNat else 0
    t.kp = { s.kp with challenge := some (BitVec.ofNat 8 s.kp.reqLevel.toNat, BitVec.ofNat 8 key, Config.freeBits s.free 256) } ∧
    t = { s with kp := t.kp, port := { s.port with ir := 0x18 }, out := t.out, free := s.free + 1 }) ∧
  (∀ (s : State) (v : W32), s.pwr.supply = .on → exec (.kdbgStat v) s = .next (((s.onPort fun p => { p with ir := 0x1A }).emit
      (.tdo 32 (kdbgStat s.kp).toNat)).onKp fun k => { k with reqLevel := v.extractLsb' 0 2, reqKey := v.extractLsb' 8 2 })) ∧
  (∀ (s : State) (r : DebugResponse), s.pwr.supply = .on →
    let u := s.onPort fun p => { p with ir := 0x19 }
    let fail := u.onKp fun k =>
      { k with challenge := none, fails := if k.fails = 3 then 3 else k.fails + 1, dbgLocked := k.dbgLocked || decide (2 ≤ k.fails) }
    (s.kp.challenge = none → exec (.kdbgResp r) s = .next (troubleEdges s fail)) ∧
    (∀ c, s.kp.challenge = some c → exec (.kdbgResp r) s = .next (troubleEdges s
      (if s.kp.dbgLocked = true ∨ responseVerifies s r c = false then fail
       else if c.1 = 2 then grantKeeper (u.onKp fun k => { k with challenge := none })
       else u.onKp fun k => { k with challenge := none, granted := if k.granted = 2 then 2 else 1 })))) ∧
  (∀ s : State, (grantKeeper s).kp.granted = 2 ∧ (grantKeeper s).kp.trouble = setBit s.kp.trouble 3 ∧
    (grantKeeper s).cx.slots = s.cx.slots.filter fun p => decide (p.2.encl = 0)) ∧
  (∀ (s : State) (a : BitVec 7), s.pwr.supply = .on → s.kp.granted = 0 →
    exec (.dmiAccess (.read a)) s = .next ((s.onPort fun p => { p with ir := 0x11 }).emit (.tdo 32 0)) ∧
    (∀ v, exec (.dmiAccess (.write a v)) s = .next (s.onPort fun p => { p with ir := 0x11 }))) ∧
  (∀ (s : State) (a : BitVec 7) (v : W32), s.pwr.supply = .on → s.kp.granted ≠ 0 →
    let u := s.onPort fun p => { p with ir := 0x11 }
    exec (.dmiAccess (.read a)) s = .next (troubleEdges u (dmReadOn a.toNat u)) ∧
    exec (.dmiAccess (.write a v)) s = .next (troubleEdges u (dmWrite a.toNat v u)) ∧
    (a ∈ [0x04#7, 0x05#7, 0x20#7, 0x27#7, 0x3A#7, 0x3D#7] → dmWrite a.toNat v u = (u.onKp fun k => { k with dmi := tset 0 k.dmi a.toNat v }) ∧
      dmReadOn a.toNat u = u.emit (.tdo 32 (tget 0 s.kp.dmi a.toNat).toNat)))

/-- On a bound hart in S-mode with empty buffers DISP.NEXT and DISP.WAIT take the head of the highest list, as its check code leaves
it; with none NEXT returns 0 and WAIT stalls with RUNPRIO 16; ENQ, what waits for the domain's places having taken them, puts its
entry on the ready or delay list or returns BUSY or BADARG; YIELD swaps, and acts as NEXT with rs1 0 or RUNPRIO 16. On an unbound
hart, and in a mode that may not execute it, each raises the named exception; a word that Table 9.3 does not allocate is illegal.
In M-mode and HS-mode a write of hkuldisp sets its fields, RUNPRIO 16 and no claim. (R398-R421.) -/
def Obligations.DispatchInstructions : Prop :=
  (∀ (s : State) (h : HartId) (w : W32) (e : BitError), TablesInv s → (s.hart h).runs = true → (s.hart h).priv = .s →
    (s.hart h).bind.en = true → unbuffered s h →
    let u := breakLoop h s
    let v := readHead h e (unclaim h u)
    let rd := (wRd w).toNat
    let a := (s.hart h).getX (wRs1 w).toNat
    (∀ p : Nat, nextList v h = some p →
      (vendorDecode w = some .dispNext → exec (.dispNext h w e) s = .next (troubleEdges s (retire h (takeHead h rd p v)))) ∧
      (vendorDecode w = some .dispWait → exec (.dispWait h w e) s = .next (troubleEdges s (retire h (takeHead h rd p v))))) ∧
    (nextList v h = none →
      (vendorDecode w = some .dispNext → exec (.dispNext h w e) s = .next (troubleEdges s (retire h (takeNothing h rd v)))) ∧
      (vendorDecode w = some .dispWait → exec (.dispWait h w e) s = .next (troubleEdges s (retire h
        ((traceEvent (boundDomain s h) h.val 0x08 0 0
          (v.onHart h fun x => { x with bind := { x.bind with runprio := 16 }, stall := .dispWait rd })).onHart h Hart.wake))))) ∧
    (vendorDecode w = some .dispEnq →
      let p := dispEnq h a ((s.hart h).getX (wRs2 w).toNat) u
      exec (.dispEnq h w) s = .next (troubleEdges s (retire h (p.1.onHart h fun x => x.setX rd (BitVec.ofNat 64 p.2))))) ∧
    (vendorDecode w = some .dispYield →
      exec (.dispYield h w e) s = .next (troubleEdges s (retire h (dispYield h rd a e u))))) ∧
  (∀ (s : State) (h : HartId) (rd : Nat) (a : W64), a = 0 ∨ 16 ≤ (s.hart h).bind.runprio →
    dispYield h rd a .none s = dispNext h rd .none s) ∧
  (∀ (s : State) (h : HartId) (rd p : Nat) (a : W64), a ≠ 0 → (s.hart h).bind.runprio < 16 → nextList (unclaim h s) h = some p →
    (s.hart h).bind.runprio ≤ p → dispYield h rd a .none s
      = makeReady (boundDomain (unclaim h s) h) ⟨a, ctCycles (takeHead h rd p (unclaim h s)), (s.hart h).bind.runprio, 0xFF⟩ h.val 0x07
          (takeHead h rd p (unclaim h s))) ∧
  (∀ (s : State) (h : HartId) (p c : W64), p = 0 ∨ bits c 5 7 ≠ 0 → dispEnq h p c s = (s, 2)) ∧
  (∀ (s : State) (h : HartId) (p c : W64), p ≠ 0 → bits c 5 7 = 0 →
    let d := boundDomain s h
    let t := settleDomain d s
    let now := c.getLsbD 4 = false ∨ bits c 12 52 ≤ ctCycles t
    (now → readyFree t d = true → dispEnq h p c s = (makeReady d ⟨p, ctCycles t, bits c 0 4, 0xFF⟩ h.val 0x01 t, 0)) ∧
    (now → readyFree t d = false → dispEnq h p c s = (busyRefused d h.val p (bits c 0 4) t, 1)) ∧
    (¬ now → delayFree t d = true → dispEnq h p c s = (traceEvent d h.val 0x02 (bits c 0 4) p
      (t.onDom d fun x => { x with delay := insertDelay ⟨p, bits c 12 52, bits c 0 4, 0xFF⟩ x.delay }), 0)) ∧
    (¬ now → delayFree t d = false → dispEnq h p c s = (busyRefused d h.val p (bits c 0 4) t, 1))) ∧
  (∀ (s : State) (h : HartId) (w : W32) (e : BitError), TablesInv s → (s.hart h).runs = true →
    let x := s.hart h
    let u := breakLoop h s
    ∀ p ∈ [(VendorOp.dispNext, Instr.dispNext h w e), (.dispEnq, .dispEnq h w), (.dispWait, .dispWait h w e),
        (.dispYield, .dispYield h w e)],
      (vendorDecode w = none → exec p.2 s = .next (troubleEdges s (illegal h w u))) ∧
      (vendorDecode w = some p.1 → ¬ (x.priv = .s ∧ x.bind.en = true) →
        (x.v = true → x.priv ≠ .m → exec p.2 s = .next (troubleEdges s (virtualInstr h u))) ∧
        (x.v = false ∨ x.priv = .m → exec p.2 s = .next (troubleEdges s (illegal h w u))))) ∧
  vendorDecode 0x0000052B#32 = some .dispNext ∧ vendorDecode 0x02C5852B#32 = some .dispEnq ∧
  vendorDecode 0x0400052B#32 = some .dispWait ∧ vendorDecode 0x0605852B#32 = some .dispYield ∧
  vendorDecode 0x0005852B#32 = none ∧ vendorDecode 0x0800052B#32 = none ∧
  (∀ (s : State) (h : HartId) (v : W64) (n : W32), TablesInv s → (s.hart h).runs = true →
    (s.hart h).priv = .m ∨ (s.hart h).priv = .s ∧ (s.hart h).v = false →
    exec (.hkuldispWrite h v n) s = .next (passOn h (((breakLoop h s).onHart h Hart.countRetired).onHart h fun x => { x with bind :=
      { domain := v.extractLsb' 0 8, en := v.getLsbD 8, file := v.extractLsb' 9 3, runprio := 16, claimed := none } })))

/-- At a tick boundary the first entry to move is read as its check code leaves it, due entries move to their ready lists in order,
payload and priority kept and ENQ_CYC set to CT's integer part; a held wake moves when room comes, else is flagged. A device post,
what waits for the domain's places having taken them, enters its list or is held with its flags, behind an event of its source
without; a null payload does nothing; a held event enters when room comes. A waiting hart takes the new entry. A single-bit error is
corrected and flagged, an entry with an uncorrectable one leaves its list with its flags (log 84). The two halves of a trace read
take one record; clearing and restarting the trace act as said. (R402, R404-R410, R423-R439.) -/
def Obligations.DispatchUnit : Prop :=
  (∀ (s : State) (e : BitError), exec (.tickBoundary e) s = .next (troubleEdges s (tickBoundary e s))) ∧
  (∀ (s : State) (d : Nat) (e : TaskEntry), nextDue s = some d → dueHead s d = some e →
    tickBoundary .none s = flagHeldWakes (moveAllDue ((s.disp.doms.map fun e => e.2.delay.length).sum - 1)
      (makeReady d { e with cyc := ctCycles s } 31 0x03 (s.onDom d fun x => { x with delay := x.delay.tail })))) ∧
  (∀ (s : State) (d p : Nat) (f : State → State),
    entryError d p .single f s = s.onDisp (fun u => { u with trouble := setBit u.trouble 0 }) ∧
    (entryError d p .double f s).disp.trouble.getLsbD 1 = true) ∧
  (∀ (s : State) (d : FnId) (e : TaskEntry), dueHead s d.val = some e → readyFree s d.val = true →
    exec (.wakeHeldMove d .none) s = .next (troubleEdges s
      (makeReady d.val { e with cyc := ctCycles s } 31 0x03 (s.onDom d.val fun x => { x with delay := x.delay.tail })))) ∧
  (∀ (s : State) (d : FnId) (e : TaskEntry), dueHead s d.val = some e → readyFree s d.val = false →
    exec (.wakeHeldMove d .none) s = .next (troubleEdges s (s.onDom d.val fun x => { x with flags := setBit x.flags 2 }))) ∧
  (∀ (s : State) (d : FnId) (b : BitError), exec (.wakeHeldMove d b) s = .next (troubleEdges s (moveDue d.val (delayError d.val b s)))) ∧
  (∀ (s : State) (n : Fin 255) (d : FnId) (p : W64) (k : Fin 16), p ≠ 0 →
    let t := settleDomain d.val s
    let held := holdEvent n.val d.val p k.val t
    ((t.dom d.val).held.any (·.source == n.val) = true → exec (.devicePost n d p k) s = .next (troubleEdges s held)) ∧
    ((t.dom d.val).held.any (·.source == n.val) = false →
      (readyFree t d.val = true → exec (.devicePost n d p k) s
        = .next (troubleEdges s (makeReady d.val ⟨p, ctCycles t, k.val, BitVec.ofNat 8 n.val⟩ 31 0x01 t))) ∧
      (readyFree t d.val = false → exec (.devicePost n d p k) s
        = .next (troubleEdges s (busyRefused d.val 31 p k.val held))))) ∧
  (∀ (s : State) (n d : Nat) (p : W64) (k : Nat), holdEvent n d p k s
    = (s.onDom d fun x => { x with held := x.held ++ [⟨n, p, k⟩], flags := setBit x.flags 1 }).onDisp
        fun u => { u with trouble := setBit u.trouble 3 }) ∧
  (∀ (s : State) (n : Fin 255) (d : FnId) (k : Fin 16), exec (.devicePost n d 0 k) s = .next s) ∧
  (∀ (s : State) (d : FnId) (e : HeldEvent), readyFree s d.val = true → firstHeld (s.dom d.val).held = some e →
    exec (.heldEventPost d) s = .next (troubleEdges s (makeReady d.val ⟨e.payload, ctCycles s, e.prio, BitVec.ofNat 8 e.source⟩ 31 0x0A
      (s.onDom d.val fun x => { x with held := x.held.erase e })))) ∧
  (∀ (s : State) (d : Nat) (e : TaskEntry) (h : HartId), (allHarts.filter (eligible s d)).find? (fun h => (s.hart h).waiting.isSome) = some h →
    decideOn d e s = traceEvent d h.val 0x04 e.prio e.payload
      ((s.onDom d fun x => { x with ready := tset [] x.ready e.prio (x.list e.prio).dropLast }).onHart h fun x =>
        { (x.setX ((s.hart h).waiting.getD 0) e.payload) with stall := .none, bind := { x.bind with runprio := e.prio } })) ∧
  (∀ (s : State) (w : Requester) (d : Nat) (c : Bool), visible s w = true → nothingBefore s w → dsDomain s w = some d →
    let t := if c then s.onDisp fun u => { u with trouble := setBit u.trouble 0 } else s
    (∀ r : TraceRec, oldestUnread s d = some r → exec (.dsTraceRecLoRead w c) s = .next (troubleEdges s
      ((t.onDisp fun u => { u with latched := (w, r.ct, r.word) :: u.latched.filter (·.1 ≠ w) }).emit (.readData r.ct)))) ∧
    (∀ a b : W64, s.disp.latched.find? (·.1 == w) = some (w, a, b) → exec (.dsTraceRecHiRead w c) s = .next (troubleEdges s
      ((t.onDisp fun u => { u with latched := u.latched.filter (·.1 ≠ w), trace := markRead a b u.trace }).emit (.readData b)))) ∧
    exec (.traceClrOvf w) s = .next (troubleEdges s (s.onDom d fun x => { x with ovf := 0 }))) ∧
  (∀ (s : State) (w : Requester), seesPf s w = true → nothingBefore s w →
    exec (.traceRestart w) s = .next (troubleEdges s (s.onDisp fun u => { u with trace := [], written := 0, latched := [] })))

/-- A fault declared on an enabled channel sets its status and trouble bit, and trips the site where FAULT_TRIP is 1; a clock
measurement within 4.5 to 27.5 MHz leaves no range fault. A fast-path output qualifies against the thresholds and trips when
the count is reached. A sample's bits run through the chain when the channel runs. A short or an open on a TRIP output sets
its bit and never changes the output. (R692-R702, R716-R729.) -/
def Obligations.MeasurementRows : Prop :=
  (∀ (s : State) (c : SiteId), channelOn s c.val = true →
    let t := fun (b : Nat) (f : Channel → Channel) =>
      noteWindows 0 ((noteWindows 0 s).onChan c.val fun h => { f h with trouble := setBit h.trouble b })
    let u := fun (t : State) => troubleEdges s (if (t.chan c.val).faultTrip then channelTrips c.val 2 t else t)
    ((s.chan c.val).noclk = false → exec (.noclkDeclared c) s = .next (u (t 0 fun h => { h with noclk := true }))) ∧
    ((s.chan c.val).noclk = false → (s.chan c.val).stuck = false →
      exec (.stuckDeclared c) s = .next (u (t 2 fun h => { h with stuck := true }))) ∧
    (∀ f : BitVec 16, (s.chan c.val).noclk = false → 450 ≤ f.toNat → f.toNat ≤ 2750 → exec (.clkRangeMeasurement c f) s
      = .next (troubleEdges s (((noteWindows 0 s).onChan c.val fun h => { h with fmod := f }).onChan c.val fun h =>
          { h with clkRange := false }))) ∧
    (∀ bs : BitVec 16, (s.chan c.val).noclk = false →
      let v := s.onChan c.val fun h =>
        let l := (((List.range 16).map fun i => bs.getLsbD (15 - i)) ++ h.fastBits).take 46
        ({ h with fastBits := l, fast := fastValue l }).qualify
      ((v.chan c.val).armed = false → exec (.fastPathOutput c bs) s = .next (troubleEdges s v)) ∧
      ((v.chan c.val).armed = true → 0 < (v.chan c.val).qual → s.lt.chanQual c.val ≤ (v.chan c.val).qual →
        exec (.fastPathOutput c bs) s = .next (troubleEdges s (channelTrips c.val 1 v))))) ∧
  (∀ (s : State) (c : SiteId), (s.chan c.val).noclk = true →
    exec (.noclkCleared c) s = .next (troubleEdges s ((noteWindows 0 s).onChan c.val fun h => { h with noclk := false }))) ∧
  (∀ (s : State) (c : SiteId), (s.chan c.val).stuck = true →
    exec (.stuckCleared c) s = .next (troubleEdges s ((noteWindows 0 s).onChan c.val fun h => { h with stuck := false }))) ∧
  (∀ (s : State) (c : SiteId) (bs : List Bool), chainRuns s c.val = true → exec (.sampleOutput c bs) s
    = .next (troubleEdges s (pushBits c.val (s.lt.chanM c.val) (s.lt.chanH c.val) (s.lt.chanF c.val)
        (cicTaps (s.lt.chanM c.val) 5) (s.lt.chanTaps c.val) bs s))) ∧
  (∀ (s : State) (c : SiteId) (bs : List Bool), chainRuns s c.val = false → exec (.sampleOutput c bs) s = .next s) ∧
  (∀ (s : State) (n : SiteId) (high : Bool), (s.site n.val).asserted = true → exec (.tripShortDetect n high) s
    = .next (troubleEdges s ((s.onChan n.val fun h => { h with trouble := setBit h.trouble 6 }).onSite n.val fun t =>
        { t with landHigh := high }))) ∧
  (∀ (s : State) (n : SiteId) (d : TripLand), (s.site n.val).asserted = d.asserted → d.asserted = true ∨ d.high = false →
    exec (.tripOpenDetect n d) s = .next (troubleEdges s ((s.onChan n.val fun h => { h with trouble := setBit h.trouble 5 }).onSite n.val
      fun t => { t with landHigh := d.high }))) ∧
  (∀ (s : State) (w : Requester) (c : SiteId) (k : Fin 16), seesPf s w = true → nothingBefore s w →
    channelReach s w c.val = none → exec (.sdHistRead w c k) s = .next (troubleEdges s ((setLatch w (0x10000 + 0x400 * c.val + 0x100 + 16 * k.val + 1)
      (histStamp (s.chan c.val) k.val) s).emit (.readData (histWord (s.chan c.val) k.val)))))

/-- A TRIP asserted again keeps its first record; one asserted anew records its cause, channel and CT. The clip stays within 24
bits and is the identity inside. An open window adds an included sample to its sum and count, without overflow within 56
bits, and takes no other sample. The qualification count rises outside the thresholds and falls to 0 inside; a fast value
stays within 24 bits. (R698, R703, R709-R712, R717, R722.) -/
def Obligations.TripsAndSamples : Prop :=
  (∀ (s : State) (n cause ch : Nat), (s.site n).asserted = true → assertTrip n cause ch s = s) ∧
  (∀ (s : State) (n cause ch : Nat), (s.site n).asserted = false → (s.site n).waits = [] → rises s.sd.sites = true →
    (assertTrip n cause ch s).site n
      = { asserted := true, cause := cause, channel := ch, ct := s.ct.now, landHigh := (s.site n).landHigh, waits := [] } ∧
    (assertTrip n cause ch s).rings = s.rings ∧ (assertTrip n cause ch s).ln = s.ln) ∧
  (∀ v : Int, -8388608 ≤ clip24 v ∧ clip24 v ≤ 8388607 ∧ (-8388608 ≤ v → v ≤ 8388607 → clip24 v = v)) ∧
  (∀ (w : Window) (v : Int) (b : Bool) (ct : W64), w.closed = false → w.openCt ≤ ct → ct < w.closeCt → w.flags.getLsbD 1 = false →
    -(2 ^ 55 - 1) ≤ w.sum + v → w.sum + v ≤ 2 ^ 55 - 1 →
    (w.add v b ct).sum = w.sum + v ∧ (w.add v b ct).count = w.count + 1 ∧ (w.add v b ct).lastCt = ct ∧
      (w.add v b ct).flags.getLsbD 1 = false ∧ (w.add v b ct).flags.getLsbD 7 = (b || w.flags.getLsbD 7)) ∧
  (∀ (w : Window) (v : Int) (b : Bool) (ct : W64), w.closed = true ∨ ct < w.openCt ∨ w.closeCt ≤ ct → w.add v b ct = w) ∧
  (∀ (h : Channel), h.armed = true → h.qual < 31 →
    h.qualify.qual = if h.hi < h.fast ∨ h.fast < h.lo then h.qual + 1 else 0) ∧
  (∀ bs : List Bool, -8388608 ≤ fastValue (bs.take 46) ∧ fastValue (bs.take 46) ≤ 8388607)

/-- Each command that starts without waiting and passes its checks has its effect: a window opens, the channel is armed or
disarmed with the thresholds given, the TRIP is released, asserted or waited for. One that fails its check ends with that
status. A release while the condition persists ends with 0x345 and changes nothing. Before the first lock no window closes.
(R703-R725, R736, R737.) -/
def Obligations.MeasurementCommands : Prop :=
  (∀ (s : State) (c : CmdRef) (k : Cmd) (op : Nat), Starts c (isOpcode 3 op) k s → measWaits s c.ring k = false →
    measCheck s (s.lt.ident c.ring) k.first = none →
    let u := startCmd c.ring k 7 (sTarget k.first) s
    (op = 0x40 → exec (.measWindow c) s = .next (troubleEdges s (startWindow c.ring k (decide (k.attempt ≠ 0)) u))) ∧
    (op = 0x41 → exec (.tripArm c) s = .next (troubleEdges s (ended c k (armTrip k.first u, statusOf 0)))) ∧
    (op = 0x42 → exec (.tripRelease c) s = .next (troubleEdges s (ended c k (releaseTrip (sTarget k.first) u)))) ∧
    (op = 0x43 → exec (.tripAssert c) s = .next (troubleEdges s (ended c k (assertTrip (sTarget k.first) 3 0xFF u, statusOf 0)))) ∧
    (op = 0x44 → exec (.tripWait c) s = .next (troubleEdges s (startWait c.ring k u)))) ∧
  (∀ (s : State) (c : CmdRef) (k : Cmd) (x : Result), Starts c (isOpcode 3 0x40) k s → measWaits s c.ring k = false →
    measCheck s (s.lt.ident c.ring) k.first = some (x, none) →
    exec (.measWindow c) s = .next (troubleEdges s (ended c k (startCmd c.ring k 7 (sTarget k.first) s, x)))) ∧
  (∀ (s : State) (d : Line), sDisarm d = false → armTrip d s = s.onChan (sTarget d) fun h =>
    { h with hi := sHi d, lo := sLo d, faultTrip := sFaultTrip d, armed := true, qual := 0 }) ∧
  (∀ (s : State) (d : Line), sDisarm d = true → armTrip d s = s.onChan (sTarget d) fun h => { h with armed := false }) ∧
  (∀ (s : State) (n : Nat), (s.site n).asserted = true → tripPersists s n = true → releaseTrip n s = (s, statusOf 0x345)) ∧
  (∀ (s : State) (c : SiteId), exec (.windowClose c) s = .next (troubleEdges s (closeWindows c.val s))) ∧
  (∀ (s : State) (c : Nat), s.ct.running = false → closeWindows c s = (noteWindows 0 s).onChan c fun h => h)

/-- For a site lane and for a port of the buoy chain: a termination found starts alignment, a swap is noted, block lock starts
HELLO exchange, a HELLO timer sends one, loss of block lock leaves UP, a bad frame counts and answers NAK, VOID and ACK
frames act as received, a time-out sends again, and the limit enters DOWN. (R743-R761, R821, R903.) -/
def Obligations.LineRows : Prop :=
  (∀ (s : State) (n : SiteId), (s.lane n.val).st = .detect →
    exec (.laneDetectProbe (.site n) .termination) s = .next (s.onLane n.val fun l => { l.setPhase .align with swapped := false }) ∧
    exec (.laneSwapDetect (.site n)) s
      = .next (troubleEdges s (laneTrouble n.val 3 (s.onLane n.val fun l => { l with swapped := true }))) ∧
    exec (.laneDownTimeout (.site n)) s = .next (troubleEdges s (enterDown n.val s))) ∧
  (∀ (s : State) (n : SiteId) (inv cr : Bool), (s.lane n.val).st = .align →
    exec (.laneBlockLock (.site n) inv cr) s = .next (troubleEdges s (let t := s.onLane n.val fun l =>
      { l.setPhase .hello with blockLock := true, rxInverted := inv }
      if inv then laneTrouble n.val 4 t else t))) ∧
  (∀ (s : State) (n : SiteId), (s.lane n.val).st = .hello →
    exec (.laneHelloTimer (.site n)) s = .next (sendFrame n.val 0 0 0x12 0 (helloPayload (s.lane n.val)) s)) ∧
  (∀ (s : State) (n : SiteId), (s.lane n.val).st = .up →
    exec (.laneBlockLockLoss (.site n)) s = .next (troubleEdges s (laneTrouble n.val 1
      ((s.onLane n.val fun l => { l with blockLock := false }).onLane n.val fun l => { l with st := .align, rxCurrent := false }))) ∧
    (∀ bs, exec (.badFrameReceived (.site n) bs true) s = .next (troubleEdges s (sendAck n.val true
      (laneTrouble n.val 2 (s.onLane n.val fun l => { l with crcErrors := satInc l.crcErrors }))))) ∧
    (∀ bs f, parseFrame bs = .good f → f.type = 0x01 →
      exec (.voidFrameReceived (.site n) bs) s = .next (troubleEdges s (receiveSequenced n.val f s))) ∧
    (∀ bs f, parseFrame bs = .good f → f.type = 0x10 →
      exec (.ackFrameReceived (.site n) bs) s = .next (troubleEdges s (receiveAck n.val f s))) ∧
    ((s.lane n.val).unacked = true → s.lt.retryLimit ≤ (s.lane n.val).timeouts + 1 →
      exec (.laneAckTimeout (.site n)) s = .next (troubleEdges s (enterDown n.val s))) ∧
    (∀ q, (s.lane n.val).starting = some q → (s.lane n.val).timeouts + 1 < s.lt.retryLimit →
      exec (.laneAckTimeout (.site n)) s = .next (troubleEdges s (sendFrame n.val (s.lane n.val).txEpoch q.toNat 0x11 0 []
        (s.onLane n.val fun l => { l with timeouts := l.timeouts + 1 }))))) ∧
  (∀ (s : State) (p : Port), (s.bc p).st = .detect →
    exec (.laneDetectProbe (.chain p) .termination) s = .next (s.onBc p fun c => { c.setPhase .align with swapped := false }) ∧
    exec (.laneSwapDetect (.chain p)) s = .next (troubleEdges s (bcSet 1 (s.onBc p fun c => { c with swapped := true }))) ∧
    exec (.laneDownTimeout (.chain p)) s = .next (troubleEdges s (chainDown p s))) ∧
  (∀ (s : State) (p : Port) (inv cr : Bool), (s.bc p).st = .align →
    exec (.laneBlockLock (.chain p) inv cr) s = .next (troubleEdges s
      (let t := s.onBc p fun c => { c.setPhase .hello with inverted := inv, crossed := cr }
       if inv then bcSet 2 t else t))) ∧
  (∀ (s : State) (p : Port), (s.bc p).st = .hello → exec (.laneHelloTimer (.chain p)) s
    = .next (s.emit (.chainFrame p.num (frameBlocks (frameBytes 0 0 0x12 0 (chainHelloPayload s p)))))) ∧
  (∀ (s : State) (p : Port), (s.bc p).st = .up →
    exec (.laneBlockLockLoss (.chain p)) s = .next (troubleEdges s (chainLost p (s.onBc p fun c => { c with st := .align }))) ∧
    exec (.bcPortLeavesUp p) s = .next (troubleEdges s (chainLost p (s.onBc p fun c => { c with st := .align }))) ∧
    (∀ bs, exec (.badFrameReceived (.chain p) bs true) s = .next (troubleEdges s (chainAck p true (bcSet 4 s)))) ∧
    (∀ bs f, parseChain bs = .good f → f.type = 0x01 → f.epoch = 1 → seqDist (s.bc p).rxSeq f.seq = 1 →
      exec (.voidFrameReceived (.chain p) bs) s = .next (troubleEdges s (chainAck p false (s.onBc p fun c => { c with rxSeq := f.seq })))) ∧
    (∀ bs, exec (.ackFrameReceived (.chain p) bs) s = .next (troubleEdges s (chainAckReceived p bs s))) ∧
    ((s.bc p).outs.any (·.sent) = true → 16 ≤ (s.bc p).timeouts + 1 →
      exec (.laneAckTimeout (.chain p)) s = .next (troubleEdges s (chainDown p s))))

/-- A partner's HELLO received in HELLO, with a role and a bank to commit to, brings the lane UP. The next frame in sequence of
the current epoch enters the inbound store and is acknowledged. A new epoch's start is taken and acknowledged. LANE_SEND that
passes its checks stores its frame, or its decided refusal, and transmits; LANE_RECV binds. (R754, R763-R784, R904.) -/
def Obligations.LaneFramesAndCommands : Prop :=
  (∀ (s : State) (n : SiteId) (bs : List Block) (f : Frame), (s.lane n.val).st = .hello → parseFrame bs = .good f → f.type = 0x12 →
    f.payload.getD 0 0 ≠ 0 → canCommit s = true →
    exec (.laneHelloReceived n bs) s = .next (troubleEdges s (helloUp n.val f.payload s))) ∧
  (∀ (s : State) (n : SiteId) (bs : List Block) (f : Frame), (s.lane n.val).st = .up → parseFrame bs = .good f → 0x40 ≤ f.type →
    exec (.dataFrameReceived n bs) s = .next (troubleEdges s (receiveSequenced n.val f s))) ∧
  (∀ (s : State) (n : Nat) (f : Frame), (s.lane n).rxCurrent = true → f.epoch = (s.lane n).rxEpoch → f.type ≠ 0x01 →
    seqDist (s.lane n).rxSeq f.seq = 1 → (s.lane n).ins.length < 32 → (s.lane n).recvs = [] → (s.lane n).postEn = false →
    rises s.ln.tab = true →
    receiveSequenced n f s = sendAck n false (s.onLane n fun l =>
      { l with rxSeq := f.seq, ins := l.ins ++ [⟨f.epoch, f.seq, f.type, f.flags, f.payload, s.ct.now, none⟩] })) ∧
  (∀ (s : State) (n : SiteId) (bs : List Block) (f : Frame), (s.lane n.val).st = .up → parseFrame bs = .good f → f.type = 0x11 →
    f.epoch ≠ 0 → f.epoch ≠ (s.lane n.val).rxEpoch → exec (.epochStartReceived n bs) s = .next (troubleEdges s (sendAck n.val false
      (s.onLane n.val fun l => { l with rxCurrent := true, rxEpoch := f.epoch, rxSeq := f.seq - 1 })))) ∧
  (∀ (s t : State) (c : CmdRef) (k : Cmd) (data : List Byte), Starts c (isOpcode 3 1) k s → Starts c (isOpcode 3 1) k t →
    let n := sTarget k.first
    let i := s.lt.ident c.ring
    laneCheck s i k.first = none → ownEntry s n c.ring k.seq = none → (s.lane n).out = false → (s.lane n).outs.length < 32 →
    (s.lane n).txUsed < 2 ^ 32 →
    (∀ st, sendDecision s k.first = some st → exec (.laneSend c) s
      = .next (troubleEdges s (transmit n (startCmd c.ring k 4 n (makeEntry c.ring k.seq k.first (some st) [] s))))) ∧
    (sendDecision s k.first = none → ringRead i (nAddr k.first) (nLen k.first) s = (t, data, false) → exec (.laneSend c) s
      = .next (troubleEdges s (transmit n (startCmd c.ring k 4 n (makeEntry c.ring k.seq k.first none data t)))))) ∧
  (∀ (s : State) (c : CmdRef) (k : Cmd), Starts c (isOpcode 3 2) k s → laneCheck s (s.lt.ident c.ring) k.first = none →
    exec (.laneRecv c) s = .next (troubleEdges s (laneRecv c.ring k (startCmd c.ring k 4 (sTarget k.first) s))))

/-- On a lane that is UP, a DATA or VOID frame of the current epoch that lies beyond the next expected sequence is discarded and
one ACK frame with NAK 1 and the present credit goes out; one of another epoch, or with no current epoch, changes nothing and
sends nothing. (R756.) -/
def Obligations.FramesOutOfOrder : Prop :=
  ∀ (s : State) (n : SiteId) (bs : List Block) (f : Frame) (i : Instr), (s.lane n.val).st = .up → parseFrame bs = .good f →
    (i = .dataFrameReceived n bs ∧ 0x40 ≤ f.type) ∨ (i = .voidFrameReceived (.site n) bs ∧ f.type = 0x01) →
    ((s.lane n.val).rxCurrent = true → f.epoch = (s.lane n.val).rxEpoch → 1 < seqDist (s.lane n.val).rxSeq f.seq →
      seqDist (s.lane n.val).rxSeq f.seq < 2 ^ 31 → exec i s = .next (sendFrame n.val (s.lane n.val).rxEpoch (s.lane n.val).rxSeq.toNat
        0x10 0 (bytesBE 1 (s.lane n.val).room ++ [1, 0, 0, 0, 0, 0, 0]) s)) ∧
    (((s.lane n.val).rxCurrent = true → f.epoch ≠ (s.lane n.val).rxEpoch) → exec i s = .next s)

/-- Each command that starts with its fields in order ends with its operation's state and result. Activation of a STAGED slot
that passes its check makes it TRIAL with no attempts counted. The first block programs its bytes and is noted. Confirmation
in the window makes the slot CONFIRMED, raises the fuse count and the floor, and closes the window; cut short, the fuses
blown stay. Another value, or no window, does nothing. Expiry makes the slot INVALID and sets REVERTED's bit. (R805-R819,
R827.) -/
def Obligations.UpdateCommands : Prop :=
  (∀ (s : State) (c : CmdRef) (k : Cmd) (op : Nat), Starts c (isOpcode 1 op) k s → updFieldsOk k.first = true →
    let u := startCmd c.ring k 5 0 s
    let i := s.lt.ident c.ring
    let n := (pIn k.first).2
    (∀ worn, op = 0x30 → totalOk (decide (pArg k.first = 1)) (pTotal k.first) = true → exec (.updOpen c worn) s
      = .next (troubleEdges s (ended c k (openTransfer (decide (pArg k.first = 1)) (pTotal k.first) .host 0 [] worn u)))) ∧
    (∀ worn v bs, op = 0x31 → 0 < n → n ≤ 65536 → ringRead i (pIn k.first).1 n u = (v, bs, false) → exec (.updBlock c worn) s
      = .next (troubleEdges s (ended c k (programBlock (pTotal k.first) bs (some (c.ring.val, k.seq)) worn v)))) ∧
    (∀ worn v bs, op = 0x32 → n = 48 → pArg k.first = 0 → ringRead i (pIn k.first).1 48 u = (v, bs, false) → exec (.updClose c worn) s
      = .next (troubleEdges s (ended c k (closeTransfer (pTotal k.first) bs worn v)))) ∧
    (op = 0x33 → exec (.updActivate c) s = .next (troubleEdges s (ended c k (activate (if pSlot k.first = 0 then .a else .b) u)))) ∧
    (op = 0x35 → let es := s.up.reports.take 63
      exec (.chainReport c) s = .next (troubleEdges s (ended c k
        (output i (pOut k.first).1 (pOut k.first).2 (bytesLE 1 es.length ++ List.replicate 7 0 ++ es.flatMap reportLE) u))))) ∧
  (∀ (s : State) (k : Slot), (s.up.slot k).st = .staged → bootedTrial s = false → s.up.daymark = false →
    activate k s = match slotCheck s k with
      | some e => (s, e)
      | none => (s.onUp fun u => u.onSlot k fun r => { r with st := .trial, attempts := 0 }, statusOf 0)) ∧
  (∀ (s : State) (k : Slot), (s.up.slot k).st ≠ .staged ∨ bootedTrial s = true → activate k s = (s, statusOf 0x100)) ∧
  (∀ (s : State) (x : Transfer) (off : Nat) (bs : List Byte) (b : Option (Nat × Nat)), s.up.xfer = some x → off % 256 = 0 →
    off + bs.length ≤ x.total → x.blocks = [] →
    programBlock off bs b false s = ((norProgram (regionBase x.target x.lightTable + off) bs s).onUp fun u =>
      { u with xfer := some { x with blocks := [(off, bs.length, b)] } }, statusOf 0)) ∧
  (∀ (s : State) (w : Requester), seesPf s w = true → nothingBefore s w → s.up.health.isSome = true →
    exec (.upConfirm w 0x434F4E46#32 none) s = .next (troubleEdges s (s.onUp fun u =>
      { (u.onSlot (booted s) fun r => { r with st := .confirmed, attempts := 0 }) with
        fuses := max u.fuses (s.up.slot (booted s)).secVer, floor := max u.floor (s.up.slot (booted s)).ltVer,
        preferredB := decide (booted s = .b), health := none, trial := false })) ∧
    (∀ n, exec (.upConfirm w 0x434F4E46#32 (some n)) s = .next (troubleEdges s (s.onUp fun u =>
      { u with fuses := max u.fuses (min (u.fuses + n) (s.up.slot (booted s)).secVer), blowing := true })))) ∧
  (∀ (s : State) (w : Requester) (v : W32) (n : Option Nat), nothingBefore s w → v ≠ 0x434F4E46#32 ∨ s.up.health = none → exec (.upConfirm w v n) s = .next s) ∧
  (∀ s : State, s.up.health.isSome = true → exec .healthWindowExpiry s = .next (troubleEdges s (s.onUp fun u =>
    { (u.onSlot (booted s) fun r => { r with st := .invalid }) with
      trouble := setBit u.trouble 1, revertPending := true, health := none, trial := false })))

/-- UPD_ABORT that starts with its fields in order, while a transfer is open, ends the transfer, makes its target slot EMPTY and
completes with OK; without an open transfer it changes nothing and completes with NOT_OPEN (0x111). (R818.) -/
def Obligations.UpdateAbort : Prop :=
  ∀ (s : State) (c : CmdRef) (k : Cmd), Starts c (isOpcode 1 0x34) k s → updFieldsOk k.first = true →
    let u := startCmd c.ring k 5 0 s
    (∀ x : Transfer, s.up.xfer = some x → exec (.updAbort c) s = .next (troubleEdges s (ended c k
      (u.onUp fun p => { (p.onSlot x.target fun r => { r with st := .empty }) with xfer := none }, statusOf 0)))) ∧
    (s.up.xfer = none → exec (.updAbort c) s = .next (troubleEdges s (ended c k (u, statusOf 0x111))))

/-- A chain HELLO from the same end is refused, from the other brings the port UP. The next OFFER, ANSWER, BLOCK_HDR, BLOCK_DATA,
RESULT or REPORT in sequence is acknowledged and acts. A re-offer goes out until its limits and then the forwarding is given
up. An OFFER with chaining off is answered 0x11D. In Daymark mode each command acts and leaves its status and result; a UART
request acts once and a repeated one repeats its answer. (R820-R834.) -/
def Obligations.ChainAndDaymark : Prop :=
  (∀ (s : State) (p : Port) (bs : List Block) (f : Frame), (s.bc p).st = .hello → parseChain bs = .good f → f.type = 0x12 →
    ((f.payload.getD 0 0).toNat = p.num → exec (.bcHello p bs) s = .next (troubleEdges s (bcSet 3 s))) ∧
    ((f.payload.getD 0 0).toNat ≠ p.num → exec (.bcHello p bs) s = .next (troubleEdges s (s.onBc p fun c =>
      { c with st := .up, train := .detect, peer := BitVec.ofNat 6 (f.payload.getD 1 0).toNat,
               peerSerial := BitVec.ofNat 64 (beField f.payload 8 8), txNext := 0, txAcked := 0xFFFFFFFF#32,
               rxSeq := 0xFFFFFFFF#32, credit := 32, timeouts := 0, outs := [] })))) ∧
  (∀ (s : State) (p : Port) (bs : List Block) (f : Frame), (s.bc p).st = .up → parseChain bs = .good f → f.epoch = 1 →
    seqDist (s.bc p).rxSeq f.seq = 1 →
    let t := chainAck p false (s.onBc p fun c => { c with rxSeq := f.seq })
    (∀ worn, p = .up → f.type = 0x40 → exec (.bcOffer bs worn) s = .next (troubleEdges s (receiveOffer worn f.payload t))) ∧
    (p = .down → f.type = 0x41 → exec (.bcAnswer bs) s = .next (troubleEdges s (receiveAnswer f.payload t))) ∧
    (p = .up → f.type = 0x42 → exec (.bcBlockHdr bs) s = .next (troubleEdges s (receiveHeader f.payload t))) ∧
    (∀ worn, p = .up → f.type = 0x43 → exec (.bcBlockData bs worn) s = .next (troubleEdges s (receiveData worn f.payload t))) ∧
    (p = .down → f.type = 0x44 → exec (.bcResult bs) s = .next (troubleEdges s (t.onUp fun u => { u with fwd := none }))) ∧
    (p = .down → f.type = 0x45 → exec (.bcReport bs) s = .next (troubleEdges s
      (chainQueue .up [(0x45, f.payload)] (t.onUp fun u => { u with reports := u.reports ++ [f.payload] }))))) ∧
  (∀ (s : State) (f : Forward), s.up.fwd = some f →
    (f.stage = .port → s.up.portDown.st = .up → f.links < 3 → exec .bcReofferTimer s
      = .next (troubleEdges s (offer { f with links := f.links + 1 } s))) ∧
    (f.stage = .port → 3 ≤ f.links → exec .bcReofferTimer s = .next (troubleEdges s (giveUp f 0x11B s))) ∧
    (f.stage = .reoffer → f.waits < 600 → exec .bcReofferTimer s = .next (troubleEdges s (offer { f with waits := f.waits + 1 } s))) ∧
    (f.stage = .reoffer → 600 ≤ f.waits → exec .bcReofferTimer s = .next (troubleEdges s (giveUp f 0x110 s)))) ∧
  (∀ (s : State) (p : List Byte) (worn : Bool), (updateFlags s).getLsbD 0 = false → answerOffer p worn s = (s, statusOf 0x11D)) ∧
  (∀ (s : State) (w : Requester), seesPf s w = true → nothingBefore s w → s.up.daymark = true →
    let take := fun (p : State × Result) => troubleEdges s (p.1.onUp fun u =>
      { u with dmStatus := p.2.status, dmResult := BitVec.ofNat 32 p.2.result32 })
    let d := readBytes s.up.dmBuf 0 48
    (∀ a worn, exec (.dmOpen w a worn) s = .next (take (daymarkOp 1 (dmOffset s) a.toNat d worn s))) ∧
    (∀ worn, exec (.dmBlock w worn) s
      = .next (take (daymarkOp 2 (dmOffset s) 0 (readBytes s.up.dmBuf 0 (min (dmLen s) 65537)) worn s))) ∧
    (∀ a worn, exec (.dmClose w a worn) s = .next (take (daymarkOp 3 (dmOffset s) a.toNat d worn s))) ∧
    (∀ a, exec (.dmActivate w a) s = .next (take (daymarkOp 4 (dmOffset s) a.toNat d false s))) ∧
    exec (.dmAbort w) s = .next (take (abortTransfer s)) ∧
    exec (.dmStatus w) s = .next (troubleEdges s (s.onUp fun u =>
      { u with dmStatus := 0, dmResult := BitVec.ofNat 32 (upStatus s).toNat }))) ∧
  (∀ (s : State) (bs : List Byte) (worn : Bool), s.up.daymark = true → s.up.retained.getLsbD 3 = true → uartSound bs = true →
    (∀ a, s.up.uartLast = some (bs.getD 3 0, a) → exec (.uartRequest bs worn) s = .next (troubleEdges s (s.emit (.uart a)))) ∧
    (s.up.uartLast = none →
      let data := (bs.drop 10).take (leField bs 8 2)
      let p := daymarkOp (bs.getD 2 0).toNat (leField bs 4 4) (data.getD 0 0).toNat data worn s
      let a := uartAnswer (bs.getD 2 0) (bs.getD 3 0) p.2
      exec (.uartRequest bs worn) s = .next (troubleEdges s
        ((p.1.onUp fun u => { u with uartLast := some (bs.getD 3 0, a) }).emit (.uart a)))))

/-- A hart's register access comes after its older stores: a write after all of them, a read after those to registers, and neither
while one of them cannot leave the buffer. A low-half read answers the low half and, of CT_NOW, latches the high half, which the
next high-half read returns once. A write acts by the register map, or on the CSR it names; by a requester that sees no registers
it does nothing. W1C writes clear exactly the bits written 1, but for those set in the same clock. An Open-world write to the
Keeper's registers, and a write to a locked light-table field, is one violation. PS_VIOL_CLR clears one counter or all, but for
what the same clock counted. (R26-R36, R50, R54, R100, R244, R846, R852, R885.) -/
def Obligations.RegisterAccess : Prop :=
  (∀ (s : State) (h : HartId) (f : State → State), (s.hart h).inReset = false → (s.hart h).storeBuf ≠ [] →
    (storesHeld s h = false → programOrder (.hart h) true f s = f (drainAll h s) ∧
      programOrder (.hart h) false f s = f (drainThrough h (·.io) s)) ∧
    (∀ b, storesHeld s h = true → programOrder (.hart h) b f s = s)) ∧
  (∀ (s : State) (w : RegWrite), exec (.registerWrite (.mapped w)) s
    = .next (troubleEdges s (programOrder w.who true (regWrite w.who w.offset.toNat w.part w.value) s)) ∧
    (nothingBefore s w.who → exec (.registerWrite (.mapped w)) s
      = .next (troubleEdges s (regWrite w.who w.offset.toNat w.part w.value s))) ∧
    (nothingBefore s w.who → visible s w.who = false →
      exec (.registerWrite (.mapped w)) s = .next s ∧ exec (.troubleW1cWrite w) s = .next s)) ∧
  (∀ (s : State) (h : HartId) (n : BitVec 12) (v : W64) (i : W32),
    exec (.registerWrite (.csr h n v i)) s = .next (troubleEdges s (csrWrite h n.toNat v i s))) ∧
  (∀ (s : State) (w : Requester) (o : BitVec 32), nothingBefore s w → exec (.reg64LowHalfRead w o) s
    = .next (troubleEdges s ((regRead w o.toNat .low s).1.emit (.readData (regRead w o.toNat .low s).2)))) ∧
  (∀ (s : State) (h : HartId), (s.hart h).inReset = false → (s.hart h).storeBuf = [] →
    exec (.reg64LowHalfRead (.hart h) 0x2010#32) s
      = .next (troubleEdges s ((setLatch (.hart h) 0x2010 (BitVec.ofNat 64 (s.ct.now.toNat / 2 ^ 32)) s).emit
          (.readData (BitVec.ofNat 64 (s.ct.now.toNat % 2 ^ 32))))) ∧
    (∀ v, latched s (.hart h) 0x2010 = some v →
      regRead (.hart h) 0x2010 .high s = (dropLatch (.hart h) 0x2010 s, BitVec.ofNat 64 v.toNat)) ∧
    (∀ (v : W64),
      let clears := fun (o : Nat) => v.truncate 32 &&& ~~~BitVec.ofNat 32 (tget 0 s.clock.raised o)
      exec (.troubleW1cWrite ⟨.hart h, 0x3004#32, .high, v⟩) s
        = .next (troubleEdges s (s.onPwr fun p => { p with trouble := p.trouble &&& ~~~((clears 0x3004).extractLsb' 0 14) })) ∧
      exec (.troubleW1cWrite ⟨.hart h, 0x4004#32, .high, v⟩) s
        = .next (troubleEdges s (s.onUp fun u => { u with trouble := u.trouble &&& ~~~((clears 0x4004).extractLsb' 0 5) })) ∧
      exec (.troubleW1cWrite ⟨.hart h, 0x5004#32, .high, v⟩) s
        = .next (troubleEdges s (s.onLb fun b => { b with trouble := b.trouble &&& ~~~((clears 0x5004).extractLsb' 0 9) })) ∧
      exec (.troubleW1cWrite ⟨.hart h, 0x80004#32, .high, v⟩) s
        = .next (troubleEdges s (s.onCx fun c => { c with trouble := c.trouble &&& ~~~((clears 0x80004).extractLsb' 0 5) }))) ∧
    (∀ (o : BitVec 32) (v : W64), (s.hart h).keeper = false → 0x400000 ≤ o.toNat → o.toNat < 0x410000 →
      exec (.registerWrite (.mapped ⟨.hart h, o, .low, v⟩)) s
        = .next (troubleEdges s (violateBy s (.hart h) true .worldAttr (o.toNat / 8 * 8)))) ∧
    (∀ v : W64, exec (.registerWrite (.mapped ⟨.hart h, 0x7010#32, .low, v⟩)) s
      = .next (troubleEdges s (violateBy s (.hart h) true .ltLock 0x7010)))) ∧
  (∀ (s : State) (w : Requester) (v : W32), seesPf s w = true → nothingBefore s w → exec (.psViolClr w v) s
    = .next (troubleEdges s { s with
      viol := if v.getLsbD 8 then s.clock.counted else tset 0 s.viol (bits v 0 8) (tget 0 s.clock.counted (bits v 0 8)) }))

/-- Each SMBus command returns its word or block, with a PEC where clocked; writes are ignored; the Alert Response Address gives
the address. IDCODE, BYPASS, SAMPLE/PRELOAD, EXTEST (a bypass outside MOD_RESET#), CLAMP, HIGHZ and DTMCS select and shift
their register; JTAG_TRST# selects IDCODE. A rising GPIO input asserts its source. An internal DMA read delivers what its
agent may read, a write stores what it may write, and the channel's source pulses (when it does is the model's choice, log 79).
Byte order, PEC and alert details are the model's choice (log 70). (R211, R362-R365, R873-R880.) -/
def Obligations.OutsidePorts : Prop :=
  (∀ (s : State) (pec : Bool), s.pwr.supply = .on →
    exec (.smbPsStatus pec) s = .next (s.emit (smbAnswer s 0 (bytesLE 2 (psStatus s).toNat) pec)) ∧
    exec (.smbTroubleSum pec) s = .next (s.emit (smbAnswer s 1 ([4] ++ bytesLE 4 (troubleSum s).toNat) pec)) ∧
    exec (.smbFeedAVoltage pec) s = .next (s.emit (smbAnswer s 2 (bytesLE 2 (min 0xFFFF s.pwr.feedA.volts.toNat)) pec)) ∧
    exec (.smbFeedBVoltage pec) s = .next (s.emit (smbAnswer s 3 (bytesLE 2 (min 0xFFFF s.pwr.feedB.volts.toNat)) pec)) ∧
    exec (.smbInputPower pec) s = .next (s.emit (smbAnswer s 4 (bytesLE 2 (min 0xFFFF s.pwr.inputDeciW)) pec)) ∧
    exec (.smbDieTemperature pec) s = .next (s.emit (smbAnswer s 5 (bytesLE 2 (BitVec.ofInt 16 (10 * s.pwr.dieTemp)).toNat) pec)) ∧
    exec (.smbModId pec) s = .next (s.emit (smbAnswer s 6 (bytesLE 2 (s.pwr.modId.toNat + 256 * bit s.pwr.daymarkPin)) pec)) ∧
    exec (.smbPartId pec) s = .next (s.emit (smbAnswer s 7 [4, 0x28, 0x01, 0x64, 0x4B] pec)) ∧
    exec (.smbDeviceSerial pec) s = .next (s.emit (smbAnswer s 8 ([8] ++ bytesLE 8 Config.deviceSerial.toNat) pec)) ∧
    exec (.smbUpStatus pec) s = .next (s.emit (smbAnswer s 9 ([4] ++ bytesLE 4 (upStatus s).toNat) pec))) ∧
  (∀ (s : State) (code : Byte) (bs : List Byte), exec (.smbWrite code bs) s = .next s) ∧
  (∀ s : State, s.pwr.supply = .on →
    exec (.smbAlertResponse false) s = .next (s.emit (.smbus [BitVec.ofNat 8 (2 * (0x40 + s.pwr.modId.toNat % 32))]))) ∧
  (∀ s : State, s.pwr.supply = .on →
    let t := fun (c : BitVec 5) => s.onPort fun p => { p with ir := c }
    exec .idcode s = .next ((t 1).emit (.tdo 32 0x14B64857)) ∧ exec .clamp s = .next (t 3) ∧ exec .highz s = .next (t 4) ∧
    (∀ v, exec (.dtmcs v) s = .next ((t 0x10).emit (.tdo 32 Config.dtmcs.toNat))) ∧
    (∀ c b, c ∉ listedInstructions → exec (.bypass c b) s
      = .next (((t c).emit (.tdo 1 0)).onPort fun p => { p with bypass := b })) ∧
    (∀ cells, exec (.samplePreload cells) s = .next (boundaryScan cells (t 2)) ∧
      (s.port.modResetLow = true → exec (.extest cells) s = .next (boundaryScan cells (t 0))) ∧
      (s.port.modResetLow = false → exec (.extest cells) s = .next (bypassScan cells (t 0))) ∧
      (boundaryScan cells s).port.cells = cells)) ∧
  (∀ s : State, exec .jtagTrst s = .next (s.onPort fun p => { p with ir := 1, bypass := false })) ∧
  (∀ (s : State) (v : Byte), s.pwr.supply ≠ .on → exec (.gpioInputChange v) s = .next (s.onKp fun k => { k with gpioLand := v })) ∧
  (∀ (s : State) (v : Byte), s.pwr.supply = .on → exec (.gpioInputChange v) s = .next
    (((List.range 8).filter fun i => (gpioLevels (s.onKp fun k => { k with gpioLand := v })).getLsbD i && !(gpioLevels s).getLsbD i).foldl
      (fun u i => aplic u (161 + i)) (s.onKp fun k => { k with gpioLand := v }))) ∧
  (∀ (s : State) (ch : Fin 32) (a : BitVec 48), s.mesh.zeroed = true → s.pwr.moduleReset = false →
    (∀ n, (agentCheck (dmaAgent s ch.val) a.toNat n.val s).2 = false → exec (.internalDmaAccess ch a (.read n)) s
      = .next (troubleEdges s (aplic ((agentCheck (dmaAgent s ch.val) a.toNat n.val s).1.emit
          (.dmaData ch.val a.toNat (agentRead s (dmaAgent s ch.val) a.toNat n.val))) (129 + ch.val)))) ∧
    (∀ bs, exec (.internalDmaAccess ch a (.write bs)) s
      = .next (troubleEdges s (aplic (agentWrite (dmaAgent s ch.val) (bs.length + 1) a.toNat bs s) (129 + ch.val)))))

/-- For every state whose queue is a command c followed by others, step is exec of c on the state with the others left in the
queue. -/
def Obligations.StepRunsFrontCommand : Prop :=
  ∀ (s : State) (c : Instr) (rest : List Instr), s.pending = c :: rest → step s = exec c { s with pending := rest }

/-- On an empty queue an unpowered module only forgets what the present clock saw. In a powered one, where nothing waits for the end
of the clock, one 2 ns measurement clock passes: module time rises by 2 when it runs, CT by the current period unless it holds or
has not started, stopping at all ones; the acceptance allowance and the watchdog's counter take their share, the core clock of
each running hart in the Open world rises by the clocks that passed, and nothing else changes. One step for one measurement clock
is the model's choice (log 2). (R60, R79, R102, R189, R233, R375, R532.) -/
def Obligations.IdleStep : Prop :=
  ∀ s : State, s.pending = [] →
    (s.pwr.supply ≠ .on → step s = .next { s with clock := {} }) ∧
    (s.pwr.supply = .on → TablesInv s → settled s → ∃ t, step s = .next t ∧
      t = { s with
        ct := t.ct, free := t.free, harts := t.harts, clock := {}
        pwr := { s.pwr with clockPart := (s.pwr.clockPart + s.pwr.coreMHz) % 500 }
        rings := { s.rings with allowance := min (allowanceFull s) (s.rings.allowance + s.lt.acceptRateCap) }
        kp := { s.kp with wdCount := if watchdogRuns s then s.kp.wdCount + 1 else s.kp.wdCount } } ∧
      t.ct.mt = (if s.ct.mtRunning then s.ct.mt + 2 else s.ct.mt) ∧
      (s.ct.running = false ∨ s.ct.holding = true → t.ct.now = s.ct.now ∧ t.ct.acc = s.ct.acc) ∧
      (s.ct.running = true → s.ct.holding = false → s.ct.coasting = false → s.ct.slewLeft = 0 → s.ct.period ≠ 0 →
        let next := s.ct.full + 2000000 * 2 ^ 44 / s.ct.period.toNat
        (next < 2 ^ 96 → t.ct.full = next) ∧ (2 ^ 96 ≤ next → t.ct.now = BitVec.allOnes 64)) ∧
      ∀ h, t.hart h = { s.hart h with counters := (t.hart h).counters, stall := (t.hart h).stall } ∧
        ((s.hart h).inReset = true ∨ (s.hart h).keeper = true → (t.hart h).counters = (s.hart h).counters) ∧
        ((s.hart h).inReset = false → (s.hart h).keeper = false → (s.hart h).mcountinhibit.getLsbD 0 = false →
          rises (s.hart h).counters = true → tget 0 (t.hart h).counters 0
            = tget 0 (s.hart h).counters 0 + BitVec.ofNat 64 ((s.pwr.clockPart + s.pwr.coreMHz) / 500)))

/-- A feed row below -80 V or above 100 V ends in the fault absoluteMaximum. Every other command, in every state, answers a next
state. The fault is the model's choice for a stress outside every promise (log 3). (R855.) -/
def Obligations.OnlyAbsoluteMaximumStops : Prop :=
  ∀ (s : State) (i : Instr), (beyondMaximum i = true → exec i s = .fault .absoluteMaximum) ∧
    (beyondMaximum i = false → ∃ t, exec i s = .next t)

/-- For every state whose DRAM, SRAM, host memory, Daymark buffer and NOR are in their canonical form (addresses strictly rising,
no entry equal to what an unlisted one reads as), and whose tables of numbered parts (harts, rings, functions, dispatch domains,
enclaves, lines, home slices, channels, TRIP sites, lanes) have strictly rising numbers, a step that answers a next state leaves
them all so. -/
def Obligations.MemoryFormHolds : Prop :=
  ∀ s t : State, MemoryInv s → step s = .next t → MemoryInv t

/-- Whatever command runs in whatever state, the queue of waiting commands stays, the outputs so far are kept and only added to,
and the count of free values drawn does not fall. Whatever step is taken, the logbook's next LSN, the fuse count and the
light-table floor do not fall. (R544, R806, R810, R811.) -/
def Obligations.NothingGoesBack : Prop :=
  (∀ (s t : State) (i : Instr), exec i s = .next t → t.pending = s.pending ∧ s.out <:+ t.out ∧ s.free ≤ t.free) ∧
  (∀ s t : State, step s = .next t → s.lb.head ≤ t.lb.head ∧ s.up.fuses ≤ t.up.fuses ∧ s.up.floor ≤ t.up.floor)

/-- Comparing the states before and after a command adds to the outputs one assertion of each interrupt source whose level is
high now and was not before, and sets its pending bit in its APLIC domain; it sets no other source's. It notes the trouble bits
gained for the present clock, and changes nothing else. (R54, R210, R211, R384, R734, R786, R841.) -/
def Obligations.TroubleAssertsSources : Prop :=
  ∀ s t : State,
    let u := troubleEdges s t
    let rose := fun n => n ∈ levelSources t ∧ n ∉ levelSources s
    u = { t with
      out := u.out
      clock := { t.clock with raised := u.clock.raised }
      aplic := { t.aplic with
        root := { t.aplic.root with pend := u.aplic.root.pend }
        child := { t.aplic.child with pend := u.aplic.child.pend } } } ∧
    t.out <:+ u.out ∧ (∀ n, rose n → OutEvent.aplic n ∈ u.out) ∧ (∀ e ∈ u.out, e ∈ t.out ∨ ∃ n, e = .aplic n ∧ rose n) ∧
    (∀ n, 1 ≤ n → n < 512 →
      (u.aplic.root.pend.getLsbD n = true ↔ t.aplic.root.pend.getLsbD n = true ∨ (rose n ∧ rootSource t n = true)) ∧
      (u.aplic.child.pend.getLsbD n = true ↔ t.aplic.child.pend.getLsbD n = true ∨ (rose n ∧ rootSource t n = false))) ∧
    (troubleWords t = troubleWords s → u.clock = t.clock)

/-- State.reset has every memory in canonical form, every table of parts rising, an empty queue, no output, CT, MT and the trouble
registers 0, the supply off, no light table, every hart in reset in M-mode outside an enclave, every ring disabled with sequence
0, every lane DISABLED, every channel disarmed with thresholds at the ends of the range. Values the spec does not give are the
model's choice (log 1). (R58, R59, R168, R173, R739, R789.) -/
def Obligations.ResetState : Prop :=
  let s := State.reset
  MemoryInv s ∧ s.pending = [] ∧ s.out = [] ∧ s.ct.now = 0 ∧ s.ct.mt = 0 ∧ s.ct.trouble = 0 ∧ s.pwr.supply = .off ∧ s.pwr.trouble = 0 ∧
    s.up.trouble = 0 ∧ s.lb.trouble = 0 ∧ s.kp.trouble = 0 ∧ s.viol = [] ∧ s.lt.applied = false ∧
    (∀ h : HartId, (s.hart h).inReset = true ∧ (s.hart h).priv = .m ∧ (s.hart h).kenc = 0) ∧
    (∀ r, (s.ring r).enabled = false ∧ (s.ring r).acceptSeq = 0 ∧ (s.ring r).cmds = []) ∧
    (∀ n, (s.lane n).st = .disabled ∧ (s.chan n).hi = 8388607 ∧ (s.chan n).lo = -8388608 ∧ (s.chan n).armed = false)
end

