-- ==== Sys2Proof/Laws/Ops.lean ====
section
/-!
SUPPORT. What the table and memory operations do: a read after a write, what a write leaves alone, and that every write keeps
the canonical form.
-/

namespace Sys2Proof.Machine

section Tables
variable {α : Type} {d v : α} {t : Tab α} {k j lo : Nat}

theorem tget_tput_same : tget d (tput v t k) k = v := by
  induction t with
  | nil => simp [tput, tget]
  | cons e t ih =>
    obtain ⟨j, w⟩ := e
    by_cases h : j = k
    · simp [tput, h, tget]
    · by_cases l : k < j <;> simp [tput, h, l, tget, ih]

theorem tget_tput_other (h : j ≠ k) : tget d (tput v t k) j = tget d t j := by
  induction t with
  | nil => simp [tput, tget, Ne.symm h]
  | cons e t ih =>
    obtain ⟨i, w⟩ := e
    by_cases c : i = k
    · subst c; simp [tput, tget, Ne.symm h]
    · by_cases l : k < i
      · simp [tput, c, l, tget, Ne.symm h]
      · simp [tput, c, l, tget, ih]

theorem tget_tdel_other (h : j ≠ k) : tget d (tdel t k) j = tget d t j := by
  induction t with
  | nil => rfl
  | cons e t ih =>
    obtain ⟨i, w⟩ := e
    by_cases c : i = k
    · subst c; simp [tdel, tget, Ne.symm h]
    · by_cases l : k < i <;> simp [tdel, c, l, tget, ih]

theorem tget_of_risesAbove (h : risesAbove lo t = true) (l : k ≤ lo) : tget d t k = d := by
  induction t generalizing lo with
  | nil => rfl
  | cons e t ih =>
    obtain ⟨i, w⟩ := e
    simp only [risesAbove, Bool.and_eq_true, decide_eq_true_eq] at h
    have n : i ≠ k := by omega
    simp [tget, n, ih h.2 (by omega)]

theorem risesAbove_weaken {lo' : Nat} (h : risesAbove lo t = true) (l : lo' ≤ lo) : risesAbove lo' t = true := by
  cases t with
  | nil => rfl
  | cons e t =>
    simp only [risesAbove, Bool.and_eq_true, decide_eq_true_eq] at h ⊢
    exact ⟨by omega, h.2⟩

theorem risesAbove_tput (h : risesAbove lo t = true) (l : lo < k) : risesAbove lo (tput v t k) = true := by
  induction t generalizing lo with
  | nil => simp [tput, risesAbove, l]
  | cons e t ih =>
    obtain ⟨i, w⟩ := e
    simp only [risesAbove, Bool.and_eq_true, decide_eq_true_eq] at h
    by_cases c : i = k
    · subst c; simp [tput, risesAbove, l, h.2]
    · by_cases q : k < i
      · simp [tput, c, q, risesAbove, l, h.2]
      · simp [tput, c, q, risesAbove, h.1, ih h.2 (by omega : i < k)]

theorem risesAbove_tdel (h : risesAbove lo t = true) : risesAbove lo (tdel t k) = true := by
  induction t generalizing lo with
  | nil => rfl
  | cons e t ih =>
    obtain ⟨i, w⟩ := e
    simp only [risesAbove, Bool.and_eq_true, decide_eq_true_eq] at h
    by_cases c : i = k
    · subst c; simp [tdel, risesAbove_weaken h.2 (Nat.le_of_lt h.1)]
    · by_cases q : k < i <;> simp [tdel, c, q, risesAbove, h.1, h.2, ih h.2]

theorem risesAbove_filter {p : Nat × α → Bool} (h : risesAbove lo t = true) : risesAbove lo (t.filter p) = true := by
  induction t generalizing lo with
  | nil => rfl
  | cons e t ih =>
    obtain ⟨i, w⟩ := e
    simp only [risesAbove, Bool.and_eq_true, decide_eq_true_eq] at h
    by_cases c : p (i, w) = true
    · simp [c, risesAbove, h.1, ih h.2]
    · simp [c, ih (risesAbove_weaken h.2 (Nat.le_of_lt h.1))]

theorem rises_eq : rises t = true ↔ ∀ i w r, t = (i, w) :: r → risesAbove i r = true := by
  cases t with
  | nil => simp [rises]
  | cons e r => obtain ⟨i, w⟩ := e; simp [rises]

theorem rises_tput (h : rises t = true) : rises (tput v t k) = true := by
  cases t with
  | nil => simp [tput, rises, risesAbove]
  | cons e t =>
    obtain ⟨i, w⟩ := e
    simp only [rises] at h
    by_cases c : i = k
    · subst c; simp [tput, rises, h]
    · by_cases q : k < i
      · simp [tput, c, q, rises, risesAbove, h]
      · simpa [tput, c, q, rises] using risesAbove_tput h (by omega)

theorem rises_of_risesAbove (h : risesAbove lo t = true) : rises t = true := by
  cases t with
  | nil => rfl
  | cons e t => simp only [risesAbove, Bool.and_eq_true] at h; exact h.2

theorem rises_tdel (h : rises t = true) : rises (tdel t k) = true := by
  cases t with
  | nil => rfl
  | cons e t =>
    obtain ⟨i, w⟩ := e
    simp only [rises] at h
    by_cases c : i = k
    · subst c; simpa [tdel] using rises_of_risesAbove h
    · by_cases q : k < i
      · simpa [tdel, c, q, rises] using h
      · simpa [tdel, c, q, rises] using risesAbove_tdel h

@[simp] theorem rises_filter {p : Nat × α → Bool} (h : rises t = true) : rises (t.filter p) = true := by
  cases t with
  | nil => rfl
  | cons e t =>
    obtain ⟨i, w⟩ := e
    simp only [rises] at h
    by_cases c : p (i, w) = true
    · simpa [c, rises] using risesAbove_filter h
    · simpa [c] using rises_of_risesAbove (risesAbove_filter h)

/-- A change of every entry that keeps its number keeps the order. -/
theorem rises_map_of {β : Type} {f : Nat × α → Nat × β} (k : ∀ e, (f e).1 = e.1) (h : rises t = true) : rises (t.map f) = true := by
  have g : ∀ (lo : Nat) (t : Tab α), risesAbove lo t = true → risesAbove lo (t.map f) = true := by
    intro lo t
    induction t generalizing lo with
    | nil => exact id
    | cons e t ih =>
      simp only [List.map_cons, risesAbove, Bool.and_eq_true, k]
      exact fun q => ⟨q.1, ih _ q.2⟩
  cases t with
  | nil => rfl
  | cons e t => simpa only [List.map_cons, rises, k] using g _ _ h

@[simp] theorem rises_map {β : Type} {f : Nat × α → β} (h : rises t = true) : rises (t.map fun e => (e.1, f e)) = true :=
  rises_map_of (fun _ => rfl) h

@[simp] theorem rises_nil : rises ([] : Tab α) = true := rfl

@[simp] theorem rises_ite {c : Prop} [Decidable c] {a b : Tab α} (p : c → rises a = true) (q : ¬c → rises b = true) :
    rises (if c then a else b) = true := by
  split
  · exact p ‹_›
  · exact q ‹_›

@[simp] theorem rises_foldl {β : Type} {f : Tab α → β → Tab α} {l : List β} {t : Tab α}
    (p : ∀ t a, rises t = true → rises (f t a) = true) (h : rises t = true) : rises (l.foldl f t) = true := by
  induction l generalizing t with
  | nil => exact h
  | cons a l ih => exact ih (p t a h)

theorem mem_tput {e : Nat × α} (h : e ∈ tput v t k) : e = (k, v) ∨ e ∈ t := by
  induction t with
  | nil => simpa [tput] using h
  | cons a t ih =>
    obtain ⟨i, w⟩ := a
    by_cases c : i = k
    · simp only [tput, c, if_true, List.mem_cons] at h ⊢; grind
    · by_cases q : k < i
      · simp only [tput, c, q, if_false, if_true, List.mem_cons] at h ⊢; grind
      · simp only [tput, c, q, if_false, List.mem_cons] at h ⊢
        rcases h with h | h
        · grind
        · have := ih h; grind

theorem mem_of_mem_tdel {e : Nat × α} (h : e ∈ tdel t k) : e ∈ t := by
  induction t with
  | nil => simp [tdel] at h
  | cons a t ih =>
    obtain ⟨i, w⟩ := a
    by_cases c : i = k
    · simp only [tdel, c, if_true, List.mem_cons] at h ⊢; grind
    · by_cases q : k < i
      · simp only [tdel, c, q, if_false, if_true, List.mem_cons] at h ⊢; grind
      · simp only [tdel, c, q, if_false, List.mem_cons] at h ⊢
        rcases h with h | h
        · grind
        · have := ih h; grind

variable [DecidableEq α]

theorem twf_iff : twf d t = true ↔ rises t = true ∧ ∀ e ∈ t, e.2 ≠ d := by
  simp [twf]

theorem twf_nil : twf d ([] : Tab α) = true := rfl

theorem twf_tput (h : twf d t = true) (n : v ≠ d) : twf d (tput v t k) = true := by
  rw [twf_iff] at *
  refine ⟨rises_tput h.1, fun e m => ?_⟩
  rcases mem_tput m with q | q
  · subst q; exact n
  · exact h.2 e q

theorem twf_tdel (h : twf d t = true) : twf d (tdel t k) = true := by
  rw [twf_iff] at *
  exact ⟨rises_tdel h.1, fun e m => h.2 e (mem_of_mem_tdel m)⟩

/-- A write keeps the canonical form. -/
@[simp] theorem twf_tset (h : twf d t = true) : twf d (tset d t k v) = true := by
  unfold tset
  split
  · exact twf_tdel h
  · exact twf_tput h ‹_›

@[simp] theorem twf_filter {p : Nat × α → Bool} (h : twf d t = true) : twf d (t.filter p) = true := by
  rw [twf_iff] at *
  exact ⟨rises_filter h.1, fun e m => h.2 e ((List.mem_filter.mp m).1)⟩

@[simp] theorem rises_tset (h : rises t = true) : rises (tset d t k v) = true := by
  unfold tset
  split
  · exact rises_tdel h
  · exact rises_tput h

@[simp] theorem rises_tmod {f : α → α} (h : rises t = true) : rises (tmod d t k f) = true := rises_tset h

/-- A write leaves every other number alone. -/
theorem tget_tset_other (h : j ≠ k) : tget d (tset d t k v) j = tget d t j := by
  unfold tset
  split
  · exact tget_tdel_other h
  · exact tget_tput_other h

omit [DecidableEq α] in
theorem tget_tdel_same (h : rises t = true) : tget d (tdel t k) k = d := by
  induction t with
  | nil => rfl
  | cons e t ih =>
    obtain ⟨i, w⟩ := e
    simp only [rises] at h
    by_cases c : i = k
    · subst c; simpa [tdel] using tget_of_risesAbove h (Nat.le_refl _)
    · by_cases q : k < i
      · simpa [tdel, c, q, tget] using tget_of_risesAbove h (Nat.le_of_lt q)
      · simpa [tdel, c, q, tget] using ih (rises_of_risesAbove h)

/-- A read after a write to the same number. -/
theorem tget_tset_same (h : rises t = true) : tget d (tset d t k v) k = v := by
  unfold tset
  split
  · subst v; exact tget_tdel_same h
  · exact tget_tput_same

/-- A table in canonical form reads as what was written, at the number written. -/
theorem tget_tmod_same {f : α → α} (h : rises t = true) : tget d (tmod d t k f) k = f (tget d t k) := tget_tset_same h

theorem tget_tmod_other {f : α → α} (h : j ≠ k) : tget d (tmod d t k f) j = tget d t j := tget_tset_other h

end Tables

/-! ### Memory -/

theorem Memory.wf_nil : Memory.wf [] = true := rfl

@[simp] theorem Memory.wf_bset {m : List (Nat × Byte)} {a : Nat} {b : Byte} (h : Memory.wf m = true) : Memory.wf (bset m a b) = true :=
  twf_tset h

@[simp] theorem Memory.wf_writeBytes {bs : List Byte} {m : List (Nat × Byte)} {a : Nat} (h : Memory.wf m = true) :
    Memory.wf (writeBytes m a bs) = true := by
  induction bs generalizing m a with
  | nil => exact h
  | cons b bs ih => exact ih (Memory.wf_bset h)

@[simp] theorem Memory.wf_writeMasked {mask : BitVec 64} {bs : List Byte} {m : List (Nat × Byte)} {a i : Nat}
    (h : Memory.wf m = true) : Memory.wf (writeMasked m a mask i bs) = true := by
  induction bs generalizing m a i with
  | nil => exact h
  | cons b bs ih =>
    unfold writeMasked
    apply ih
    split
    · exact Memory.wf_bset h
    · exact h

@[simp] theorem Memory.wf_ite {c : Prop} [Decidable c] {a b : List (Nat × Byte)} (p : c → Memory.wf a = true)
    (q : ¬c → Memory.wf b = true) : Memory.wf (if c then a else b) = true := by
  split
  · exact p ‹_›
  · exact q ‹_›

@[simp] theorem twf_ite {α : Type} [DecidableEq α] {v : α} {c : Prop} [Decidable c] {a b : Tab α} (p : c → twf v a = true)
    (q : ¬c → twf v b = true) : twf v (if c then a else b) = true := by
  split
  · exact p ‹_›
  · exact q ‹_›

@[simp] theorem twf_foldl {α β : Type} [DecidableEq α] {v : α} {f : Tab α → β → Tab α} {l : List β} {t : Tab α}
    (p : ∀ t a, twf v t = true → twf v (f t a) = true) (h : twf v t = true) : twf v (l.foldl f t) = true := by
  induction l generalizing t with
  | nil => exact h
  | cons a l ih => exact ih (p t a h)

/-- Reading the byte just written. -/
theorem bget_bset_same {m : List (Nat × Byte)} {a : Nat} {b : Byte} (h : Memory.wf m = true) : bget (bset m a b) a = b :=
  tget_tset_same (twf_iff.mp h).1

/-- A write of one byte leaves every other byte alone. -/
theorem bget_bset_other {m : List (Nat × Byte)} {a c : Nat} {b : Byte} (h : c ≠ a) : bget (bset m a b) c = bget m c :=
  tget_tset_other h

/-- A write leaves every byte outside it alone. -/
theorem bget_writeBytes_outside {bs : List Byte} {m : List (Nat × Byte)} {a c : Nat} (h : c < a ∨ a + bs.length ≤ c) :
    bget (writeBytes m a bs) c = bget m c := by
  induction bs generalizing m a with
  | nil => rfl
  | cons b bs ih =>
    simp only [List.length_cons] at h
    unfold writeBytes
    rw [ih (by omega), bget_bset_other (by omega)]

/-- Reading a byte of what was written. -/
theorem bget_writeBytes_inside {bs : List Byte} {m : List (Nat × Byte)} {a i : Nat} (h : Memory.wf m = true)
    (l : i < bs.length) : bget (writeBytes m a bs) (a + i) = bs.getD i 0 := by
  induction bs generalizing m a i with
  | nil => simp at l
  | cons b bs ih =>
    unfold writeBytes
    cases i with
    | zero =>
      rw [bget_writeBytes_outside (by omega)]
      simpa using bget_bset_same h
    | succ i =>
      have := ih (m := bset m a b) (a := a + 1) (i := i) (Memory.wf_bset h) (by simpa using l)
      simpa [Nat.add_assoc, Nat.add_comm 1 i] using this

theorem readBytes_length {m : List (Nat × Byte)} {a n : Nat} : (readBytes m a n).length = n := by
  induction n generalizing a with
  | zero => rfl
  | succ n ih => simp [readBytes, ih]

/-! ### Bytes of a number, of a memory and of a line -/

theorem ofBytesLE_bytesLE : ∀ n v : Nat, ofBytesLE (bytesLE n v) = v % 256 ^ n
  | 0, v => by simp [bytesLE, ofBytesLE, Nat.mod_one]
  | n + 1, v => by
    have e : (BitVec.ofNat 8 v).toNat = v % 256 := by simp
    rw [bytesLE, ofBytesLE, ofBytesLE_bytesLE n, e, Nat.pow_succ', Nat.mod_mul]

theorem ofBytesBE_bytesBE (n v : Nat) : ofBytesBE (bytesBE n v) = v % 256 ^ n := by
  simp [ofBytesBE, bytesBE, ofBytesLE_bytesLE]

theorem bytesLE_length : ∀ n v : Nat, (bytesLE n v).length = n
  | 0, _ => rfl
  | n + 1, v => by simp [bytesLE, bytesLE_length n]

theorem readBytes_eq (m : List (Nat × Byte)) (a n : Nat) : readBytes m a n = (List.range n).map fun i => bget m (a + i) := by
  induction n generalizing a with
  | zero => rfl
  | succ n ih =>
    rw [readBytes, ih, List.range_succ_eq_map]
    simp [Function.comp_def, Nat.add_assoc, Nat.add_comm 1]

/-- A masked write changes the bytes whose mask bit is 1. -/
theorem bget_writeMasked {m : List (Nat × Byte)} {a i b : Nat} {mask : BitVec 64} {bs : List Byte} (w : Memory.wf m = true) :
    bget (writeMasked m a mask i bs) b =
      if a ≤ b ∧ b < a + bs.length ∧ mask.getLsbD (i + (b - a)) = true then bs.getD (b - a) 0 else bget m b := by
  induction bs generalizing m a i with
  | nil => simp [writeMasked]; omega
  | cons x t ih =>
    have w' : Memory.wf (if mask.getLsbD i then bset m a x else m) = true := Memory.wf_ite (fun _ => Memory.wf_bset w) fun _ => w
    rw [writeMasked, ih w']
    by_cases e : b = a
    · subst e
      have n : ¬(b + 1 ≤ b ∧ b < b + 1 + t.length ∧ mask.getLsbD (i + 1 + (b - (b + 1))) = true) := by omega
      rw [if_neg n]
      by_cases k : mask.getLsbD i = true
      · simp [k, bget_bset_same w]
      · simp [k]
    · have k : bget (if mask.getLsbD i then bset m a x else m) b = bget m b := by
        split
        · exact bget_bset_other e
        · rfl
      rw [k]
      by_cases l : a ≤ b
      · have p : b - a = b - (a + 1) + 1 := by omega
        have q : i + 1 + (b - (a + 1)) = i + (b - a) := by omega
        rw [q, p]
        simp only [List.length_cons, List.getD_cons_succ]
        congr 1
        simp only [eq_iff_iff]
        constructor <;> rintro ⟨x, y, z⟩ <;> exact ⟨by omega, by omega, by simpa [p] using z⟩
      · rw [if_neg (by omega), if_neg (by omega)]

theorem bytesLE_zero (n : Nat) : bytesLE n 0 = List.replicate n 0 := by
  induction n with
  | zero => rfl
  | succ n ih => simp [bytesLE, ih, List.replicate_succ]

theorem bytesLE_ofBytesLE {n : Nat} {bs : List Byte} (h : bs.length ≤ n) :
    bytesLE n (ofBytesLE bs) = bs ++ List.replicate (n - bs.length) 0 := by
  induction n generalizing bs with
  | zero => simp_all [bytesLE]
  | succ n ih =>
    cases bs with
    | nil => simpa [ofBytesLE] using bytesLE_zero (n + 1)
    | cons b t =>
      have l : b.toNat < 256 := b.isLt
      have e : (b.toNat + 256 * ofBytesLE t) / 256 = ofBytesLE t := by omega
      have k : BitVec.ofNat 8 (b.toNat + 256 * ofBytesLE t) = b := by
        apply BitVec.eq_of_toNat_eq
        simp; omega
      simp only [ofBytesLE, bytesLE, e, k, ih (Nat.le_of_succ_le_succ h), List.length_cons, List.cons_append, Nat.add_sub_add_right]

theorem ofBytesLE_lt (bs : List Byte) : ofBytesLE bs < 256 ^ bs.length := by
  induction bs with
  | nil => simp [ofBytesLE]
  | cons b t ih =>
    have l : b.toNat < 256 := b.isLt
    simp only [ofBytesLE, List.length_cons, Nat.pow_succ]
    omega

/-- A line of at most 64 bytes holds them, and zero behind them. -/
theorem lineBytes_lineOf {bs : List Byte} (h : bs.length ≤ 64) : lineBytes (lineOf bs) = bs ++ List.replicate (64 - bs.length) 0 := by
  have l := ofBytesLE_lt bs
  have k : ofBytesLE bs < 2 ^ 512 := by
    refine Nat.lt_of_lt_of_le l ?_
    calc 256 ^ bs.length ≤ 256 ^ 64 := Nat.pow_le_pow_right (by decide) h
      _ = (2 ^ 8) ^ 64 := rfl
      _ = 2 ^ 512 := (Nat.pow_mul 2 8 64).symm
  rw [lineBytes, lineOf, List.take_of_length_le h, BitVec.toNat_ofNat, Nat.mod_eq_of_lt k, bytesLE_ofBytesLE h]

end Sys2Proof.Machine
end

