-- ==== Sys2Proof/Laws/State.lean ====
section
/-!
SUPPORT. What each update of a block of the state reads as afterwards, field by field, so that no proof unfolds a record update.
-/

namespace Sys2Proof.Machine

variable (s : State)

/-! ### onCt -/

section Ct
variable (f : Ct → Ct)
@[simp] theorem onCt_ct : (s.onCt f).ct = f s.ct := rfl
@[simp] theorem onCt_lt : (s.onCt f).lt = s.lt := rfl
@[simp] theorem onCt_pwr : (s.onCt f).pwr = s.pwr := rfl
@[simp] theorem onCt_harts : (s.onCt f).harts = s.harts := rfl
@[simp] theorem onCt_mesh : (s.onCt f).mesh = s.mesh := rfl
@[simp] theorem onCt_kp : (s.onCt f).kp = s.kp := rfl
@[simp] theorem onCt_disp : (s.onCt f).disp = s.disp := rfl
@[simp] theorem onCt_host : (s.onCt f).host = s.host := rfl
@[simp] theorem onCt_rings : (s.onCt f).rings = s.rings := rfl
@[simp] theorem onCt_lb : (s.onCt f).lb = s.lb := rfl
@[simp] theorem onCt_cx : (s.onCt f).cx = s.cx := rfl
@[simp] theorem onCt_mu : (s.onCt f).mu = s.mu := rfl
@[simp] theorem onCt_sd : (s.onCt f).sd = s.sd := rfl
@[simp] theorem onCt_ln : (s.onCt f).ln = s.ln := rfl
@[simp] theorem onCt_up : (s.onCt f).up = s.up := rfl
@[simp] theorem onCt_port : (s.onCt f).port = s.port := rfl
@[simp] theorem onCt_aplic : (s.onCt f).aplic = s.aplic := rfl
@[simp] theorem onCt_clock : (s.onCt f).clock = s.clock := rfl
@[simp] theorem onCt_viol : (s.onCt f).viol = s.viol := rfl
@[simp] theorem onCt_out : (s.onCt f).out = s.out := rfl
@[simp] theorem onCt_free : (s.onCt f).free = s.free := rfl
@[simp] theorem onCt_pending : (s.onCt f).pending = s.pending := rfl
@[simp] theorem onCt_onCt (g : Ct → Ct) : (s.onCt g).onCt f = s.onCt (fun x => f (g x)) := rfl
end Ct

/-! ### onLt -/

section Lt
variable (f : LightTable → LightTable)
@[simp] theorem onLt_ct : (s.onLt f).ct = s.ct := rfl
@[simp] theorem onLt_lt : (s.onLt f).lt = f s.lt := rfl
@[simp] theorem onLt_pwr : (s.onLt f).pwr = s.pwr := rfl
@[simp] theorem onLt_harts : (s.onLt f).harts = s.harts := rfl
@[simp] theorem onLt_mesh : (s.onLt f).mesh = s.mesh := rfl
@[simp] theorem onLt_kp : (s.onLt f).kp = s.kp := rfl
@[simp] theorem onLt_disp : (s.onLt f).disp = s.disp := rfl
@[simp] theorem onLt_host : (s.onLt f).host = s.host := rfl
@[simp] theorem onLt_rings : (s.onLt f).rings = s.rings := rfl
@[simp] theorem onLt_lb : (s.onLt f).lb = s.lb := rfl
@[simp] theorem onLt_cx : (s.onLt f).cx = s.cx := rfl
@[simp] theorem onLt_mu : (s.onLt f).mu = s.mu := rfl
@[simp] theorem onLt_sd : (s.onLt f).sd = s.sd := rfl
@[simp] theorem onLt_ln : (s.onLt f).ln = s.ln := rfl
@[simp] theorem onLt_up : (s.onLt f).up = s.up := rfl
@[simp] theorem onLt_port : (s.onLt f).port = s.port := rfl
@[simp] theorem onLt_aplic : (s.onLt f).aplic = s.aplic := rfl
@[simp] theorem onLt_clock : (s.onLt f).clock = s.clock := rfl
@[simp] theorem onLt_viol : (s.onLt f).viol = s.viol := rfl
@[simp] theorem onLt_out : (s.onLt f).out = s.out := rfl
@[simp] theorem onLt_free : (s.onLt f).free = s.free := rfl
@[simp] theorem onLt_pending : (s.onLt f).pending = s.pending := rfl
@[simp] theorem onLt_onLt (g : LightTable → LightTable) : (s.onLt g).onLt f = s.onLt (fun x => f (g x)) := rfl
end Lt

/-! ### onPwr -/

section Pwr
variable (f : Power → Power)
@[simp] theorem onPwr_ct : (s.onPwr f).ct = s.ct := rfl
@[simp] theorem onPwr_lt : (s.onPwr f).lt = s.lt := rfl
@[simp] theorem onPwr_pwr : (s.onPwr f).pwr = f s.pwr := rfl
@[simp] theorem onPwr_harts : (s.onPwr f).harts = s.harts := rfl
@[simp] theorem onPwr_mesh : (s.onPwr f).mesh = s.mesh := rfl
@[simp] theorem onPwr_kp : (s.onPwr f).kp = s.kp := rfl
@[simp] theorem onPwr_disp : (s.onPwr f).disp = s.disp := rfl
@[simp] theorem onPwr_host : (s.onPwr f).host = s.host := rfl
@[simp] theorem onPwr_rings : (s.onPwr f).rings = s.rings := rfl
@[simp] theorem onPwr_lb : (s.onPwr f).lb = s.lb := rfl
@[simp] theorem onPwr_cx : (s.onPwr f).cx = s.cx := rfl
@[simp] theorem onPwr_mu : (s.onPwr f).mu = s.mu := rfl
@[simp] theorem onPwr_sd : (s.onPwr f).sd = s.sd := rfl
@[simp] theorem onPwr_ln : (s.onPwr f).ln = s.ln := rfl
@[simp] theorem onPwr_up : (s.onPwr f).up = s.up := rfl
@[simp] theorem onPwr_port : (s.onPwr f).port = s.port := rfl
@[simp] theorem onPwr_aplic : (s.onPwr f).aplic = s.aplic := rfl
@[simp] theorem onPwr_clock : (s.onPwr f).clock = s.clock := rfl
@[simp] theorem onPwr_viol : (s.onPwr f).viol = s.viol := rfl
@[simp] theorem onPwr_out : (s.onPwr f).out = s.out := rfl
@[simp] theorem onPwr_free : (s.onPwr f).free = s.free := rfl
@[simp] theorem onPwr_pending : (s.onPwr f).pending = s.pending := rfl
@[simp] theorem onPwr_onPwr (g : Power → Power) : (s.onPwr g).onPwr f = s.onPwr (fun x => f (g x)) := rfl
end Pwr

/-! ### onMesh -/

section Mesh
variable (f : Mesh → Mesh)
@[simp] theorem onMesh_ct : (s.onMesh f).ct = s.ct := rfl
@[simp] theorem onMesh_lt : (s.onMesh f).lt = s.lt := rfl
@[simp] theorem onMesh_pwr : (s.onMesh f).pwr = s.pwr := rfl
@[simp] theorem onMesh_harts : (s.onMesh f).harts = s.harts := rfl
@[simp] theorem onMesh_mesh : (s.onMesh f).mesh = f s.mesh := rfl
@[simp] theorem onMesh_kp : (s.onMesh f).kp = s.kp := rfl
@[simp] theorem onMesh_disp : (s.onMesh f).disp = s.disp := rfl
@[simp] theorem onMesh_host : (s.onMesh f).host = s.host := rfl
@[simp] theorem onMesh_rings : (s.onMesh f).rings = s.rings := rfl
@[simp] theorem onMesh_lb : (s.onMesh f).lb = s.lb := rfl
@[simp] theorem onMesh_cx : (s.onMesh f).cx = s.cx := rfl
@[simp] theorem onMesh_mu : (s.onMesh f).mu = s.mu := rfl
@[simp] theorem onMesh_sd : (s.onMesh f).sd = s.sd := rfl
@[simp] theorem onMesh_ln : (s.onMesh f).ln = s.ln := rfl
@[simp] theorem onMesh_up : (s.onMesh f).up = s.up := rfl
@[simp] theorem onMesh_port : (s.onMesh f).port = s.port := rfl
@[simp] theorem onMesh_aplic : (s.onMesh f).aplic = s.aplic := rfl
@[simp] theorem onMesh_clock : (s.onMesh f).clock = s.clock := rfl
@[simp] theorem onMesh_viol : (s.onMesh f).viol = s.viol := rfl
@[simp] theorem onMesh_out : (s.onMesh f).out = s.out := rfl
@[simp] theorem onMesh_free : (s.onMesh f).free = s.free := rfl
@[simp] theorem onMesh_pending : (s.onMesh f).pending = s.pending := rfl
@[simp] theorem onMesh_onMesh (g : Mesh → Mesh) : (s.onMesh g).onMesh f = s.onMesh (fun x => f (g x)) := rfl
end Mesh

/-! ### onKp -/

section Kp
variable (f : Keeper → Keeper)
@[simp] theorem onKp_ct : (s.onKp f).ct = s.ct := rfl
@[simp] theorem onKp_lt : (s.onKp f).lt = s.lt := rfl
@[simp] theorem onKp_pwr : (s.onKp f).pwr = s.pwr := rfl
@[simp] theorem onKp_harts : (s.onKp f).harts = s.harts := rfl
@[simp] theorem onKp_mesh : (s.onKp f).mesh = s.mesh := rfl
@[simp] theorem onKp_kp : (s.onKp f).kp = f s.kp := rfl
@[simp] theorem onKp_disp : (s.onKp f).disp = s.disp := rfl
@[simp] theorem onKp_host : (s.onKp f).host = s.host := rfl
@[simp] theorem onKp_rings : (s.onKp f).rings = s.rings := rfl
@[simp] theorem onKp_lb : (s.onKp f).lb = s.lb := rfl
@[simp] theorem onKp_cx : (s.onKp f).cx = s.cx := rfl
@[simp] theorem onKp_mu : (s.onKp f).mu = s.mu := rfl
@[simp] theorem onKp_sd : (s.onKp f).sd = s.sd := rfl
@[simp] theorem onKp_ln : (s.onKp f).ln = s.ln := rfl
@[simp] theorem onKp_up : (s.onKp f).up = s.up := rfl
@[simp] theorem onKp_port : (s.onKp f).port = s.port := rfl
@[simp] theorem onKp_aplic : (s.onKp f).aplic = s.aplic := rfl
@[simp] theorem onKp_clock : (s.onKp f).clock = s.clock := rfl
@[simp] theorem onKp_viol : (s.onKp f).viol = s.viol := rfl
@[simp] theorem onKp_out : (s.onKp f).out = s.out := rfl
@[simp] theorem onKp_free : (s.onKp f).free = s.free := rfl
@[simp] theorem onKp_pending : (s.onKp f).pending = s.pending := rfl
@[simp] theorem onKp_onKp (g : Keeper → Keeper) : (s.onKp g).onKp f = s.onKp (fun x => f (g x)) := rfl
end Kp

/-! ### onDisp -/

section Disp
variable (f : Dispatch → Dispatch)
@[simp] theorem onDisp_ct : (s.onDisp f).ct = s.ct := rfl
@[simp] theorem onDisp_lt : (s.onDisp f).lt = s.lt := rfl
@[simp] theorem onDisp_pwr : (s.onDisp f).pwr = s.pwr := rfl
@[simp] theorem onDisp_harts : (s.onDisp f).harts = s.harts := rfl
@[simp] theorem onDisp_mesh : (s.onDisp f).mesh = s.mesh := rfl
@[simp] theorem onDisp_kp : (s.onDisp f).kp = s.kp := rfl
@[simp] theorem onDisp_disp : (s.onDisp f).disp = f s.disp := rfl
@[simp] theorem onDisp_host : (s.onDisp f).host = s.host := rfl
@[simp] theorem onDisp_rings : (s.onDisp f).rings = s.rings := rfl
@[simp] theorem onDisp_lb : (s.onDisp f).lb = s.lb := rfl
@[simp] theorem onDisp_cx : (s.onDisp f).cx = s.cx := rfl
@[simp] theorem onDisp_mu : (s.onDisp f).mu = s.mu := rfl
@[simp] theorem onDisp_sd : (s.onDisp f).sd = s.sd := rfl
@[simp] theorem onDisp_ln : (s.onDisp f).ln = s.ln := rfl
@[simp] theorem onDisp_up : (s.onDisp f).up = s.up := rfl
@[simp] theorem onDisp_port : (s.onDisp f).port = s.port := rfl
@[simp] theorem onDisp_aplic : (s.onDisp f).aplic = s.aplic := rfl
@[simp] theorem onDisp_clock : (s.onDisp f).clock = s.clock := rfl
@[simp] theorem onDisp_viol : (s.onDisp f).viol = s.viol := rfl
@[simp] theorem onDisp_out : (s.onDisp f).out = s.out := rfl
@[simp] theorem onDisp_free : (s.onDisp f).free = s.free := rfl
@[simp] theorem onDisp_pending : (s.onDisp f).pending = s.pending := rfl
@[simp] theorem onDisp_onDisp (g : Dispatch → Dispatch) : (s.onDisp g).onDisp f = s.onDisp (fun x => f (g x)) := rfl
end Disp

/-! ### onHost -/

section Host
variable (f : HostIf → HostIf)
@[simp] theorem onHost_ct : (s.onHost f).ct = s.ct := rfl
@[simp] theorem onHost_lt : (s.onHost f).lt = s.lt := rfl
@[simp] theorem onHost_pwr : (s.onHost f).pwr = s.pwr := rfl
@[simp] theorem onHost_harts : (s.onHost f).harts = s.harts := rfl
@[simp] theorem onHost_mesh : (s.onHost f).mesh = s.mesh := rfl
@[simp] theorem onHost_kp : (s.onHost f).kp = s.kp := rfl
@[simp] theorem onHost_disp : (s.onHost f).disp = s.disp := rfl
@[simp] theorem onHost_host : (s.onHost f).host = f s.host := rfl
@[simp] theorem onHost_rings : (s.onHost f).rings = s.rings := rfl
@[simp] theorem onHost_lb : (s.onHost f).lb = s.lb := rfl
@[simp] theorem onHost_cx : (s.onHost f).cx = s.cx := rfl
@[simp] theorem onHost_mu : (s.onHost f).mu = s.mu := rfl
@[simp] theorem onHost_sd : (s.onHost f).sd = s.sd := rfl
@[simp] theorem onHost_ln : (s.onHost f).ln = s.ln := rfl
@[simp] theorem onHost_up : (s.onHost f).up = s.up := rfl
@[simp] theorem onHost_port : (s.onHost f).port = s.port := rfl
@[simp] theorem onHost_aplic : (s.onHost f).aplic = s.aplic := rfl
@[simp] theorem onHost_clock : (s.onHost f).clock = s.clock := rfl
@[simp] theorem onHost_viol : (s.onHost f).viol = s.viol := rfl
@[simp] theorem onHost_out : (s.onHost f).out = s.out := rfl
@[simp] theorem onHost_free : (s.onHost f).free = s.free := rfl
@[simp] theorem onHost_pending : (s.onHost f).pending = s.pending := rfl
@[simp] theorem onHost_onHost (g : HostIf → HostIf) : (s.onHost g).onHost f = s.onHost (fun x => f (g x)) := rfl
end Host

/-! ### onRings -/

section Rings
variable (f : Rings → Rings)
@[simp] theorem onRings_ct : (s.onRings f).ct = s.ct := rfl
@[simp] theorem onRings_lt : (s.onRings f).lt = s.lt := rfl
@[simp] theorem onRings_pwr : (s.onRings f).pwr = s.pwr := rfl
@[simp] theorem onRings_harts : (s.onRings f).harts = s.harts := rfl
@[simp] theorem onRings_mesh : (s.onRings f).mesh = s.mesh := rfl
@[simp] theorem onRings_kp : (s.onRings f).kp = s.kp := rfl
@[simp] theorem onRings_disp : (s.onRings f).disp = s.disp := rfl
@[simp] theorem onRings_host : (s.onRings f).host = s.host := rfl
@[simp] theorem onRings_rings : (s.onRings f).rings = f s.rings := rfl
@[simp] theorem onRings_lb : (s.onRings f).lb = s.lb := rfl
@[simp] theorem onRings_cx : (s.onRings f).cx = s.cx := rfl
@[simp] theorem onRings_mu : (s.onRings f).mu = s.mu := rfl
@[simp] theorem onRings_sd : (s.onRings f).sd = s.sd := rfl
@[simp] theorem onRings_ln : (s.onRings f).ln = s.ln := rfl
@[simp] theorem onRings_up : (s.onRings f).up = s.up := rfl
@[simp] theorem onRings_port : (s.onRings f).port = s.port := rfl
@[simp] theorem onRings_aplic : (s.onRings f).aplic = s.aplic := rfl
@[simp] theorem onRings_clock : (s.onRings f).clock = s.clock := rfl
@[simp] theorem onRings_viol : (s.onRings f).viol = s.viol := rfl
@[simp] theorem onRings_out : (s.onRings f).out = s.out := rfl
@[simp] theorem onRings_free : (s.onRings f).free = s.free := rfl
@[simp] theorem onRings_pending : (s.onRings f).pending = s.pending := rfl
@[simp] theorem onRings_onRings (g : Rings → Rings) : (s.onRings g).onRings f = s.onRings (fun x => f (g x)) := rfl
end Rings

/-! ### onLb -/

section Lb
variable (f : Logbook → Logbook)
@[simp] theorem onLb_ct : (s.onLb f).ct = s.ct := rfl
@[simp] theorem onLb_lt : (s.onLb f).lt = s.lt := rfl
@[simp] theorem onLb_pwr : (s.onLb f).pwr = s.pwr := rfl
@[simp] theorem onLb_harts : (s.onLb f).harts = s.harts := rfl
@[simp] theorem onLb_mesh : (s.onLb f).mesh = s.mesh := rfl
@[simp] theorem onLb_kp : (s.onLb f).kp = s.kp := rfl
@[simp] theorem onLb_disp : (s.onLb f).disp = s.disp := rfl
@[simp] theorem onLb_host : (s.onLb f).host = s.host := rfl
@[simp] theorem onLb_rings : (s.onLb f).rings = s.rings := rfl
@[simp] theorem onLb_lb : (s.onLb f).lb = f s.lb := rfl
@[simp] theorem onLb_cx : (s.onLb f).cx = s.cx := rfl
@[simp] theorem onLb_mu : (s.onLb f).mu = s.mu := rfl
@[simp] theorem onLb_sd : (s.onLb f).sd = s.sd := rfl
@[simp] theorem onLb_ln : (s.onLb f).ln = s.ln := rfl
@[simp] theorem onLb_up : (s.onLb f).up = s.up := rfl
@[simp] theorem onLb_port : (s.onLb f).port = s.port := rfl
@[simp] theorem onLb_aplic : (s.onLb f).aplic = s.aplic := rfl
@[simp] theorem onLb_clock : (s.onLb f).clock = s.clock := rfl
@[simp] theorem onLb_viol : (s.onLb f).viol = s.viol := rfl
@[simp] theorem onLb_out : (s.onLb f).out = s.out := rfl
@[simp] theorem onLb_free : (s.onLb f).free = s.free := rfl
@[simp] theorem onLb_pending : (s.onLb f).pending = s.pending := rfl
@[simp] theorem onLb_onLb (g : Logbook → Logbook) : (s.onLb g).onLb f = s.onLb (fun x => f (g x)) := rfl
end Lb

/-! ### onCx -/

section Cx
variable (f : Crypto → Crypto)
@[simp] theorem onCx_ct : (s.onCx f).ct = s.ct := rfl
@[simp] theorem onCx_lt : (s.onCx f).lt = s.lt := rfl
@[simp] theorem onCx_pwr : (s.onCx f).pwr = s.pwr := rfl
@[simp] theorem onCx_harts : (s.onCx f).harts = s.harts := rfl
@[simp] theorem onCx_mesh : (s.onCx f).mesh = s.mesh := rfl
@[simp] theorem onCx_kp : (s.onCx f).kp = s.kp := rfl
@[simp] theorem onCx_disp : (s.onCx f).disp = s.disp := rfl
@[simp] theorem onCx_host : (s.onCx f).host = s.host := rfl
@[simp] theorem onCx_rings : (s.onCx f).rings = s.rings := rfl
@[simp] theorem onCx_lb : (s.onCx f).lb = s.lb := rfl
@[simp] theorem onCx_cx : (s.onCx f).cx = f s.cx := rfl
@[simp] theorem onCx_mu : (s.onCx f).mu = s.mu := rfl
@[simp] theorem onCx_sd : (s.onCx f).sd = s.sd := rfl
@[simp] theorem onCx_ln : (s.onCx f).ln = s.ln := rfl
@[simp] theorem onCx_up : (s.onCx f).up = s.up := rfl
@[simp] theorem onCx_port : (s.onCx f).port = s.port := rfl
@[simp] theorem onCx_aplic : (s.onCx f).aplic = s.aplic := rfl
@[simp] theorem onCx_clock : (s.onCx f).clock = s.clock := rfl
@[simp] theorem onCx_viol : (s.onCx f).viol = s.viol := rfl
@[simp] theorem onCx_out : (s.onCx f).out = s.out := rfl
@[simp] theorem onCx_free : (s.onCx f).free = s.free := rfl
@[simp] theorem onCx_pending : (s.onCx f).pending = s.pending := rfl
@[simp] theorem onCx_onCx (g : Crypto → Crypto) : (s.onCx g).onCx f = s.onCx (fun x => f (g x)) := rfl
end Cx

/-! ### onMu -/

section Mu
variable (f : Units → Units)
@[simp] theorem onMu_ct : (s.onMu f).ct = s.ct := rfl
@[simp] theorem onMu_lt : (s.onMu f).lt = s.lt := rfl
@[simp] theorem onMu_pwr : (s.onMu f).pwr = s.pwr := rfl
@[simp] theorem onMu_harts : (s.onMu f).harts = s.harts := rfl
@[simp] theorem onMu_mesh : (s.onMu f).mesh = s.mesh := rfl
@[simp] theorem onMu_kp : (s.onMu f).kp = s.kp := rfl
@[simp] theorem onMu_disp : (s.onMu f).disp = s.disp := rfl
@[simp] theorem onMu_host : (s.onMu f).host = s.host := rfl
@[simp] theorem onMu_rings : (s.onMu f).rings = s.rings := rfl
@[simp] theorem onMu_lb : (s.onMu f).lb = s.lb := rfl
@[simp] theorem onMu_cx : (s.onMu f).cx = s.cx := rfl
@[simp] theorem onMu_mu : (s.onMu f).mu = f s.mu := rfl
@[simp] theorem onMu_sd : (s.onMu f).sd = s.sd := rfl
@[simp] theorem onMu_ln : (s.onMu f).ln = s.ln := rfl
@[simp] theorem onMu_up : (s.onMu f).up = s.up := rfl
@[simp] theorem onMu_port : (s.onMu f).port = s.port := rfl
@[simp] theorem onMu_aplic : (s.onMu f).aplic = s.aplic := rfl
@[simp] theorem onMu_clock : (s.onMu f).clock = s.clock := rfl
@[simp] theorem onMu_viol : (s.onMu f).viol = s.viol := rfl
@[simp] theorem onMu_out : (s.onMu f).out = s.out := rfl
@[simp] theorem onMu_free : (s.onMu f).free = s.free := rfl
@[simp] theorem onMu_pending : (s.onMu f).pending = s.pending := rfl
@[simp] theorem onMu_onMu (g : Units → Units) : (s.onMu g).onMu f = s.onMu (fun x => f (g x)) := rfl
end Mu

/-! ### onSd -/

section Sd
variable (f : Measure → Measure)
@[simp] theorem onSd_ct : (s.onSd f).ct = s.ct := rfl
@[simp] theorem onSd_lt : (s.onSd f).lt = s.lt := rfl
@[simp] theorem onSd_pwr : (s.onSd f).pwr = s.pwr := rfl
@[simp] theorem onSd_harts : (s.onSd f).harts = s.harts := rfl
@[simp] theorem onSd_mesh : (s.onSd f).mesh = s.mesh := rfl
@[simp] theorem onSd_kp : (s.onSd f).kp = s.kp := rfl
@[simp] theorem onSd_disp : (s.onSd f).disp = s.disp := rfl
@[simp] theorem onSd_host : (s.onSd f).host = s.host := rfl
@[simp] theorem onSd_rings : (s.onSd f).rings = s.rings := rfl
@[simp] theorem onSd_lb : (s.onSd f).lb = s.lb := rfl
@[simp] theorem onSd_cx : (s.onSd f).cx = s.cx := rfl
@[simp] theorem onSd_mu : (s.onSd f).mu = s.mu := rfl
@[simp] theorem onSd_sd : (s.onSd f).sd = f s.sd := rfl
@[simp] theorem onSd_ln : (s.onSd f).ln = s.ln := rfl
@[simp] theorem onSd_up : (s.onSd f).up = s.up := rfl
@[simp] theorem onSd_port : (s.onSd f).port = s.port := rfl
@[simp] theorem onSd_aplic : (s.onSd f).aplic = s.aplic := rfl
@[simp] theorem onSd_clock : (s.onSd f).clock = s.clock := rfl
@[simp] theorem onSd_viol : (s.onSd f).viol = s.viol := rfl
@[simp] theorem onSd_out : (s.onSd f).out = s.out := rfl
@[simp] theorem onSd_free : (s.onSd f).free = s.free := rfl
@[simp] theorem onSd_pending : (s.onSd f).pending = s.pending := rfl
@[simp] theorem onSd_onSd (g : Measure → Measure) : (s.onSd g).onSd f = s.onSd (fun x => f (g x)) := rfl
end Sd

/-! ### onLn -/

section Ln
variable (f : Lanes → Lanes)
@[simp] theorem onLn_ct : (s.onLn f).ct = s.ct := rfl
@[simp] theorem onLn_lt : (s.onLn f).lt = s.lt := rfl
@[simp] theorem onLn_pwr : (s.onLn f).pwr = s.pwr := rfl
@[simp] theorem onLn_harts : (s.onLn f).harts = s.harts := rfl
@[simp] theorem onLn_mesh : (s.onLn f).mesh = s.mesh := rfl
@[simp] theorem onLn_kp : (s.onLn f).kp = s.kp := rfl
@[simp] theorem onLn_disp : (s.onLn f).disp = s.disp := rfl
@[simp] theorem onLn_host : (s.onLn f).host = s.host := rfl
@[simp] theorem onLn_rings : (s.onLn f).rings = s.rings := rfl
@[simp] theorem onLn_lb : (s.onLn f).lb = s.lb := rfl
@[simp] theorem onLn_cx : (s.onLn f).cx = s.cx := rfl
@[simp] theorem onLn_mu : (s.onLn f).mu = s.mu := rfl
@[simp] theorem onLn_sd : (s.onLn f).sd = s.sd := rfl
@[simp] theorem onLn_ln : (s.onLn f).ln = f s.ln := rfl
@[simp] theorem onLn_up : (s.onLn f).up = s.up := rfl
@[simp] theorem onLn_port : (s.onLn f).port = s.port := rfl
@[simp] theorem onLn_aplic : (s.onLn f).aplic = s.aplic := rfl
@[simp] theorem onLn_clock : (s.onLn f).clock = s.clock := rfl
@[simp] theorem onLn_viol : (s.onLn f).viol = s.viol := rfl
@[simp] theorem onLn_out : (s.onLn f).out = s.out := rfl
@[simp] theorem onLn_free : (s.onLn f).free = s.free := rfl
@[simp] theorem onLn_pending : (s.onLn f).pending = s.pending := rfl
@[simp] theorem onLn_onLn (g : Lanes → Lanes) : (s.onLn g).onLn f = s.onLn (fun x => f (g x)) := rfl
end Ln

/-! ### onUp -/

section Up
variable (f : Update → Update)
@[simp] theorem onUp_ct : (s.onUp f).ct = s.ct := rfl
@[simp] theorem onUp_lt : (s.onUp f).lt = s.lt := rfl
@[simp] theorem onUp_pwr : (s.onUp f).pwr = s.pwr := rfl
@[simp] theorem onUp_harts : (s.onUp f).harts = s.harts := rfl
@[simp] theorem onUp_mesh : (s.onUp f).mesh = s.mesh := rfl
@[simp] theorem onUp_kp : (s.onUp f).kp = s.kp := rfl
@[simp] theorem onUp_disp : (s.onUp f).disp = s.disp := rfl
@[simp] theorem onUp_host : (s.onUp f).host = s.host := rfl
@[simp] theorem onUp_rings : (s.onUp f).rings = s.rings := rfl
@[simp] theorem onUp_lb : (s.onUp f).lb = s.lb := rfl
@[simp] theorem onUp_cx : (s.onUp f).cx = s.cx := rfl
@[simp] theorem onUp_mu : (s.onUp f).mu = s.mu := rfl
@[simp] theorem onUp_sd : (s.onUp f).sd = s.sd := rfl
@[simp] theorem onUp_ln : (s.onUp f).ln = s.ln := rfl
@[simp] theorem onUp_up : (s.onUp f).up = f s.up := rfl
@[simp] theorem onUp_port : (s.onUp f).port = s.port := rfl
@[simp] theorem onUp_aplic : (s.onUp f).aplic = s.aplic := rfl
@[simp] theorem onUp_clock : (s.onUp f).clock = s.clock := rfl
@[simp] theorem onUp_viol : (s.onUp f).viol = s.viol := rfl
@[simp] theorem onUp_out : (s.onUp f).out = s.out := rfl
@[simp] theorem onUp_free : (s.onUp f).free = s.free := rfl
@[simp] theorem onUp_pending : (s.onUp f).pending = s.pending := rfl
@[simp] theorem onUp_onUp (g : Update → Update) : (s.onUp g).onUp f = s.onUp (fun x => f (g x)) := rfl
end Up

/-! ### onPort -/

section Port
variable (f : Ports → Ports)
@[simp] theorem onPort_ct : (s.onPort f).ct = s.ct := rfl
@[simp] theorem onPort_lt : (s.onPort f).lt = s.lt := rfl
@[simp] theorem onPort_pwr : (s.onPort f).pwr = s.pwr := rfl
@[simp] theorem onPort_harts : (s.onPort f).harts = s.harts := rfl
@[simp] theorem onPort_mesh : (s.onPort f).mesh = s.mesh := rfl
@[simp] theorem onPort_kp : (s.onPort f).kp = s.kp := rfl
@[simp] theorem onPort_disp : (s.onPort f).disp = s.disp := rfl
@[simp] theorem onPort_host : (s.onPort f).host = s.host := rfl
@[simp] theorem onPort_rings : (s.onPort f).rings = s.rings := rfl
@[simp] theorem onPort_lb : (s.onPort f).lb = s.lb := rfl
@[simp] theorem onPort_cx : (s.onPort f).cx = s.cx := rfl
@[simp] theorem onPort_mu : (s.onPort f).mu = s.mu := rfl
@[simp] theorem onPort_sd : (s.onPort f).sd = s.sd := rfl
@[simp] theorem onPort_ln : (s.onPort f).ln = s.ln := rfl
@[simp] theorem onPort_up : (s.onPort f).up = s.up := rfl
@[simp] theorem onPort_port : (s.onPort f).port = f s.port := rfl
@[simp] theorem onPort_aplic : (s.onPort f).aplic = s.aplic := rfl
@[simp] theorem onPort_clock : (s.onPort f).clock = s.clock := rfl
@[simp] theorem onPort_viol : (s.onPort f).viol = s.viol := rfl
@[simp] theorem onPort_out : (s.onPort f).out = s.out := rfl
@[simp] theorem onPort_free : (s.onPort f).free = s.free := rfl
@[simp] theorem onPort_pending : (s.onPort f).pending = s.pending := rfl
@[simp] theorem onPort_onPort (g : Ports → Ports) : (s.onPort g).onPort f = s.onPort (fun x => f (g x)) := rfl
end Port

/-! ### onHart -/

section OnHart
variable (h : HartId) (f : Hart → Hart)
@[simp] theorem onHart_ct : (s.onHart h f).ct = s.ct := rfl
@[simp] theorem onHart_lt : (s.onHart h f).lt = s.lt := rfl
@[simp] theorem onHart_pwr : (s.onHart h f).pwr = s.pwr := rfl
@[simp] theorem onHart_harts : (s.onHart h f).harts = tmod {} s.harts h.val f := rfl
@[simp] theorem onHart_mesh : (s.onHart h f).mesh = s.mesh := rfl
@[simp] theorem onHart_kp : (s.onHart h f).kp = s.kp := rfl
@[simp] theorem onHart_disp : (s.onHart h f).disp = s.disp := rfl
@[simp] theorem onHart_host : (s.onHart h f).host = s.host := rfl
@[simp] theorem onHart_rings : (s.onHart h f).rings = s.rings := rfl
@[simp] theorem onHart_lb : (s.onHart h f).lb = s.lb := rfl
@[simp] theorem onHart_cx : (s.onHart h f).cx = s.cx := rfl
@[simp] theorem onHart_mu : (s.onHart h f).mu = s.mu := rfl
@[simp] theorem onHart_sd : (s.onHart h f).sd = s.sd := rfl
@[simp] theorem onHart_ln : (s.onHart h f).ln = s.ln := rfl
@[simp] theorem onHart_up : (s.onHart h f).up = s.up := rfl
@[simp] theorem onHart_port : (s.onHart h f).port = s.port := rfl
@[simp] theorem onHart_aplic : (s.onHart h f).aplic = s.aplic := rfl
@[simp] theorem onHart_clock : (s.onHart h f).clock = s.clock := rfl
@[simp] theorem onHart_viol : (s.onHart h f).viol = s.viol := rfl
@[simp] theorem onHart_out : (s.onHart h f).out = s.out := rfl
@[simp] theorem onHart_free : (s.onHart h f).free = s.free := rfl
@[simp] theorem onHart_pending : (s.onHart h f).pending = s.pending := rfl
end OnHart

/-! ### onRing -/

section OnRing
variable (r : Nat) (f : Ring → Ring)
@[simp] theorem onRing_ct : (s.onRing r f).ct = s.ct := rfl
@[simp] theorem onRing_lt : (s.onRing r f).lt = s.lt := rfl
@[simp] theorem onRing_pwr : (s.onRing r f).pwr = s.pwr := rfl
@[simp] theorem onRing_harts : (s.onRing r f).harts = s.harts := rfl
@[simp] theorem onRing_mesh : (s.onRing r f).mesh = s.mesh := rfl
@[simp] theorem onRing_kp : (s.onRing r f).kp = s.kp := rfl
@[simp] theorem onRing_disp : (s.onRing r f).disp = s.disp := rfl
@[simp] theorem onRing_host : (s.onRing r f).host = s.host := rfl
@[simp] theorem onRing_rings : (s.onRing r f).rings = { s.rings with tab := tmod {} s.rings.tab r f } := rfl
@[simp] theorem onRing_lb : (s.onRing r f).lb = s.lb := rfl
@[simp] theorem onRing_cx : (s.onRing r f).cx = s.cx := rfl
@[simp] theorem onRing_mu : (s.onRing r f).mu = s.mu := rfl
@[simp] theorem onRing_sd : (s.onRing r f).sd = s.sd := rfl
@[simp] theorem onRing_ln : (s.onRing r f).ln = s.ln := rfl
@[simp] theorem onRing_up : (s.onRing r f).up = s.up := rfl
@[simp] theorem onRing_port : (s.onRing r f).port = s.port := rfl
@[simp] theorem onRing_aplic : (s.onRing r f).aplic = s.aplic := rfl
@[simp] theorem onRing_clock : (s.onRing r f).clock = s.clock := rfl
@[simp] theorem onRing_viol : (s.onRing r f).viol = s.viol := rfl
@[simp] theorem onRing_out : (s.onRing r f).out = s.out := rfl
@[simp] theorem onRing_free : (s.onRing r f).free = s.free := rfl
@[simp] theorem onRing_pending : (s.onRing r f).pending = s.pending := rfl
end OnRing

/-! ### onFn -/

section OnFn
variable (n : Nat) (f : Fn → Fn)
@[simp] theorem onFn_ct : (s.onFn n f).ct = s.ct := rfl
@[simp] theorem onFn_lt : (s.onFn n f).lt = s.lt := rfl
@[simp] theorem onFn_pwr : (s.onFn n f).pwr = s.pwr := rfl
@[simp] theorem onFn_harts : (s.onFn n f).harts = s.harts := rfl
@[simp] theorem onFn_mesh : (s.onFn n f).mesh = s.mesh := rfl
@[simp] theorem onFn_kp : (s.onFn n f).kp = s.kp := rfl
@[simp] theorem onFn_disp : (s.onFn n f).disp = s.disp := rfl
@[simp] theorem onFn_host : (s.onFn n f).host = { s.host with fns := tmod {} s.host.fns n f } := rfl
@[simp] theorem onFn_rings : (s.onFn n f).rings = s.rings := rfl
@[simp] theorem onFn_lb : (s.onFn n f).lb = s.lb := rfl
@[simp] theorem onFn_cx : (s.onFn n f).cx = s.cx := rfl
@[simp] theorem onFn_mu : (s.onFn n f).mu = s.mu := rfl
@[simp] theorem onFn_sd : (s.onFn n f).sd = s.sd := rfl
@[simp] theorem onFn_ln : (s.onFn n f).ln = s.ln := rfl
@[simp] theorem onFn_up : (s.onFn n f).up = s.up := rfl
@[simp] theorem onFn_port : (s.onFn n f).port = s.port := rfl
@[simp] theorem onFn_aplic : (s.onFn n f).aplic = s.aplic := rfl
@[simp] theorem onFn_clock : (s.onFn n f).clock = s.clock := rfl
@[simp] theorem onFn_viol : (s.onFn n f).viol = s.viol := rfl
@[simp] theorem onFn_out : (s.onFn n f).out = s.out := rfl
@[simp] theorem onFn_free : (s.onFn n f).free = s.free := rfl
@[simp] theorem onFn_pending : (s.onFn n f).pending = s.pending := rfl
end OnFn

/-! ### onDom -/

section OnDom
variable (d : Nat) (f : Domain → Domain)
@[simp] theorem onDom_ct : (s.onDom d f).ct = s.ct := rfl
@[simp] theorem onDom_lt : (s.onDom d f).lt = s.lt := rfl
@[simp] theorem onDom_pwr : (s.onDom d f).pwr = s.pwr := rfl
@[simp] theorem onDom_harts : (s.onDom d f).harts = s.harts := rfl
@[simp] theorem onDom_mesh : (s.onDom d f).mesh = s.mesh := rfl
@[simp] theorem onDom_kp : (s.onDom d f).kp = s.kp := rfl
@[simp] theorem onDom_disp : (s.onDom d f).disp = { s.disp with doms := tmod {} s.disp.doms d f } := rfl
@[simp] theorem onDom_host : (s.onDom d f).host = s.host := rfl
@[simp] theorem onDom_rings : (s.onDom d f).rings = s.rings := rfl
@[simp] theorem onDom_lb : (s.onDom d f).lb = s.lb := rfl
@[simp] theorem onDom_cx : (s.onDom d f).cx = s.cx := rfl
@[simp] theorem onDom_mu : (s.onDom d f).mu = s.mu := rfl
@[simp] theorem onDom_sd : (s.onDom d f).sd = s.sd := rfl
@[simp] theorem onDom_ln : (s.onDom d f).ln = s.ln := rfl
@[simp] theorem onDom_up : (s.onDom d f).up = s.up := rfl
@[simp] theorem onDom_port : (s.onDom d f).port = s.port := rfl
@[simp] theorem onDom_aplic : (s.onDom d f).aplic = s.aplic := rfl
@[simp] theorem onDom_clock : (s.onDom d f).clock = s.clock := rfl
@[simp] theorem onDom_viol : (s.onDom d f).viol = s.viol := rfl
@[simp] theorem onDom_out : (s.onDom d f).out = s.out := rfl
@[simp] theorem onDom_free : (s.onDom d f).free = s.free := rfl
@[simp] theorem onDom_pending : (s.onDom d f).pending = s.pending := rfl
end OnDom

/-! ### onEncl -/

section OnEncl
variable (e : Nat) (f : Enclave → Enclave)
@[simp] theorem onEncl_ct : (s.onEncl e f).ct = s.ct := rfl
@[simp] theorem onEncl_lt : (s.onEncl e f).lt = s.lt := rfl
@[simp] theorem onEncl_pwr : (s.onEncl e f).pwr = s.pwr := rfl
@[simp] theorem onEncl_harts : (s.onEncl e f).harts = s.harts := rfl
@[simp] theorem onEncl_mesh : (s.onEncl e f).mesh = s.mesh := rfl
@[simp] theorem onEncl_kp : (s.onEncl e f).kp = { s.kp with encl := tmod {} s.kp.encl e f } := rfl
@[simp] theorem onEncl_disp : (s.onEncl e f).disp = s.disp := rfl
@[simp] theorem onEncl_host : (s.onEncl e f).host = s.host := rfl
@[simp] theorem onEncl_rings : (s.onEncl e f).rings = s.rings := rfl
@[simp] theorem onEncl_lb : (s.onEncl e f).lb = s.lb := rfl
@[simp] theorem onEncl_cx : (s.onEncl e f).cx = s.cx := rfl
@[simp] theorem onEncl_mu : (s.onEncl e f).mu = s.mu := rfl
@[simp] theorem onEncl_sd : (s.onEncl e f).sd = s.sd := rfl
@[simp] theorem onEncl_ln : (s.onEncl e f).ln = s.ln := rfl
@[simp] theorem onEncl_up : (s.onEncl e f).up = s.up := rfl
@[simp] theorem onEncl_port : (s.onEncl e f).port = s.port := rfl
@[simp] theorem onEncl_aplic : (s.onEncl e f).aplic = s.aplic := rfl
@[simp] theorem onEncl_clock : (s.onEncl e f).clock = s.clock := rfl
@[simp] theorem onEncl_viol : (s.onEncl e f).viol = s.viol := rfl
@[simp] theorem onEncl_out : (s.onEncl e f).out = s.out := rfl
@[simp] theorem onEncl_free : (s.onEncl e f).free = s.free := rfl
@[simp] theorem onEncl_pending : (s.onEncl e f).pending = s.pending := rfl
end OnEncl

/-! ### onLine -/

section OnLine
variable (l : Nat) (f : LineState → LineState)
@[simp] theorem onLine_ct : (s.onLine l f).ct = s.ct := rfl
@[simp] theorem onLine_lt : (s.onLine l f).lt = s.lt := rfl
@[simp] theorem onLine_pwr : (s.onLine l f).pwr = s.pwr := rfl
@[simp] theorem onLine_harts : (s.onLine l f).harts = s.harts := rfl
@[simp] theorem onLine_mesh : (s.onLine l f).mesh = { s.mesh with lines := tmod {} s.mesh.lines l f } := rfl
@[simp] theorem onLine_kp : (s.onLine l f).kp = s.kp := rfl
@[simp] theorem onLine_disp : (s.onLine l f).disp = s.disp := rfl
@[simp] theorem onLine_host : (s.onLine l f).host = s.host := rfl
@[simp] theorem onLine_rings : (s.onLine l f).rings = s.rings := rfl
@[simp] theorem onLine_lb : (s.onLine l f).lb = s.lb := rfl
@[simp] theorem onLine_cx : (s.onLine l f).cx = s.cx := rfl
@[simp] theorem onLine_mu : (s.onLine l f).mu = s.mu := rfl
@[simp] theorem onLine_sd : (s.onLine l f).sd = s.sd := rfl
@[simp] theorem onLine_ln : (s.onLine l f).ln = s.ln := rfl
@[simp] theorem onLine_up : (s.onLine l f).up = s.up := rfl
@[simp] theorem onLine_port : (s.onLine l f).port = s.port := rfl
@[simp] theorem onLine_aplic : (s.onLine l f).aplic = s.aplic := rfl
@[simp] theorem onLine_clock : (s.onLine l f).clock = s.clock := rfl
@[simp] theorem onLine_viol : (s.onLine l f).viol = s.viol := rfl
@[simp] theorem onLine_out : (s.onLine l f).out = s.out := rfl
@[simp] theorem onLine_free : (s.onLine l f).free = s.free := rfl
@[simp] theorem onLine_pending : (s.onLine l f).pending = s.pending := rfl
end OnLine

/-! ### onSlice -/

section OnSlice
variable (i : Nat) (f : Slice → Slice)
@[simp] theorem onSlice_ct : (s.onSlice i f).ct = s.ct := rfl
@[simp] theorem onSlice_lt : (s.onSlice i f).lt = s.lt := rfl
@[simp] theorem onSlice_pwr : (s.onSlice i f).pwr = s.pwr := rfl
@[simp] theorem onSlice_harts : (s.onSlice i f).harts = s.harts := rfl
@[simp] theorem onSlice_mesh : (s.onSlice i f).mesh = { s.mesh with slices := tmod {} s.mesh.slices i f } := rfl
@[simp] theorem onSlice_kp : (s.onSlice i f).kp = s.kp := rfl
@[simp] theorem onSlice_disp : (s.onSlice i f).disp = s.disp := rfl
@[simp] theorem onSlice_host : (s.onSlice i f).host = s.host := rfl
@[simp] theorem onSlice_rings : (s.onSlice i f).rings = s.rings := rfl
@[simp] theorem onSlice_lb : (s.onSlice i f).lb = s.lb := rfl
@[simp] theorem onSlice_cx : (s.onSlice i f).cx = s.cx := rfl
@[simp] theorem onSlice_mu : (s.onSlice i f).mu = s.mu := rfl
@[simp] theorem onSlice_sd : (s.onSlice i f).sd = s.sd := rfl
@[simp] theorem onSlice_ln : (s.onSlice i f).ln = s.ln := rfl
@[simp] theorem onSlice_up : (s.onSlice i f).up = s.up := rfl
@[simp] theorem onSlice_port : (s.onSlice i f).port = s.port := rfl
@[simp] theorem onSlice_aplic : (s.onSlice i f).aplic = s.aplic := rfl
@[simp] theorem onSlice_clock : (s.onSlice i f).clock = s.clock := rfl
@[simp] theorem onSlice_viol : (s.onSlice i f).viol = s.viol := rfl
@[simp] theorem onSlice_out : (s.onSlice i f).out = s.out := rfl
@[simp] theorem onSlice_free : (s.onSlice i f).free = s.free := rfl
@[simp] theorem onSlice_pending : (s.onSlice i f).pending = s.pending := rfl
end OnSlice

/-! ### onChan -/

section OnChan
variable (c : Nat) (f : Channel → Channel)
@[simp] theorem onChan_ct : (s.onChan c f).ct = s.ct := rfl
@[simp] theorem onChan_lt : (s.onChan c f).lt = s.lt := rfl
@[simp] theorem onChan_pwr : (s.onChan c f).pwr = s.pwr := rfl
@[simp] theorem onChan_harts : (s.onChan c f).harts = s.harts := rfl
@[simp] theorem onChan_mesh : (s.onChan c f).mesh = s.mesh := rfl
@[simp] theorem onChan_kp : (s.onChan c f).kp = s.kp := rfl
@[simp] theorem onChan_disp : (s.onChan c f).disp = s.disp := rfl
@[simp] theorem onChan_host : (s.onChan c f).host = s.host := rfl
@[simp] theorem onChan_rings : (s.onChan c f).rings = s.rings := rfl
@[simp] theorem onChan_lb : (s.onChan c f).lb = s.lb := rfl
@[simp] theorem onChan_cx : (s.onChan c f).cx = s.cx := rfl
@[simp] theorem onChan_mu : (s.onChan c f).mu = s.mu := rfl
@[simp] theorem onChan_sd : (s.onChan c f).sd = { s.sd with chans := tmod {} s.sd.chans c f } := rfl
@[simp] theorem onChan_ln : (s.onChan c f).ln = s.ln := rfl
@[simp] theorem onChan_up : (s.onChan c f).up = s.up := rfl
@[simp] theorem onChan_port : (s.onChan c f).port = s.port := rfl
@[simp] theorem onChan_aplic : (s.onChan c f).aplic = s.aplic := rfl
@[simp] theorem onChan_clock : (s.onChan c f).clock = s.clock := rfl
@[simp] theorem onChan_viol : (s.onChan c f).viol = s.viol := rfl
@[simp] theorem onChan_out : (s.onChan c f).out = s.out := rfl
@[simp] theorem onChan_free : (s.onChan c f).free = s.free := rfl
@[simp] theorem onChan_pending : (s.onChan c f).pending = s.pending := rfl
end OnChan

/-! ### onSite -/

section OnSite
variable (n : Nat) (f : TripSite → TripSite)
@[simp] theorem onSite_ct : (s.onSite n f).ct = s.ct := rfl
@[simp] theorem onSite_lt : (s.onSite n f).lt = s.lt := rfl
@[simp] theorem onSite_pwr : (s.onSite n f).pwr = s.pwr := rfl
@[simp] theorem onSite_harts : (s.onSite n f).harts = s.harts := rfl
@[simp] theorem onSite_mesh : (s.onSite n f).mesh = s.mesh := rfl
@[simp] theorem onSite_kp : (s.onSite n f).kp = s.kp := rfl
@[simp] theorem onSite_disp : (s.onSite n f).disp = s.disp := rfl
@[simp] theorem onSite_host : (s.onSite n f).host = s.host := rfl
@[simp] theorem onSite_rings : (s.onSite n f).rings = s.rings := rfl
@[simp] theorem onSite_lb : (s.onSite n f).lb = s.lb := rfl
@[simp] theorem onSite_cx : (s.onSite n f).cx = s.cx := rfl
@[simp] theorem onSite_mu : (s.onSite n f).mu = s.mu := rfl
@[simp] theorem onSite_sd : (s.onSite n f).sd = { s.sd with sites := tmod {} s.sd.sites n f } := rfl
@[simp] theorem onSite_ln : (s.onSite n f).ln = s.ln := rfl
@[simp] theorem onSite_up : (s.onSite n f).up = s.up := rfl
@[simp] theorem onSite_port : (s.onSite n f).port = s.port := rfl
@[simp] theorem onSite_aplic : (s.onSite n f).aplic = s.aplic := rfl
@[simp] theorem onSite_clock : (s.onSite n f).clock = s.clock := rfl
@[simp] theorem onSite_viol : (s.onSite n f).viol = s.viol := rfl
@[simp] theorem onSite_out : (s.onSite n f).out = s.out := rfl
@[simp] theorem onSite_free : (s.onSite n f).free = s.free := rfl
@[simp] theorem onSite_pending : (s.onSite n f).pending = s.pending := rfl
end OnSite

/-! ### onLane -/

section OnLane
variable (n : Nat) (f : Lane → Lane)
@[simp] theorem onLane_ct : (s.onLane n f).ct = s.ct := rfl
@[simp] theorem onLane_lt : (s.onLane n f).lt = s.lt := rfl
@[simp] theorem onLane_pwr : (s.onLane n f).pwr = s.pwr := rfl
@[simp] theorem onLane_harts : (s.onLane n f).harts = s.harts := rfl
@[simp] theorem onLane_mesh : (s.onLane n f).mesh = s.mesh := rfl
@[simp] theorem onLane_kp : (s.onLane n f).kp = s.kp := rfl
@[simp] theorem onLane_disp : (s.onLane n f).disp = s.disp := rfl
@[simp] theorem onLane_host : (s.onLane n f).host = s.host := rfl
@[simp] theorem onLane_rings : (s.onLane n f).rings = s.rings := rfl
@[simp] theorem onLane_lb : (s.onLane n f).lb = s.lb := rfl
@[simp] theorem onLane_cx : (s.onLane n f).cx = s.cx := rfl
@[simp] theorem onLane_mu : (s.onLane n f).mu = s.mu := rfl
@[simp] theorem onLane_sd : (s.onLane n f).sd = s.sd := rfl
@[simp] theorem onLane_ln : (s.onLane n f).ln = { s.ln with tab := tmod {} s.ln.tab n f } := rfl
@[simp] theorem onLane_up : (s.onLane n f).up = s.up := rfl
@[simp] theorem onLane_port : (s.onLane n f).port = s.port := rfl
@[simp] theorem onLane_aplic : (s.onLane n f).aplic = s.aplic := rfl
@[simp] theorem onLane_clock : (s.onLane n f).clock = s.clock := rfl
@[simp] theorem onLane_viol : (s.onLane n f).viol = s.viol := rfl
@[simp] theorem onLane_out : (s.onLane n f).out = s.out := rfl
@[simp] theorem onLane_free : (s.onLane n f).free = s.free := rfl
@[simp] theorem onLane_pending : (s.onLane n f).pending = s.pending := rfl
end OnLane

/-! ### emit -/

section Emit
variable (e : OutEvent)
@[simp] theorem emit_ct : (s.emit e).ct = s.ct := rfl
@[simp] theorem emit_lt : (s.emit e).lt = s.lt := rfl
@[simp] theorem emit_pwr : (s.emit e).pwr = s.pwr := rfl
@[simp] theorem emit_harts : (s.emit e).harts = s.harts := rfl
@[simp] theorem emit_mesh : (s.emit e).mesh = s.mesh := rfl
@[simp] theorem emit_kp : (s.emit e).kp = s.kp := rfl
@[simp] theorem emit_disp : (s.emit e).disp = s.disp := rfl
@[simp] theorem emit_host : (s.emit e).host = s.host := rfl
@[simp] theorem emit_rings : (s.emit e).rings = s.rings := rfl
@[simp] theorem emit_lb : (s.emit e).lb = s.lb := rfl
@[simp] theorem emit_cx : (s.emit e).cx = s.cx := rfl
@[simp] theorem emit_mu : (s.emit e).mu = s.mu := rfl
@[simp] theorem emit_sd : (s.emit e).sd = s.sd := rfl
@[simp] theorem emit_ln : (s.emit e).ln = s.ln := rfl
@[simp] theorem emit_up : (s.emit e).up = s.up := rfl
@[simp] theorem emit_port : (s.emit e).port = s.port := rfl
@[simp] theorem emit_aplic : (s.emit e).aplic = s.aplic := rfl
@[simp] theorem emit_clock : (s.emit e).clock = s.clock := rfl
@[simp] theorem emit_viol : (s.emit e).viol = s.viol := rfl
@[simp] theorem emit_out : (s.emit e).out = e :: s.out := rfl
@[simp] theorem emit_free : (s.emit e).free = s.free := rfl
@[simp] theorem emit_pending : (s.emit e).pending = s.pending := rfl
end Emit

/-! ### Feeds and trouble bits of the power subsystem -/

@[simp] theorem onFeed_other (f : Feed) (g : FeedState → FeedState) :
    (s.onFeed f g).lt = s.lt ∧ (s.onFeed f g).up = s.up ∧ (s.onFeed f g).out = s.out ∧ (s.onFeed f g).pending = s.pending :=
  ⟨rfl, rfl, rfl, rfl⟩
@[simp] theorem psSet_pwr (b : Nat) : (psSet b s).pwr = { s.pwr with trouble := setBit s.pwr.trouble b } := rfl

/-! ### The interrupt sources that trouble bits raise -/

/-- An interrupt source changes the APLIC's pending bits and the outputs alone. -/
theorem aplic_eq (t : State) (n : Nat) :
    aplic t n = { t with aplic := (aplic t n).aplic, out := .aplic n :: t.out } := by
  unfold aplic
  split
  · rfl
  · split <;> rfl

theorem aplics_eq (l : List Nat) (t : State) :
    l.foldl aplic t = { t with aplic := (l.foldl aplic t).aplic, out := (l.map OutEvent.aplic).reverse ++ t.out } := by
  induction l generalizing t with
  | nil => rfl
  | cons n l ih => rw [List.foldl_cons, ih, aplic_eq]; simp

/-- Noting new trouble changes the notes of the present clock alone. -/
theorem noteRaised_eq (t : State) : noteRaised s t = { t with clock := (noteRaised s t).clock } := by
  unfold noteRaised
  split
  · rfl
  · split <;> rfl

@[simp] theorem noteRaised_self : noteRaised s s = s := by
  unfold noteRaised
  rw [if_pos rfl]

/-- New trouble changes nothing but the APLIC's pending bits, the notes of the present clock and the outputs. -/
theorem troubleEdges_eq (t : State) :
    troubleEdges s t = { t with
      aplic := (troubleEdges s t).aplic, clock := (troubleEdges s t).clock, out := (troubleEdges s t).out } := by
  unfold troubleEdges
  rw [aplics_eq, noteRaised_eq]

@[simp] theorem troubleEdges_ct (t : State) : (troubleEdges s t).ct = t.ct := by rw [troubleEdges_eq]
@[simp] theorem troubleEdges_lt (t : State) : (troubleEdges s t).lt = t.lt := by rw [troubleEdges_eq]
@[simp] theorem troubleEdges_pwr (t : State) : (troubleEdges s t).pwr = t.pwr := by rw [troubleEdges_eq]
@[simp] theorem troubleEdges_harts (t : State) : (troubleEdges s t).harts = t.harts := by rw [troubleEdges_eq]
@[simp] theorem troubleEdges_mesh (t : State) : (troubleEdges s t).mesh = t.mesh := by rw [troubleEdges_eq]
@[simp] theorem troubleEdges_kp (t : State) : (troubleEdges s t).kp = t.kp := by rw [troubleEdges_eq]
@[simp] theorem troubleEdges_disp (t : State) : (troubleEdges s t).disp = t.disp := by rw [troubleEdges_eq]
@[simp] theorem troubleEdges_host (t : State) : (troubleEdges s t).host = t.host := by rw [troubleEdges_eq]
@[simp] theorem troubleEdges_rings (t : State) : (troubleEdges s t).rings = t.rings := by rw [troubleEdges_eq]
@[simp] theorem troubleEdges_lb (t : State) : (troubleEdges s t).lb = t.lb := by rw [troubleEdges_eq]
@[simp] theorem troubleEdges_cx (t : State) : (troubleEdges s t).cx = t.cx := by rw [troubleEdges_eq]
@[simp] theorem troubleEdges_mu (t : State) : (troubleEdges s t).mu = t.mu := by rw [troubleEdges_eq]
@[simp] theorem troubleEdges_sd (t : State) : (troubleEdges s t).sd = t.sd := by rw [troubleEdges_eq]
@[simp] theorem troubleEdges_ln (t : State) : (troubleEdges s t).ln = t.ln := by rw [troubleEdges_eq]
@[simp] theorem troubleEdges_up (t : State) : (troubleEdges s t).up = t.up := by rw [troubleEdges_eq]
@[simp] theorem troubleEdges_port (t : State) : (troubleEdges s t).port = t.port := by rw [troubleEdges_eq]
@[simp] theorem troubleEdges_viol (t : State) : (troubleEdges s t).viol = t.viol := by rw [troubleEdges_eq]
@[simp] theorem troubleEdges_free (t : State) : (troubleEdges s t).free = t.free := by rw [troubleEdges_eq]
@[simp] theorem troubleEdges_pending (t : State) : (troubleEdges s t).pending = t.pending := by rw [troubleEdges_eq]

/-- Without new trouble nothing changes. -/
@[simp] theorem troubleEdges_self : troubleEdges s s = s := by
  unfold troubleEdges
  have h : (levelSources s).filter (fun n => !(levelSources s).contains n) = [] := by
    rw [List.filter_eq_nil_iff]
    intro n m
    simp [m]
  rw [h, noteRaised_self]
  rfl

/-! ### A part after its own update -/

theorem hart_onHart_same {h : HartId} {f : Hart → Hart} (k : rises s.harts = true) : (s.onHart h f).hart h = f (s.hart h) :=
  tget_tmod_same k
theorem hart_onHart_other {h j : HartId} {f : Hart → Hart} (n : j ≠ h) : (s.onHart h f).hart j = s.hart j :=
  tget_tmod_other fun e => n (Fin.ext e)
theorem ring_onRing_same {r : Nat} {f : Ring → Ring} (k : rises s.rings.tab = true) : (s.onRing r f).ring r = f (s.ring r) :=
  tget_tmod_same k
theorem ring_onRing_other {r q : Nat} {f : Ring → Ring} (n : q ≠ r) : (s.onRing r f).ring q = s.ring q := tget_tmod_other n
theorem fn_onFn_same {n : Nat} {f : Fn → Fn} (k : rises s.host.fns = true) : (s.onFn n f).fn n = f (s.fn n) := tget_tmod_same k
theorem fn_onFn_other {n m : Nat} {f : Fn → Fn} (q : m ≠ n) : (s.onFn n f).fn m = s.fn m := tget_tmod_other q
theorem chan_onChan_same {c : Nat} {f : Channel → Channel} (k : rises s.sd.chans = true) : (s.onChan c f).chan c = f (s.chan c) :=
  tget_tmod_same k
theorem site_onSite_same {n : Nat} {f : TripSite → TripSite} (k : rises s.sd.sites = true) : (s.onSite n f).site n = f (s.site n) :=
  tget_tmod_same k
theorem lane_onLane_same {n : Nat} {f : Lane → Lane} (k : rises s.ln.tab = true) : (s.onLane n f).lane n = f (s.lane n) :=
  tget_tmod_same k

theorem dom_onDom_same {d : Nat} {f : Domain → Domain} (k : rises s.disp.doms = true) : (s.onDom d f).dom d = f (s.dom d) :=
  tget_tmod_same k
theorem dom_onDom_other {d e : Nat} {f : Domain → Domain} (q : e ≠ d) : (s.onDom d f).dom e = s.dom e := tget_tmod_other q
theorem encl_onEncl_same {e : Nat} {f : Enclave → Enclave} (k : rises s.kp.encl = true) : (s.onEncl e f).encl e = f (s.encl e) :=
  tget_tmod_same k
theorem encl_onEncl_other {e g : Nat} {f : Enclave → Enclave} (q : g ≠ e) : (s.onEncl e f).encl g = s.encl g := tget_tmod_other q
theorem line_onLine_same {l : Nat} {f : LineState → LineState} (k : rises s.mesh.lines = true) :
    (s.onLine l f).lineAt l = f (s.lineAt l) := tget_tmod_same k
theorem line_onLine_other {l m : Nat} {f : LineState → LineState} (q : m ≠ l) : (s.onLine l f).lineAt m = s.lineAt m :=
  tget_tmod_other q
theorem slice_onSlice_same {i : Nat} {f : Slice → Slice} (k : rises s.mesh.slices = true) :
    (s.onSlice i f).slice i = f (s.slice i) := tget_tmod_same k
theorem slice_onSlice_other {i j : Nat} {f : Slice → Slice} (q : j ≠ i) : (s.onSlice i f).slice j = s.slice j := tget_tmod_other q

/-- An update of a hart depends on what it makes of that hart alone. -/
theorem onHart_congr {h : HartId} {f g : Hart → Hart} (e : f (s.hart h) = g (s.hart h)) : s.onHart h f = s.onHart h g := by
  have : tmod {} s.harts h.val f = tmod {} s.harts h.val g := by
    simp only [tmod]
    exact congrArg (tset {} s.harts h.val) e
  rw [State.onHart, this]
  rfl

end Sys2Proof.Machine
end

