-- ==== Sys2Proof/Laws/Coherence.lean ====
section
/-!
SUPPORT. What coherence traffic (07 §7.3, §7.4) leaves alone, as one preorder on states: `Carries s t` says that between `s` and
`t` lines only moved between caches.
-/

namespace Sys2Proof.Machine

/-- Only caches, trackers, hart bookkeeping, outputs and the free-value counter differ; memory's bytes, the requests that wait, and
the soundness of every sound line stay. -/
structure Carries (s t : State) : Prop where
  rest : t = { s with harts := t.harts, mesh := t.mesh, out := t.out, free := t.free }
  mem : t.mesh.mem = s.mesh.mem
  sram : t.mesh.sram = s.mesh.sram
  harts : rises s.harts = true → rises t.harts = true
  lines : rises s.mesh.lines = true → rises t.mesh.lines = true
  slices : rises s.mesh.slices = true → rises t.mesh.slices = true
  queues : rises s.mesh.slices = true → ∀ i, (t.slice i).queued = (s.slice i).queued ∧ (t.slice i).waiting = (s.slice i).waiting ∧
    (t.slice i).refused = (s.slice i).refused
  bare : rises s.harts = true → ∀ h, (t.hart h).bare = (s.hart h).bare
  sound : rises s.mesh.lines = true → ∀ l, soundLine s l → soundLine t l

@[simp] theorem carries_refl (s : State) : Carries s s :=
  ⟨rfl, rfl, rfl, id, id, id, fun _ _ => ⟨rfl, rfl, rfl⟩, fun _ _ => rfl, fun _ _ => id⟩

theorem rest_trans {r s t : State} (h : s = { r with harts := s.harts, mesh := s.mesh, out := s.out, free := s.free })
    (g : t = { s with harts := t.harts, mesh := t.mesh, out := t.out, free := t.free }) :
    t = { r with harts := t.harts, mesh := t.mesh, out := t.out, free := t.free } := by grind

theorem Carries.trans {r s t : State} (h : Carries r s) (g : Carries s t) : Carries r t where
  rest := rest_trans h.rest g.rest
  mem := g.mem.trans h.mem
  sram := g.sram.trans h.sram
  harts := g.harts ∘ h.harts
  lines := g.lines ∘ h.lines
  slices := g.slices ∘ h.slices
  queues a i := by
    obtain ⟨b, c, d⟩ := h.queues a i
    obtain ⟨e, f, k⟩ := g.queues (h.slices a) i
    exact ⟨e.trans b, f.trans c, k.trans d⟩
  bare a i := (g.bare (h.harts a) i).trans (h.bare a i)
  sound a l q := g.sound (h.lines a) l (h.sound a l q)

/-- Where lines only moved, and the harts' table rises, `linesMoved` holds. -/
theorem Carries.moved {s t : State} (h : Carries s t) (w : rises s.harts = true) : linesMoved s t :=
  ⟨h.rest, h.mem, h.sram, h.bare w⟩

section
variable {r s : State}

theorem carries_onHart {i : HartId} {f : Hart → Hart} (p : ∀ x, (f x).bare = x.bare) (h : Carries r s) :
    Carries r (s.onHart i f) := by
  refine h.trans { carries_refl s with rest := rfl, harts := rises_tmod, bare := fun w j => ?_ }
  by_cases e : j = i
  · subst e
    simp only [State.hart, onHart_harts, tget_tmod_same w, p]
  · simp only [State.hart, onHart_harts, tget_tmod_other (show j.val ≠ i.val from fun q => e (Fin.ext q))]

/-- A line's state changes without poison coming into the caches of a line that is sound. -/
theorem carries_onLine' {k : Nat} {f : LineState → LineState} (h : Carries r s)
    (p : soundLine r k → soundLine s k → (f (s.lineAt k)).bad = false) : Carries r (s.onLine k f) := by
  refine { h with rest := rest_trans h.rest rfl, lines := fun w => rises_tmod (h.lines w), sound := fun w l q => ?_ }
  have q' := h.sound w l q
  by_cases e : l = k
  · subst e
    refine ⟨?_, q'.2⟩
    simp only [State.lineAt, onLine_mesh, tget_tmod_same (h.lines w)]
    exact p q q'
  · refine ⟨?_, q'.2⟩
    simp only [State.lineAt, onLine_mesh, tget_tmod_other e]
    exact q'.1
theorem carries_onLine {k : Nat} {f : LineState → LineState} (h : Carries r s)
    (p : soundLine s k → (f (s.lineAt k)).bad = false) : Carries r (s.onLine k f) := carries_onLine' h fun _ => p

theorem carries_onSlice {k : Nat} {f : Slice → Slice}
    (p : ∀ x, (f x).queued = x.queued ∧ (f x).waiting = x.waiting ∧ (f x).refused = x.refused) (h : Carries r s) :
    Carries r (s.onSlice k f) := by
  refine h.trans { carries_refl s with rest := rfl, slices := rises_tmod, queues := fun w i => ?_ }
  by_cases e : i = k
  · subst e
    simp only [State.slice, onSlice_mesh, tget_tmod_same w, p, and_self]
  · simp only [State.slice, onSlice_mesh, tget_tmod_other e, and_self]

@[simp] theorem carries_emit {e : OutEvent} (h : Carries r s) : Carries r (s.emit e) :=
  h.trans { carries_refl s with rest := rfl }
@[simp] theorem carries_free {n : Nat} (h : Carries r s) : Carries r { s with free := n } :=
  h.trans { carries_refl s with rest := rfl }

theorem carries_ite {c : Prop} [Decidable c] {a b : State} (p : c → Carries r a) (q : ¬c → Carries r b) :
    Carries r (if c then a else b) := by
  split
  · exact p ‹_›
  · exact q ‹_›
theorem carries_foldl {α : Type} {f : State → α → State} {l : List α} (p : ∀ t a, Carries t (f t a)) (h : Carries r s) :
    Carries r (l.foldl f s) := by
  induction l generalizing s with
  | nil => exact h
  | cons a l ih => exact ih (h.trans (p s a))

@[simp] theorem carries_countEvent (i : HartId) (c n : Nat) (h : Carries r s) : Carries r (countEvent i c n s) := by
  unfold countEvent
  exact carries_ite (fun _ => h) fun _ => carries_onHart (fun _ => rfl) h

@[simp] theorem carries_clearReservations (l : Nat) (b : Option HartId) (h : Carries r s) : Carries r (clearReservations l b s) := by
  unfold clearReservations
  exact carries_foldl (fun t a => carries_ite (fun _ => carries_onHart (fun _ => rfl) (carries_refl t)) fun _ => carries_refl t) h

@[simp] theorem carries_pmc (l : Nat) (k : Bool) {f : Slice → Slice}
    (p : ∀ x, (f x).queued = x.queued ∧ (f x).waiting = x.waiting ∧ (f x).refused = x.refused) (h : Carries r s) :
    Carries r (pmc s l k f) := by
  unfold pmc
  exact carries_ite (fun _ => h) fun _ => carries_onSlice p h

@[simp] theorem carries_dropL1 (c l : Nat) (h : Carries r s) : Carries r (dropL1 c l s) := by
  unfold dropL1
  split
  · exact carries_onHart (fun _ => rfl) h
  · exact h

@[simp] theorem carries_dropCopy (c l : Nat) (h : Carries r s) : Carries r (dropCopy c l s) :=
  carries_onLine (carries_dropL1 c l h) fun q => q.1

@[simp] theorem carries_dropCopies (l : Nat) (h : Carries r s) : Carries r (dropCopies l s) :=
  carries_foldl (fun t _ => carries_dropCopy _ _ (carries_refl t)) h

theorem mem_addSorted {a b : Nat} {l : List Nat} : b ∈ addSorted a l ↔ b = a ∨ b ∈ l := by
  induction l with
  | nil => simp [addSorted]
  | cons m t ih =>
    unfold addSorted
    split
    · subst_vars; simp
    · split
      · simp
      · simp only [List.mem_cons, ih]; grind

@[simp] theorem carries_writeBack (l : Nat) (h : Carries r s) : Carries r (writeBack l s) := by
  unfold writeBack
  refine carries_ite (fun _ => ?_) fun _ => h
  refine h.trans { carries_refl s with rest := rfl, sound := fun _ k q => ⟨q.1, ?_⟩ }
  have q' := q.2
  by_cases b : (s.lineAt l).bad = true
  · have n : k ≠ l := fun e => by subst e; simp [q.1] at b
    simp only [onMesh_mesh, b, if_true, List.contains_eq_mem, decide_eq_false_iff_not, mem_addSorted] at q' ⊢
    simp [n, q']
  · simp only [onMesh_mesh, b, List.contains_eq_mem, decide_eq_false_iff_not] at q' ⊢
    simp [q']

@[simp] theorem carries_dropL3 (l : Nat) (h : Carries r s) : Carries r (dropL3 l s) :=
  carries_onLine (carries_writeBack l h) fun q => q.1

@[simp] theorem carries_allocL3 (l : Nat) (v : L3) (k : Bool) (h : Carries r s) : Carries r (allocL3 l v k s) := by
  unfold allocL3
  exact carries_onLine (carries_ite (fun _ => carries_dropL3 _ (carries_free h)) fun _ => h) fun q => q.1

@[simp] theorem carries_copyToL3 (c l : Nat) (h : Carries r s) : Carries r (copyToL3 c l s) := by
  unfold copyToL3
  split
  · exact carries_ite (fun _ => carries_dropCopy _ _ (carries_allocL3 _ _ _ h)) fun _ => carries_dropCopy _ _ h
  · exact h

@[simp] theorem carries_evictEntry (l : Nat) (h : Carries r s) : Carries r (evictEntry l s) :=
  carries_onLine (carries_foldl (fun t _ => carries_copyToL3 _ _ (carries_refl t)) h) fun q => q.1

@[simp] theorem carries_makeFilterEntry (l : Nat) (h : Carries r s) : Carries r (makeFilterEntry l s) := by
  unfold makeFilterEntry
  exact carries_ite (fun _ => h) fun _ => carries_ite (fun _ => carries_evictEntry _ (carries_free h)) fun _ => h

@[simp] theorem carries_makeWay (c l : Nat) (h : Carries r s) : Carries r (makeWay c l s) := by
  unfold makeWay
  exact carries_ite (fun _ => carries_copyToL3 _ _ (carries_free h)) fun _ => h

/-- A fill whose checks find no error. -/
@[simp] theorem carries_fetchHome (l : Nat) (k : Bool) (h : Carries r s) : Carries r (fetchHome l {} k s) := by
  refine h.trans ?_
  unfold fetchHome
  simp only [dramCheck, ite_self]
  refine carries_ite (fun _ => carries_pmc _ _ (fun _ => ⟨rfl, rfl, rfl⟩) (carries_refl s)) fun _ => ?_
  unfold markLine
  refine carries_onLine' (carries_allocL3 _ _ _ (carries_pmc _ _ (fun _ => ⟨rfl, rfl, rfl⟩) (carries_refl s))) fun q _ => ?_
  have e : (pmc s l k fun x => { x with l3Miss := x.l3Miss + 1 }).mesh.poison = s.mesh.poison := by
    unfold pmc
    split <;> rfl
  dsimp only
  rw [e]
  exact q.2

@[simp] theorem carries_startTxn (k : ReqKind) (c l : Nat) (tr : Tracker) (h : Carries r s) :
    Carries r (startTxn k c l tr {} s) := by
  refine h.trans ?_
  unfold startTxn
  refine carries_onLine (carries_pmc _ _ (fun _ => ⟨rfl, rfl, rfl⟩) ?_) fun q => q.1
  simp only [Bool.false_eq_true, if_false]
  have m := carries_makeFilterEntry l (carries_refl s)
  exact carries_ite (fun _ => m) fun _ => carries_ite (fun _ => carries_fetchHome _ _ m) fun _ =>
    carries_ite (fun _ => carries_pmc _ _ (fun _ => ⟨rfl, rfl, rfl⟩) m) fun _ => m

@[simp] theorem carries_answerSnoop (c l : Nat) (k : SnoopKind) (h : Carries r s) : Carries r (answerSnoop c l k s) := by
  refine h.trans ?_
  have a : Carries s (s.onLine l fun ls => { ls with txn := ls.txn.map fun t => { t with snoops := t.snoops.filter (·.1 ≠ c) } }) :=
    carries_onLine (carries_refl s) fun q => q.1
  unfold answerSnoop
  split
  · exact carries_onLine a fun q => q.1
  · exact carries_foldl (fun t _ => carries_ite (fun _ => carries_onHart (fun _ => rfl) (carries_refl t)) fun _ => carries_refl t)
      (carries_dropCopy _ _ a)

@[simp] theorem carries_snoopArrives (c l : Nat) (k : SnoopKind) (h : Carries r s) : Carries r (snoopArrives c l k s) := by
  unfold snoopArrives
  split
  · exact carries_ite (fun _ => carries_answerSnoop _ _ _ h) fun _ => h
  · exact h

@[simp] theorem carries_install (c l : Nat) (st : Moes) (h : Carries r s) : Carries r (install c l st s) := by
  unfold install
  exact carries_onLine (carries_ite (fun _ => h) fun _ => carries_makeWay _ _ h) fun q => q.1

@[simp] theorem carries_deliver (c l : Nat) (d : Bool) (h : Carries r s) : Carries r (deliver c l d s) := by
  unfold deliver
  split
  · exact carries_ite (fun _ => carries_onLine (carries_install _ _ _ h) fun q => q.1) fun _ => h
  · exact h

@[simp] theorem carries_acknowledge (c l : Nat) (h : Carries r s) : Carries r (acknowledge c l s) := by
  unfold acknowledge
  split
  · exact carries_ite (fun _ => carries_onLine (carries_ite (fun _ => carries_install _ _ _ h) fun _ => h) fun q => q.1) fun _ => h
  · exact h

@[simp] theorem carries_freeTracker (i : Nat) (t : Txn) (l : Nat) (h : Carries r s) : Carries r (freeTracker i t l s) := by
  unfold freeTracker
  split
  · exact h
  · exact carries_onSlice (fun _ => ⟨rfl, rfl, rfl⟩) h
  · have a := carries_onSlice (k := i) (f := fun y => { y with reserved := y.reserved.eraseP fun q => q.line == l && q.who == t.core })
      (fun _ => ⟨rfl, rfl, rfl⟩) h
    exact carries_ite (fun _ => carries_emit (carries_onSlice (fun _ => ⟨rfl, rfl, rfl⟩) a)) fun _ => a

/-- A complete transaction's tracker is freed; with no request waiting for the line, nothing else starts. -/
theorem carries_releaseTracker (i l : Nat) (w : rises s.mesh.slices = true) (e : ∀ q ∈ (s.slice (homeOf l)).queued, q.line ≠ l) :
    Carries s (releaseTracker i l s) := by
  unfold releaseTracker
  split
  · exact carries_refl s
  · refine carries_ite (fun _ => carries_refl s) fun _ => ?_
    have a : ∀ t : Txn, Carries s (freeTracker i t l (s.onLine l fun ls => { ls with txn := none })) := fun t =>
      carries_freeTracker _ _ _ (carries_onLine (carries_refl s) fun q => q.1)
    unfold serveQueued
    rw [((a _).queues w _).1, List.find?_eq_none.mpr fun q m => by simpa using e q m]
    exact a _

/-- A transaction runs to its end, with no request waiting for the line. -/
theorem carries_endTxn (l : Nat) (w : rises s.mesh.slices = true) (e : ∀ q ∈ (s.slice (homeOf l)).queued, q.line ≠ l) :
    Carries s (endTxn l s) := by
  unfold endTxn
  split
  · exact carries_refl s
  · dsimp only
    rename_i t _
    have a : Carries s (t.snoops.foldl (fun u e => answerSnoop e.1 l e.2 u) s) :=
      carries_foldl (fun u _ => carries_answerSnoop _ _ _ (carries_refl u)) (carries_refl s)
    have b := carries_acknowledge t.core l (carries_ite (c := t.delivered = true) (fun _ => a) fun _ => carries_deliver t.core l t.dirtyData a)
    exact b.trans (carries_releaseTracker _ _ (b.slices w) fun q m => e q ((b.queues w _).1 ▸ m))

theorem carries_finishTxn (l : Nat) (w : rises s.mesh.slices = true) (e : ∀ q ∈ (s.slice (homeOf l)).queued, q.line ≠ l) :
    Carries s (finishTxn l s) := by
  unfold finishTxn
  generalize ((s.slice (homeOf l)).queued.filter (·.line == l)).length + 1 = n
  induction n generalizing s with
  | zero => exact carries_refl s
  | succ n ih =>
    have a := carries_endTxn l w e
    exact a.trans (ih (a.slices w) fun q m => e q ((a.queues w _).1 ▸ m))

theorem quiet_of_carries {c l : Nat} (h : Carries r s) (w : rises r.mesh.slices = true) (q : quiet r c l) : quiet s c l := by
  obtain ⟨a, b, d⟩ := h.queues w (homeOf l)
  unfold quiet
  rw [a, b, d]
  exact q

@[simp] theorem carries_noteRetry (c l : Nat) (h : Carries r s) : Carries r (noteRetry c l s) := by
  unfold noteRetry
  refine carries_ite (fun _ => h) fun _ => ?_
  dsimp only
  have a : Carries r (if s.mesh.freeze then s else s.onSlice (homeOf l) fun y => { y with retries := y.retries + 1 }) :=
    carries_ite (fun _ => h) fun _ => carries_onSlice (fun _ => ⟨rfl, rfl, rfl⟩) h
  split
  · exact carries_countEvent _ _ _ a
  · exact a

theorem runRetried_quiet {c l : Nat} (q : quiet s c l) : runRetried c l s = s := by
  unfold runRetried
  have : ((s.slice (homeOf l)).waiting ++ (s.slice (homeOf l)).refused).filter (fun x => x.who == c) = [] :=
    List.filter_eq_nil_iff.mpr fun x m => by simpa using q.2 x m
  simp [this]

/-- Obtaining a quiet line, with no error met, moves lines between caches alone. -/
theorem carries_obtain (c l : Nat) (u : Bool) (w : rises s.mesh.slices = true) (q : quiet s c l) :
    Carries s (obtain c l u {} s) := by
  unfold obtain
  rw [runRetried_quiet q]
  have a := carries_finishTxn l w q.1
  have go (k : ReqKind) (t : State) (h : Carries s t) : Carries s (finishTxn l (startTxn k c l .none {} (noteRetry c l t))) := by
    have b := carries_startTxn k c l .none (carries_noteRetry c l h)
    exact b.trans (carries_finishTxn l (b.slices w) (quiet_of_carries b w q).1)
  dsimp only
  split
  · exact a
  · exact carries_ite (fun _ => a) fun _ => carries_ite (fun _ => carries_install _ _ _ a) fun _ => go _ _ a
  · refine go _ _ ?_
    split
    · exact carries_countEvent _ _ _ a
    · exact a

@[simp] theorem carries_dropForeign (i : HartId) (l : Nat) (h : Carries r s) : Carries r (dropForeign i l s) := by
  unfold dropForeign
  exact carries_ite (fun _ => carries_copyToL3 _ _ h) fun _ => h

@[simp] theorem carries_fillL1d (i : HartId) (va l : Nat) (low : Bool) (h : Carries r s) : Carries r (fillL1d i va l low s) := by
  unfold fillL1d
  exact carries_ite (fun _ => h) fun _ => carries_onHart (fun _ => rfl) (carries_free h)

theorem carries_lookUp (i : HartId) (l : Nat) (w : rises s.mesh.slices = true) (q : quiet s i.val l) :
    Carries s (lookUp i l {} s) := by
  have a := carries_dropForeign i l (carries_finishTxn l w q.1)
  unfold lookUp
  simp only [cacheError, ite_self]
  exact carries_ite (fun _ => a) fun _ => carries_countEvent _ _ _ a

/-- A hart's caches come to hold a quiet line, with no error met. -/
theorem carries_touch (i : HartId) (u low : Bool) (va l : Nat) (w : rises s.mesh.slices = true) (q : quiet s i.val l) :
    Carries s (touch i u low va l {} s) := by
  have a := carries_lookUp i l w q
  exact carries_fillL1d _ _ _ _ (a.trans (carries_obtain _ _ _ (a.slices w) (quiet_of_carries a w q)))

@[simp] theorem carries_deviceFetch (c l : Nat) (k : Bool) (h : Carries r s) : Carries r (deviceFetch c l {} k s) := by
  unfold deviceFetch
  simp only [Bool.false_eq_true, if_false]
  exact carries_ite (fun _ => carries_fetchHome _ _ h) fun _ => carries_ite (fun _ => carries_pmc _ _ (fun _ => ⟨rfl, rfl, rfl⟩) h) fun _ =>
    carries_pmc _ _ (fun _ => ⟨rfl, rfl, rfl⟩) h

theorem carries_readThrough (i : HartId) (l : Nat) (w : rises s.mesh.slices = true) (q : quiet s i.val l) :
    Carries s (readThrough i l {} s) := by
  have a := carries_dropForeign i l (carries_finishTxn l w q.1)
  unfold readThrough
  exact carries_ite (fun _ => a) fun _ => carries_deviceFetch _ _ _ a

/-- A transaction that starts stands on its line with its tracker, not yet acknowledged. -/
theorem startTxn_txn {k : ReqKind} {c l : Nat} {tr : Tracker} (w : rises s.mesh.lines = true) :
    ∃ u, ((startTxn k c l tr {} s).lineAt l).txn = some u ∧ u.core = c ∧ u.tracker = tr ∧ u.acked = false := by
  unfold startTxn
  refine ⟨_, congrArg LineState.txn (line_onLine_same _ (Carries.lines (s := s) ?_ w)), rfl, rfl, rfl⟩
  refine carries_pmc _ _ (fun _ => ⟨rfl, rfl, rfl⟩) ?_
  simp only [Bool.false_eq_true, if_false]
  have m := carries_makeFilterEntry l (carries_refl s)
  exact carries_ite (fun _ => m) fun _ => carries_ite (fun _ => carries_fetchHome _ _ m) fun _ =>
    carries_ite (fun _ => carries_pmc _ _ (fun _ => ⟨rfl, rfl, rfl⟩) m) fun _ => m

theorem victim_mem {os : List Nat} (h : 0 < os.length) : victim os s ∈ os := by
  unfold victim
  rw [List.getD_eq_getElem?_getD, List.getElem?_eq_getElem (Nat.mod_lt _ h)]
  exact List.getElem_mem _
/-- What an L3 allocation leaves on its line: another line may have left the L3 for it. -/
theorem allocL3_line {l : Nat} {v : L3} {k : Bool} (w : rises s.mesh.lines = true) :
    (allocL3 l v k s).lineAt l = { s.lineAt l with l3 := v, l3Keeper := k } := by
  unfold allocL3
  dsimp only
  split
  · rename_i c
    have p : 0 < (l3Others s l k).length := by unfold l3Ways at c; split at c <;> (try split at c) <;> omega
    have n : l ≠ victim (l3Others s l k) s := by
      intro e
      have m := victim_mem (s := s) p
      rw [← e] at m
      simp [l3Others] at m
    have o : ∀ t : State, (dropL3 (victim (l3Others s l k) s) t).lineAt l = t.lineAt l := by
      intro t
      unfold dropL3 writeBack
      rw [line_onLine_other _ n]
      split <;> rfl
    rw [line_onLine_same _ ((carries_dropL3 _ (carries_refl { s with free := s.free + 1 })).lines w), o]
    rfl
  · rw [line_onLine_same _ w]
theorem dropCopy_line {l c : Nat} (w : rises s.mesh.lines = true) :
    (dropCopy c l s).lineAt l = { s.lineAt l with copies := (s.lineAt l).copies.filter (·.core ≠ c) } := by
  unfold dropCopy
  rw [line_onLine_same _ ((carries_dropL1 c l (carries_refl s)).lines w), show (dropL1 c l s).lineAt l = s.lineAt l by unfold dropL1; split <;> rfl]

/-- An idle line has no transaction to finish. -/
theorem finishTxn_idle {l : Nat} (e : (s.lineAt l).txn = none) : finishTxn l s = s := by
  unfold finishTxn
  generalize ((s.slice (homeOf l)).queued.filter (·.line == l)).length + 1 = n
  induction n with
  | zero => rfl
  | succ n ih => rw [endTxns, show endTxn l s = s by simp [endTxn, e], ih]
theorem clearReservations_mesh {l : Nat} {b : Option HartId} : (clearReservations l b s).mesh = s.mesh := by
  unfold clearReservations forAll
  generalize allHarts = hs
  suffices ∀ t : State, t.mesh = s.mesh → (hs.foldl (fun u a => if (u.hart a).reserved = some l ∧ b ≠ some a then
    u.onHart a fun x => { x with reserved := none, deferring := false } else u) t).mesh = s.mesh from this s rfl
  induction hs with
  | nil => exact fun t q => q
  | cons a hs ih => intro t q; rw [List.foldl_cons]; refine ih _ ?_; split <;> exact q

/-- Who may reach what does not change as lines move. -/
theorem mayReach_of_carries {g : Agent} {a : Nat} (h : Carries r s) : mayReach s g a = mayReach r g a := by
  rw [h.rest]
  rfl

/-- A hart's agent does not change as lines move. -/
theorem hartAgent_of_carries {i : HartId} {b : Bool} (h : Carries r s) (w : rises r.harts = true) :
    hartAgent s i b = hartAgent r i b := by
  have e := h.bare w i
  have p : (s.hart i).priv = (r.hart i).priv := by simpa [Hart.bare] using congrArg Hart.priv e
  have k : (s.hart i).kenc = (r.hart i).kenc := by simpa [Hart.bare] using congrArg Hart.kenc e
  have b : (s.hart i).bind = (r.hart i).bind := by simpa [Hart.bare] using congrArg Hart.bind e
  simp only [hartAgent, actingFn, Hart.keeper, p, k, b]

/-- A sound line is not poisoned. -/
theorem poisoned_of_sound {l : Nat} (h : soundLine s l) : poisoned s l = false := by
  unfold poisoned
  rw [h.1, h.2]
  exact ite_self _

end

end Sys2Proof.Machine
end

