-- ==== Sys2Proof/Laws/Goes.lean ====
section
/-!
SUPPORT. What every change of the state keeps, as one preorder on states: `Goes s t` holds of the state before and the state
after. The files Laws/Goes….lean prove it of every operation, once each, so that a statement about every command is a case
analysis over those lemmas.
-/

namespace Sys2Proof.Machine

/-- From `s` to `t` the queue is the same, memories keep their canonical form and tables their rising order, and what only grows has
not gone back: the logbook's head, the fuses, the light-table floor, the outputs and the free-value counter. -/
structure Goes (s t : State) : Prop where
  queue : t.pending = s.pending
  dram : Memory.wf s.mesh.mem = true → Memory.wf t.mesh.mem = true
  sram : Memory.wf s.mesh.sram = true → Memory.wf t.mesh.sram = true
  host : Memory.wf s.host.hostMem = true → Memory.wf t.host.hostMem = true
  buf : Memory.wf s.up.dmBuf = true → Memory.wf t.up.dmBuf = true
  nor : twf 0xFF s.up.nor = true → twf 0xFF t.up.nor = true
  harts : rises s.harts = true → rises t.harts = true
  rings : rises s.rings.tab = true → rises t.rings.tab = true
  fns : rises s.host.fns = true → rises t.host.fns = true
  doms : rises s.disp.doms = true → rises t.disp.doms = true
  encls : rises s.kp.encl = true → rises t.kp.encl = true
  lines : rises s.mesh.lines = true → rises t.mesh.lines = true
  slices : rises s.mesh.slices = true → rises t.mesh.slices = true
  chans : rises s.sd.chans = true → rises t.sd.chans = true
  sites : rises s.sd.sites = true → rises t.sd.sites = true
  lanes : rises s.ln.tab = true → rises t.ln.tab = true
  head : s.lb.head ≤ t.lb.head
  fuses : s.up.fuses ≤ t.up.fuses
  floor : s.up.floor ≤ t.up.floor
  out : s.out <:+ t.out
  free : s.free ≤ t.free

@[simp] theorem goes_refl (s : State) : Goes s s where
  queue := rfl
  dram := id
  sram := id
  host := id
  buf := id
  nor := id
  harts := id
  rings := id
  fns := id
  doms := id
  encls := id
  lines := id
  slices := id
  chans := id
  sites := id
  lanes := id
  head := Nat.le_refl _
  fuses := Nat.le_refl _
  floor := Nat.le_refl _
  out := List.suffix_refl _
  free := Nat.le_refl _

@[simp] theorem le_max_self (a b : Nat) : a ≤ max a b := Nat.le_max_left a b

theorem Goes.trans {r s t : State} (h : Goes r s) (g : Goes s t) : Goes r t where
  queue := g.queue.trans h.queue
  dram := g.dram ∘ h.dram
  sram := g.sram ∘ h.sram
  host := g.host ∘ h.host
  buf := g.buf ∘ h.buf
  nor := g.nor ∘ h.nor
  harts := g.harts ∘ h.harts
  rings := g.rings ∘ h.rings
  fns := g.fns ∘ h.fns
  doms := g.doms ∘ h.doms
  encls := g.encls ∘ h.encls
  lines := g.lines ∘ h.lines
  slices := g.slices ∘ h.slices
  chans := g.chans ∘ h.chans
  sites := g.sites ∘ h.sites
  lanes := g.lanes ∘ h.lanes
  head := Nat.le_trans h.head g.head
  fuses := Nat.le_trans h.fuses g.fuses
  floor := Nat.le_trans h.floor g.floor
  out := h.out.trans g.out
  free := Nat.le_trans h.free g.free

theorem Goes.of_eq {α : Type} {r a : State} {b : α} {x : State × α} (k : Goes r x.1) (q : x = (a, b)) : Goes r a := by
  rw [q] at k
  exact k

section
variable {r s : State}

/-! ### One block changes -/

@[simp] theorem goes_onCt {f : Ct → Ct} (h : Goes r s) : Goes r (s.onCt f) := h.trans { goes_refl s with }
@[simp] theorem goes_onLt {f : LightTable → LightTable} (h : Goes r s) : Goes r (s.onLt f) := h.trans { goes_refl s with }
@[simp] theorem goes_onPwr {f : Power → Power} (h : Goes r s) : Goes r (s.onPwr f) := h.trans { goes_refl s with }
@[simp] theorem goes_onCx {f : Crypto → Crypto} (h : Goes r s) : Goes r (s.onCx f) := h.trans { goes_refl s with }
@[simp] theorem goes_onMu {f : Units → Units} (h : Goes r s) : Goes r (s.onMu f) := h.trans { goes_refl s with }
@[simp] theorem goes_onPort {f : Ports → Ports} (h : Goes r s) : Goes r (s.onPort f) := h.trans { goes_refl s with }
@[simp] theorem goes_aplicPart {a : Aplic} (h : Goes r s) : Goes r { s with aplic := a } := h.trans { goes_refl s with }
@[simp] theorem goes_clockPart {c : ClockNotes} (h : Goes r s) : Goes r { s with clock := c } := h.trans { goes_refl s with }

@[simp] theorem goes_onKp {f : Keeper → Keeper} (h : Goes r s)
    (e : rises s.kp.encl = true → rises (f s.kp).encl = true) : Goes r (s.onKp f) := h.trans { goes_refl s with encls := e }
@[simp] theorem goes_onDisp {f : Dispatch → Dispatch} (h : Goes r s)
    (e : rises s.disp.doms = true → rises (f s.disp).doms = true) : Goes r (s.onDisp f) := h.trans { goes_refl s with doms := e }
@[simp] theorem goes_onRings {f : Rings → Rings} (h : Goes r s)
    (e : rises s.rings.tab = true → rises (f s.rings).tab = true) : Goes r (s.onRings f) := h.trans { goes_refl s with rings := e }
@[simp] theorem goes_onSd {f : Measure → Measure} (h : Goes r s)
    (e : rises s.sd.chans = true → rises (f s.sd).chans = true) (e' : rises s.sd.sites = true → rises (f s.sd).sites = true) :
    Goes r (s.onSd f) := h.trans { goes_refl s with chans := e, sites := e' }
@[simp] theorem goes_onLn {f : Lanes → Lanes} (h : Goes r s)
    (e : rises s.ln.tab = true → rises (f s.ln).tab = true) : Goes r (s.onLn f) := h.trans { goes_refl s with lanes := e }
@[simp] theorem goes_onHart {i : HartId} {f : Hart → Hart} (h : Goes r s) : Goes r (s.onHart i f) :=
  h.trans { goes_refl s with harts := rises_tmod }

@[simp] theorem goes_onMesh {f : Mesh → Mesh} (h : Goes r s)
    (d : Memory.wf s.mesh.mem = true → Memory.wf (f s.mesh).mem = true)
    (q : Memory.wf s.mesh.sram = true → Memory.wf (f s.mesh).sram = true)
    (e : rises s.mesh.lines = true → rises (f s.mesh).lines = true)
    (e' : rises s.mesh.slices = true → rises (f s.mesh).slices = true) : Goes r (s.onMesh f) :=
  h.trans { goes_refl s with dram := d, sram := q, lines := e, slices := e' }

@[simp] theorem goes_onHost {f : HostIf → HostIf} (h : Goes r s)
    (d : Memory.wf s.host.hostMem = true → Memory.wf (f s.host).hostMem = true)
    (e : rises s.host.fns = true → rises (f s.host).fns = true) : Goes r (s.onHost f) :=
  h.trans { goes_refl s with host := d, fns := e }

@[simp] theorem goes_onLb {f : Logbook → Logbook} (h : Goes r s) (d : s.lb.head ≤ (f s.lb).head) : Goes r (s.onLb f) :=
  h.trans { goes_refl s with head := d }

@[simp] theorem goes_onUp {f : Update → Update} (h : Goes r s)
    (b : Memory.wf s.up.dmBuf = true → Memory.wf (f s.up).dmBuf = true)
    (n : twf 0xFF s.up.nor = true → twf 0xFF (f s.up).nor = true)
    (p : s.up.fuses ≤ (f s.up).fuses) (q : s.up.floor ≤ (f s.up).floor) : Goes r (s.onUp f) :=
  h.trans { goes_refl s with buf := b, nor := n, fuses := p, floor := q }

@[simp] theorem goes_onRing {k : Nat} {f : Ring → Ring} (h : Goes r s) : Goes r (s.onRing k f) := goes_onRings h rises_tmod
@[simp] theorem goes_onFn {k : Nat} {f : Fn → Fn} (h : Goes r s) : Goes r (s.onFn k f) := goes_onHost h id rises_tmod
@[simp] theorem goes_onDom {k : Nat} {f : Domain → Domain} (h : Goes r s) : Goes r (s.onDom k f) := goes_onDisp h rises_tmod
@[simp] theorem goes_onEncl {k : Nat} {f : Enclave → Enclave} (h : Goes r s) : Goes r (s.onEncl k f) := goes_onKp h rises_tmod
@[simp] theorem goes_onLine {k : Nat} {f : LineState → LineState} (h : Goes r s) : Goes r (s.onLine k f) :=
  goes_onMesh h id id rises_tmod id
@[simp] theorem goes_onSlice {k : Nat} {f : Slice → Slice} (h : Goes r s) : Goes r (s.onSlice k f) :=
  goes_onMesh h id id id rises_tmod

@[simp] theorem goes_emit {e : OutEvent} (h : Goes r s) : Goes r (s.emit e) :=
  h.trans { goes_refl s with out := List.suffix_cons e s.out }
@[simp] theorem goes_free {n : Nat} (h : Goes r s) : Goes r { s with free := s.free + n } :=
  h.trans { goes_refl s with free := Nat.le_add_right _ _ }
@[simp] theorem goes_draw (h : Goes r s) : Goes r s.draw.2 := goes_free h

/-- A state written out in full. -/
@[simp] theorem goes_mk {ct lt pwr harts mesh kp disp host rings lb cx mu sd ln up port aplic clock viol out free pending}
    (q : pending = r.pending)
    (d : Memory.wf r.mesh.mem = true → Memory.wf mesh.mem = true) (m : Memory.wf r.mesh.sram = true → Memory.wf mesh.sram = true)
    (k : Memory.wf r.host.hostMem = true → Memory.wf host.hostMem = true)
    (b : Memory.wf r.up.dmBuf = true → Memory.wf up.dmBuf = true) (n : twf 0xFF r.up.nor = true → twf 0xFF up.nor = true)
    (t₁ : rises r.harts = true → rises harts = true) (t₂ : rises r.rings.tab = true → rises rings.tab = true)
    (t₃ : rises r.host.fns = true → rises host.fns = true) (t₄ : rises r.disp.doms = true → rises disp.doms = true)
    (t₅ : rises r.kp.encl = true → rises kp.encl = true) (t₆ : rises r.mesh.lines = true → rises mesh.lines = true)
    (t₇ : rises r.mesh.slices = true → rises mesh.slices = true) (t₈ : rises r.sd.chans = true → rises sd.chans = true)
    (t₉ : rises r.sd.sites = true → rises sd.sites = true) (t₀ : rises r.ln.tab = true → rises ln.tab = true)
    (l : r.lb.head ≤ lb.head) (f : r.up.fuses ≤ up.fuses) (g : r.up.floor ≤ up.floor) (o : r.out <:+ out) (e : r.free ≤ free) :
    Goes r { ct := ct, lt := lt, pwr := pwr, harts := harts, mesh := mesh, kp := kp, disp := disp, host := host, rings := rings,
             lb := lb, cx := cx, mu := mu, sd := sd, ln := ln, up := up, port := port, aplic := aplic, clock := clock, viol := viol,
             out := out, free := free, pending := pending } :=
  ⟨q, d, m, k, b, n, t₁, t₂, t₃, t₄, t₅, t₆, t₇, t₈, t₉, t₀, l, f, g, o, e⟩

/-! ### Choices and repetitions -/

@[simp] theorem goes_ite {c : Prop} [Decidable c] {a b : State} (p : c → Goes r a) (q : ¬c → Goes r b) :
    Goes r (if c then a else b) := by
  split
  · exact p ‹_›
  · exact q ‹_›

@[simp] theorem goes_ite_fst {α : Type} {c : Prop} [Decidable c] {a b : State × α} (p : c → Goes r a.1) (q : ¬c → Goes r b.1) :
    Goes r (if c then a else b).1 := by
  split
  · exact p ‹_›
  · exact q ‹_›

@[simp] theorem goes_foldl {α : Type} {f : State → α → State} {l : List α} (p : ∀ t a, Goes t (f t a)) (h : Goes r s) :
    Goes r (l.foldl f s) := by
  induction l generalizing s with
  | nil => exact h
  | cons a l ih => exact ih (h.trans (p s a))

@[simp] theorem goes_foldl_fst {α β : Type} {f : State × β → α → State × β} {l : List α} {x : State × β}
    (p : ∀ q a, Goes q.1 (f q a).1) (h : Goes r x.1) : Goes r (l.foldl f x).1 := by
  induction l generalizing x with
  | nil => exact h
  | cons a l ih => exact ih (h.trans (p x a))

@[simp] theorem goes_forAll {α : Type} {f : α → State → State} {l : List α} (p : ∀ t a, Goes t (f a t)) (h : Goes r s) :
    Goes r (forAll l f s) := goes_foldl p h

end

end Sys2Proof.Machine
end

