-- ==== Sys2Proof/Laws/GoesSignals.lean ====
section
/-!
SUPPORT. What the operations of Machine/Signals.lean keep (Laws/Goes.lean).
-/

namespace Sys2Proof.Machine

@[simp] theorem goes_violate {r s : State} (x1 : Nat) (x2 : Nat) (x3 : Bool) (x4 : Bool) (x5 : ViolKind) (x6 : Nat) (x7 : Nat)
    (h : Goes r s) : Goes r (violate s x1 x2 x3 x4 x5 x6 x7) := by
  refine h.trans ?_
  unfold violate
  try simp (maxDischargeDepth := 30) +contextual -implicitDefEqProofs
@[simp] theorem goes_violateBy {r s : State} (x1 : Requester) (x2 : Bool) (x3 : ViolKind) (x4 : Nat)
    (h : Goes r s) : Goes r (violateBy s x1 x2 x3 x4) := by
  refine h.trans ?_
  unfold violateBy
  try simp (maxDischargeDepth := 30) +contextual -implicitDefEqProofs
@[simp] theorem goes_violateCommand {r s : State} (x1 : RingIdent) (x2 : ViolKind) (x3 : Nat)
    (h : Goes r s) : Goes r (violateCommand s x1 x2 x3) := by
  refine h.trans ?_
  unfold violateCommand
  try simp (maxDischargeDepth := 30) +contextual -implicitDefEqProofs
@[simp] theorem goes_sendMsi {r s : State} (x0 : HartId) (x1 : Nat) (x2 : Nat)
    (h : Goes r s) : Goes r (sendMsi x0 x1 x2 s) := by
  refine h.trans ?_
  unfold sendMsi
  try simp (maxDischargeDepth := 30) +contextual -implicitDefEqProofs
  all_goals repeat' (split <;> try simp (maxDischargeDepth := 30) +contextual -implicitDefEqProofs)
@[simp] theorem goes_aplic {r s : State} (x1 : Nat) (h : Goes r s) : Goes r (aplic s x1) := by
  refine h.trans ?_
  unfold aplic
  try simp (maxDischargeDepth := 30) +contextual -implicitDefEqProofs
@[simp] theorem goes_forwardMsis {r s : State} (x0 : Bool) (h : Goes r s) : Goes r (forwardMsis x0 s) := by
  refine h.trans ?_
  unfold forwardMsis
  repeat' (first | (with_reducible exact goes_refl _) | (refine goes_foldl (fun _ _ => ?_) ?_) | (refine goes_forAll (fun _ _ => ?_) ?_) | (refine goes_ite (fun _ => ?_) (fun _ => ?_)) | split)
  all_goals try simp (maxDischargeDepth := 30) +contextual -implicitDefEqProofs
  all_goals repeat' (split <;> try simp (maxDischargeDepth := 30) +contextual -implicitDefEqProofs)
@[simp] theorem goes_aplicWrite {r s : State} (x0 : Bool) (x1 : AplicReg) (x2 : W32)
    (h : Goes r s) : Goes r (aplicWrite x0 x1 x2 s) := by
  refine h.trans ?_
  unfold aplicWrite
  try simp (maxDischargeDepth := 30) +contextual -implicitDefEqProofs
  all_goals repeat' (split <;> try simp (maxDischargeDepth := 30) +contextual -implicitDefEqProofs)
@[simp] theorem goes_msixNow {r s : State} (x1 : Nat) (x2 : Nat) (h : Goes r s) : Goes r (msixNow s x1 x2) := by
  refine h.trans ?_
  unfold msixNow
  try simp (maxDischargeDepth := 30) +contextual -implicitDefEqProofs
@[simp] theorem goes_msix {r s : State} (x1 : Nat) (x2 : Nat) (h : Goes r s) : Goes r (msix s x1 x2) := by
  refine h.trans ?_
  unfold msix
  try simp (maxDischargeDepth := 30) +contextual -implicitDefEqProofs
@[simp] theorem goes_msixRelease {r s : State} (x1 : Nat) (h : Goes r s) : Goes r (msixRelease s x1) := by
  refine h.trans ?_
  unfold msixRelease
  try simp (maxDischargeDepth := 30) +contextual -implicitDefEqProofs

end Sys2Proof.Machine
end

