-- ==== Sys2Proof/Laws/GoesFlags.lean ====
section
/-!
SUPPORT. What the operations of Machine/Flags.lean keep (Laws/Goes.lean).
-/

namespace Sys2Proof.Machine

@[simp] theorem goes_noteRaised {r s t : State} (h : Goes r t) : Goes r (noteRaised s t) := by
  unfold noteRaised
  split
  · exact h
  · split
    · exact h
    · exact goes_clockPart h
@[simp] theorem goes_troubleEdges {r s t : State} (h : Goes r t) : Goes r (troubleEdges s t) := by
  unfold troubleEdges
  simp [h]
theorem goes_ok {s t u : State} (h : Goes s t) (q : ok s t = .next u) : Goes s u := by
  simp only [ok, Host.Outcome.next.injEq] at q
  subst q
  simp [h]

end Sys2Proof.Machine
end

