-- ==== Sys2Proof/Laws/GoesDispatchUnit.lean ====
section
/-!
SUPPORT. What the operations of Machine/DispatchUnit.lean keep (Laws/Goes.lean).
-/

namespace Sys2Proof.Machine

@[simp] theorem goes_traceLost {r s : State} (x0 : Nat) (h : Goes r s) : Goes r (traceLost x0 s) := by
  refine h.trans ?_
  unfold traceLost
  try simp (maxDischargeDepth := 30) +contextual -implicitDefEqProofs
@[simp] theorem goes_traceEvent {r s : State} (x0 : Nat) (x1 : Nat) (x2 : Nat) (x3 : Nat) (x4 : W64)
    (h : Goes r s) : Goes r (traceEvent x0 x1 x2 x3 x4 s) := by
  refine h.trans ?_
  unfold traceEvent
  try simp (maxDischargeDepth := 30) +contextual -implicitDefEqProofs
  all_goals repeat' (split <;> try simp (maxDischargeDepth := 30) +contextual -implicitDefEqProofs)
@[simp] theorem goes_pushReady {r s : State} (x0 : Nat) (x1 : TaskEntry)
    (h : Goes r s) : Goes r (pushReady x0 x1 s) := by
  refine h.trans ?_
  unfold pushReady
  try simp (maxDischargeDepth := 30) +contextual -implicitDefEqProofs
@[simp] theorem goes_popReady {r s : State} (x0 : Nat) (x1 : Nat) (h : Goes r s) : Goes r (popReady x0 x1 s) := by
  refine h.trans ?_
  unfold popReady
  try simp (maxDischargeDepth := 30) +contextual -implicitDefEqProofs
@[simp] theorem goes_correctSram {r s : State} (h : Goes r s) : Goes r (correctSram s) := by
  refine h.trans ?_
  unfold correctSram
  try simp (maxDischargeDepth := 30) +contextual -implicitDefEqProofs
  all_goals repeat' (split <;> try simp (maxDischargeDepth := 30) +contextual -implicitDefEqProofs)
@[simp] theorem goes_entryLost {r s : State} (x0 : Nat) (x1 : Nat) (h : Goes r s) : Goes r (entryLost x0 x1 s) := by
  refine h.trans ?_
  unfold entryLost
  try simp (maxDischargeDepth := 30) +contextual -implicitDefEqProofs
  all_goals repeat' (split <;> try simp (maxDischargeDepth := 30) +contextual -implicitDefEqProofs)
@[simp] theorem goes_entryError {r s : State} (x0 : Nat) (x1 : Nat) (x2 : BitError) (x3 : State → State) (hx3 : ∀ t, Goes t (x3 t))
    (h : Goes r s) : Goes r (entryError x0 x1 x2 x3 s) := by
  refine h.trans ?_
  have kx3 : ∀ r t, Goes r t → Goes r (x3 t) := fun _ t h => h.trans (hx3 t)
  unfold entryError
  try simp (maxDischargeDepth := 30) +contextual -implicitDefEqProofs [kx3]
  all_goals repeat' (split <;> try simp (maxDischargeDepth := 30) +contextual -implicitDefEqProofs [kx3])
@[simp] theorem goes_readyError {r s : State} (x0 : Nat) (x1 : Nat) (x2 : BitError)
    (h : Goes r s) : Goes r (readyError x0 x1 x2 s) := by
  refine h.trans ?_
  unfold readyError
  try simp (maxDischargeDepth := 30) +contextual -implicitDefEqProofs
  all_goals repeat' (split <;> try simp (maxDischargeDepth := 30) +contextual -implicitDefEqProofs)
@[simp] theorem goes_decideOn {r s : State} (x0 : Nat) (x1 : TaskEntry)
    (h : Goes r s) : Goes r (decideOn x0 x1 s) := by
  refine h.trans ?_
  unfold decideOn
  try simp (maxDischargeDepth := 30) +contextual -implicitDefEqProofs
  all_goals repeat' (split <;> try simp (maxDischargeDepth := 30) +contextual -implicitDefEqProofs)
@[simp] theorem goes_makeReady {r s : State} (x0 : Nat) (x1 : TaskEntry) (x2 : Nat) (x3 : Nat)
    (h : Goes r s) : Goes r (makeReady x0 x1 x2 x3 s) := by
  refine h.trans ?_
  unfold makeReady
  try simp (maxDischargeDepth := 30) +contextual -implicitDefEqProofs
@[simp] theorem goes_busyRefused {r s : State} (x0 : Nat) (x1 : Nat) (x2 : W64) (x3 : Nat)
    (h : Goes r s) : Goes r (busyRefused x0 x1 x2 x3 s) := by
  refine h.trans ?_
  unfold busyRefused
  try simp (maxDischargeDepth := 30) +contextual -implicitDefEqProofs
@[simp] theorem goes_holdEvent {r s : State} (x0 : Nat) (x1 : Nat) (x2 : W64) (x3 : Nat)
    (h : Goes r s) : Goes r (holdEvent x0 x1 x2 x3 s) := by
  refine h.trans ?_
  unfold holdEvent
  try simp (maxDischargeDepth := 30) +contextual -implicitDefEqProofs
  all_goals repeat' (split <;> try simp (maxDischargeDepth := 30) +contextual -implicitDefEqProofs)
@[simp] theorem goes_postHeld {r s : State} (x0 : Nat) (h : Goes r s) : Goes r (postHeld x0 s) := by
  refine h.trans ?_
  unfold postHeld
  try simp (maxDischargeDepth := 30) +contextual -implicitDefEqProofs
  all_goals repeat' (split <;> try simp (maxDischargeDepth := 30) +contextual -implicitDefEqProofs)
@[simp] theorem goes_delayError {r s : State} (x0 : Nat) (x1 : BitError)
    (h : Goes r s) : Goes r (delayError x0 x1 s) := by
  refine h.trans ?_
  unfold delayError
  try simp (maxDischargeDepth := 30) +contextual -implicitDefEqProofs
  all_goals repeat' (split <;> try simp (maxDischargeDepth := 30) +contextual -implicitDefEqProofs)
@[simp] theorem goes_moveDue {r s : State} (x0 : Nat) (h : Goes r s) : Goes r (moveDue x0 s) := by
  refine h.trans ?_
  unfold moveDue
  try simp (maxDischargeDepth := 30) +contextual -implicitDefEqProofs
  all_goals repeat' (split <;> try simp (maxDischargeDepth := 30) +contextual -implicitDefEqProofs)
@[simp] theorem goes_takePlaces {r s : State} (x0 : Nat) (x1 : Nat) (h : Goes r s) : Goes r (takePlaces x0 x1 s) := by
  induction x1 generalizing s with
  | zero =>
    unfold takePlaces
    try simp (maxDischargeDepth := 30) +contextual -implicitDefEqProofs [h]
    all_goals repeat' (split <;> try simp (maxDischargeDepth := 30) +contextual -implicitDefEqProofs [h])
  | succ n ih =>
    unfold takePlaces
    try simp (maxDischargeDepth := 30) +contextual -implicitDefEqProofs [h, ih]
    all_goals repeat' (split <;> try simp (maxDischargeDepth := 30) +contextual -implicitDefEqProofs [h, ih])
@[simp] theorem goes_settleDomain {r s : State} (x0 : Nat) (h : Goes r s) : Goes r (settleDomain x0 s) := by
  refine h.trans ?_
  unfold settleDomain
  try simp (maxDischargeDepth := 30) +contextual -implicitDefEqProofs
  all_goals repeat' (split <;> try simp (maxDischargeDepth := 30) +contextual -implicitDefEqProofs)
@[simp] theorem goes_post {r s : State} (x0 : Nat) (x1 : Nat) (x2 : W64) (x3 : Nat)
    (h : Goes r s) : Goes r (post x0 x1 x2 x3 s) := by
  refine h.trans ?_
  unfold post
  try simp (maxDischargeDepth := 30) +contextual -implicitDefEqProofs
@[simp] theorem goes_moveAllDue {r s : State} (x0 : Nat) (h : Goes r s) : Goes r (moveAllDue x0 s) := by
  induction x0 generalizing s with
  | zero =>
    unfold moveAllDue
    try simp (maxDischargeDepth := 30) +contextual -implicitDefEqProofs [h]
    all_goals repeat' (split <;> try simp (maxDischargeDepth := 30) +contextual -implicitDefEqProofs [h])
  | succ n ih =>
    unfold moveAllDue
    try simp (maxDischargeDepth := 30) +contextual -implicitDefEqProofs [h, ih]
    all_goals repeat' (split <;> try simp (maxDischargeDepth := 30) +contextual -implicitDefEqProofs [h, ih])
@[simp] theorem goes_flagHeldWakes {r s : State} (h : Goes r s) : Goes r (flagHeldWakes s) := by
  refine h.trans ?_
  unfold flagHeldWakes
  try simp (maxDischargeDepth := 30) +contextual -implicitDefEqProofs
@[simp] theorem goes_tickBoundary {r s : State} (x0 : BitError) (h : Goes r s) : Goes r (tickBoundary x0 s) := by
  refine h.trans ?_
  unfold tickBoundary
  try simp (maxDischargeDepth := 30) +contextual -implicitDefEqProofs
  all_goals repeat' (split <;> try simp (maxDischargeDepth := 30) +contextual -implicitDefEqProofs)
theorem goes_execTickBoundary {s t : State} (x0 : BitError) (q : execTickBoundary x0 s = .next t) : Goes s t := by
  unfold execTickBoundary at q
  refine goes_ok ?_ q
  try simp (maxDischargeDepth := 30) +contextual -implicitDefEqProofs
  all_goals repeat' (split <;> try simp (maxDischargeDepth := 30) +contextual -implicitDefEqProofs)
theorem goes_execWakeHeldMove {s t : State} (x0 : FnId) (x1 : BitError)
    (q : execWakeHeldMove x0 x1 s = .next t) : Goes s t := by
  unfold execWakeHeldMove at q
  refine goes_ok ?_ q
  try simp (maxDischargeDepth := 30) +contextual -implicitDefEqProofs
  all_goals repeat' (split <;> try simp (maxDischargeDepth := 30) +contextual -implicitDefEqProofs)
theorem goes_execDevicePost {s t : State} (x0 : Fin 255) (x1 : FnId) (x2 : W64) (x3 : Fin 16)
    (q : execDevicePost x0 x1 x2 x3 s = .next t) : Goes s t := by
  unfold execDevicePost at q
  refine goes_ok ?_ q
  try simp (maxDischargeDepth := 30) +contextual -implicitDefEqProofs
theorem goes_execHeldEventPost {s t : State} (x0 : FnId) (q : execHeldEventPost x0 s = .next t) : Goes s t := by
  unfold execHeldEventPost at q
  refine goes_ok ?_ q
  try simp (maxDischargeDepth := 30) +contextual -implicitDefEqProofs
@[simp] theorem goes_onDsDomain {r s : State} (x0 : Requester) (x1 : Bool) (x2 : Nat) (x3 : Nat → State → State) (hx3 : ∀ y0 t, Goes t (x3 y0 t))
    (h : Goes r s) : Goes r (onDsDomain x0 x1 x2 x3 s) := by
  refine h.trans ?_
  have kx3 : ∀ r y0 t, Goes r t → Goes r (x3 y0 t) := fun _ y0 t h => h.trans (hx3 y0 t)
  unfold onDsDomain
  try simp (maxDischargeDepth := 30) +contextual -implicitDefEqProofs [kx3]
  all_goals repeat' (split <;> try simp (maxDischargeDepth := 30) +contextual -implicitDefEqProofs [kx3])
@[simp] theorem goes_readRecLo {r s : State} (x0 : Requester) (x1 : Nat)
    (h : Goes r s) : Goes r (readRecLo x0 x1 s) := by
  refine h.trans ?_
  unfold readRecLo
  try simp (maxDischargeDepth := 30) +contextual -implicitDefEqProofs
  all_goals repeat' (split <;> try simp (maxDischargeDepth := 30) +contextual -implicitDefEqProofs)
@[simp] theorem goes_readRecHi {r s : State} (x0 : Requester) (h : Goes r s) : Goes r (readRecHi x0 s) := by
  refine h.trans ?_
  unfold readRecHi
  try simp (maxDischargeDepth := 30) +contextual -implicitDefEqProofs
  all_goals repeat' (split <;> try simp (maxDischargeDepth := 30) +contextual -implicitDefEqProofs)
@[simp] theorem goes_readTrace {r s : State} (x0 : Bool) (x1 : State → State) (hx1 : ∀ t, Goes t (x1 t))
    (h : Goes r s) : Goes r (readTrace x0 x1 s) := by
  refine h.trans ?_
  have kx1 : ∀ r t, Goes r t → Goes r (x1 t) := fun _ t h => h.trans (hx1 t)
  unfold readTrace
  try simp (maxDischargeDepth := 30) +contextual -implicitDefEqProofs [kx1]
  all_goals repeat' (split <;> try simp (maxDischargeDepth := 30) +contextual -implicitDefEqProofs [kx1])
@[simp] theorem goes_restartTrace {r s : State} (h : Goes r s) : Goes r (restartTrace s) := by
  refine h.trans ?_
  unfold restartTrace
  try simp (maxDischargeDepth := 30) +contextual -implicitDefEqProofs

end Sys2Proof.Machine
end

