-- ==== Sys2Proof/Laws/GoesSiteOps.lean ====
section
/-!
SUPPORT. What the operations of Machine/SiteOps.lean keep (Laws/Goes.lean).
-/

namespace Sys2Proof.Machine

@[simp] theorem goes_onChan {r s : State} (x1 : Nat) (x2 : Channel → Channel)
    (h : Goes r s) : Goes r (State.onChan s x1 x2) := by
  refine h.trans ?_
  unfold State.onChan
  try simp (maxDischargeDepth := 30) +contextual -implicitDefEqProofs
@[simp] theorem goes_onSite {r s : State} (x1 : Nat) (x2 : TripSite → TripSite)
    (h : Goes r s) : Goes r (State.onSite s x1 x2) := by
  refine h.trans ?_
  unfold State.onSite
  try simp (maxDischargeDepth := 30) +contextual -implicitDefEqProofs
@[simp] theorem goes_onLane {r s : State} (x1 : Nat) (x2 : Lane → Lane)
    (h : Goes r s) : Goes r (State.onLane s x1 x2) := by
  refine h.trans ?_
  unfold State.onLane
  try simp (maxDischargeDepth := 30) +contextual -implicitDefEqProofs
@[simp] theorem goes_noteWindows {r s : State} (x0 : BitVec 16) (h : Goes r s) : Goes r (noteWindows x0 s) := by
  refine h.trans ?_
  unfold noteWindows
  try simp (maxDischargeDepth := 30) +contextual -implicitDefEqProofs
@[simp] theorem goes_sendFrame {r s : State} (x0 : Nat) (x1 : Nat) (x2 : Nat) (x3 : Nat) (x4 : Nat) (x5 : List Byte)
    (h : Goes r s) : Goes r (sendFrame x0 x1 x2 x3 x4 x5 s) := by
  refine h.trans ?_
  unfold sendFrame
  try simp (maxDischargeDepth := 30) +contextual -implicitDefEqProofs
@[simp] theorem goes_sendAck {r s : State} (x0 : Nat) (x1 : Bool) (h : Goes r s) : Goes r (sendAck x0 x1 s) := by
  refine h.trans ?_
  unfold sendAck
  try simp (maxDischargeDepth := 30) +contextual -implicitDefEqProofs
@[simp] theorem goes_freeMeasure {r s : State} (x0 : Nat) (x1 : Nat)
    (h : Goes r s) : Goes r (freeMeasure x0 x1 s) := by
  refine h.trans ?_
  unfold freeMeasure
  try simp (maxDischargeDepth := 30) +contextual -implicitDefEqProofs
@[simp] theorem goes_freeLane {r s : State} (x0 : Nat) (x1 : Nat) (x2 : Nat)
    (h : Goes r s) : Goes r (freeLane x0 x1 x2 s) := by
  refine h.trans ?_
  unfold freeLane
  try simp (maxDischargeDepth := 30) +contextual -implicitDefEqProofs
@[simp] theorem goes_postWindow {r s : State} (x0 : Nat) (x1 : Nat) (h : Goes r s) : Goes r (postWindow x0 x1 s) := by
  refine h.trans ?_
  unfold postWindow
  try simp (maxDischargeDepth := 30) +contextual -implicitDefEqProofs
@[simp] theorem goes_siteCompleted {r s : State} (x0 : Nat) (x1 : Nat) (x2 : Line) (x3 : Bool) (x4 : Nat)
    (h : Goes r s) : Goes r (siteCompleted x0 x1 x2 x3 x4 s) := by
  refine h.trans ?_
  unfold siteCompleted
  try simp (maxDischargeDepth := 30) +contextual -implicitDefEqProofs

end Sys2Proof.Machine
end

