-- ==== Sys2Proof/Laws/GoesMesh.lean ====
section
/-!
SUPPORT. What the operations of Machine/Mesh.lean keep (Laws/Goes.lean).
-/

namespace Sys2Proof.Machine

@[simp] theorem goes_rangeViolation {r s : State} (x1 : Agent) (x2 : Bool) (x3 : Nat)
    (h : Goes r s) : Goes r (rangeViolation s x1 x2 x3) := by
  refine h.trans ?_
  unfold rangeViolation
  try simp (maxDischargeDepth := 30) +contextual -implicitDefEqProofs
@[simp] theorem goes_keepStale {r s : State} (x0 : Nat) (h : Goes r s) : Goes r (keepStale x0 s) := by
  refine h.trans ?_
  unfold keepStale
  try simp (maxDischargeDepth := 30) +contextual -implicitDefEqProofs
@[simp] theorem goes_markLine {r s : State} (x0 : Nat) (x1 : Bool) (h : Goes r s) : Goes r (markLine x0 x1 s) := by
  refine h.trans ?_
  unfold markLine
  try simp (maxDischargeDepth := 30) +contextual -implicitDefEqProofs
  all_goals repeat' (split <;> try simp (maxDischargeDepth := 30) +contextual -implicitDefEqProofs)
@[simp] theorem goes_putLine {r s : State} (x0 : Nat) (x1 : Line) (x2 : BitVec 64)
    (h : Goes r s) : Goes r (putLine x0 x1 x2 s) := by
  refine h.trans ?_
  unfold putLine
  try simp (maxDischargeDepth := 30) +contextual -implicitDefEqProofs
@[simp] theorem goes_writeBack {r s : State} (x0 : Nat) (h : Goes r s) : Goes r (writeBack x0 s) := by
  refine h.trans ?_
  unfold writeBack
  try simp (maxDischargeDepth := 30) +contextual -implicitDefEqProofs
@[simp] theorem goes_clearReservations {r s : State} (x0 : Nat) (x1 : Option HartId)
    (h : Goes r s) : Goes r (clearReservations x0 x1 s) := by
  refine h.trans ?_
  unfold clearReservations
  try simp (maxDischargeDepth := 30) +contextual -implicitDefEqProofs
@[simp] theorem goes_dramCheck {r s : State} (x0 : Nat) (x1 : DramCheck) (x2 : Bool)
    (h : Goes r s) : Goes r (dramCheck x0 x1 x2 s) := by
  refine h.trans ?_
  unfold dramCheck
  try simp (maxDischargeDepth := 30) +contextual -implicitDefEqProofs
  all_goals repeat' (split <;> try simp (maxDischargeDepth := 30) +contextual -implicitDefEqProofs)
@[simp] theorem goes_poisonConsumed {r s : State} (h : Goes r s) : Goes r (poisonConsumed s) := by
  refine h.trans ?_
  unfold poisonConsumed
  try simp (maxDischargeDepth := 30) +contextual -implicitDefEqProofs
@[simp] theorem goes_pmc {r s : State} (x1 : Nat) (x2 : Bool) (x3 : Slice → Slice)
    (h : Goes r s) : Goes r (pmc s x1 x2 x3) := by
  refine h.trans ?_
  unfold pmc
  try simp (maxDischargeDepth := 30) +contextual -implicitDefEqProofs
@[simp] theorem goes_dropL1 {r s : State} (x0 : Nat) (x1 : Nat) (h : Goes r s) : Goes r (dropL1 x0 x1 s) := by
  refine h.trans ?_
  unfold dropL1
  try simp (maxDischargeDepth := 30) +contextual -implicitDefEqProofs
  all_goals repeat' (split <;> try simp (maxDischargeDepth := 30) +contextual -implicitDefEqProofs)
@[simp] theorem goes_dropCopy {r s : State} (x0 : Nat) (x1 : Nat) (h : Goes r s) : Goes r (dropCopy x0 x1 s) := by
  refine h.trans ?_
  unfold dropCopy
  try simp (maxDischargeDepth := 30) +contextual -implicitDefEqProofs
  all_goals repeat' (split <;> try simp (maxDischargeDepth := 30) +contextual -implicitDefEqProofs)
@[simp] theorem goes_dropCopies {r s : State} (x0 : Nat) (h : Goes r s) : Goes r (dropCopies x0 s) := by
  refine h.trans ?_
  unfold dropCopies
  try simp (maxDischargeDepth := 30) +contextual -implicitDefEqProofs
  all_goals repeat' (split <;> try simp (maxDischargeDepth := 30) +contextual -implicitDefEqProofs)
@[simp] theorem goes_dropL3 {r s : State} (x0 : Nat) (h : Goes r s) : Goes r (dropL3 x0 s) := by
  refine h.trans ?_
  unfold dropL3
  try simp (maxDischargeDepth := 30) +contextual -implicitDefEqProofs
  all_goals repeat' (split <;> try simp (maxDischargeDepth := 30) +contextual -implicitDefEqProofs)
@[simp] theorem goes_allocL3 {r s : State} (x0 : Nat) (x1 : L3) (x2 : Bool)
    (h : Goes r s) : Goes r (allocL3 x0 x1 x2 s) := by
  refine h.trans ?_
  unfold allocL3
  try simp (maxDischargeDepth := 30) +contextual -implicitDefEqProofs
  all_goals repeat' (split <;> try simp (maxDischargeDepth := 30) +contextual -implicitDefEqProofs)
@[simp] theorem goes_copyToL3 {r s : State} (x0 : Nat) (x1 : Nat) (h : Goes r s) : Goes r (copyToL3 x0 x1 s) := by
  refine h.trans ?_
  unfold copyToL3
  try simp (maxDischargeDepth := 30) +contextual -implicitDefEqProofs
  all_goals repeat' (split <;> try simp (maxDischargeDepth := 30) +contextual -implicitDefEqProofs)
@[simp] theorem goes_evictEntry {r s : State} (x0 : Nat) (h : Goes r s) : Goes r (evictEntry x0 s) := by
  refine h.trans ?_
  unfold evictEntry
  try simp (maxDischargeDepth := 30) +contextual -implicitDefEqProofs
  all_goals repeat' (split <;> try simp (maxDischargeDepth := 30) +contextual -implicitDefEqProofs)
@[simp] theorem goes_makeFilterEntry {r s : State} (x0 : Nat) (h : Goes r s) : Goes r (makeFilterEntry x0 s) := by
  refine h.trans ?_
  unfold makeFilterEntry
  try simp (maxDischargeDepth := 30) +contextual -implicitDefEqProofs
  all_goals repeat' (split <;> try simp (maxDischargeDepth := 30) +contextual -implicitDefEqProofs)
@[simp] theorem goes_filterError {r s : State} (x0 : Nat) (x1 : Bool)
    (h : Goes r s) : Goes r (filterError x0 x1 s) := by
  refine h.trans ?_
  unfold filterError
  try simp (maxDischargeDepth := 30) +contextual -implicitDefEqProofs
  all_goals repeat' (split <;> try simp (maxDischargeDepth := 30) +contextual -implicitDefEqProofs)
@[simp] theorem goes_makeWay {r s : State} (x0 : Nat) (x1 : Nat) (h : Goes r s) : Goes r (makeWay x0 x1 s) := by
  refine h.trans ?_
  unfold makeWay
  try simp (maxDischargeDepth := 30) +contextual -implicitDefEqProofs
  all_goals repeat' (split <;> try simp (maxDischargeDepth := 30) +contextual -implicitDefEqProofs)
@[simp] theorem goes_fetchHome {r s : State} (x0 : Nat) (x1 : HomeCheck) (x2 : Bool)
    (h : Goes r s) : Goes r (fetchHome x0 x1 x2 s) := by
  refine h.trans ?_
  unfold fetchHome
  try simp (maxDischargeDepth := 30) +contextual -implicitDefEqProofs
  all_goals repeat' (split <;> try simp (maxDischargeDepth := 30) +contextual -implicitDefEqProofs)
@[simp] theorem goes_startTxn {r s : State} (x0 : ReqKind) (x1 : Nat) (x2 : Nat) (x3 : Tracker) (x4 : HomeCheck)
    (h : Goes r s) : Goes r (startTxn x0 x1 x2 x3 x4 s) := by
  refine h.trans ?_
  unfold startTxn
  try simp (maxDischargeDepth := 30) +contextual -implicitDefEqProofs
  all_goals repeat' (split <;> try simp (maxDischargeDepth := 30) +contextual -implicitDefEqProofs)
@[simp] theorem goes_answerSnoop {r s : State} (x0 : Nat) (x1 : Nat) (x2 : SnoopKind)
    (h : Goes r s) : Goes r (answerSnoop x0 x1 x2 s) := by
  refine h.trans ?_
  unfold answerSnoop
  try simp (maxDischargeDepth := 30) +contextual -implicitDefEqProofs
  all_goals repeat' (split <;> try simp (maxDischargeDepth := 30) +contextual -implicitDefEqProofs)
@[simp] theorem goes_snoopArrives {r s : State} (x0 : Nat) (x1 : Nat) (x2 : SnoopKind)
    (h : Goes r s) : Goes r (snoopArrives x0 x1 x2 s) := by
  refine h.trans ?_
  unfold snoopArrives
  try simp (maxDischargeDepth := 30) +contextual -implicitDefEqProofs
  all_goals repeat' (split <;> try simp (maxDischargeDepth := 30) +contextual -implicitDefEqProofs)
@[simp] theorem goes_install {r s : State} (x0 : Nat) (x1 : Nat) (x2 : Moes)
    (h : Goes r s) : Goes r (install x0 x1 x2 s) := by
  refine h.trans ?_
  unfold install
  try simp (maxDischargeDepth := 30) +contextual -implicitDefEqProofs
@[simp] theorem goes_deliver {r s : State} (x0 : Nat) (x1 : Nat) (x2 : Bool)
    (h : Goes r s) : Goes r (deliver x0 x1 x2 s) := by
  refine h.trans ?_
  unfold deliver
  try simp (maxDischargeDepth := 30) +contextual -implicitDefEqProofs
  all_goals repeat' (split <;> try simp (maxDischargeDepth := 30) +contextual -implicitDefEqProofs)
@[simp] theorem goes_acknowledge {r s : State} (x0 : Nat) (x1 : Nat)
    (h : Goes r s) : Goes r (acknowledge x0 x1 s) := by
  refine h.trans ?_
  unfold acknowledge
  try simp (maxDischargeDepth := 30) +contextual -implicitDefEqProofs
  all_goals repeat' (split <;> try simp (maxDischargeDepth := 30) +contextual -implicitDefEqProofs)
@[simp] theorem goes_deviceFetch {r s : State} (x0 : Nat) (x1 : Nat) (x2 : HomeCheck) (x3 : Bool)
    (h : Goes r s) : Goes r (deviceFetch x0 x1 x2 x3 s) := by
  refine h.trans ?_
  unfold deviceFetch
  try simp (maxDischargeDepth := 30) +contextual -implicitDefEqProofs
  all_goals repeat' (split <;> try simp (maxDischargeDepth := 30) +contextual -implicitDefEqProofs)
@[simp] theorem goes_mergeAtHome {r s : State} (x0 : Nat) (x1 : Line) (x2 : BitVec 64) (x3 : Bool)
    (h : Goes r s) : Goes r (mergeAtHome x0 x1 x2 x3 s) := by
  refine h.trans ?_
  unfold mergeAtHome
  try simp (maxDischargeDepth := 30) +contextual -implicitDefEqProofs
  all_goals repeat' (split <;> try simp (maxDischargeDepth := 30) +contextual -implicitDefEqProofs)
@[simp] theorem goes_writeDirty {r s : State} (x0 : Nat) (x1 : Nat) (h : Goes r s) : Goes r (writeDirty x0 x1 s) := by
  refine h.trans ?_
  unfold writeDirty
  repeat' (first | (with_reducible exact goes_refl _) | (refine goes_foldl (fun _ _ => ?_) ?_) | (refine goes_forAll (fun _ _ => ?_) ?_) | (refine goes_ite (fun _ => ?_) (fun _ => ?_)) | split)
  all_goals try simp (maxDischargeDepth := 30) +contextual -implicitDefEqProofs
  all_goals repeat' (split <;> try simp (maxDischargeDepth := 30) +contextual -implicitDefEqProofs)
@[simp] theorem goes_evictClean {r s : State} (x0 : Nat) (x1 : Nat) (h : Goes r s) : Goes r (evictClean x0 x1 s) := by
  refine h.trans ?_
  unfold evictClean
  try simp (maxDischargeDepth := 30) +contextual -implicitDefEqProofs
  all_goals repeat' (split <;> try simp (maxDischargeDepth := 30) +contextual -implicitDefEqProofs)
@[simp] theorem goes_serveRead {r s : State} (x0 : Nat) (x1 : Nat) (x2 : HomeCheck)
    (h : Goes r s) : Goes r (serveRead x0 x1 x2 s) := by
  refine h.trans ?_
  unfold serveRead
  try simp (maxDischargeDepth := 30) +contextual -implicitDefEqProofs
  all_goals repeat' (split <;> try simp (maxDischargeDepth := 30) +contextual -implicitDefEqProofs)
@[simp] theorem goes_serveWrite {r s : State} (x0 : Nat) (x1 : Nat) (x2 : Line) (x3 : BitVec 64)
    (h : Goes r s) : Goes r (serveWrite x0 x1 x2 x3 s) := by
  refine h.trans ?_
  unfold serveWrite
  try simp (maxDischargeDepth := 30) +contextual -implicitDefEqProofs
  all_goals repeat' (split <;> try simp (maxDischargeDepth := 30) +contextual -implicitDefEqProofs)
@[simp] theorem goes_noteUse {r s : State} (x0 : Nat) (h : Goes r s) : Goes r (noteUse x0 s) := by
  refine h.trans ?_
  unfold noteUse
  try simp (maxDischargeDepth := 30) +contextual -implicitDefEqProofs
@[simp] theorem goes_serve {r s : State} (x0 : MeshRequest) (h : Goes r s) : Goes r (serve x0 s) := by
  refine h.trans ?_
  unfold serve
  try simp (maxDischargeDepth := 30) +contextual -implicitDefEqProofs
  all_goals repeat' (split <;> try simp (maxDischargeDepth := 30) +contextual -implicitDefEqProofs)
@[simp] theorem goes_beginOrQueue {r s : State} (x0 : MeshRequest) (h : Goes r s) : Goes r (beginOrQueue x0 s) := by
  refine h.trans ?_
  unfold beginOrQueue
  try simp (maxDischargeDepth := 30) +contextual -implicitDefEqProofs
  all_goals repeat' (split <;> try simp (maxDischargeDepth := 30) +contextual -implicitDefEqProofs)
@[simp] theorem goes_takeTracker {r s : State} (x0 : MeshRequest) (h : Goes r s) : Goes r (takeTracker x0 s) := by
  refine h.trans ?_
  unfold takeTracker
  try simp (maxDischargeDepth := 30) +contextual -implicitDefEqProofs
  all_goals repeat' (split <;> try simp (maxDischargeDepth := 30) +contextual -implicitDefEqProofs)
@[simp] theorem goes_request {r s : State} (x0 : MeshRequest) (h : Goes r s) : Goes r (request x0 s) := by
  refine h.trans ?_
  unfold request
  try simp (maxDischargeDepth := 30) +contextual -implicitDefEqProofs
  all_goals repeat' (split <;> try simp (maxDischargeDepth := 30) +contextual -implicitDefEqProofs)
@[simp] theorem goes_countEvent {r s : State} (x0 : HartId) (x1 : Nat) (x2 : Nat)
    (h : Goes r s) : Goes r (countEvent x0 x1 x2 s) := by
  refine h.trans ?_
  unfold countEvent
  try simp (maxDischargeDepth := 30) +contextual -implicitDefEqProofs
@[simp] theorem goes_takeRetry {r s : State} (x0 : Nat) (x1 : Nat) (h : Goes r s) : Goes r (takeRetry x0 x1 s) := by
  refine h.trans ?_
  unfold takeRetry
  try simp (maxDischargeDepth := 30) +contextual -implicitDefEqProofs
  all_goals repeat' (split <;> try simp (maxDischargeDepth := 30) +contextual -implicitDefEqProofs)
@[simp] theorem goes_sendBehind {r s : State} (x0 : Nat) (h : Goes r s) : Goes r (sendBehind x0 s) := by
  refine h.trans ?_
  unfold sendBehind
  try simp (maxDischargeDepth := 30) +contextual -implicitDefEqProofs
  all_goals repeat' (split <;> try simp (maxDischargeDepth := 30) +contextual -implicitDefEqProofs)
@[simp] theorem goes_serveQueued {r s : State} (x0 : Nat) (h : Goes r s) : Goes r (serveQueued x0 s) := by
  refine h.trans ?_
  unfold serveQueued
  try simp (maxDischargeDepth := 30) +contextual -implicitDefEqProofs
  all_goals repeat' (split <;> try simp (maxDischargeDepth := 30) +contextual -implicitDefEqProofs)
@[simp] theorem goes_freeTracker {r s : State} (x0 : Nat) (x1 : Txn) (x2 : Nat)
    (h : Goes r s) : Goes r (freeTracker x0 x1 x2 s) := by
  refine h.trans ?_
  unfold freeTracker
  try simp (maxDischargeDepth := 30) +contextual -implicitDefEqProofs
  all_goals repeat' (split <;> try simp (maxDischargeDepth := 30) +contextual -implicitDefEqProofs)
@[simp] theorem goes_releaseTracker {r s : State} (x0 : Nat) (x1 : Nat)
    (h : Goes r s) : Goes r (releaseTracker x0 x1 s) := by
  refine h.trans ?_
  unfold releaseTracker
  try simp (maxDischargeDepth := 30) +contextual -implicitDefEqProofs
  all_goals repeat' (split <;> try simp (maxDischargeDepth := 30) +contextual -implicitDefEqProofs)
@[simp] theorem goes_takeGrant {r s : State} (x0 : Nat) (x1 : Nat) (h : Goes r s) : Goes r (takeGrant x0 x1 s) := by
  refine h.trans ?_
  unfold takeGrant
  try simp (maxDischargeDepth := 30) +contextual -implicitDefEqProofs
  all_goals repeat' (split <;> try simp (maxDischargeDepth := 30) +contextual -implicitDefEqProofs)
@[simp] theorem goes_endTxn {r s : State} (x0 : Nat) (h : Goes r s) : Goes r (endTxn x0 s) := by
  refine h.trans ?_
  unfold endTxn
  try simp (maxDischargeDepth := 30) +contextual -implicitDefEqProofs
  all_goals repeat' (split <;> try simp (maxDischargeDepth := 30) +contextual -implicitDefEqProofs)
@[simp] theorem goes_endTxns {r s : State} (x0 : Nat) (x1 : Nat) (h : Goes r s) : Goes r (endTxns x0 x1 s) := by
  induction x1 generalizing s with
  | zero =>
    unfold endTxns
    try simp (maxDischargeDepth := 30) +contextual -implicitDefEqProofs [h]
    all_goals repeat' (split <;> try simp (maxDischargeDepth := 30) +contextual -implicitDefEqProofs [h])
  | succ n ih =>
    unfold endTxns
    try simp (maxDischargeDepth := 30) +contextual -implicitDefEqProofs [h, ih]
    all_goals repeat' (split <;> try simp (maxDischargeDepth := 30) +contextual -implicitDefEqProofs [h, ih])
@[simp] theorem goes_finishTxn {r s : State} (x0 : Nat) (h : Goes r s) : Goes r (finishTxn x0 s) := by
  refine h.trans ?_
  unfold finishTxn
  try simp (maxDischargeDepth := 30) +contextual -implicitDefEqProofs
  all_goals repeat' (split <;> try simp (maxDischargeDepth := 30) +contextual -implicitDefEqProofs)
@[simp] theorem goes_runWhole {r s : State} (x0 : MeshRequest) (h : Goes r s) : Goes r (runWhole x0 s) := by
  refine h.trans ?_
  unfold runWhole
  try simp (maxDischargeDepth := 30) +contextual -implicitDefEqProofs
  all_goals repeat' (split <;> try simp (maxDischargeDepth := 30) +contextual -implicitDefEqProofs)
@[simp] theorem goes_runRetried {r s : State} (x0 : Nat) (x1 : Nat) (h : Goes r s) : Goes r (runRetried x0 x1 s) := by
  refine h.trans ?_
  unfold runRetried
  try simp (maxDischargeDepth := 30) +contextual -implicitDefEqProofs
  all_goals repeat' (split <;> try simp (maxDischargeDepth := 30) +contextual -implicitDefEqProofs)
@[simp] theorem goes_noteRetry {r s : State} (x0 : Nat) (x1 : Nat) (h : Goes r s) : Goes r (noteRetry x0 x1 s) := by
  refine h.trans ?_
  unfold noteRetry
  try simp (maxDischargeDepth := 30) +contextual -implicitDefEqProofs
  all_goals repeat' (split <;> try simp (maxDischargeDepth := 30) +contextual -implicitDefEqProofs)
@[simp] theorem goes_obtain {r s : State} (x0 : Nat) (x1 : Nat) (x2 : Bool) (x3 : HomeCheck)
    (h : Goes r s) : Goes r (obtain x0 x1 x2 x3 s) := by
  refine h.trans ?_
  unfold obtain
  try simp (maxDischargeDepth := 30) +contextual -implicitDefEqProofs
  all_goals repeat' (split <;> try simp (maxDischargeDepth := 30) +contextual -implicitDefEqProofs)
@[simp] theorem goes_homeWrite {r s : State} (x0 : Nat) (x1 : Line) (x2 : BitVec 64) (x3 : Bool)
    (h : Goes r s) : Goes r (homeWrite x0 x1 x2 x3 s) := by
  refine h.trans ?_
  unfold homeWrite
  try simp (maxDischargeDepth := 30) +contextual -implicitDefEqProofs
  all_goals repeat' (split <;> try simp (maxDischargeDepth := 30) +contextual -implicitDefEqProofs)
@[simp] theorem goes_agentWriteLine {r s : State} (x0 : Agent) (x1 : Nat) (x2 : Line) (x3 : BitVec 64)
    (h : Goes r s) : Goes r (agentWriteLine x0 x1 x2 x3 s) := by
  refine h.trans ?_
  unfold agentWriteLine
  try simp (maxDischargeDepth := 30) +contextual -implicitDefEqProofs
@[simp] theorem goes_releaseWrites {r s : State} (h : Goes r s) : Goes r (releaseWrites s) := by
  refine h.trans ?_
  unfold releaseWrites
  refine goes_foldl (fun t q => ?_) (goes_refl s)
  split
  · refine goes_ite (fun _ => goes_refl t) (fun _ => goes_homeWrite _ _ _ _ ?_)
    exact goes_onMesh (goes_refl t) id id id id
  · exact goes_refl t
@[simp] theorem goes_agentWriteBytes {r s : State} (x0 : Agent) (x1 : Nat) (x2 : Nat) (x3 : List Byte)
    (h : Goes r s) : Goes r (agentWriteBytes x0 x1 x2 x3 s) := by
  induction x1 generalizing s x2 x3 with
  | zero => simpa [agentWriteBytes] using h
  | succ n ih =>
    cases x3 with
    | nil => simpa [agentWriteBytes] using h
    | cons b bs =>
      refine ih _ _ ?_
      simp [h]
@[simp] theorem goes_checkRange {r s : State} (x0 : Agent) (x1 : Bool) (x2 : Nat) (x3 : Nat)
    (h : Goes r s) : Goes r (checkRange x0 x1 x2 x3 s) := by
  refine h.trans ?_
  unfold checkRange
  try simp (maxDischargeDepth := 30) +contextual -implicitDefEqProofs
  all_goals repeat' (split <;> try simp (maxDischargeDepth := 30) +contextual -implicitDefEqProofs)
@[simp] theorem goes_agentWrite {r s : State} (x0 : Agent) (x1 : Nat) (x2 : Nat) (x3 : List Byte)
    (h : Goes r s) : Goes r (agentWrite x0 x1 x2 x3 s) := by
  refine h.trans ?_
  unfold agentWrite
  try simp (maxDischargeDepth := 30) +contextual -implicitDefEqProofs
  all_goals repeat' (split <;> try simp (maxDischargeDepth := 30) +contextual -implicitDefEqProofs)
@[simp] theorem goes_agentCheck {r s : State} (x0 : Agent) (x1 : Nat) (x2 : Nat)
    (h : Goes r s) : Goes r (agentCheck x0 x1 x2 s).1 := by
  refine h.trans ?_
  unfold agentCheck
  try simp (maxDischargeDepth := 30) +contextual -implicitDefEqProofs
@[simp] theorem goes_cleanLine {r s : State} (x0 : Nat) (h : Goes r s) : Goes r (cleanLine x0 s) := by
  refine h.trans ?_
  unfold cleanLine
  try simp (maxDischargeDepth := 30) +contextual -implicitDefEqProofs
@[simp] theorem goes_flushLine {r s : State} (x0 : Nat) (h : Goes r s) : Goes r (flushLine x0 s) := by
  refine h.trans ?_
  unfold flushLine
  try simp (maxDischargeDepth := 30) +contextual -implicitDefEqProofs
@[simp] theorem goes_dropLine {r s : State} (x0 : Nat) (h : Goes r s) : Goes r (dropLine x0 s) := by
  refine h.trans ?_
  unfold dropLine
  try simp (maxDischargeDepth := 30) +contextual -implicitDefEqProofs
  all_goals repeat' (split <;> try simp (maxDischargeDepth := 30) +contextual -implicitDefEqProofs)
@[simp] theorem goes_flushAll {r s : State} (h : Goes r s) : Goes r (flushAll s) := by
  refine h.trans ?_
  unfold flushAll
  try simp (maxDischargeDepth := 30) +contextual -implicitDefEqProofs
@[simp] theorem goes_recodeLine {r s : State} (x0 : Nat → List Byte → List Byte) (x1 : Nat)
    (h : Goes r s) : Goes r (recodeLine x0 x1 s) := by
  refine h.trans ?_
  unfold recodeLine
  try simp (maxDischargeDepth := 30) +contextual -implicitDefEqProofs
  all_goals repeat' (split <;> try simp (maxDischargeDepth := 30) +contextual -implicitDefEqProofs)
@[simp] theorem goes_recodeRange {r s : State} (x0 : Nat → List Byte → List Byte) (x1 : Nat) (x2 : Nat)
    (h : Goes r s) : Goes r (recodeRange x0 x1 x2 s) := by
  refine h.trans ?_
  unfold recodeRange
  try simp (maxDischargeDepth := 30) +contextual -implicitDefEqProofs
  all_goals repeat' (split <;> try simp (maxDischargeDepth := 30) +contextual -implicitDefEqProofs)
theorem goes_execRdShared {s t : State} (x0 : HartId) (x1 : LineNo) (x2 : HomeCheck)
    (q : execRdShared x0 x1 x2 s = .next t) : Goes s t := by
  unfold execRdShared at q
  refine goes_ok ?_ q
  try simp (maxDischargeDepth := 30) +contextual -implicitDefEqProofs
  all_goals repeat' (split <;> try simp (maxDischargeDepth := 30) +contextual -implicitDefEqProofs)
theorem goes_execRdUnique {s t : State} (x0 : HartId) (x1 : LineNo) (x2 : HomeCheck)
    (q : execRdUnique x0 x1 x2 s = .next t) : Goes s t := by
  unfold execRdUnique at q
  refine goes_ok ?_ q
  try simp (maxDischargeDepth := 30) +contextual -implicitDefEqProofs
  all_goals repeat' (split <;> try simp (maxDischargeDepth := 30) +contextual -implicitDefEqProofs)
theorem goes_execUpgrade {s t : State} (x0 : HartId) (x1 : LineNo)
    (q : execUpgrade x0 x1 s = .next t) : Goes s t := by
  unfold execUpgrade at q
  refine goes_ok ?_ q
  try simp (maxDischargeDepth := 30) +contextual -implicitDefEqProofs
theorem goes_execWbDirty {s t : State} (x0 : HartId) (x1 : LineNo)
    (q : execWbDirty x0 x1 s = .next t) : Goes s t := by
  unfold execWbDirty at q
  refine goes_ok ?_ q
  try simp (maxDischargeDepth := 30) +contextual -implicitDefEqProofs
  all_goals repeat' (split <;> try simp (maxDischargeDepth := 30) +contextual -implicitDefEqProofs)
theorem goes_execEvictClean {s t : State} (x0 : HartId) (x1 : LineNo)
    (q : execEvictClean x0 x1 s = .next t) : Goes s t := by
  unfold execEvictClean at q
  refine goes_ok ?_ q
  try simp (maxDischargeDepth := 30) +contextual -implicitDefEqProofs
  all_goals repeat' (split <;> try simp (maxDischargeDepth := 30) +contextual -implicitDefEqProofs)
@[simp] theorem goes_deviceRequest {r s : State} (x0 : Nat) (x1 : Nat) (x2 : ReqKind) (x3 : HomeCheck)
    (h : Goes r s) : Goes r (deviceRequest x0 x1 x2 x3 s) := by
  refine h.trans ?_
  unfold deviceRequest
  try simp (maxDischargeDepth := 30) +contextual -implicitDefEqProofs
  all_goals repeat' (split <;> try simp (maxDischargeDepth := 30) +contextual -implicitDefEqProofs)
theorem goes_execDevRead {s t : State} (x0 : MeshReq) (x1 : LineNo) (x2 : HomeCheck)
    (q : execDevRead x0 x1 x2 s = .next t) : Goes s t := by
  unfold execDevRead at q
  refine goes_ok ?_ q
  try simp (maxDischargeDepth := 30) +contextual -implicitDefEqProofs
  all_goals repeat' (split <;> try simp (maxDischargeDepth := 30) +contextual -implicitDefEqProofs)
theorem goes_execDevWrite {s t : State} (x0 : MeshReq) (x1 : LineNo) (x2 : Line) (x3 : BitVec 64)
    (q : execDevWrite x0 x1 x2 x3 s = .next t) : Goes s t := by
  unfold execDevWrite at q
  refine goes_ok ?_ q
  try simp (maxDischargeDepth := 30) +contextual -implicitDefEqProofs
theorem goes_execSnpShared {s t : State} (x0 : HartId) (x1 : LineNo)
    (q : execSnpShared x0 x1 s = .next t) : Goes s t := by
  unfold execSnpShared at q
  simp only [Host.Outcome.next.injEq] at q
  subst q
  try simp (maxDischargeDepth := 30) +contextual -implicitDefEqProofs
theorem goes_execSnpUnique {s t : State} (x0 : HartId) (x1 : LineNo)
    (q : execSnpUnique x0 x1 s = .next t) : Goes s t := by
  unfold execSnpUnique at q
  simp only [Host.Outcome.next.injEq] at q
  subst q
  try simp (maxDischargeDepth := 30) +contextual -implicitDefEqProofs
theorem goes_execSnpInv {s t : State} (x0 : HartId) (x1 : LineNo) (q : execSnpInv x0 x1 s = .next t) : Goes s t := by
  unfold execSnpInv at q
  simp only [Host.Outcome.next.injEq] at q
  subst q
  try simp (maxDischargeDepth := 30) +contextual -implicitDefEqProofs
theorem goes_execData {s t : State} (x0 : HartId) (x1 : LineNo) (q : execData x0 x1 s = .next t) : Goes s t := by
  unfold execData at q
  simp only [Host.Outcome.next.injEq] at q
  subst q
  try simp (maxDischargeDepth := 30) +contextual -implicitDefEqProofs
theorem goes_execDataDirty {s t : State} (x0 : HartId) (x1 : LineNo)
    (q : execDataDirty x0 x1 s = .next t) : Goes s t := by
  unfold execDataDirty at q
  simp only [Host.Outcome.next.injEq] at q
  subst q
  try simp (maxDischargeDepth := 30) +contextual -implicitDefEqProofs
theorem goes_execAck {s t : State} (x0 : HartId) (x1 : LineNo) (q : execAck x0 x1 s = .next t) : Goes s t := by
  unfold execAck at q
  simp only [Host.Outcome.next.injEq] at q
  subst q
  try simp (maxDischargeDepth := 30) +contextual -implicitDefEqProofs
theorem goes_execRetry {s t : State} (x0 : MeshReq) (x1 : SliceId) (q : execRetry x0 x1 s = .next t) : Goes s t := by
  unfold execRetry at q
  simp only [Host.Outcome.next.injEq] at q
  subst q
  try simp (maxDischargeDepth := 30) +contextual -implicitDefEqProofs
theorem goes_execTrackerRelease {s t : State} (x0 : SliceId) (x1 : LineNo)
    (q : execTrackerRelease x0 x1 s = .next t) : Goes s t := by
  unfold execTrackerRelease at q
  refine goes_ok ?_ q
  try simp (maxDischargeDepth := 30) +contextual -implicitDefEqProofs
theorem goes_execCreditGrant {s t : State} (x0 : MeshReq) (x1 : SliceId)
    (q : execCreditGrant x0 x1 s = .next t) : Goes s t := by
  unfold execCreditGrant at q
  refine goes_ok ?_ q
  try simp (maxDischargeDepth := 30) +contextual -implicitDefEqProofs
@[simp] theorem goes_patrolScrub {r s : State} (x0 : Nat) (x1 : DramCheck)
    (h : Goes r s) : Goes r (patrolScrub x0 x1 s) := by
  refine h.trans ?_
  unfold patrolScrub
  try simp (maxDischargeDepth := 30) +contextual -implicitDefEqProofs
theorem goes_execPatrolScrub {s t : State} (x0 : Fin 4) (x1 : DramCheck)
    (q : execPatrolScrub x0 x1 s = .next t) : Goes s t := by
  unfold execPatrolScrub at q
  refine goes_ok ?_ q
  try simp (maxDischargeDepth := 30) +contextual -implicitDefEqProofs
@[simp] theorem goes_zeroNextLine {r s : State} (h : Goes r s) : Goes r (zeroNextLine s) := by
  refine h.trans ?_
  unfold zeroNextLine
  try simp (maxDischargeDepth := 30) +contextual -implicitDefEqProofs
theorem goes_execDramZeroing {s t : State} (q : execDramZeroing s = .next t) : Goes s t := by
  unfold execDramZeroing at q
  simp only [Host.Outcome.next.injEq] at q
  subst q
  try simp (maxDischargeDepth := 30) +contextual -implicitDefEqProofs
@[simp] theorem goes_pmcClear {r s : State} (h : Goes r s) : Goes r (pmcClear s) := by
  refine h.trans ?_
  unfold pmcClear
  try simp (maxDischargeDepth := 30) +contextual -implicitDefEqProofs

end Sys2Proof.Machine
end

