-- ==== Sys2Proof/Laws/GoesLogbookOps.lean ====
section
/-!
SUPPORT. What the operations of Machine/LogbookOps.lean keep (Laws/Goes.lean).
-/

namespace Sys2Proof.Machine

@[simp] theorem goes_noteLive {r s : State} (h : Goes r s) : Goes r (noteLive s) := by
  refine h.trans ?_
  unfold noteLive
  try simp (maxDischargeDepth := 30) +contextual -implicitDefEqProofs
@[simp] theorem goes_commit {r s : State} (x0 : Record) (h : Goes r s) : Goes r (commit x0 s) := by
  refine h.trans ?_
  unfold commit
  try simp (maxDischargeDepth := 30) +contextual -implicitDefEqProofs
@[simp] theorem goes_commitAccept {r s : State} (x0 : Nat) (x1 : Nat) (x2 : RingIdent) (x3 : List Line) (x4 : Bool) (x5 : Option Line)
    (h : Goes r s) : Goes r (commitAccept x0 x1 x2 x3 x4 x5 s) := by
  refine h.trans ?_
  unfold commitAccept
  try simp (maxDischargeDepth := 30) +contextual -implicitDefEqProofs
@[simp] theorem goes_commitSeed {r s : State} (x0 : Nat) (x1 : Nat) (x2 : Nat)
    (h : Goes r s) : Goes r (commitSeed x0 x1 x2 s) := by
  refine h.trans ?_
  unfold commitSeed
  try simp (maxDischargeDepth := 30) +contextual -implicitDefEqProofs
@[simp] theorem goes_commitStart {r s : State} (x0 : Nat) (x1 : Nat) (x2 : Nat) (x3 : Nat) (x4 : Nat)
    (h : Goes r s) : Goes r (commitStart x0 x1 x2 x3 x4 s) := by
  refine h.trans ?_
  unfold commitStart
  try simp (maxDischargeDepth := 30) +contextual -implicitDefEqProofs
@[simp] theorem goes_commitComplete {r s : State} (x0 : Nat) (x1 : Nat) (x2 : Nat) (x3 : Result) (x4 : Nat)
    (h : Goes r s) : Goes r (commitComplete x0 x1 x2 x3 x4 s) := by
  refine h.trans ?_
  unfold commitComplete
  try simp (maxDischargeDepth := 30) +contextual -implicitDefEqProofs
@[simp] theorem goes_commitEpoch {r s : State} (x0 : Nat) (x1 : Nat) (x2 : Nat)
    (h : Goes r s) : Goes r (commitEpoch x0 x1 x2 s) := by
  refine h.trans ?_
  unfold commitEpoch
  try simp (maxDischargeDepth := 30) +contextual -implicitDefEqProofs
@[simp] theorem goes_commitMigrated {r s : State} (x0 : Bool) (x1 : Nat) (x2 : BitVec 128)
    (h : Goes r s) : Goes r (commitMigrated x0 x1 x2 s) := by
  refine h.trans ?_
  unfold commitMigrated
  try simp (maxDischargeDepth := 30) +contextual -implicitDefEqProofs
@[simp] theorem goes_commitIdentity {r s : State} (x0 : Nat) (x1 : RingIdent)
    (h : Goes r s) : Goes r (commitIdentity x0 x1 s) := by
  refine h.trans ?_
  unfold commitIdentity
  try simp (maxDischargeDepth := 30) +contextual -implicitDefEqProofs
@[simp] theorem goes_commitTrouble {r s : State} (x0 : List (Nat × Nat))
    (h : Goes r s) : Goes r (commitTrouble x0 s) := by
  refine h.trans ?_
  unfold commitTrouble
  try simp (maxDischargeDepth := 30) +contextual -implicitDefEqProofs
@[simp] theorem goes_noteWear {r s : State} (x0 : BankWrite) (x1 : BankWrite)
    (h : Goes r s) : Goes r (noteWear x0 x1 s) := by
  refine h.trans ?_
  unfold noteWear
  try simp (maxDischargeDepth := 30) +contextual -implicitDefEqProofs
@[simp] theorem goes_onBank {r s : State} (x1 : Bank) (x2 : BankState → BankState)
    (h : Goes r s) : Goes r (State.onBank s x1 x2) := by
  refine h.trans ?_
  unfold State.onBank
  try simp (maxDischargeDepth := 30) +contextual -implicitDefEqProofs
  all_goals repeat' (split <;> try simp (maxDischargeDepth := 30) +contextual -implicitDefEqProofs)
@[simp] theorem goes_failBank {r s : State} (x0 : Bank) (h : Goes r s) : Goes r (failBank x0 s) := by
  refine h.trans ?_
  unfold failBank
  try simp (maxDischargeDepth := 30) +contextual -implicitDefEqProofs
@[simp] theorem goes_failWorn {r s : State} (h : Goes r s) : Goes r (failWorn s) := by
  refine h.trans ?_
  unfold failWorn
  try simp (maxDischargeDepth := 30) +contextual -implicitDefEqProofs
  all_goals repeat' (split <;> try simp (maxDischargeDepth := 30) +contextual -implicitDefEqProofs)
@[simp] theorem goes_recordCommitted {r s : State} (x0 : BankWrite) (x1 : BankWrite)
    (h : Goes r s) : Goes r (recordCommitted x0 x1 s) := by
  refine h.trans ?_
  unfold recordCommitted
  try simp (maxDischargeDepth := 30) +contextual -implicitDefEqProofs
  all_goals repeat' (split <;> try simp (maxDischargeDepth := 30) +contextual -implicitDefEqProofs)
theorem goes_execRecordCommitted {s t : State} (x0 : BankWrite) (x1 : BankWrite)
    (q : execRecordCommitted x0 x1 s = .next t) : Goes s t := by
  unfold execRecordCommitted at q
  refine goes_ok ?_ q
  try simp (maxDischargeDepth := 30) +contextual -implicitDefEqProofs
theorem goes_execBankSuspend {s t : State} (x0 : Bank) (q : execBankSuspend x0 s = .next t) : Goes s t := by
  unfold execBankSuspend at q
  simp only [Host.Outcome.next.injEq] at q
  subst q
  try simp (maxDischargeDepth := 30) +contextual -implicitDefEqProofs
@[simp] theorem goes_resumeBank {r s : State} (x0 : Bank) (h : Goes r s) : Goes r (resumeBank x0 s) := by
  refine h.trans ?_
  unfold resumeBank
  try simp (maxDischargeDepth := 30) +contextual -implicitDefEqProofs
theorem goes_execBankResume {s t : State} (x0 : Bank) (q : execBankResume x0 s = .next t) : Goes s t := by
  unfold execBankResume at q
  simp only [Host.Outcome.next.injEq] at q
  subst q
  try simp (maxDischargeDepth := 30) +contextual -implicitDefEqProofs
theorem goes_execBankFail {s t : State} (x0 : Bank) (q : execBankFail x0 s = .next t) : Goes s t := by
  unfold execBankFail at q
  refine goes_ok ?_ q
  try simp (maxDischargeDepth := 30) +contextual -implicitDefEqProofs
@[simp] theorem goes_carryCopy {r s : State} (x0 : Nat) (h : Goes r s) : Goes r (carryCopy x0 s) := by
  refine h.trans ?_
  unfold carryCopy
  try simp (maxDischargeDepth := 30) +contextual -implicitDefEqProofs
  all_goals repeat' (split <;> try simp (maxDischargeDepth := 30) +contextual -implicitDefEqProofs)
theorem goes_execCarriedCopy {s t : State} (x0 : Nat) (q : execCarriedCopy x0 s = .next t) : Goes s t := by
  unfold execCarriedCopy at q
  refine goes_ok ?_ q
  try simp (maxDischargeDepth := 30) +contextual -implicitDefEqProofs

end Sys2Proof.Machine
end

