-- ==== Sys2Proof/Laws/GoesRingOps.lean ====
section
/-!
SUPPORT. What the operations of Machine/RingOps.lean keep (Laws/Goes.lean).
-/

namespace Sys2Proof.Machine

@[simp] theorem goes_logPage {r s : State} (x0 : Nat) (x1 : Nat) (h : Goes r s) : Goes r (logPage x0 x1 s) := by
  refine h.trans ?_
  unfold logPage
  try simp (maxDischargeDepth := 30) +contextual -implicitDefEqProofs
@[simp] theorem goes_hostRequests {r s : State} (x0 : Nat) (x1 : Bool) (x2 : Nat) (x3 : Nat)
    (h : Goes r s) : Goes r (hostRequests x0 x1 x2 x3 s) := by
  refine h.trans ?_
  unfold hostRequests
  try simp (maxDischargeDepth := 30) +contextual -implicitDefEqProofs
  all_goals repeat' (split <;> try simp (maxDischargeDepth := 30) +contextual -implicitDefEqProofs)
@[simp] theorem goes_hostWriteNow {r s : State} (x0 : Nat) (x1 : Nat) (x2 : List Byte)
    (h : Goes r s) : Goes r (hostWriteNow x0 x1 x2 s) := by
  refine h.trans ?_
  unfold hostWriteNow
  try simp (maxDischargeDepth := 30) +contextual -implicitDefEqProofs
  all_goals repeat' (split <;> try simp (maxDischargeDepth := 30) +contextual -implicitDefEqProofs)
@[simp] theorem goes_hostWrite {r s : State} (x0 : Nat) (x1 : Nat) (x2 : List Byte)
    (h : Goes r s) : Goes r (hostWrite x0 x1 x2 s) := by
  refine h.trans ?_
  unfold hostWrite
  try simp (maxDischargeDepth := 30) +contextual -implicitDefEqProofs
@[simp] theorem goes_hostRelease {r s : State} (x0 : Nat) (h : Goes r s) : Goes r (hostRelease x0 s) := by
  refine h.trans ?_
  unfold hostRelease
  try simp (maxDischargeDepth := 30) +contextual -implicitDefEqProofs
  all_goals repeat' (split <;> try simp (maxDischargeDepth := 30) +contextual -implicitDefEqProofs)
@[simp] theorem goes_ringWriteBy {r s : State} (x0 : Nat) (x1 : RingIdent) (x2 : Nat) (x3 : List Byte)
    (h : Goes r s) : Goes r (ringWriteBy x0 x1 x2 x3 s) := by
  refine h.trans ?_
  unfold ringWriteBy
  try simp (maxDischargeDepth := 30) +contextual -implicitDefEqProofs
  all_goals repeat' (split <;> try simp (maxDischargeDepth := 30) +contextual -implicitDefEqProofs)
@[simp] theorem goes_ringWrite {r s : State} (x0 : RingIdent) (x1 : Nat) (x2 : List Byte)
    (h : Goes r s) : Goes r (ringWrite x0 x1 x2 s) := by
  refine h.trans ?_
  unfold ringWrite
  try simp (maxDischargeDepth := 30) +contextual -implicitDefEqProofs
  all_goals repeat' (split <;> try simp (maxDischargeDepth := 30) +contextual -implicitDefEqProofs)
@[simp] theorem goes_ringReadBy {r s : State} (x0 : Nat) (x1 : RingIdent) (x2 : Nat) (x3 : Nat)
    (h : Goes r s) : Goes r (ringReadBy x0 x1 x2 x3 s).1 := by
  refine h.trans ?_
  unfold ringReadBy
  try simp (maxDischargeDepth := 30) +contextual -implicitDefEqProofs
  all_goals repeat' (split <;> try simp (maxDischargeDepth := 30) +contextual -implicitDefEqProofs)
@[simp] theorem goes_ringRead {r s : State} (x0 : RingIdent) (x1 : Nat) (x2 : Nat)
    (h : Goes r s) : Goes r (ringRead x0 x1 x2 s).1 := by
  refine h.trans ?_
  unfold ringRead
  try simp (maxDischargeDepth := 30) +contextual -implicitDefEqProofs
  all_goals repeat' (split <;> try simp (maxDischargeDepth := 30) +contextual -implicitDefEqProofs)
@[simp] theorem goes_refill {r s : State} (h : Goes r s) : Goes r (refill s) := by
  refine h.trans ?_
  unfold refill
  try simp (maxDischargeDepth := 30) +contextual -implicitDefEqProofs
@[simp] theorem goes_keepFor {r s : State} (x0 : Nat) (x1 : Line) (h : Goes r s) : Goes r (keepFor x0 x1 s) := by
  refine h.trans ?_
  unfold keepFor
  try simp (maxDischargeDepth := 30) +contextual -implicitDefEqProofs
  all_goals repeat' (split <;> try simp (maxDischargeDepth := 30) +contextual -implicitDefEqProofs)
@[simp] theorem goes_acceptSeed {r s : State} (x0 : Nat) (x1 : Nat) (x2 : Bool)
    (h : Goes r s) : Goes r (acceptSeed x0 x1 x2 s) := by
  refine h.trans ?_
  unfold acceptSeed
  try simp (maxDischargeDepth := 30) +contextual -implicitDefEqProofs
@[simp] theorem goes_enterCommand {r s : State} (x0 : Nat) (x1 : Cmd) (x2 : Bool)
    (h : Goes r s) : Goes r (enterCommand x0 x1 x2 s) := by
  refine h.trans ?_
  unfold enterCommand
  try simp (maxDischargeDepth := 30) +contextual -implicitDefEqProofs
@[simp] theorem goes_acceptCommand {r s : State} (x0 : Nat) (x1 : List Line) (x2 : Bool) (x3 : Bool) (x4 : Bool)
    (h : Goes r s) : Goes r (acceptCommand x0 x1 x2 x3 x4 s) := by
  refine h.trans ?_
  unfold acceptCommand
  try simp (maxDischargeDepth := 30) +contextual -implicitDefEqProofs
@[simp] theorem goes_fetchDescs {r s : State} (x0 : RingIdent) (x1 : Ring) (x2 : Nat) (x3 : Nat)
    (h : Goes r s) : Goes r (fetchDescs x0 x1 x2 x3 s) := by
  induction x2 generalizing s x3 with
  | zero =>
    unfold fetchDescs
    try simp (maxDischargeDepth := 30) +contextual -implicitDefEqProofs [h]
    all_goals repeat' (split <;> try simp (maxDischargeDepth := 30) +contextual -implicitDefEqProofs [h])
  | succ n ih =>
    unfold fetchDescs
    try simp (maxDischargeDepth := 30) +contextual -implicitDefEqProofs [h, ih]
    all_goals repeat' (split <;> try simp (maxDischargeDepth := 30) +contextual -implicitDefEqProofs [h, ih])
@[simp] theorem goes_commandAccept {r s : State} (x0 : Nat) (h : Goes r s) : Goes r (commandAccept x0 s) := by
  refine h.trans ?_
  unfold commandAccept
  try simp (maxDischargeDepth := 30) +contextual -implicitDefEqProofs
  all_goals repeat' (split <;> try simp (maxDischargeDepth := 30) +contextual -implicitDefEqProofs)
theorem goes_execCommandAccept {s t : State} (x0 : RingId) (q : execCommandAccept x0 s = .next t) : Goes s t := by
  unfold execCommandAccept at q
  refine goes_ok ?_ q
  try simp (maxDischargeDepth := 30) +contextual -implicitDefEqProofs
@[simp] theorem goes_startCmd {r s : State} (x0 : Nat) (x1 : Cmd) (x2 : Nat) (x3 : Nat)
    (h : Goes r s) : Goes r (startCmd x0 x1 x2 x3 s) := by
  refine h.trans ?_
  unfold startCmd
  try simp (maxDischargeDepth := 30) +contextual -implicitDefEqProofs
@[simp] theorem goes_finishCmd {r s : State} (x0 : Nat) (x1 : Nat) (x2 : Result)
    (h : Goes r s) : Goes r (finishCmd x0 x1 x2 s) := by
  refine h.trans ?_
  unfold finishCmd
  try simp (maxDischargeDepth := 30) +contextual -implicitDefEqProofs
@[simp] theorem goes_runCommand {r s : State} (x0 : CmdRef) (x1 : Line → Bool) (x2 : Nat) (x3 : Nat) (x4 : Cmd → State → State) (hx4 : ∀ y0 t, Goes t (x4 y0 t))
    (h : Goes r s) : Goes r (runCommand x0 x1 x2 x3 x4 s) := by
  refine h.trans ?_
  have kx4 : ∀ r y0 t, Goes r t → Goes r (x4 y0 t) := fun _ y0 t h => h.trans (hx4 y0 t)
  unfold runCommand
  try simp (maxDischargeDepth := 30) +contextual -implicitDefEqProofs [kx4]
  all_goals repeat' (split <;> try simp (maxDischargeDepth := 30) +contextual -implicitDefEqProofs [kx4])
@[simp] theorem goes_runAtOnce {r s : State} (x0 : CmdRef) (x1 : Line → Bool) (x2 : Nat) (x3 : Nat) (x4 : Cmd →   RingIdent → State → State × Result) (hx4 : ∀ y0 y1 t, Goes t (x4 y0 y1 t).1)
    (h : Goes r s) : Goes r (runAtOnce x0 x1 x2 x3 x4 s) := by
  refine h.trans ?_
  have kx4 : ∀ r y0 y1 t, Goes r t → Goes r (x4 y0 y1 t).1 := fun _ y0 y1 t h => h.trans (hx4 y0 y1 t)
  unfold runAtOnce
  try simp (maxDischargeDepth := 30) +contextual -implicitDefEqProofs [kx4]
@[simp] theorem goes_output {r s : State} (x0 : RingIdent) (x1 : Nat) (x2 : Nat) (x3 : List Byte)
    (h : Goes r s) : Goes r (output x0 x1 x2 x3 s).1 := by
  refine h.trans ?_
  unfold output
  try simp (maxDischargeDepth := 30) +contextual -implicitDefEqProofs
@[simp] theorem goes_notify {r s : State} (x0 : Nat) (h : Goes r s) : Goes r (notify x0 s) := by
  refine h.trans ?_
  unfold notify
  try simp (maxDischargeDepth := 30) +contextual -implicitDefEqProofs
@[simp] theorem goes_completeHead_startCmdIfRecorded {r s : State} (x0 : Nat) (x1 : Cmd)
    (h : Goes r s) : Goes r (completeHead.startCmdIfRecorded x0 x1 s) := by
  refine h.trans ?_
  unfold completeHead.startCmdIfRecorded
  try simp (maxDischargeDepth := 30) +contextual -implicitDefEqProofs
@[simp] theorem goes_completeHead {r s : State} (x0 : Nat) (x1 : Cmd) (x2 : Result)
    (h : Goes r s) : Goes r (completeHead x0 x1 x2 s) := by
  refine h.trans ?_
  unfold completeHead
  try simp (maxDischargeDepth := 30) +contextual -implicitDefEqProofs
@[simp] theorem goes_commandComplete {r s : State} (x0 : Nat) (h : Goes r s) : Goes r (commandComplete x0 s) := by
  refine h.trans ?_
  unfold commandComplete
  try simp (maxDischargeDepth := 30) +contextual -implicitDefEqProofs
  all_goals repeat' (split <;> try simp (maxDischargeDepth := 30) +contextual -implicitDefEqProofs)
theorem goes_execCommandComplete {s t : State} (x0 : RingId) (q : execCommandComplete x0 s = .next t) : Goes s t := by
  unfold execCommandComplete at q
  refine goes_ok ?_ q
  try simp (maxDischargeDepth := 30) +contextual -implicitDefEqProofs
theorem goes_execNop {s t : State} (x0 : CmdRef) (q : execNop x0 s = .next t) : Goes s t := by
  unfold execNop at q
  refine goes_ok ?_ q
  try simp (maxDischargeDepth := 30) +contextual -implicitDefEqProofs
@[simp] theorem goes_noRing {r s : State} (x0 : Nat) (x1 : Line) (x2 : RingIdent)
    (h : Goes r s) : Goes r (noRing x0 x1 x2 s).1 := by
  refine h.trans ?_
  unfold noRing
  try simp (maxDischargeDepth := 30) +contextual -implicitDefEqProofs
  all_goals repeat' (split <;> try simp (maxDischargeDepth := 30) +contextual -implicitDefEqProofs)
@[simp] theorem goes_queryRun {r s : State} (x0 : Nat) (x1 : Cmd) (x2 : RingIdent)
    (h : Goes r s) : Goes r (queryRun x0 x1 x2 s).1 := by
  refine h.trans ?_
  unfold queryRun
  try simp (maxDischargeDepth := 30) +contextual -implicitDefEqProofs
  all_goals repeat' (split <;> try simp (maxDischargeDepth := 30) +contextual -implicitDefEqProofs)
theorem goes_execQRing {s t : State} (x0 : CmdRef) (q : execQRing x0 s = .next t) : Goes s t := by
  unfold execQRing at q
  refine goes_ok ?_ q
  try simp (maxDischargeDepth := 30) +contextual -implicitDefEqProofs
theorem goes_execQCommand {s t : State} (x0 : CmdRef) (q : execQCommand x0 s = .next t) : Goes s t := by
  unfold execQCommand at q
  refine goes_ok ?_ q
  try simp (maxDischargeDepth := 30) +contextual -implicitDefEqProofs
@[simp] theorem goes_qRecordsRun {r s : State} (x0 : Nat) (x1 : Cmd) (x2 : RingIdent)
    (h : Goes r s) : Goes r (qRecordsRun x0 x1 x2 s).1 := by
  refine h.trans ?_
  unfold qRecordsRun
  try simp (maxDischargeDepth := 30) +contextual -implicitDefEqProofs
  all_goals repeat' (split <;> try simp (maxDischargeDepth := 30) +contextual -implicitDefEqProofs)
theorem goes_execQRecords {s t : State} (x0 : CmdRef) (q : execQRecords x0 s = .next t) : Goes s t := by
  unfold execQRecords at q
  refine goes_ok ?_ q
  try simp (maxDischargeDepth := 30) +contextual -implicitDefEqProofs
@[simp] theorem goes_onRingReg {r s : State} (x0 : Requester) (x1 : Nat) (x2 : Nat) (x3 : Nat) (x4 : State → State) (hx4 : ∀ t, Goes t (x4 t))
    (h : Goes r s) : Goes r (onRingReg x0 x1 x2 x3 x4 s) := by
  refine h.trans ?_
  have kx4 : ∀ r t, Goes r t → Goes r (x4 t) := fun _ t h => h.trans (hx4 t)
  unfold onRingReg
  try simp (maxDischargeDepth := 30) +contextual -implicitDefEqProofs [kx4]
  all_goals repeat' (split <;> try simp (maxDischargeDepth := 30) +contextual -implicitDefEqProofs [kx4])
@[simp] theorem goes_writeCtrl {r s : State} (x0 : Nat) (x1 : W32) (h : Goes r s) : Goes r (writeCtrl x0 x1 s) := by
  unfold writeCtrl
  exact goes_onRing h
@[simp] theorem goes_writeConfig {r s : State} (x0 : Nat) (x1 : Nat) (x2 : Part) (x3 : W64)
    (h : Goes r s) : Goes r (writeConfig x0 x1 x2 x3 s) := by
  unfold writeConfig
  exact goes_onRing h

end Sys2Proof.Machine
end

