-- ==== Sys2Proof/Laws/GoesMeasure.lean ====
section
/-!
SUPPORT. What the operations of Machine/Measure.lean keep (Laws/Goes.lean).
-/

namespace Sys2Proof.Machine

@[simp] theorem goes_siteFinish {r s : State} (x0 : Nat) (x1 : Nat) (x2 : List Byte) (x3 : Result)
    (h : Goes r s) : Goes r (siteFinish x0 x1 x2 x3 s) := by
  refine h.trans ?_
  unfold siteFinish
  try simp (maxDischargeDepth := 30) +contextual -implicitDefEqProofs
  all_goals repeat' (split <;> try simp (maxDischargeDepth := 30) +contextual -implicitDefEqProofs)
@[simp] theorem goes_waitDone {r s : State} (x0 : Nat) (x1 : Nat) (x2 : Nat)
    (h : Goes r s) : Goes r (waitDone x0 x1 x2 s) := by
  refine h.trans ?_
  unfold waitDone
  try simp (maxDischargeDepth := 30) +contextual -implicitDefEqProofs
@[simp] theorem goes_assertTrip {r s : State} (x0 : Nat) (x1 : Nat) (x2 : Nat)
    (h : Goes r s) : Goes r (assertTrip x0 x1 x2 s) := by
  refine h.trans ?_
  unfold assertTrip
  try simp (maxDischargeDepth := 30) +contextual -implicitDefEqProofs
@[simp] theorem goes_channelTrips {r s : State} (x0 : Nat) (x1 : Nat)
    (h : Goes r s) : Goes r (channelTrips x0 x1 s) := by
  refine h.trans ?_
  unfold channelTrips
  try simp (maxDischargeDepth := 30) +contextual -implicitDefEqProofs
@[simp] theorem goes_declareFault {r s : State} (x0 : Nat) (x1 : Nat) (x2 : Channel → Channel)
    (h : Goes r s) : Goes r (declareFault x0 x1 x2 s) := by
  refine h.trans ?_
  unfold declareFault
  try simp (maxDischargeDepth := 30) +contextual -implicitDefEqProofs
theorem goes_execNoclkDeclared {s t : State} (x0 : SiteId) (q : execNoclkDeclared x0 s = .next t) : Goes s t := by
  unfold execNoclkDeclared at q
  refine goes_ok ?_ q
  try simp (maxDischargeDepth := 30) +contextual -implicitDefEqProofs
theorem goes_execNoclkCleared {s t : State} (x0 : SiteId) (q : execNoclkCleared x0 s = .next t) : Goes s t := by
  unfold execNoclkCleared at q
  refine goes_ok ?_ q
  try simp (maxDischargeDepth := 30) +contextual -implicitDefEqProofs
theorem goes_execClkRangeMeasurement {s t : State} (x0 : SiteId) (x1 : BitVec 16)
    (q : execClkRangeMeasurement x0 x1 s = .next t) : Goes s t := by
  unfold execClkRangeMeasurement at q
  refine goes_ok ?_ q
  try simp (maxDischargeDepth := 30) +contextual -implicitDefEqProofs
theorem goes_execStuckDeclared {s t : State} (x0 : SiteId) (q : execStuckDeclared x0 s = .next t) : Goes s t := by
  unfold execStuckDeclared at q
  refine goes_ok ?_ q
  try simp (maxDischargeDepth := 30) +contextual -implicitDefEqProofs
theorem goes_execStuckCleared {s t : State} (x0 : SiteId) (q : execStuckCleared x0 s = .next t) : Goes s t := by
  unfold execStuckCleared at q
  refine goes_ok ?_ q
  try simp (maxDischargeDepth := 30) +contextual -implicitDefEqProofs
@[simp] theorem goes_takeSample {r s : State} (x0 : Nat) (x1 : Int) (h : Goes r s) : Goes r (takeSample x0 x1 s) := by
  refine h.trans ?_
  unfold takeSample
  try simp (maxDischargeDepth := 30) +contextual -implicitDefEqProofs
@[simp] theorem goes_pushBits {r s : State} (x0 : Nat) (x1 : Nat) (x2 : Nat) (x3 : Nat) (x4 : List Int) (x5 : List Int) (x6 : List Bool)
    (h : Goes r s) : Goes r (pushBits x0 x1 x2 x3 x4 x5 x6 s) := by
  induction x6 generalizing s with
  | nil => simpa [pushBits] using h
  | cons a l ih =>
    unfold pushBits
    simp only
    split
    · exact ih (by simp [h])
    · exact ih (by simp [h])
theorem goes_execSampleOutput {s t : State} (x0 : SiteId) (x1 : List Bool)
    (q : execSampleOutput x0 x1 s = .next t) : Goes s t := by
  unfold execSampleOutput at q
  refine goes_ok ?_ q
  try simp (maxDischargeDepth := 30) +contextual -implicitDefEqProofs
theorem goes_execFastPathOutput {s t : State} (x0 : SiteId) (x1 : BitVec 16)
    (q : execFastPathOutput x0 x1 s = .next t) : Goes s t := by
  unfold execFastPathOutput at q
  refine goes_ok ?_ q
  try simp (maxDischargeDepth := 30) +contextual -implicitDefEqProofs
theorem goes_execTripShortDetect {s t : State} (x0 : SiteId) (x1 : Bool)
    (q : execTripShortDetect x0 x1 s = .next t) : Goes s t := by
  unfold execTripShortDetect at q
  refine goes_ok ?_ q
  try simp (maxDischargeDepth := 30) +contextual -implicitDefEqProofs
theorem goes_execTripOpenDetect {s t : State} (x0 : SiteId) (x1 : TripLand)
    (q : execTripOpenDetect x0 x1 s = .next t) : Goes s t := by
  unfold execTripOpenDetect at q
  refine goes_ok ?_ q
  try simp (maxDischargeDepth := 30) +contextual -implicitDefEqProofs
@[simp] theorem goes_startWindow {r s : State} (x0 : Nat) (x1 : Cmd) (x2 : Bool)
    (h : Goes r s) : Goes r (startWindow x0 x1 x2 s) := by
  refine h.trans ?_
  unfold startWindow
  try simp (maxDischargeDepth := 30) +contextual -implicitDefEqProofs
  all_goals repeat' (split <;> try simp (maxDischargeDepth := 30) +contextual -implicitDefEqProofs)
@[simp] theorem goes_closeWindows {r s : State} (x0 : Nat) (h : Goes r s) : Goes r (closeWindows x0 s) := by
  refine h.trans ?_
  unfold closeWindows
  try simp (maxDischargeDepth := 30) +contextual -implicitDefEqProofs
theorem goes_execWindowClose {s t : State} (x0 : SiteId) (q : execWindowClose x0 s = .next t) : Goes s t := by
  unfold execWindowClose at q
  refine goes_ok ?_ q
  try simp (maxDischargeDepth := 30) +contextual -implicitDefEqProofs
@[simp] theorem goes_armTrip {r s : State} (x0 : Line) (h : Goes r s) : Goes r (armTrip x0 s) := by
  refine h.trans ?_
  unfold armTrip
  try simp (maxDischargeDepth := 30) +contextual -implicitDefEqProofs
@[simp] theorem goes_releaseTrip {r s : State} (x0 : Nat) (h : Goes r s) : Goes r (releaseTrip x0 s).1 := by
  refine h.trans ?_
  unfold releaseTrip
  try simp (maxDischargeDepth := 30) +contextual -implicitDefEqProofs
@[simp] theorem goes_startWait {r s : State} (x0 : Nat) (x1 : Cmd) (h : Goes r s) : Goes r (startWait x0 x1 s) := by
  refine h.trans ?_
  unfold startWait
  try simp (maxDischargeDepth := 30) +contextual -implicitDefEqProofs
  all_goals repeat' (split <;> try simp (maxDischargeDepth := 30) +contextual -implicitDefEqProofs)
@[simp] theorem goes_onChain {r s : State} (x0 : CmdRef) (x1 : Nat) (x2 : Cmd → State → State) (hx2 : ∀ y0 t, Goes t (x2 y0 t))
    (h : Goes r s) : Goes r (onChain x0 x1 x2 s) := by
  refine h.trans ?_
  have kx2 : ∀ r y0 t, Goes r t → Goes r (x2 y0 t) := fun _ y0 t h => h.trans (hx2 y0 t)
  unfold onChain
  simp only
  repeat' split
  all_goals first
    | exact goes_refl _
    | (refine goes_runCommand _ _ _ _ _ (fun k t => ?_) (goes_refl s)
       split
       · refine goes_finishCmd _ _ _ ?_
         split <;> simp
       · exact hx2 k t)
theorem goes_execMeasWindow {s t : State} (x0 : CmdRef) (q : execMeasWindow x0 s = .next t) : Goes s t := by
  unfold execMeasWindow at q
  refine goes_ok ?_ q
  try simp (maxDischargeDepth := 30) +contextual -implicitDefEqProofs
theorem goes_execTripArm {s t : State} (x0 : CmdRef) (q : execTripArm x0 s = .next t) : Goes s t := by
  unfold execTripArm at q
  refine goes_ok ?_ q
  try simp (maxDischargeDepth := 30) +contextual -implicitDefEqProofs
theorem goes_execTripRelease {s t : State} (x0 : CmdRef) (q : execTripRelease x0 s = .next t) : Goes s t := by
  unfold execTripRelease at q
  refine goes_ok ?_ q
  try simp (maxDischargeDepth := 30) +contextual -implicitDefEqProofs
theorem goes_execTripAssert {s t : State} (x0 : CmdRef) (q : execTripAssert x0 s = .next t) : Goes s t := by
  unfold execTripAssert at q
  refine goes_ok ?_ q
  try simp (maxDischargeDepth := 30) +contextual -implicitDefEqProofs
theorem goes_execTripWait {s t : State} (x0 : CmdRef) (q : execTripWait x0 s = .next t) : Goes s t := by
  unfold execTripWait at q
  refine goes_ok ?_ q
  try simp (maxDischargeDepth := 30) +contextual -implicitDefEqProofs
@[simp] theorem goes_setLatch {r s : State} (x0 : Requester) (x1 : Nat) (x2 : W64)
    (h : Goes r s) : Goes r (setLatch x0 x1 x2 s) := by
  refine h.trans ?_
  unfold setLatch
  try simp (maxDischargeDepth := 30) +contextual -implicitDefEqProofs
@[simp] theorem goes_histRead {r s : State} (x0 : Requester) (x1 : Nat) (x2 : Nat)
    (h : Goes r s) : Goes r (histRead x0 x1 x2 s) := by
  refine h.trans ?_
  unfold histRead
  try simp (maxDischargeDepth := 30) +contextual -implicitDefEqProofs
  all_goals repeat' (split <;> try simp (maxDischargeDepth := 30) +contextual -implicitDefEqProofs)

end Sys2Proof.Machine
end

