-- ==== Sys2Proof/Laws/GoesLanes.lean ====
section
/-!
SUPPORT. What the operations of Machine/Lanes.lean keep (Laws/Goes.lean).
-/

namespace Sys2Proof.Machine

@[simp] theorem goes_laneTrouble {r s : State} (x0 : Nat) (x1 : Nat)
    (h : Goes r s) : Goes r (laneTrouble x0 x1 s) := by
  refine h.trans ?_
  unfold laneTrouble
  try simp (maxDischargeDepth := 30) +contextual -implicitDefEqProofs
@[simp] theorem goes_sendEntry {r s : State} (x0 : Nat) (x1 : OutFrame)
    (h : Goes r s) : Goes r (sendEntry x0 x1 s) := by
  refine h.trans ?_
  unfold sendEntry
  try simp (maxDischargeDepth := 30) +contextual -implicitDefEqProofs
@[simp] theorem goes_transmit {r s : State} (x0 : Nat) (h : Goes r s) : Goes r (transmit x0 s) := by
  refine h.trans ?_
  unfold transmit
  try simp (maxDischargeDepth := 30) +contextual -implicitDefEqProofs
@[simp] theorem goes_retransmit {r s : State} (x0 : Nat) (h : Goes r s) : Goes r (retransmit x0 s) := by
  refine h.trans ?_
  unfold retransmit
  try simp (maxDischargeDepth := 30) +contextual -implicitDefEqProofs
@[simp] theorem goes_settle {r s : State} (x0 : Nat) (x1 : OutFrame) (x2 : Result)
    (h : Goes r s) : Goes r (settle x0 x1 x2 s) := by
  refine h.trans ?_
  unfold settle
  try simp (maxDischargeDepth := 30) +contextual -implicitDefEqProofs
  all_goals repeat' (split <;> try simp (maxDischargeDepth := 30) +contextual -implicitDefEqProofs)
@[simp] theorem goes_formOrphan {r s : State} (x0 : OutFrame) (x1 : Bool)
    (h : Goes r s) : Goes r (formOrphan x0 x1 s) := by
  refine h.trans ?_
  unfold formOrphan
  try simp (maxDischargeDepth := 30) +contextual -implicitDefEqProofs
  all_goals repeat' (split <;> try simp (maxDischargeDepth := 30) +contextual -implicitDefEqProofs)
@[simp] theorem goes_newEpoch {r s : State} (x0 : Nat) (h : Goes r s) : Goes r (newEpoch x0 s) := by
  refine h.trans ?_
  unfold newEpoch
  try simp (maxDischargeDepth := 30) +contextual -implicitDefEqProofs
@[simp] theorem goes_enterDown {r s : State} (x0 : Nat) (h : Goes r s) : Goes r (enterDown x0 s) := by
  refine h.trans ?_
  unfold enterDown
  try simp (maxDischargeDepth := 30) +contextual -implicitDefEqProofs
@[simp] theorem goes_laneProbe {r s : State} (x0 : Nat) (x1 : FarEnd)
    (h : Goes r s) : Goes r (laneProbe x0 x1 s) := by
  refine h.trans ?_
  unfold laneProbe
  try simp (maxDischargeDepth := 30) +contextual -implicitDefEqProofs
@[simp] theorem goes_laneSwapped {r s : State} (x0 : Nat) (h : Goes r s) : Goes r (laneSwapped x0 s) := by
  refine h.trans ?_
  unfold laneSwapped
  try simp (maxDischargeDepth := 30) +contextual -implicitDefEqProofs
@[simp] theorem goes_laneLock {r s : State} (x0 : Nat) (x1 : Bool) (h : Goes r s) : Goes r (laneLock x0 x1 s) := by
  refine h.trans ?_
  unfold laneLock
  try simp (maxDischargeDepth := 30) +contextual -implicitDefEqProofs
@[simp] theorem goes_laneLockLoss {r s : State} (x0 : Nat) (h : Goes r s) : Goes r (laneLockLoss x0 s) := by
  refine h.trans ?_
  unfold laneLockLoss
  try simp (maxDischargeDepth := 30) +contextual -implicitDefEqProofs
@[simp] theorem goes_laneHello {r s : State} (x0 : Nat) (h : Goes r s) : Goes r (laneHello x0 s) := by
  refine h.trans ?_
  unfold laneHello
  try simp (maxDischargeDepth := 30) +contextual -implicitDefEqProofs
@[simp] theorem goes_partnerReset {r s : State} (x0 : Nat) (h : Goes r s) : Goes r (partnerReset x0 s) := by
  refine h.trans ?_
  unfold partnerReset
  try simp (maxDischargeDepth := 30) +contextual -implicitDefEqProofs
@[simp] theorem goes_helloUp {r s : State} (x0 : Nat) (x1 : List Byte) (h : Goes r s) : Goes r (helloUp x0 x1 s) := by
  refine h.trans ?_
  unfold helloUp
  try simp (maxDischargeDepth := 30) +contextual -implicitDefEqProofs
  all_goals repeat' (split <;> try simp (maxDischargeDepth := 30) +contextual -implicitDefEqProofs)
theorem goes_execLaneHelloReceived {s t : State} (x0 : SiteId) (x1 : List Block)
    (q : execLaneHelloReceived x0 x1 s = .next t) : Goes s t := by
  unfold execLaneHelloReceived at q
  refine goes_ok ?_ q
  try simp (maxDischargeDepth := 30) +contextual -implicitDefEqProofs
  all_goals repeat' (split <;> try simp (maxDischargeDepth := 30) +contextual -implicitDefEqProofs)
@[simp] theorem goes_laneTimeout {r s : State} (x0 : Nat) (h : Goes r s) : Goes r (laneTimeout x0 s) := by
  refine h.trans ?_
  unfold laneTimeout
  try simp (maxDischargeDepth := 30) +contextual -implicitDefEqProofs
  all_goals repeat' (split <;> try simp (maxDischargeDepth := 30) +contextual -implicitDefEqProofs)
@[simp] theorem goes_recvDone {r s : State} (x0 : Nat) (x1 : Nat) (x2 : Nat) (x3 : InFrame)
    (h : Goes r s) : Goes r (recvDone x0 x1 x2 x3 s) := by
  refine h.trans ?_
  unfold recvDone
  try simp (maxDischargeDepth := 30) +contextual -implicitDefEqProofs
  all_goals repeat' (split <;> try simp (maxDischargeDepth := 30) +contextual -implicitDefEqProofs)
@[simp] theorem goes_bindRecvs {r s : State} (x0 : Nat) (x1 : Nat) (h : Goes r s) : Goes r (bindRecvs x0 x1 s) := by
  induction x1 generalizing s with
  | zero =>
    unfold bindRecvs
    try simp (maxDischargeDepth := 30) +contextual -implicitDefEqProofs [h]
    all_goals repeat' (split <;> try simp (maxDischargeDepth := 30) +contextual -implicitDefEqProofs [h])
  | succ n ih =>
    unfold bindRecvs
    try simp (maxDischargeDepth := 30) +contextual -implicitDefEqProofs [h, ih]
    all_goals repeat' (split <;> try simp (maxDischargeDepth := 30) +contextual -implicitDefEqProofs [h, ih])
@[simp] theorem goes_postInbound {r s : State} (x0 : Nat) (h : Goes r s) : Goes r (postInbound x0 s) := by
  refine h.trans ?_
  unfold postInbound
  try simp (maxDischargeDepth := 30) +contextual -implicitDefEqProofs
@[simp] theorem goes_receiveSequenced {r s : State} (x0 : Nat) (x1 : Frame)
    (h : Goes r s) : Goes r (receiveSequenced x0 x1 s) := by
  refine h.trans ?_
  unfold receiveSequenced
  try simp (maxDischargeDepth := 30) +contextual -implicitDefEqProofs
@[simp] theorem goes_onFrame {r s : State} (x0 : Nat) (x1 : List Block) (x2 : Nat → Bool) (x3 : Frame → State → State) (hx3 : ∀ y0 t, Goes t (x3 y0 t))
    (h : Goes r s) : Goes r (onFrame x0 x1 x2 x3 s) := by
  refine h.trans ?_
  have kx3 : ∀ r y0 t, Goes r t → Goes r (x3 y0 t) := fun _ y0 t h => h.trans (hx3 y0 t)
  unfold onFrame
  try simp (maxDischargeDepth := 30) +contextual -implicitDefEqProofs [kx3]
  all_goals repeat' (split <;> try simp (maxDischargeDepth := 30) +contextual -implicitDefEqProofs [kx3])
theorem goes_execDataFrameReceived {s t : State} (x0 : SiteId) (x1 : List Block)
    (q : execDataFrameReceived x0 x1 s = .next t) : Goes s t := by
  unfold execDataFrameReceived at q
  refine goes_ok ?_ q
  try simp (maxDischargeDepth := 30) +contextual -implicitDefEqProofs
  all_goals repeat' (split <;> try simp (maxDischargeDepth := 30) +contextual -implicitDefEqProofs)
@[simp] theorem goes_laneVoid {r s : State} (x0 : Nat) (x1 : List Block)
    (h : Goes r s) : Goes r (laneVoid x0 x1 s) := by
  refine h.trans ?_
  unfold laneVoid
  try simp (maxDischargeDepth := 30) +contextual -implicitDefEqProofs
  all_goals repeat' (split <;> try simp (maxDischargeDepth := 30) +contextual -implicitDefEqProofs)
@[simp] theorem goes_receiveAck {r s : State} (x0 : Nat) (x1 : Frame)
    (h : Goes r s) : Goes r (receiveAck x0 x1 s) := by
  refine h.trans ?_
  unfold receiveAck
  try simp (maxDischargeDepth := 30) +contextual -implicitDefEqProofs
@[simp] theorem goes_laneAck {r s : State} (x0 : Nat) (x1 : List Block)
    (h : Goes r s) : Goes r (laneAck x0 x1 s) := by
  refine h.trans ?_
  unfold laneAck
  try simp (maxDischargeDepth := 30) +contextual -implicitDefEqProofs
  all_goals repeat' (split <;> try simp (maxDischargeDepth := 30) +contextual -implicitDefEqProofs)
@[simp] theorem goes_receiveEpochStart {r s : State} (x0 : Nat) (x1 : Frame)
    (h : Goes r s) : Goes r (receiveEpochStart x0 x1 s) := by
  refine h.trans ?_
  unfold receiveEpochStart
  try simp (maxDischargeDepth := 30) +contextual -implicitDefEqProofs
theorem goes_execEpochStartReceived {s t : State} (x0 : SiteId) (x1 : List Block)
    (q : execEpochStartReceived x0 x1 s = .next t) : Goes s t := by
  unfold execEpochStartReceived at q
  refine goes_ok ?_ q
  try simp (maxDischargeDepth := 30) +contextual -implicitDefEqProofs
  all_goals repeat' (split <;> try simp (maxDischargeDepth := 30) +contextual -implicitDefEqProofs)
@[simp] theorem goes_receiveBad {r s : State} (x0 : Nat) (x1 : Bool)
    (h : Goes r s) : Goes r (receiveBad x0 x1 s) := by
  refine h.trans ?_
  unfold receiveBad
  try simp (maxDischargeDepth := 30) +contextual -implicitDefEqProofs
@[simp] theorem goes_laneBad {r s : State} (x0 : Nat) (x1 : List Block) (x2 : Bool)
    (h : Goes r s) : Goes r (laneBad x0 x1 x2 s) := by
  refine h.trans ?_
  unfold laneBad
  try simp (maxDischargeDepth := 30) +contextual -implicitDefEqProofs
  all_goals repeat' (split <;> try simp (maxDischargeDepth := 30) +contextual -implicitDefEqProofs)
@[simp] theorem goes_ackTimeout {r s : State} (x0 : Nat) (h : Goes r s) : Goes r (ackTimeout x0 s) := by
  refine h.trans ?_
  unfold ackTimeout
  try simp (maxDischargeDepth := 30) +contextual -implicitDefEqProofs
  all_goals repeat' (split <;> try simp (maxDischargeDepth := 30) +contextual -implicitDefEqProofs)
@[simp] theorem goes_makeEntry {r s : State} (x0 : Nat) (x1 : Nat) (x2 : Line) (x3 : Option Nat) (x4 : List Byte)
    (h : Goes r s) : Goes r (makeEntry x0 x1 x2 x3 x4 s) := by
  refine h.trans ?_
  unfold makeEntry
  try simp (maxDischargeDepth := 30) +contextual -implicitDefEqProofs
@[simp] theorem goes_laneSend {r s : State} (x0 : CmdRef) (h : Goes r s) : Goes r (laneSend x0 s) := by
  refine h.trans ?_
  unfold laneSend
  try simp (maxDischargeDepth := 30) +contextual -implicitDefEqProofs
  all_goals repeat' (split <;> try simp (maxDischargeDepth := 30) +contextual -implicitDefEqProofs)
theorem goes_execLaneSend {s t : State} (x0 : CmdRef) (q : execLaneSend x0 s = .next t) : Goes s t := by
  unfold execLaneSend at q
  refine goes_ok ?_ q
  try simp (maxDischargeDepth := 30) +contextual -implicitDefEqProofs
@[simp] theorem goes_laneRecv {r s : State} (x0 : Nat) (x1 : Cmd) (h : Goes r s) : Goes r (laneRecv x0 x1 s) := by
  refine h.trans ?_
  unfold laneRecv
  try simp (maxDischargeDepth := 30) +contextual -implicitDefEqProofs
  all_goals repeat' (split <;> try simp (maxDischargeDepth := 30) +contextual -implicitDefEqProofs)
theorem goes_execLaneRecv {s t : State} (x0 : CmdRef) (q : execLaneRecv x0 s = .next t) : Goes s t := by
  unfold execLaneRecv at q
  refine goes_ok ?_ q
  refine goes_runCommand _ _ _ _ _ (fun k t => ?_) (goes_refl s)
  split
  · refine goes_finishCmd _ _ _ ?_
    split <;> simp
  · exact goes_laneRecv _ _ (goes_refl t)

end Sys2Proof.Machine
end

