-- ==== Sys2Proof/Laws/GoesPackages.lean ====
section
/-!
SUPPORT. What the operations of Machine/Packages.lean keep (Laws/Goes.lean).
-/

namespace Sys2Proof.Machine

@[simp] theorem Update.onSlot_dmBuf (u : Update) (k : Slot) (f : SlotRec → SlotRec) : (u.onSlot k f).dmBuf = u.dmBuf := by
  cases k <;> rfl
@[simp] theorem Update.onSlot_nor (u : Update) (k : Slot) (f : SlotRec → SlotRec) : (u.onSlot k f).nor = u.nor := by
  cases k <;> rfl
@[simp] theorem Update.onSlot_fuses (u : Update) (k : Slot) (f : SlotRec → SlotRec) : (u.onSlot k f).fuses = u.fuses := by
  cases k <;> rfl
@[simp] theorem Update.onSlot_floor (u : Update) (k : Slot) (f : SlotRec → SlotRec) : (u.onSlot k f).floor = u.floor := by
  cases k <;> rfl
@[simp] theorem goes_norErase {r s : State} (x0 : Nat) (x1 : Nat) (h : Goes r s) : Goes r (norErase x0 x1 s) := by
  refine h.trans ?_
  unfold norErase
  try simp (maxDischargeDepth := 30) +contextual -implicitDefEqProofs
@[simp] theorem goes_norChange {r s : State} (x0 : BitVec 16) (x1 : Nat)
    (h : Goes r s) : Goes r (norChange x0 x1 s) := by
  refine h.trans ?_
  unfold norChange
  try simp (maxDischargeDepth := 30) +contextual -implicitDefEqProofs
  all_goals repeat' (split <;> try simp (maxDischargeDepth := 30) +contextual -implicitDefEqProofs)
@[simp] theorem goes_programPages {r s : State} (x0 : Nat) (x1 : Nat)
    (h : Goes r s) : Goes r (programPages x0 x1 s) := by
  refine h.trans ?_
  unfold programPages
  try simp (maxDischargeDepth := 30) +contextual -implicitDefEqProofs
  all_goals repeat' (split <;> try simp (maxDischargeDepth := 30) +contextual -implicitDefEqProofs)
@[simp] theorem goes_norReset {r s : State} (h : Goes r s) : Goes r (norReset s) := by
  refine h.trans ?_
  unfold norReset
  try simp (maxDischargeDepth := 30) +contextual -implicitDefEqProofs
  all_goals repeat' (split <;> try simp (maxDischargeDepth := 30) +contextual -implicitDefEqProofs)
@[simp] theorem goes_norProgram {r s : State} (x0 : Nat) (x1 : List Byte)
    (h : Goes r s) : Goes r (norProgram x0 x1 s) := by
  refine h.trans ?_
  unfold norProgram
  try simp (maxDischargeDepth := 30) +contextual -implicitDefEqProofs
@[simp] theorem goes_countErase {r s : State} (x0 : Slot) (x1 : Nat)
    (h : Goes r s) : Goes r (countErase x0 x1 s) := by
  refine h.trans ?_
  unfold countErase
  try simp (maxDischargeDepth := 30) +contextual -implicitDefEqProofs
@[simp] theorem goes_eraseBlocks {r s : State} (x0 : Slot) (x1 : Bool) (x2 : Nat)
    (h : Goes r s) : Goes r (eraseBlocks x0 x1 x2 s) := by
  refine h.trans ?_
  unfold eraseBlocks
  try simp (maxDischargeDepth := 30) +contextual -implicitDefEqProofs
@[simp] theorem goes_copyRegion {r s : State} (x0 : Slot) (x1 : Slot) (x2 : Bool)
    (h : Goes r s) : Goes r (copyRegion x0 x1 x2 s) := by
  refine h.trans ?_
  unfold copyRegion
  try simp (maxDischargeDepth := 30) +contextual -implicitDefEqProofs
@[simp] theorem goes_wearOut {r s : State} (x0 : Slot) (h : Goes r s) : Goes r (wearOut x0 s) := by
  refine h.trans ?_
  unfold wearOut
  try simp (maxDischargeDepth := 30) +contextual -implicitDefEqProofs

end Sys2Proof.Machine
end

