-- ==== Sys2Proof/Laws/GoesBuoy.lean ====
section
/-!
SUPPORT. What the operations of Machine/Buoy.lean keep (Laws/Goes.lean).
-/

namespace Sys2Proof.Machine

@[simp] theorem goes_onBc {r s : State} (x1 : Port) (x2 : ChainPort → ChainPort)
    (h : Goes r s) : Goes r (State.onBc s x1 x2) := by
  refine h.trans ?_
  unfold State.onBc
  try simp (maxDischargeDepth := 30) +contextual -implicitDefEqProofs
  all_goals repeat' (split <;> try simp (maxDischargeDepth := 30) +contextual -implicitDefEqProofs)
@[simp] theorem goes_bcSet {r s : State} (x0 : Nat) (h : Goes r s) : Goes r (bcSet x0 s) := by
  refine h.trans ?_
  unfold bcSet
  try simp (maxDischargeDepth := 30) +contextual -implicitDefEqProofs
@[simp] theorem goes_sendChain {r s : State} (x0 : Port) (x1 : Nat) (x2 : Nat) (x3 : List Byte)
    (h : Goes r s) : Goes r (sendChain x0 x1 x2 x3 s) := by
  refine h.trans ?_
  unfold sendChain
  try simp (maxDischargeDepth := 30) +contextual -implicitDefEqProofs
@[simp] theorem goes_chainAck {r s : State} (x0 : Port) (x1 : Bool) (h : Goes r s) : Goes r (chainAck x0 x1 s) := by
  refine h.trans ?_
  unfold chainAck
  try simp (maxDischargeDepth := 30) +contextual -implicitDefEqProofs
@[simp] theorem goes_chainTransmit {r s : State} (x0 : Port) (h : Goes r s) : Goes r (chainTransmit x0 s) := by
  refine h.trans ?_
  unfold chainTransmit
  try simp (maxDischargeDepth := 30) +contextual -implicitDefEqProofs
@[simp] theorem goes_chainRetransmit {r s : State} (x0 : Port) (h : Goes r s) : Goes r (chainRetransmit x0 s) := by
  refine h.trans ?_
  unfold chainRetransmit
  try simp (maxDischargeDepth := 30) +contextual -implicitDefEqProofs
@[simp] theorem goes_chainQueue {r s : State} (x0 : Port) (x1 : List (Nat × List Byte))
    (h : Goes r s) : Goes r (chainQueue x0 x1 s) := by
  refine h.trans ?_
  unfold chainQueue
  try simp (maxDischargeDepth := 30) +contextual -implicitDefEqProofs
@[simp] theorem goes_abandon {r s : State} (h : Goes r s) : Goes r (abandon s) := by
  refine h.trans ?_
  unfold abandon
  try simp (maxDischargeDepth := 30) +contextual -implicitDefEqProofs
  all_goals repeat' (split <;> try simp (maxDischargeDepth := 30) +contextual -implicitDefEqProofs)
@[simp] theorem goes_chainLost {r s : State} (x0 : Port) (h : Goes r s) : Goes r (chainLost x0 s) := by
  refine h.trans ?_
  unfold chainLost
  try simp (maxDischargeDepth := 30) +contextual -implicitDefEqProofs
  all_goals repeat' (split <;> try simp (maxDischargeDepth := 30) +contextual -implicitDefEqProofs)
@[simp] theorem goes_chainLockLoss {r s : State} (x0 : Port) (h : Goes r s) : Goes r (chainLockLoss x0 s) := by
  refine h.trans ?_
  unfold chainLockLoss
  try simp (maxDischargeDepth := 30) +contextual -implicitDefEqProofs
@[simp] theorem goes_chainDown {r s : State} (x0 : Port) (h : Goes r s) : Goes r (chainDown x0 s) := by
  refine h.trans ?_
  unfold chainDown
  try simp (maxDischargeDepth := 30) +contextual -implicitDefEqProofs
@[simp] theorem goes_chainProbe {r s : State} (x0 : Port) (x1 : FarEnd)
    (h : Goes r s) : Goes r (chainProbe x0 x1 s) := by
  refine h.trans ?_
  unfold chainProbe
  try simp (maxDischargeDepth := 30) +contextual -implicitDefEqProofs
@[simp] theorem goes_chainSwapped {r s : State} (x0 : Port) (h : Goes r s) : Goes r (chainSwapped x0 s) := by
  refine h.trans ?_
  unfold chainSwapped
  try simp (maxDischargeDepth := 30) +contextual -implicitDefEqProofs
@[simp] theorem goes_chainLock {r s : State} (x0 : Port) (x1 : Bool) (x2 : Bool)
    (h : Goes r s) : Goes r (chainLock x0 x1 x2 s) := by
  refine h.trans ?_
  unfold chainLock
  try simp (maxDischargeDepth := 30) +contextual -implicitDefEqProofs
@[simp] theorem goes_chainHello {r s : State} (x0 : Port) (h : Goes r s) : Goes r (chainHello x0 s) := by
  refine h.trans ?_
  unfold chainHello
  try simp (maxDischargeDepth := 30) +contextual -implicitDefEqProofs
@[simp] theorem goes_chainTimeout {r s : State} (x0 : Port) (h : Goes r s) : Goes r (chainTimeout x0 s) := by
  refine h.trans ?_
  unfold chainTimeout
  try simp (maxDischargeDepth := 30) +contextual -implicitDefEqProofs
  all_goals repeat' (split <;> try simp (maxDischargeDepth := 30) +contextual -implicitDefEqProofs)
@[simp] theorem goes_chainHelloReceived {r s : State} (x0 : Port) (x1 : List Block)
    (h : Goes r s) : Goes r (chainHelloReceived x0 x1 s) := by
  refine h.trans ?_
  unfold chainHelloReceived
  try simp (maxDischargeDepth := 30) +contextual -implicitDefEqProofs
  all_goals repeat' (split <;> try simp (maxDischargeDepth := 30) +contextual -implicitDefEqProofs)
@[simp] theorem goes_onChainFrame {r s : State} (x0 : Port) (x1 : Nat) (x2 : List Block) (x3 : List Byte → State → State) (hx3 : ∀ y0 t, Goes t (x3 y0 t))
    (h : Goes r s) : Goes r (onChainFrame x0 x1 x2 x3 s) := by
  refine h.trans ?_
  have kx3 : ∀ r y0 t, Goes r t → Goes r (x3 y0 t) := fun _ y0 t h => h.trans (hx3 y0 t)
  unfold onChainFrame
  try simp (maxDischargeDepth := 30) +contextual -implicitDefEqProofs [kx3]
  all_goals repeat' (split <;> try simp (maxDischargeDepth := 30) +contextual -implicitDefEqProofs [kx3])
@[simp] theorem goes_chainVoid {r s : State} (x0 : Port) (x1 : List Block)
    (h : Goes r s) : Goes r (chainVoid x0 x1 s) := by
  refine h.trans ?_
  unfold chainVoid
  try simp (maxDischargeDepth := 30) +contextual -implicitDefEqProofs
  all_goals repeat' (split <;> try simp (maxDischargeDepth := 30) +contextual -implicitDefEqProofs)
@[simp] theorem goes_chainAckReceived {r s : State} (x0 : Port) (x1 : List Block)
    (h : Goes r s) : Goes r (chainAckReceived x0 x1 s) := by
  refine h.trans ?_
  unfold chainAckReceived
  try simp (maxDischargeDepth := 30) +contextual -implicitDefEqProofs
  all_goals repeat' (split <;> try simp (maxDischargeDepth := 30) +contextual -implicitDefEqProofs)
@[simp] theorem goes_chainBad {r s : State} (x0 : Port) (x1 : List Block) (x2 : Bool)
    (h : Goes r s) : Goes r (chainBad x0 x1 x2 s) := by
  refine h.trans ?_
  unfold chainBad
  try simp (maxDischargeDepth := 30) +contextual -implicitDefEqProofs
  all_goals repeat' (split <;> try simp (maxDischargeDepth := 30) +contextual -implicitDefEqProofs)
@[simp] theorem goes_chainAckTimeout {r s : State} (x0 : Port) (h : Goes r s) : Goes r (chainAckTimeout x0 s) := by
  refine h.trans ?_
  unfold chainAckTimeout
  try simp (maxDischargeDepth := 30) +contextual -implicitDefEqProofs

end Sys2Proof.Machine
end

