-- ==== Sys2Proof/Laws/GoesLineRows.lean ====
section
/-!
SUPPORT. What the operations of Machine/LineRows.lean keep (Laws/Goes.lean).
-/

namespace Sys2Proof.Machine

theorem goes_execLaneDetectProbe {s t : State} (x0 : LineEnd) (x1 : FarEnd)
    (q : execLaneDetectProbe x0 x1 s = .next t) : Goes s t := by
  unfold execLaneDetectProbe at q
  simp only [Host.Outcome.next.injEq] at q
  subst q
  try simp (maxDischargeDepth := 30) +contextual -implicitDefEqProofs
  all_goals repeat' (split <;> try simp (maxDischargeDepth := 30) +contextual -implicitDefEqProofs)
theorem goes_execLaneSwapDetect {s t : State} (x0 : LineEnd) (q : execLaneSwapDetect x0 s = .next t) : Goes s t := by
  unfold execLaneSwapDetect at q
  refine goes_ok ?_ q
  try simp (maxDischargeDepth := 30) +contextual -implicitDefEqProofs
  all_goals repeat' (split <;> try simp (maxDischargeDepth := 30) +contextual -implicitDefEqProofs)
theorem goes_execLaneBlockLock {s t : State} (x0 : LineEnd) (x1 : Bool) (x2 : Bool)
    (q : execLaneBlockLock x0 x1 x2 s = .next t) : Goes s t := by
  unfold execLaneBlockLock at q
  refine goes_ok ?_ q
  try simp (maxDischargeDepth := 30) +contextual -implicitDefEqProofs
  all_goals repeat' (split <;> try simp (maxDischargeDepth := 30) +contextual -implicitDefEqProofs)
theorem goes_execLaneBlockLockLoss {s t : State} (x0 : LineEnd)
    (q : execLaneBlockLockLoss x0 s = .next t) : Goes s t := by
  unfold execLaneBlockLockLoss at q
  refine goes_ok ?_ q
  try simp (maxDischargeDepth := 30) +contextual -implicitDefEqProofs
  all_goals repeat' (split <;> try simp (maxDischargeDepth := 30) +contextual -implicitDefEqProofs)
theorem goes_execLaneHelloTimer {s t : State} (x0 : LineEnd) (q : execLaneHelloTimer x0 s = .next t) : Goes s t := by
  unfold execLaneHelloTimer at q
  simp only [Host.Outcome.next.injEq] at q
  subst q
  try simp (maxDischargeDepth := 30) +contextual -implicitDefEqProofs
  all_goals repeat' (split <;> try simp (maxDischargeDepth := 30) +contextual -implicitDefEqProofs)
theorem goes_execLaneDownTimeout {s t : State} (x0 : LineEnd)
    (q : execLaneDownTimeout x0 s = .next t) : Goes s t := by
  unfold execLaneDownTimeout at q
  refine goes_ok ?_ q
  try simp (maxDischargeDepth := 30) +contextual -implicitDefEqProofs
  all_goals repeat' (split <;> try simp (maxDischargeDepth := 30) +contextual -implicitDefEqProofs)
theorem goes_execVoidFrameReceived {s t : State} (x0 : LineEnd) (x1 : List Block)
    (q : execVoidFrameReceived x0 x1 s = .next t) : Goes s t := by
  unfold execVoidFrameReceived at q
  refine goes_ok ?_ q
  try simp (maxDischargeDepth := 30) +contextual -implicitDefEqProofs
  all_goals repeat' (split <;> try simp (maxDischargeDepth := 30) +contextual -implicitDefEqProofs)
theorem goes_execAckFrameReceived {s t : State} (x0 : LineEnd) (x1 : List Block)
    (q : execAckFrameReceived x0 x1 s = .next t) : Goes s t := by
  unfold execAckFrameReceived at q
  refine goes_ok ?_ q
  try simp (maxDischargeDepth := 30) +contextual -implicitDefEqProofs
  all_goals repeat' (split <;> try simp (maxDischargeDepth := 30) +contextual -implicitDefEqProofs)
theorem goes_execBadFrameReceived {s t : State} (x0 : LineEnd) (x1 : List Block) (x2 : Bool)
    (q : execBadFrameReceived x0 x1 x2 s = .next t) : Goes s t := by
  unfold execBadFrameReceived at q
  refine goes_ok ?_ q
  try simp (maxDischargeDepth := 30) +contextual -implicitDefEqProofs
  all_goals repeat' (split <;> try simp (maxDischargeDepth := 30) +contextual -implicitDefEqProofs)
theorem goes_execLaneAckTimeout {s t : State} (x0 : LineEnd) (q : execLaneAckTimeout x0 s = .next t) : Goes s t := by
  unfold execLaneAckTimeout at q
  refine goes_ok ?_ q
  try simp (maxDischargeDepth := 30) +contextual -implicitDefEqProofs
  all_goals repeat' (split <;> try simp (maxDischargeDepth := 30) +contextual -implicitDefEqProofs)

end Sys2Proof.Machine
end

