-- ==== Sys2Proof/Laws/GoesKeyStore.lean ====
section
/-!
SUPPORT. What the operations of Machine/KeyStore.lean keep (Laws/Goes.lean).
-/

namespace Sys2Proof.Machine

/-- What an operation that may end with a status keeps when it does not. -/
def GoesOk {α : Type} (r : State) (x : Except Result (State × α)) : Prop := ∀ p, x = .ok p → Goes r p.1
@[simp] theorem goesOk_error {α : Type} {r : State} {e : Result} : GoesOk r (.error e : Except Result (State × α)) :=
  fun _ q => Except.noConfusion rfl rfl (heq_of_eq q)
@[simp] theorem goesOk_ok {α : Type} {r : State} {p : State × α} : GoesOk r (.ok p) ↔ Goes r p.1 :=
  ⟨fun h => h p rfl, fun h _ e => Except.ok.inj e ▸ h⟩
@[simp] theorem goesOk_pure {α : Type} {r : State} {p : State × α} : GoesOk r (pure p) ↔ Goes r p.1 := goesOk_ok
theorem goesOk_bind {α β : Type} {r : State} {x : Except Result β} {f : β → Except Result (State × α)}
    (h : ∀ b, x = .ok b → GoesOk r (f b)) : GoesOk r (x >>= f) := by
  cases x with
  | error e => exact goesOk_error
  | ok b => exact h b rfl
@[simp] theorem goesOk_ite {α : Type} {r : State} {c : Prop} [Decidable c] {a b : Except Result (State × α)}
    (p : c → GoesOk r a) (q : ¬c → GoesOk r b) : GoesOk r (if c then a else b) := by
  split
  · exact p ‹_›
  · exact q ‹_›
@[simp] theorem goes_slotErrors {r s : State} (x0 : BitError) (x1 : Cmd) (x2 : RingIdent)
    (h : Goes r s) : Goes r (slotErrors x0 x1 x2 s) := by
  refine h.trans ?_
  unfold slotErrors
  try simp (maxDischargeDepth := 30) +contextual -implicitDefEqProofs
  all_goals repeat' (split <;> try simp (maxDischargeDepth := 30) +contextual -implicitDefEqProofs)
@[simp] theorem goes_noKeyViolation {r s : State} (x0 : Nat) (x1 : Cmd) (x2 : RingIdent) (x3 : Result)
    (h : Goes r s) : Goes r (noKeyViolation x0 x1 x2 x3 s) := by
  refine h.trans ?_
  unfold noKeyViolation
  try simp (maxDischargeDepth := 30) +contextual -implicitDefEqProofs
theorem goes_createSlot {r s : State} (x0 : RingIdent) (x1 x2 x3 : Nat) (x4 : BitVec 16) (x5 : List Byte) (h : Goes r s) :
    GoesOk r (createSlot x0 x1 x2 x3 x4 x5 s) := by
  unfold createSlot
  split
  · simp [h]
  · refine goesOk_ite (fun _ => by simp) fun _ => goesOk_ite (fun _ => by simp) fun _ => ?_
    simp [h]

end Sys2Proof.Machine
end

