-- ==== Sys2Proof/Laws/GoesCrypto.lean ====
section
/-!
SUPPORT. What the operations of Machine/Crypto.lean keep (Laws/Goes.lean).
-/

namespace Sys2Proof.Machine

@[simp] theorem goes_segRead {r s : State} (x0 : RingIdent) (x1 : ChainRun) (x2 : Line)
    (h : Goes r s) : Goes r (segRead x0 x1 x2 s).1 := by
  refine h.trans ?_
  unfold segRead
  try simp (maxDischargeDepth := 30) +contextual -implicitDefEqProofs
@[simp] theorem goes_segsRead {r s : State} (x0 : RingIdent) (x1 : ChainRun) (x2 : List Line)
    (h : Goes r s) : Goes r (segsRead x0 x1 x2 s).1 := by
  induction x2 generalizing s with
  | nil => simpa [segsRead] using h
  | cons a l ih =>
    have k := ih (goes_segRead x0 x1 a h)
    unfold segsRead
    exact k
@[simp] theorem goes_runOp {r s : State} (x0 : RingIdent) (x1 : ChainOp) (x2 : ChainRun)
    (h : Goes r s) : Goes r (runOp x0 x1 x2 s).1 := by
  refine h.trans ?_
  unfold runOp
  try simp (maxDischargeDepth := 30) +contextual -implicitDefEqProofs
  all_goals repeat' (split <;> try simp (maxDischargeDepth := 30) +contextual -implicitDefEqProofs)
@[simp] theorem goes_runOps {r s : State} (x0 : RingIdent) (x1 : Bool) (x2 : List ChainOp) (x3 : ChainRun)
    (h : Goes r s) : Goes r (runOps x0 x1 x2 x3 s).1 := by
  induction x2 generalizing s x3 with
  | nil => simpa [runOps] using h
  | cons a l ih =>
    have k := goes_runOp x0 a x3 h
    unfold runOps
    split
    · rename_i q
      rw [q] at k
      exact ih _ k
    · rename_i q
      rw [q] at k
      exact k
@[simp] theorem goes_release {r s : State} (x0 : RingIdent) (x1 : List (Nat × List Byte))
    (h : Goes r s) : Goes r (release x0 x1 s) := by
  refine h.trans ?_
  unfold release
  try simp (maxDischargeDepth := 30) +contextual -implicitDefEqProofs
@[simp] theorem goes_countChain {r s : State} (h : Goes r s) : Goes r (countChain s) := by
  refine h.trans ?_
  unfold countChain
  try simp (maxDischargeDepth := 30) +contextual -implicitDefEqProofs
@[simp] theorem goes_runChain {r s : State} (x0 : Cmd) (x1 : RingIdent)
    (h : Goes r s) : Goes r (runChain x0 x1 s).1 := by
  refine h.trans ?_
  have k := fun b o c => goes_runOps x1 b o c (goes_refl s)
  unfold runChain
  simp only
  repeat' split
  all_goals first
    | exact goes_refl _
    | simp [(k _ _ _).of_eq ‹runOps _ _ _ _ _ = _›]
@[simp] theorem goes_onLane_cmd {r s : State} (x0 : CmdRef) (x1 : Nat) (x2 : Cmd →   RingIdent → State → State × Result) (hx2 : ∀ y0 y1 t, Goes t (x2 y0 y1 t).1)
    (h : Goes r s) : Goes r (onLane x0 x1 x2 s) := by
  refine h.trans ?_
  have kx2 : ∀ r y0 y1 t, Goes r t → Goes r (x2 y0 y1 t).1 := fun _ y0 y1 t h => h.trans (hx2 y0 y1 t)
  unfold onLane
  try simp (maxDischargeDepth := 30) +contextual -implicitDefEqProofs [kx2]
  all_goals repeat' (split <;> try simp (maxDischargeDepth := 30) +contextual -implicitDefEqProofs [kx2])
theorem goes_execHash {s t : State} (x0 : CmdRef) (q : execHash x0 s = .next t) : Goes s t := by
  unfold execHash at q
  refine goes_ok ?_ q
  try simp (maxDischargeDepth := 30) +contextual -implicitDefEqProofs
theorem goes_execAesCbc {s t : State} (x0 : CmdRef) (q : execAesCbc x0 s = .next t) : Goes s t := by
  unfold execAesCbc at q
  refine goes_ok ?_ q
  try simp (maxDischargeDepth := 30) +contextual -implicitDefEqProofs
theorem goes_execAesCtr {s t : State} (x0 : CmdRef) (q : execAesCtr x0 s = .next t) : Goes s t := by
  unfold execAesCtr at q
  refine goes_ok ?_ q
  try simp (maxDischargeDepth := 30) +contextual -implicitDefEqProofs
theorem goes_execAesGcm {s t : State} (x0 : CmdRef) (q : execAesGcm x0 s = .next t) : Goes s t := by
  unfold execAesGcm at q
  refine goes_ok ?_ q
  try simp (maxDischargeDepth := 30) +contextual -implicitDefEqProofs
theorem goes_execAesXts {s t : State} (x0 : CmdRef) (q : execAesXts x0 s = .next t) : Goes s t := by
  unfold execAesXts at q
  refine goes_ok ?_ q
  try simp (maxDischargeDepth := 30) +contextual -implicitDefEqProofs
theorem goes_execAesCmac {s t : State} (x0 : CmdRef) (q : execAesCmac x0 s = .next t) : Goes s t := by
  unfold execAesCmac at q
  refine goes_ok ?_ q
  try simp (maxDischargeDepth := 30) +contextual -implicitDefEqProofs
theorem goes_execAesKw {s t : State} (x0 : CmdRef) (q : execAesKw x0 s = .next t) : Goes s t := by
  unfold execAesKw at q
  refine goes_ok ?_ q
  try simp (maxDischargeDepth := 30) +contextual -implicitDefEqProofs
theorem goes_execAesKwp {s t : State} (x0 : CmdRef) (q : execAesKwp x0 s = .next t) : Goes s t := by
  unfold execAesKwp at q
  refine goes_ok ?_ q
  try simp (maxDischargeDepth := 30) +contextual -implicitDefEqProofs
theorem goes_execChachaPoly {s t : State} (x0 : CmdRef) (q : execChachaPoly x0 s = .next t) : Goes s t := by
  unfold execChachaPoly at q
  refine goes_ok ?_ q
  try simp (maxDischargeDepth := 30) +contextual -implicitDefEqProofs
theorem goes_execHmac {s t : State} (x0 : CmdRef) (q : execHmac x0 s = .next t) : Goes s t := by
  unfold execHmac at q
  refine goes_ok ?_ q
  try simp (maxDischargeDepth := 30) +contextual -implicitDefEqProofs
theorem goes_execKmac {s t : State} (x0 : CmdRef) (q : execKmac x0 s = .next t) : Goes s t := by
  unfold execKmac at q
  refine goes_ok ?_ q
  try simp (maxDischargeDepth := 30) +contextual -implicitDefEqProofs
theorem goes_execRandom {s t : State} (x0 : CmdRef) (q : execRandom x0 s = .next t) : Goes s t := by
  unfold execRandom at q
  refine goes_ok ?_ q
  try simp (maxDischargeDepth := 30) +contextual -implicitDefEqProofs
theorem goes_keyCommand {s : State} {x0 : Uses} {x1 : Bool} {x2 : Nat} {x3 : Bool}
    {x4 : Line → Except Result (State × Result)} {x5 : Cmd} {x6 : RingIdent} (p : ∀ d, GoesOk s (x4 d)) :
    Goes s (keyCommand x0 x1 x2 x3 x4 x5 x6 s).1 := by
  unfold keyCommand
  simp only
  repeat' split
  all_goals first
    | exact goes_refl _
    | exact p _ _ ‹_›
theorem goes_keyInput {s : State} (x : Nat) (x0 : RingIdent) (x1 : Line) : GoesOk s (keyInput x x0 x1 s) := by
  unfold keyInput
  refine goesOk_ite (fun _ => by simp) fun _ => ?_
  simp only
  refine goesOk_ite (fun _ => by simp) fun _ => ?_
  simp
@[simp] theorem goes_keyOutput {r s : State} (x0 : RingIdent) (x1 : Line) (x2 : List Byte) (x3 : Nat)
    (h : Goes r s) : Goes r (keyOutput x0 x1 x2 x3 s).1 := by
  refine h.trans ?_
  unfold keyOutput
  try simp (maxDischargeDepth := 30) +contextual -implicitDefEqProofs
@[simp] theorem goes_keyImport {r s : State} (x0 : Nat) (x1 : Cmd) (x2 : RingIdent) (h : Goes r s) : Goes r (keyImport x0 x1 x2 s).1 := by
  refine h.trans (goes_keyCommand fun d => ?_)
  refine goesOk_bind fun w _ => goesOk_bind fun t q => ?_
  obtain ⟨t, blob⟩ := t
  simp only
  split
  · simp
  · refine goesOk_bind fun u e => ?_
    simpa using goes_createSlot _ _ _ _ _ _ (goes_keyInput _ _ _ _ q) _ e
@[simp] theorem goes_keyGenerate {r s : State} (x0 : Nat) (x1 : Cmd) (x2 : RingIdent) (h : Goes r s) : Goes r (keyGenerate x0 x1 x2 s).1 := by
  refine h.trans (goes_keyCommand fun d => ?_)
  refine goesOk_ite (fun _ => by simp) fun _ => goesOk_ite (fun _ => by simp) fun _ => goesOk_ite (fun _ => by simp) fun _ => ?_
  refine goesOk_bind fun u e => ?_
  have k := goes_createSlot _ _ _ _ _ _ (goes_refl s) _ e
  rw [goesOk_ok]
  split
  · exact k
  · exact goes_keyOutput _ _ _ _ k
@[simp] theorem goes_keyDerive {r s : State} (x0 : Nat) (x1 : Cmd) (x2 : RingIdent) (h : Goes r s) : Goes r (keyDerive x0 x1 x2 s).1 := by
  refine h.trans (goes_keyCommand fun d => ?_)
  refine goesOk_bind fun g _ => goesOk_bind fun _ _ => goesOk_bind fun m _ => goesOk_ite (fun _ => by simp) fun _ => ?_
  refine goesOk_bind fun t q => goesOk_bind fun u e => ?_
  simpa using goes_createSlot _ _ _ _ _ _ (goes_keyInput _ _ _ _ q) _ e
@[simp] theorem goes_keyExport {r s : State} (x0 : Cmd) (x1 : RingIdent) (h : Goes r s) : Goes r (keyExport x0 x1 s).1 := by
  refine h.trans (goes_keyCommand fun d => ?_)
  refine goesOk_bind fun g _ => goesOk_bind fun w _ => goesOk_ite (fun _ => by simp) fun _ => goesOk_ite (fun _ => by simp) fun _ => ?_
  refine goesOk_bind fun _ _ => ?_
  simp
@[simp] theorem goes_keyDestroy {r s : State} (x0 : Cmd) (x1 : RingIdent) (h : Goes r s) : Goes r (keyDestroy x0 x1 s).1 := by
  refine h.trans (goes_keyCommand fun d => ?_)
  refine goesOk_bind fun g _ => ?_
  simp
@[simp] theorem goes_keyInfo {r s : State} (x0 : Cmd) (x1 : RingIdent) (h : Goes r s) : Goes r (keyInfo x0 x1 s).1 := by
  refine h.trans (goes_keyCommand fun d => ?_)
  refine goesOk_bind fun g _ => goesOk_bind fun _ _ => ?_
  simp
@[simp] theorem goes_kekRelease {r s : State} (x0 : Cmd) (x1 : RingIdent) (h : Goes r s) : Goes r (kekRelease x0 x1 s).1 := by
  refine h.trans (goes_keyCommand fun d => ?_)
  refine goesOk_bind fun t q => ?_
  obtain ⟨t, bs⟩ := t
  have k : Goes s t := goes_keyInput _ _ _ _ q
  simp only
  split
  · simp
  · refine goesOk_ite (fun _ => by simp) fun _ => goesOk_ite (fun _ => by simp) fun _ => ?_
    simp [k]
theorem goes_execKeyImport {s t : State} (x0 : CmdRef) (q : execKeyImport x0 s = .next t) : Goes s t := by
  unfold execKeyImport at q
  refine goes_ok ?_ q
  try simp (maxDischargeDepth := 30) +contextual -implicitDefEqProofs
theorem goes_execKeyGenerate {s t : State} (x0 : CmdRef) (q : execKeyGenerate x0 s = .next t) : Goes s t := by
  unfold execKeyGenerate at q
  refine goes_ok ?_ q
  try simp (maxDischargeDepth := 30) +contextual -implicitDefEqProofs
theorem goes_execKeyDerive {s t : State} (x0 : CmdRef) (q : execKeyDerive x0 s = .next t) : Goes s t := by
  unfold execKeyDerive at q
  refine goes_ok ?_ q
  try simp (maxDischargeDepth := 30) +contextual -implicitDefEqProofs
theorem goes_execKeyExport {s t : State} (x0 : CmdRef) (q : execKeyExport x0 s = .next t) : Goes s t := by
  unfold execKeyExport at q
  refine goes_ok ?_ q
  try simp (maxDischargeDepth := 30) +contextual -implicitDefEqProofs
theorem goes_execKeyDestroy {s t : State} (x0 : CmdRef) (q : execKeyDestroy x0 s = .next t) : Goes s t := by
  unfold execKeyDestroy at q
  refine goes_ok ?_ q
  try simp (maxDischargeDepth := 30) +contextual -implicitDefEqProofs
theorem goes_execKeyInfo {s t : State} (x0 : CmdRef) (q : execKeyInfo x0 s = .next t) : Goes s t := by
  unfold execKeyInfo at q
  refine goes_ok ?_ q
  try simp (maxDischargeDepth := 30) +contextual -implicitDefEqProofs
theorem goes_execKekRelease {s t : State} (x0 : CmdRef) (q : execKekRelease x0 s = .next t) : Goes s t := by
  unfold execKekRelease at q
  refine goes_ok ?_ q
  try simp (maxDischargeDepth := 30) +contextual -implicitDefEqProofs
theorem goes_execEntropyHealthFail {s t : State} (q : execEntropyHealthFail s = .next t) : Goes s t := by
  unfold execEntropyHealthFail at q
  refine goes_ok ?_ q
  try simp (maxDischargeDepth := 30) +contextual -implicitDefEqProofs
theorem goes_execEntropyRestartDone {s t : State} (q : execEntropyRestartDone s = .next t) : Goes s t := by
  unfold execEntropyRestartDone at q
  simp only [Host.Outcome.next.injEq] at q
  subst q
  try simp (maxDischargeDepth := 30) +contextual -implicitDefEqProofs
theorem goes_execDrbgReseed {s t : State} (q : execDrbgReseed s = .next t) : Goes s t := by
  unfold execDrbgReseed at q
  simp only [Host.Outcome.next.injEq] at q
  subst q
  try simp (maxDischargeDepth := 30) +contextual -implicitDefEqProofs
@[simp] theorem goes_laneFails {r s : State} (x0 : LaneNo) (h : Goes r s) : Goes r (laneFails x0 s) := by
  unfold laneFails
  exact goes_onCx h
theorem goes_execCryptoLaneSelfTest {s t : State} (x0 : LaneNo) (x1 : Bool)
    (q : execCryptoLaneSelfTest x0 x1 s = .next t) : Goes s t := by
  unfold execCryptoLaneSelfTest at q
  refine goes_ok ?_ q
  split
  · exact goes_laneFails _ (goes_refl s)
  · exact goes_refl s
@[simp] theorem goes_restartChain {r s : State} (x0 : CmdRef) (x1 : LaneNo)
    (h : Goes r s) : Goes r (restartChain x0 x1 s) := by
  refine h.trans ?_
  unfold restartChain
  try simp (maxDischargeDepth := 30) +contextual -implicitDefEqProofs
  all_goals repeat' (split <;> try simp (maxDischargeDepth := 30) +contextual -implicitDefEqProofs)
theorem goes_execCryptoLaneFail {s t : State} (x0 : LaneNo) (x1 : Option CmdRef)
    (q : execCryptoLaneFail x0 x1 s = .next t) : Goes s t := by
  unfold execCryptoLaneFail at q
  refine goes_ok ?_ q
  split
  · split
    · exact goes_laneFails _ (goes_restartChain _ _ (goes_refl s))
    · exact goes_laneFails _ (goes_refl s)
  · exact goes_refl s

end Sys2Proof.Machine
end

