-- ==== Sys2Proof/Laws/GoesModUnits.lean ====
section
/-!
SUPPORT. What the operations of Machine/ModUnits.lean keep (Laws/Goes.lean).
-/

namespace Sys2Proof.Machine

/-- What the start of a unit's command keeps. -/
def StartGoes (r : State) : UnitStart → Prop
  | .run _ _ t => Goes r t
  | _ => True
@[simp] theorem startGoes_wait {r : State} : StartGoes r .wait := trivial
@[simp] theorem startGoes_now {r : State} {e : Result} : StartGoes r (.now e) := trivial
@[simp] theorem startGoes_run {r t : State} {u : Nat} {x : UnitRun} : StartGoes r (.run u x t) ↔ Goes r t := Iff.rfl
theorem goes_sessionRun (r : Nat) (k : Cmd) (i : RingIdent) (u : Nat) (x : Session) (s : State) :
    StartGoes s (sessionRun r k i u x s) := by
  unfold sessionRun
  simp only
  repeat' split
  all_goals simp
theorem goes_openRun (r : Nat) (k : Cmd) (i : RingIdent) (s : State) : StartGoes s (openRun r k i s) := by
  unfold openRun
  simp only
  repeat' split
  all_goals simp
theorem goes_sessionStart (r : Nat) (k : Cmd) (i : RingIdent) (s : State) : StartGoes s (sessionStart r k i s) := by
  unfold sessionStart
  simp only
  repeat' split
  all_goals first
    | exact goes_openRun _ _ _ _
    | exact goes_sessionRun _ _ _ _ _ _
    | simp
theorem goes_loneStart (r : Nat) (k : Cmd) (i : RingIdent) (s : State) : StartGoes s (loneStart r k i s) := by
  unfold loneStart
  simp only
  repeat' split
  all_goals first
    | exact goes_keyInput _ _ _ _ ‹_›
    | simp [loneStart.ringReadPoison]
theorem goes_unitStart {r : Nat} {k : Cmd} {i : RingIdent} {s t : State} {u : Nat} {x : UnitRun}
    (q : unitStart r k i s = .run u x t) : Goes s t := by
  have h : StartGoes s (unitStart r k i s) := by
    unfold unitStart
    split
    · exact goes_sessionStart _ _ _ _
    · exact goes_loneStart _ _ _ _
  rw [q] at h
  exact h
theorem goesOk_made {i : RingIdent} {x : UnitRun} {s t : State} {e : Result}
    (q : (match x.slot with
      | none => .ok (s, x.result)
      | some (alg, usage, key) => (createSlot i x.ring x.seq alg usage key s).map fun p => (p.1, { x.result with result32 := p.2 })) =
      (.ok (t, e) : Except Result (State × Result))) : Goes s t := by
  split at q
  · cases q
    exact goes_refl s
  · rename_i alg usage key _
    cases k : createSlot i x.ring x.seq alg usage key s with
    | error e => rw [k] at q; cases q
    | ok p =>
      rw [k] at q
      cases q
      exact goes_createSlot _ _ _ _ _ _ (goes_refl s) _ k
@[simp] theorem goes_noSessionViolation {r s : State} (x0 : Cmd) (x1 : RingIdent) (x2 : Result)
    (h : Goes r s) : Goes r (noSessionViolation x0 x1 x2 s) := by
  refine h.trans ?_
  unfold noSessionViolation
  try simp (maxDischargeDepth := 30) +contextual -implicitDefEqProofs
  all_goals repeat' (split <;> try simp (maxDischargeDepth := 30) +contextual -implicitDefEqProofs)
@[simp] theorem goes_stopSession {r s : State} (x0 : Nat) (h : Goes r s) : Goes r (stopSession x0 s) := by
  refine h.trans ?_
  unfold stopSession
  try simp (maxDischargeDepth := 30) +contextual -implicitDefEqProofs
  all_goals repeat' (split <;> try simp (maxDischargeDepth := 30) +contextual -implicitDefEqProofs)
@[simp] theorem goes_loneStart_ringReadPoison {r s : State} (x0 : RingIdent) (x1 : Line)
    (h : Goes r s) : Goes r (loneStart.ringReadPoison x0 x1 s) := by
  refine h.trans ?_
  unfold loneStart.ringReadPoison
  try simp (maxDischargeDepth := 30) +contextual -implicitDefEqProofs
@[simp] theorem goes_onUnit {r s : State} (x0 : CmdRef) (x1 : Nat) (h : Goes r s) : Goes r (onUnit x0 x1 s) := by
  refine h.trans ?_
  unfold onUnit
  simp only
  split
  · exact goes_refl s
  · split
    · exact goes_refl s
    · split
      · simp
      · split
        · exact goes_refl s
        · split <;> simp (maxDischargeDepth := 30)
        · have k := (goes_slotErrors (r := s) _ _ _ (goes_refl s)).trans (goes_unitStart ‹unitStart _ _ _ _ = UnitStart.run _ _ _›)
          split
          · exact goes_refl s
          · split <;> simp (maxDischargeDepth := 30) [k]
@[simp] theorem goes_unitPulse {r s : State} (x0 : Nat) (h : Goes r s) : Goes r (unitPulse x0 s) := by
  refine h.trans ?_
  unfold unitPulse
  try simp (maxDischargeDepth := 30) +contextual -implicitDefEqProofs
@[simp] theorem goes_unitFree {r s : State} (x0 : Nat) (x1 : UnitRun) (h : Goes r s) : Goes r (unitFree x0 x1 s) := by
  refine h.trans ?_
  unfold unitFree
  try simp (maxDischargeDepth := 30) +contextual -implicitDefEqProofs
@[simp] theorem goes_unitWrites {r s : State} (x0 : Nat) (x1 : UnitRun)
    (h : Goes r s) : Goes r (unitWrites x0 x1 s).1 := by
  refine h.trans ?_
  unfold unitWrites
  simp only
  split
  · exact goes_refl s
  · rename_i q
    have k : Goes s _ := goesOk_made q
    simp (maxDischargeDepth := 30) [k]
@[simp] theorem goes_unitMismatch {r s : State} (x0 : Nat) (x1 : UnitRun) (x2 : Nat)
    (h : Goes r s) : Goes r (unitMismatch x0 x1 x2 s) := by
  refine h.trans ?_
  unfold unitMismatch
  try simp (maxDischargeDepth := 30) +contextual -implicitDefEqProofs
@[simp] theorem goes_unitEnd {r s : State} (x0 : Nat) (x1 : UnitEnd) (h : Goes r s) : Goes r (unitEnd x0 x1 s) := by
  refine h.trans ?_
  unfold unitEnd
  try simp (maxDischargeDepth := 30) +contextual -implicitDefEqProofs
  all_goals repeat' (split <;> try simp (maxDischargeDepth := 30) +contextual -implicitDefEqProofs)
theorem goes_execUnitCommandEnd {s t : State} (x0 : UnitNo) (x1 : UnitEnd)
    (q : execUnitCommandEnd x0 x1 s = .next t) : Goes s t := by
  unfold execUnitCommandEnd at q
  refine goes_ok ?_ q
  try simp (maxDischargeDepth := 30) +contextual -implicitDefEqProofs
@[simp] theorem goes_restartRun {r s : State} (x0 : UnitRun) (h : Goes r s) : Goes r (restartRun x0 s) := by
  refine h.trans ?_
  unfold restartRun
  try simp (maxDischargeDepth := 30) +contextual -implicitDefEqProofs
@[simp] theorem goes_abandonRun {r s : State} (x0 : Nat) (h : Goes r s) : Goes r (abandonRun x0 s) := by
  refine h.trans ?_
  unfold abandonRun
  try simp (maxDischargeDepth := 30) +contextual -implicitDefEqProofs
  all_goals repeat' (split <;> try simp (maxDischargeDepth := 30) +contextual -implicitDefEqProofs)
@[simp] theorem goes_unitLeaves {r s : State} (x0 : Nat) (h : Goes r s) : Goes r (unitLeaves x0 s) := by
  refine h.trans ?_
  unfold unitLeaves
  try simp (maxDischargeDepth := 30) +contextual -implicitDefEqProofs
  all_goals repeat' (split <;> try simp (maxDischargeDepth := 30) +contextual -implicitDefEqProofs)
@[simp] theorem goes_memoryError {r s : State} (x0 : Nat) (x1 : BitError)
    (h : Goes r s) : Goes r (memoryError x0 x1 s) := by
  refine h.trans ?_
  unfold memoryError
  try simp (maxDischargeDepth := 30) +contextual -implicitDefEqProofs
  all_goals repeat' (split <;> try simp (maxDischargeDepth := 30) +contextual -implicitDefEqProofs)
@[simp] theorem goes_unitFails {r s : State} (x0 : Nat) (x1 : Bool) (h : Goes r s) : Goes r (unitFails x0 x1 s) := by
  refine h.trans ?_
  unfold unitFails
  try simp (maxDischargeDepth := 30) +contextual -implicitDefEqProofs
  all_goals repeat' (split <;> try simp (maxDischargeDepth := 30) +contextual -implicitDefEqProofs)
theorem goes_execMuUnitFail {s t : State} (x0 : Fin 4) (x1 : Bool)
    (q : execMuUnitFail x0 x1 s = .next t) : Goes s t := by
  unfold execMuUnitFail at q
  refine goes_ok ?_ q
  try simp (maxDischargeDepth := 30) +contextual -implicitDefEqProofs
  all_goals repeat' (split <;> try simp (maxDischargeDepth := 30) +contextual -implicitDefEqProofs)
theorem goes_execLuUnitFail {s t : State} (x0 : Fin 2) (x1 : Bool)
    (q : execLuUnitFail x0 x1 s = .next t) : Goes s t := by
  unfold execLuUnitFail at q
  refine goes_ok ?_ q
  try simp (maxDischargeDepth := 30) +contextual -implicitDefEqProofs
  all_goals repeat' (split <;> try simp (maxDischargeDepth := 30) +contextual -implicitDefEqProofs)
@[simp] theorem goes_unitSelfTest {r s : State} (x0 : Nat) (x1 : Bool) (x2 : BitError)
    (h : Goes r s) : Goes r (unitSelfTest x0 x1 x2 s) := by
  refine h.trans ?_
  unfold unitSelfTest
  try simp (maxDischargeDepth := 30) +contextual -implicitDefEqProofs
  all_goals repeat' (split <;> try simp (maxDischargeDepth := 30) +contextual -implicitDefEqProofs)
theorem goes_execMuSelfTest {s t : State} (x0 : UnitNo) (x1 : Bool) (x2 : BitError)
    (q : execMuSelfTest x0 x1 x2 s = .next t) : Goes s t := by
  unfold execMuSelfTest at q
  refine goes_ok ?_ q
  try simp (maxDischargeDepth := 30) +contextual -implicitDefEqProofs
  all_goals repeat' (split <;> try simp (maxDischargeDepth := 30) +contextual -implicitDefEqProofs)
@[simp] theorem goes_pfAbort {r s : State} (x0 : Nat) (h : Goes r s) : Goes r (pfAbort x0 s) := by
  refine h.trans ?_
  unfold pfAbort
  try simp (maxDischargeDepth := 30) +contextual -implicitDefEqProofs
  all_goals repeat' (split <;> try simp (maxDischargeDepth := 30) +contextual -implicitDefEqProofs)
@[simp] theorem goes_abortWrite {r s : State} (x0 : Requester) (x1 : W32)
    (h : Goes r s) : Goes r (abortWrite x0 x1 s) := by
  refine h.trans ?_
  unfold abortWrite
  simp only
  split
  · exact goes_violateBy _ _ _ _ (goes_foldl (fun t u => goes_pfAbort u (goes_refl t)) (goes_refl s))
  · exact goes_foldl (fun t u => goes_pfAbort u (goes_refl t)) (goes_refl s)
theorem goes_execMopen {s t : State} (x0 : CmdRef) (q : execMopen x0 s = .next t) : Goes s t := by
  unfold execMopen at q
  refine goes_ok ?_ q
  try simp (maxDischargeDepth := 30) +contextual -implicitDefEqProofs
theorem goes_execMclose {s t : State} (x0 : CmdRef) (q : execMclose x0 s = .next t) : Goes s t := by
  unfold execMclose at q
  refine goes_ok ?_ q
  try simp (maxDischargeDepth := 30) +contextual -implicitDefEqProofs
theorem goes_execMabort {s t : State} (x0 : CmdRef) (q : execMabort x0 s = .next t) : Goes s t := by
  unfold execMabort at q
  refine goes_ok ?_ q
  try simp (maxDischargeDepth := 30) +contextual -implicitDefEqProofs
theorem goes_execMload {s t : State} (x0 : CmdRef) (q : execMload x0 s = .next t) : Goes s t := by
  unfold execMload at q
  refine goes_ok ?_ q
  try simp (maxDischargeDepth := 30) +contextual -implicitDefEqProofs
theorem goes_execMstore {s t : State} (x0 : CmdRef) (q : execMstore x0 s = .next t) : Goes s t := by
  unfold execMstore at q
  refine goes_ok ?_ q
  try simp (maxDischargeDepth := 30) +contextual -implicitDefEqProofs
theorem goes_execMldkey {s t : State} (x0 : CmdRef) (q : execMldkey x0 s = .next t) : Goes s t := by
  unfold execMldkey at q
  refine goes_ok ?_ q
  try simp (maxDischargeDepth := 30) +contextual -implicitDefEqProofs
theorem goes_execMadd {s t : State} (x0 : CmdRef) (q : execMadd x0 s = .next t) : Goes s t := by
  unfold execMadd at q
  refine goes_ok ?_ q
  try simp (maxDischargeDepth := 30) +contextual -implicitDefEqProofs
theorem goes_execMsub {s t : State} (x0 : CmdRef) (q : execMsub x0 s = .next t) : Goes s t := by
  unfold execMsub at q
  refine goes_ok ?_ q
  try simp (maxDischargeDepth := 30) +contextual -implicitDefEqProofs
theorem goes_execMmul {s t : State} (x0 : CmdRef) (q : execMmul x0 s = .next t) : Goes s t := by
  unfold execMmul at q
  refine goes_ok ?_ q
  try simp (maxDischargeDepth := 30) +contextual -implicitDefEqProofs
theorem goes_execMsqr {s t : State} (x0 : CmdRef) (q : execMsqr x0 s = .next t) : Goes s t := by
  unfold execMsqr at q
  refine goes_ok ?_ q
  try simp (maxDischargeDepth := 30) +contextual -implicitDefEqProofs
theorem goes_execMinv {s t : State} (x0 : CmdRef) (q : execMinv x0 s = .next t) : Goes s t := by
  unfold execMinv at q
  refine goes_ok ?_ q
  try simp (maxDischargeDepth := 30) +contextual -implicitDefEqProofs
theorem goes_execMexp {s t : State} (x0 : CmdRef) (q : execMexp x0 s = .next t) : Goes s t := by
  unfold execMexp at q
  refine goes_ok ?_ q
  try simp (maxDischargeDepth := 30) +contextual -implicitDefEqProofs
theorem goes_execP384Sign {s t : State} (x0 : CmdRef) (q : execP384Sign x0 s = .next t) : Goes s t := by
  unfold execP384Sign at q
  refine goes_ok ?_ q
  try simp (maxDischargeDepth := 30) +contextual -implicitDefEqProofs
theorem goes_execP384Verify {s t : State} (x0 : CmdRef) (q : execP384Verify x0 s = .next t) : Goes s t := by
  unfold execP384Verify at q
  refine goes_ok ?_ q
  try simp (maxDischargeDepth := 30) +contextual -implicitDefEqProofs
theorem goes_execP384Agree {s t : State} (x0 : CmdRef) (q : execP384Agree x0 s = .next t) : Goes s t := by
  unfold execP384Agree at q
  refine goes_ok ?_ q
  try simp (maxDischargeDepth := 30) +contextual -implicitDefEqProofs
theorem goes_execMlkemEncaps {s t : State} (x0 : CmdRef) (q : execMlkemEncaps x0 s = .next t) : Goes s t := by
  unfold execMlkemEncaps at q
  refine goes_ok ?_ q
  try simp (maxDischargeDepth := 30) +contextual -implicitDefEqProofs
theorem goes_execMlkemDecaps {s t : State} (x0 : CmdRef) (q : execMlkemDecaps x0 s = .next t) : Goes s t := by
  unfold execMlkemDecaps at q
  refine goes_ok ?_ q
  try simp (maxDischargeDepth := 30) +contextual -implicitDefEqProofs
theorem goes_execMldsaSign {s t : State} (x0 : CmdRef) (q : execMldsaSign x0 s = .next t) : Goes s t := by
  unfold execMldsaSign at q
  refine goes_ok ?_ q
  try simp (maxDischargeDepth := 30) +contextual -implicitDefEqProofs
theorem goes_execMldsaVerify {s t : State} (x0 : CmdRef) (q : execMldsaVerify x0 s = .next t) : Goes s t := by
  unfold execMldsaVerify at q
  refine goes_ok ?_ q
  try simp (maxDischargeDepth := 30) +contextual -implicitDefEqProofs
theorem goes_execLuNtt {s t : State} (x0 : CmdRef) (q : execLuNtt x0 s = .next t) : Goes s t := by
  unfold execLuNtt at q
  refine goes_ok ?_ q
  try simp (maxDischargeDepth := 30) +contextual -implicitDefEqProofs
theorem goes_execLuIntt {s t : State} (x0 : CmdRef) (q : execLuIntt x0 s = .next t) : Goes s t := by
  unfold execLuIntt at q
  refine goes_ok ?_ q
  try simp (maxDischargeDepth := 30) +contextual -implicitDefEqProofs
theorem goes_execLuPwmul {s t : State} (x0 : CmdRef) (q : execLuPwmul x0 s = .next t) : Goes s t := by
  unfold execLuPwmul at q
  refine goes_ok ?_ q
  try simp (maxDischargeDepth := 30) +contextual -implicitDefEqProofs
theorem goes_execLuSample {s t : State} (x0 : CmdRef) (q : execLuSample x0 s = .next t) : Goes s t := by
  unfold execLuSample at q
  refine goes_ok ?_ q
  try simp (maxDischargeDepth := 30) +contextual -implicitDefEqProofs
theorem goes_execLuCompress {s t : State} (x0 : CmdRef) (q : execLuCompress x0 s = .next t) : Goes s t := by
  unfold execLuCompress at q
  refine goes_ok ?_ q
  try simp (maxDischargeDepth := 30) +contextual -implicitDefEqProofs

end Sys2Proof.Machine
end

