-- ==== Sys2Proof/Laws/GoesKeeperRegs.lean ====
section
/-!
SUPPORT. What the operations of Machine/KeeperRegs.lean keep (Laws/Goes.lean).
-/

namespace Sys2Proof.Machine

@[simp] theorem goes_keeperWrite {r s : State} (x0 : HartId) (x1 : Nat) (x2 : State → State) (hx2 : ∀ t, Goes t (x2 t))
    (h : Goes r s) : Goes r (keeperWrite x0 x1 x2 s) := by
  refine h.trans ?_
  have kx2 : ∀ r t, Goes r t → Goes r (x2 t) := fun _ t h => h.trans (hx2 t)
  unfold keeperWrite
  try simp (maxDischargeDepth := 30) +contextual -implicitDefEqProofs [kx2]
@[simp] theorem goes_makeKey {r s : State} (x0 : Nat) (h : Goes r s) : Goes r (makeKey x0 s) := by
  refine h.trans ?_
  unfold makeKey
  try simp (maxDischargeDepth := 30) +contextual -implicitDefEqProofs
  all_goals repeat' (split <;> try simp (maxDischargeDepth := 30) +contextual -implicitDefEqProofs)
@[simp] theorem goes_buildEnclave {r s : State} (x0 : Nat) (h : Goes r s) : Goes r (buildEnclave x0 s) := by
  refine h.trans ?_
  unfold buildEnclave
  try simp (maxDischargeDepth := 30) +contextual -implicitDefEqProofs
  all_goals repeat' (split <;> try simp (maxDischargeDepth := 30) +contextual -implicitDefEqProofs)
@[simp] theorem goes_sealEnclave {r s : State} (x0 : Nat) (h : Goes r s) : Goes r (sealEnclave x0 s) := by
  refine h.trans ?_
  unfold sealEnclave
  try simp (maxDischargeDepth := 30) +contextual -implicitDefEqProofs
@[simp] theorem goes_releaseRange {r s : State} (x0 : RangeEntry) (h : Goes r s) : Goes r (releaseRange x0 s) := by
  refine h.trans ?_
  unfold releaseRange
  try simp (maxDischargeDepth := 30) +contextual -implicitDefEqProofs
  all_goals repeat' (split <;> try simp (maxDischargeDepth := 30) +contextual -implicitDefEqProofs)
@[simp] theorem goes_acquireRange {r s : State} (x0 : RangeEntry) (h : Goes r s) : Goes r (acquireRange x0 s) := by
  refine h.trans ?_
  unfold acquireRange
  try simp (maxDischargeDepth := 30) +contextual -implicitDefEqProofs
  all_goals repeat' (split <;> try simp (maxDischargeDepth := 30) +contextual -implicitDefEqProofs)
@[simp] theorem goes_destroyEnclave {r s : State} (x0 : Nat) (h : Goes r s) : Goes r (destroyEnclave x0 s) := by
  refine h.trans ?_
  unfold destroyEnclave
  try simp (maxDischargeDepth := 30) +contextual -implicitDefEqProofs
@[simp] theorem goes_destroyCommand {r s : State} (x0 : Nat) (h : Goes r s) : Goes r (destroyCommand x0 s) := by
  refine h.trans ?_
  unfold destroyCommand
  try simp (maxDischargeDepth := 30) +contextual -implicitDefEqProofs
  all_goals repeat' (split <;> try simp (maxDischargeDepth := 30) +contextual -implicitDefEqProofs)
@[simp] theorem goes_rangeWrite {r s : State} (x0 : Nat) (x1 : W64) (x2 : W64)
    (h : Goes r s) : Goes r (rangeWrite x0 x1 x2 s) := by
  refine h.trans ?_
  unfold rangeWrite
  simp only
  repeat' split
  all_goals first
    | exact goes_refl _
    | simp (maxDischargeDepth := 30)
@[simp] theorem goes_requestHandover {r s : State} (x0 : W32) (h : Goes r s) : Goes r (requestHandover x0 s) := by
  refine h.trans ?_
  unfold requestHandover
  try simp (maxDischargeDepth := 30) +contextual -implicitDefEqProofs
@[simp] theorem goes_resetUnit {r s : State} (x0 : Nat) (h : Goes r s) : Goes r (resetUnit x0 s) := by
  refine h.trans ?_
  unfold resetUnit
  try simp (maxDischargeDepth := 30) +contextual -implicitDefEqProofs
  all_goals repeat' (split <;> try simp (maxDischargeDepth := 30) +contextual -implicitDefEqProofs)
@[simp] theorem goes_resetChannel {r s : State} (x0 : Nat) (h : Goes r s) : Goes r (resetChannel x0 s) := by
  refine h.trans ?_
  unfold resetChannel
  try simp (maxDischargeDepth := 30) +contextual -implicitDefEqProofs
@[simp] theorem goes_blockReset {r s : State} (x0 : Nat) (h : Goes r s) : Goes r (blockReset x0 s) := by
  refine h.trans ?_
  unfold blockReset
  try simp (maxDischargeDepth := 30) +contextual -implicitDefEqProofs
@[simp] theorem goes_handoverBlock {r s : State} (x0 : Nat) (h : Goes r s) : Goes r (handoverBlock x0 s) := by
  refine h.trans ?_
  unfold handoverBlock
  try simp (maxDischargeDepth := 30) +contextual -implicitDefEqProofs
  all_goals repeat' (split <;> try simp (maxDischargeDepth := 30) +contextual -implicitDefEqProofs)
theorem goes_execHandoverBlockReset {s t : State} (x0 : Fin 16)
    (q : execHandoverBlockReset x0 s = .next t) : Goes s t := by
  unfold execHandoverBlockReset at q
  refine goes_ok ?_ q
  try simp (maxDischargeDepth := 30) +contextual -implicitDefEqProofs
@[simp] theorem goes_wdKick {r s : State} (x0 : W32) (h : Goes r s) : Goes r (wdKick x0 s) := by
  refine h.trans ?_
  unfold wdKick
  try simp (maxDischargeDepth := 30) +contextual -implicitDefEqProofs
theorem goes_execWatchdogPreExpiry {s t : State} (q : execWatchdogPreExpiry s = .next t) : Goes s t := by
  unfold execWatchdogPreExpiry at q
  simp only [Host.Outcome.next.injEq] at q
  subst q
  try simp (maxDischargeDepth := 30) +contextual -implicitDefEqProofs
@[simp] theorem goes_vlogPop {r s : State} (x0 : W32) (h : Goes r s) : Goes r (vlogPop x0 s) := by
  refine h.trans ?_
  unfold vlogPop
  try simp (maxDischargeDepth := 30) +contextual -implicitDefEqProofs
@[simp] theorem goes_gateWrite {r s : State} (x0 : Requester) (x1 : W32)
    (h : Goes r s) : Goes r (gateWrite x0 x1 s) := by
  refine h.trans ?_
  unfold gateWrite
  try simp (maxDischargeDepth := 30) +contextual -implicitDefEqProofs
@[simp] theorem goes_gateNow {r s : State} (x0 : Nat) (h : Goes r s) : Goes r (gateNow x0 s) := by
  refine h.trans ?_
  unfold gateNow
  try simp (maxDischargeDepth := 30) +contextual -implicitDefEqProofs
theorem goes_execGateTakesEffect {s t : State} (x0 : Fin 16) (q : execGateTakesEffect x0 s = .next t) : Goes s t := by
  unfold execGateTakesEffect at q
  refine goes_ok ?_ q
  try simp (maxDischargeDepth := 30) +contextual -implicitDefEqProofs
@[simp] theorem goes_hintWrite {r s : State} (x0 : W32) (h : Goes r s) : Goes r (hintWrite x0 s) := by
  refine h.trans ?_
  unfold hintWrite
  try simp (maxDischargeDepth := 30) +contextual -implicitDefEqProofs
theorem goes_execIdleHintUngate {s t : State} (x0 : Fin 22) (q : execIdleHintUngate x0 s = .next t) : Goes s t := by
  unfold execIdleHintUngate at q
  simp only [Host.Outcome.next.injEq] at q
  subst q
  try simp (maxDischargeDepth := 30) +contextual -implicitDefEqProofs

end Sys2Proof.Machine
end

