-- ==== Sys2Proof/Laws/GoesTrouble.lean ====
section
/-!
SUPPORT. What the operations of Machine/Trouble.lean keep (Laws/Goes.lean).
-/

namespace Sys2Proof.Machine

@[simp] theorem goes_TroubleReg_put {r s : State} (x0 : Nat) (x2 : TroubleReg)
    (h : Goes r s) : Goes r (TroubleReg.put x0 s x2) := by
  refine h.trans ?_
  unfold TroubleReg.put
  try simp (maxDischargeDepth := 30) +contextual -implicitDefEqProofs
  all_goals repeat' (split <;> try simp (maxDischargeDepth := 30) +contextual -implicitDefEqProofs)
@[simp] theorem goes_TroubleReg_clear {r s : State} (x0 : W32) (x2 : TroubleReg)
    (h : Goes r s) : Goes r (TroubleReg.clear x0 s x2) := by
  refine h.trans ?_
  unfold TroubleReg.clear
  try simp (maxDischargeDepth := 30) +contextual -implicitDefEqProofs
@[simp] theorem goes_carryTrouble {r s : State} (h : Goes r s) : Goes r (carryTrouble s) := by
  refine h.trans ?_
  unfold carryTrouble
  try simp (maxDischargeDepth := 30) +contextual -implicitDefEqProofs
@[simp] theorem goes_restorePair {r s : State} (x0 : Nat × Nat) (h : Goes r s) : Goes r (restorePair x0 s).1 := by
  refine h.trans ?_
  unfold restorePair
  try simp (maxDischargeDepth := 30) +contextual -implicitDefEqProofs
  all_goals repeat' (split <;> try simp (maxDischargeDepth := 30) +contextual -implicitDefEqProofs)
@[simp] theorem goes_restoreTrouble {r s : State} (h : Goes r s) : Goes r (restoreTrouble s) := by
  refine h.trans ?_
  unfold restoreTrouble
  try simp (maxDischargeDepth := 30) +contextual -implicitDefEqProofs

end Sys2Proof.Machine
end

