-- ==== Sys2Proof/Laws/GoesCycleTime.lean ====
section
/-!
SUPPORT. What the operations of Machine/CycleTime.lean keep (Laws/Goes.lean).
-/

namespace Sys2Proof.Machine

@[simp] theorem goes_measurementClock {r s : State} (h : Goes r s) : Goes r (measurementClock s) := by
  refine h.trans ?_
  unfold measurementClock
  try simp (maxDischargeDepth := 30) +contextual -implicitDefEqProofs
@[simp] theorem goes_tcbFrame_stepWindows {r s t : State} (h : Goes r t) : Goes r (tcbFrame.stepWindows s t) := by
  unfold tcbFrame.stepWindows
  exact goes_onSd h (fun w => rises_map w) id
@[simp] theorem goes_tcbFrame {r s : State} (x0 : TcbFrame) (h : Goes r s) : Goes r (tcbFrame x0 s) := by
  refine h.trans ?_
  unfold tcbFrame
  split
  · simp
  · split
    · refine goes_noteWindows _ ?_
      split <;> simp (maxDischargeDepth := 30)
    · simp (maxDischargeDepth := 30)
theorem goes_execTcbFrame {s t : State} (x0 : TcbFrame) (q : execTcbFrame x0 s = .next t) : Goes s t := by
  unfold execTcbFrame at q
  refine goes_ok ?_ q
  try simp (maxDischargeDepth := 30) +contextual -implicitDefEqProofs
theorem goes_execTcbCoastLimit {s t : State} (q : execTcbCoastLimit s = .next t) : Goes s t := by
  unfold execTcbCoastLimit at q
  refine goes_ok ?_ q
  try simp (maxDischargeDepth := 30) +contextual -implicitDefEqProofs
theorem goes_execTcbAlignmentChange {s t : State} (x0 : Bool) (x1 : Bool)
    (q : execTcbAlignmentChange x0 x1 s = .next t) : Goes s t := by
  unfold execTcbAlignmentChange at q
  simp only [Host.Outcome.next.injEq] at q
  subst q
  try simp (maxDischargeDepth := 30) +contextual -implicitDefEqProofs
theorem goes_execTcbRefToleranceChange {s t : State} (x0 : Bool)
    (q : execTcbRefToleranceChange x0 s = .next t) : Goes s t := by
  unfold execTcbRefToleranceChange at q
  refine goes_ok ?_ q
  try simp (maxDischargeDepth := 30) +contextual -implicitDefEqProofs
@[simp] theorem goes_setTimer {r s : State} (x0 : HartId) (x1 : TimerKind)
    (h : Goes r s) : Goes r (setTimer x0 x1 s) := by
  refine h.trans ?_
  unfold setTimer
  try simp (maxDischargeDepth := 30) +contextual -implicitDefEqProofs
  all_goals repeat' (split <;> try simp (maxDischargeDepth := 30) +contextual -implicitDefEqProofs)
theorem goes_execTimerInterrupt {s t : State} (x0 : HartId) (x1 : TimerKind)
    (q : execTimerInterrupt x0 x1 s = .next t) : Goes s t := by
  unfold execTimerInterrupt at q
  simp only [Host.Outcome.next.injEq] at q
  subst q
  try simp (maxDischargeDepth := 30) +contextual -implicitDefEqProofs
@[simp] theorem goes_onAlarm {r s : State} (x1 : Nat) (x2 : Fin 4) (x3 : Alarm → Alarm)
    (h : Goes r s) : Goes r (State.onAlarm s x1 x2 x3) := by
  refine h.trans ?_
  unfold State.onAlarm
  try simp (maxDischargeDepth := 30) +contextual -implicitDefEqProofs
@[simp] theorem goes_fireAlarm {r s : State} (x0 : Nat) (x1 : Fin 4) (h : Goes r s) : Goes r (fireAlarm x0 x1 s) := by
  refine h.trans ?_
  unfold fireAlarm
  try simp (maxDischargeDepth := 30) +contextual -implicitDefEqProofs
theorem goes_execAlarmFire {s t : State} (x0 : FnId) (x1 : Fin 4)
    (q : execAlarmFire x0 x1 s = .next t) : Goes s t := by
  unfold execAlarmFire at q
  simp only [Host.Outcome.next.injEq] at q
  subst q
  try simp (maxDischargeDepth := 30) +contextual -implicitDefEqProofs
@[simp] theorem goes_onOwnAlarm {r s : State} (x0 : Requester) (x1 : Fin 4) (x2 : Nat) (x3 : Alarm → Alarm)
    (h : Goes r s) : Goes r (onOwnAlarm x0 x1 x2 x3 s) := by
  refine h.trans ?_
  unfold onOwnAlarm
  try simp (maxDischargeDepth := 30) +contextual -implicitDefEqProofs
  all_goals repeat' (split <;> try simp (maxDischargeDepth := 30) +contextual -implicitDefEqProofs)

end Sys2Proof.Machine
end

