-- ==== Sys2Proof/Laws/GoesFunctions.lean ====
section
/-!
SUPPORT. What the operations of Machine/Functions.lean keep (Laws/Goes.lean).
-/

namespace Sys2Proof.Machine

@[simp] theorem goes_resetConfig {r s : State} (x0 : Nat) (h : Goes r s) : Goes r (resetConfig x0 s) := by
  refine h.trans ?_
  unfold resetConfig
  try simp (maxDischargeDepth := 30) +contextual -implicitDefEqProofs
@[simp] theorem goes_clearAlarms {r s : State} (x0 : Nat) (h : Goes r s) : Goes r (clearAlarms x0 s) := by
  refine h.trans ?_
  unfold clearAlarms
  try simp (maxDischargeDepth := 30) +contextual -implicitDefEqProofs
@[simp] theorem goes_resetDomain {r s : State} (x0 : Nat) (h : Goes r s) : Goes r (resetDomain x0 s) := by
  refine h.trans ?_
  unfold resetDomain
  try simp (maxDischargeDepth := 30) +contextual -implicitDefEqProofs
@[simp] theorem goes_functionReset {r s : State} (x0 : Nat) (h : Goes r s) : Goes r (functionReset x0 s) := by
  refine h.trans ?_
  unfold functionReset
  try simp (maxDischargeDepth := 30) +contextual -implicitDefEqProofs
@[simp] theorem goes_toDisabled {r s : State} (x0 : Nat) (h : Goes r s) : Goes r (toDisabled x0 s) := by
  refine h.trans ?_
  unfold toDisabled
  try simp (maxDischargeDepth := 30) +contextual -implicitDefEqProofs
@[simp] theorem goes_leaveActive {r s : State} (x0 : Nat) (x1 : MoorCause)
    (h : Goes r s) : Goes r (leaveActive x0 x1 s) := by
  refine h.trans ?_
  unfold leaveActive
  try simp (maxDischargeDepth := 30) +contextual -implicitDefEqProofs
@[simp] theorem goes_configRequest {r s : State} (x0 : Nat) (x1 : ConfigOp)
    (h : Goes r s) : Goes r (configRequest x0 x1 s) := by
  refine h.trans ?_
  unfold configRequest
  try simp (maxDischargeDepth := 30) +contextual -implicitDefEqProofs
  all_goals repeat' (split <;> try simp (maxDischargeDepth := 30) +contextual -implicitDefEqProofs)
theorem goes_execConfigRequest {s t : State} (x0 : FnId) (x1 : ConfigOp)
    (q : execConfigRequest x0 x1 s = .next t) : Goes s t := by
  unfold execConfigRequest at q
  simp only [Host.Outcome.next.injEq] at q
  subst q
  try simp (maxDischargeDepth := 30) +contextual -implicitDefEqProofs
@[simp] theorem goes_deliverPending {r s : State} (x0 : Nat) (x1 : Nat)
    (h : Goes r s) : Goes r (deliverPending x0 x1 s) := by
  refine h.trans ?_
  unfold deliverPending
  try simp (maxDischargeDepth := 30) +contextual -implicitDefEqProofs
theorem goes_execMsixDeliverPending {s t : State} (x0 : FnId) (x1 : Nat)
    (q : execMsixDeliverPending x0 x1 s = .next t) : Goes s t := by
  unfold execMsixDeliverPending at q
  simp only [Host.Outcome.next.injEq] at q
  subst q
  try simp (maxDischargeDepth := 30) +contextual -implicitDefEqProofs
theorem goes_execHostAccessResume {s t : State} (x0 : FnId) (q : execHostAccessResume x0 s = .next t) : Goes s t := by
  unfold execHostAccessResume at q
  simp only [Host.Outcome.next.injEq] at q
  subst q
  try simp (maxDischargeDepth := 30) +contextual -implicitDefEqProofs
@[simp] theorem goes_hostReadCompletion {r s : State} (x0 : HostRead)
    (h : Goes r s) : Goes r (hostReadCompletion x0 s) := by
  refine h.trans ?_
  unfold hostReadCompletion
  try simp (maxDischargeDepth := 30) +contextual -implicitDefEqProofs
  all_goals repeat' (split <;> try simp (maxDischargeDepth := 30) +contextual -implicitDefEqProofs)
theorem goes_execHostReadCompletion {s t : State} (x0 : HostRead)
    (q : execHostReadCompletion x0 s = .next t) : Goes s t := by
  unfold execHostReadCompletion at q
  refine goes_ok ?_ q
  try simp (maxDischargeDepth := 30) +contextual -implicitDefEqProofs
@[simp] theorem goes_notifyPf {r s : State} (h : Goes r s) : Goes r (notifyPf s) := by
  refine h.trans ?_
  unfold notifyPf
  try simp (maxDischargeDepth := 30) +contextual -implicitDefEqProofs
@[simp] theorem goes_notifyVf {r s : State} (x0 : Nat) (h : Goes r s) : Goes r (notifyVf x0 s) := by
  refine h.trans ?_
  unfold notifyVf
  try simp (maxDischargeDepth := 30) +contextual -implicitDefEqProofs
@[simp] theorem goes_mbxSend {r s : State} (x0 : Nat) (x1 : Bool) (h : Goes r s) : Goes r (mbxSend x0 x1 s) := by
  refine h.trans ?_
  unfold mbxSend
  try simp (maxDischargeDepth := 30) +contextual -implicitDefEqProofs
@[simp] theorem goes_mbxAck {r s : State} (x0 : Nat) (x1 : Bool) (h : Goes r s) : Goes r (mbxAck x0 x1 s) := by
  refine h.trans ?_
  unfold mbxAck
  try simp (maxDischargeDepth := 30) +contextual -implicitDefEqProofs
theorem goes_execMbxVfSend {s t : State} (x0 : FnId) (q : execMbxVfSend x0 s = .next t) : Goes s t := by
  unfold execMbxVfSend at q
  simp only [Host.Outcome.next.injEq] at q
  subst q
  try simp (maxDischargeDepth := 30) +contextual -implicitDefEqProofs
theorem goes_execMbxVfAck {s t : State} (x0 : FnId) (q : execMbxVfAck x0 s = .next t) : Goes s t := by
  unfold execMbxVfAck at q
  simp only [Host.Outcome.next.injEq] at q
  subst q
  try simp (maxDischargeDepth := 30) +contextual -implicitDefEqProofs
@[simp] theorem goes_mbxWrite {r s : State} (x0 : Nat) (x1 : Bool) (x2 : Fin 16) (x3 : Part) (x4 : W64)
    (h : Goes r s) : Goes r (mbxWrite x0 x1 x2 x3 x4 s) := by
  refine h.trans ?_
  unfold mbxWrite
  simp only
  repeat' split
  all_goals first
    | exact goes_refl _
    | simp (maxDischargeDepth := 30)
@[simp] theorem goes_configWrite {r s : State} (x0 : Nat) (x1 : State → State) (hx1 : ∀ t, Goes t (x1 t))
    (h : Goes r s) : Goes r (configWrite x0 x1 s) := by
  refine h.trans ?_
  have kx1 : ∀ r t, Goes r t → Goes r (x1 t) := fun _ t h => h.trans (hx1 t)
  unfold configWrite
  try simp (maxDischargeDepth := 30) +contextual -implicitDefEqProofs [kx1]
  all_goals repeat' (split <;> try simp (maxDischargeDepth := 30) +contextual -implicitDefEqProofs [kx1])
@[simp] theorem goes_vfEnableWrite {r s : State} (x0 : Bool) (h : Goes r s) : Goes r (vfEnableWrite x0 s) := by
  refine h.trans ?_
  unfold vfEnableWrite
  try simp (maxDischargeDepth := 30) +contextual -implicitDefEqProofs
theorem goes_execVfEnableWrite {s t : State} (x0 : Bool) (q : execVfEnableWrite x0 s = .next t) : Goes s t := by
  unfold execVfEnableWrite at q
  refine goes_ok ?_ q
  try simp (maxDischargeDepth := 30) +contextual -implicitDefEqProofs
@[simp] theorem goes_numVfsWrite {r s : State} (x0 : Nat) (h : Goes r s) : Goes r (numVfsWrite x0 s) := by
  refine h.trans ?_
  unfold numVfsWrite
  try simp (maxDischargeDepth := 30) +contextual -implicitDefEqProofs
theorem goes_execNumvfsWrite {s t : State} (x0 : BitVec 16) (q : execNumvfsWrite x0 s = .next t) : Goes s t := by
  unfold execNumvfsWrite at q
  refine goes_ok ?_ q
  try simp (maxDischargeDepth := 30) +contextual -implicitDefEqProofs
@[simp] theorem goes_vfFlr {r s : State} (x0 : Nat) (h : Goes r s) : Goes r (vfFlr x0 s) := by
  refine h.trans ?_
  unfold vfFlr
  try simp (maxDischargeDepth := 30) +contextual -implicitDefEqProofs
theorem goes_execVfFlr {s t : State} (x0 : FnId) (q : execVfFlr x0 s = .next t) : Goes s t := by
  unfold execVfFlr at q
  refine goes_ok ?_ q
  try simp (maxDischargeDepth := 30) +contextual -implicitDefEqProofs
@[simp] theorem goes_vfFlrComplete {r s : State} (x0 : Nat) (h : Goes r s) : Goes r (vfFlrComplete x0 s) := by
  refine h.trans ?_
  unfold vfFlrComplete
  try simp (maxDischargeDepth := 30) +contextual -implicitDefEqProofs
theorem goes_execVfFlrComplete {s t : State} (x0 : FnId) (q : execVfFlrComplete x0 s = .next t) : Goes s t := by
  unfold execVfFlrComplete at q
  simp only [Host.Outcome.next.injEq] at q
  subst q
  try simp (maxDischargeDepth := 30) +contextual -implicitDefEqProofs
@[simp] theorem goes_pfFlr {r s : State} (h : Goes r s) : Goes r (pfFlr s) := by
  refine h.trans ?_
  unfold pfFlr
  try simp (maxDischargeDepth := 30) +contextual -implicitDefEqProofs
theorem goes_execPfFlr {s t : State} (q : execPfFlr s = .next t) : Goes s t := by
  unfold execPfFlr at q
  refine goes_ok ?_ q
  try simp (maxDischargeDepth := 30) +contextual -implicitDefEqProofs
@[simp] theorem goes_enterMoored {r s : State} (x0 : Nat) (x1 : MoorCause) (x2 : List Nat)
    (h : Goes r s) : Goes r (enterMoored x0 x1 x2 s) := by
  refine h.trans ?_
  unfold enterMoored
  try simp (maxDischargeDepth := 30) +contextual -implicitDefEqProofs
  all_goals repeat' (split <;> try simp (maxDischargeDepth := 30) +contextual -implicitDefEqProofs)
@[simp] theorem goes_vfMoored {r s : State} (x0 : Nat) (h : Goes r s) : Goes r (vfMoored x0 s) := by
  refine h.trans ?_
  unfold vfMoored
  try simp (maxDischargeDepth := 30) +contextual -implicitDefEqProofs
theorem goes_execVfMoored {s t : State} (x0 : FnId) (q : execVfMoored x0 s = .next t) : Goes s t := by
  unfold execVfMoored at q
  simp only [Host.Outcome.next.injEq] at q
  subst q
  try simp (maxDischargeDepth := 30) +contextual -implicitDefEqProofs
theorem goes_runWaiting {s : State} (x0 : CmdRef) (x1 : Line → Bool) (x2 x3 : Nat) (x4 : Cmd → State → Option Result)
    (x5 : Cmd → State → State) (x6 : Cmd → RingIdent → State → Option (State × Result)) (hx5 : ∀ k t, Goes t (x5 k t))
    (hx6 : ∀ k i t p, x6 k i t = some p → Goes t p.1) : Goes s (runWaiting x0 x1 x2 x3 x4 x5 x6 s) := by
  have e : ∀ (k : Cmd) (t : State), Goes t (match x6 k (t.lt.ident x0.ring) t with
      | some (u, r) => finishCmd x0.ring k.seq r u
      | none => t) := by
    intro k t
    split
    · exact goes_finishCmd _ _ _ (hx6 _ _ _ _ ‹_›)
    · exact goes_refl t
  unfold runWaiting
  simp only
  split
  · exact goes_refl s
  · split
    · exact e _ _
    · refine goes_runCommand _ _ _ _ _ (fun k t => ?_) (goes_refl s)
      split
      · exact goes_finishCmd _ _ _ (goes_refl t)
      · exact (hx5 k t).trans (e _ _)
theorem goes_execCustodyWait {s t : State} (x0 : CmdRef) (q : execCustodyWait x0 s = .next t) : Goes s t := by
  unfold execCustodyWait at q
  refine goes_ok (goes_runWaiting _ _ _ _ _ _ _ (fun _ t => goes_refl t) ?_) q
  intro k i t p e
  split at e
  · cases e
  · cases e
    simp
theorem goes_execVfQuiesce {s t : State} (x0 : CmdRef) (q : execVfQuiesce x0 s = .next t) : Goes s t := by
  unfold execVfQuiesce at q
  refine goes_ok ?_ q
  split
  · refine goes_runWaiting _ _ _ _ _ _ _ (fun _ t => goes_onFn (goes_refl t)) ?_
    intro k i t p e
    split at e
    · cases e
      exact goes_refl t
    · cases e
  · exact goes_refl s
@[simp] theorem goes_disposeRelease {r s : State} (x0 : Nat) (h : Goes r s) : Goes r (disposeRelease x0 s).1 := by
  refine h.trans ?_
  unfold disposeRelease
  try simp (maxDischargeDepth := 30) +contextual -implicitDefEqProofs
theorem goes_execVfDisposeRelease {s t : State} (x0 : CmdRef)
    (q : execVfDisposeRelease x0 s = .next t) : Goes s t := by
  unfold execVfDisposeRelease at q
  refine goes_ok ?_ q
  try simp (maxDischargeDepth := 30) +contextual -implicitDefEqProofs
@[simp] theorem goes_restartIdentity {r s : State} (x0 : Nat) (h : Goes r s) : Goes r (restartIdentity x0 s) := by
  refine h.trans ?_
  unfold restartIdentity
  try simp (maxDischargeDepth := 30) +contextual -implicitDefEqProofs
@[simp] theorem goes_disposeRing {r s : State} (x0 : Nat) (h : Goes r s) : Goes r (disposeRing x0 s) := by
  refine h.trans ?_
  unfold disposeRing
  try simp (maxDischargeDepth := 30) +contextual -implicitDefEqProofs
@[simp] theorem goes_leaveCustody {r s : State} (x0 : Nat) (h : Goes r s) : Goes r (leaveCustody x0 s) := by
  refine h.trans ?_
  unfold leaveCustody
  try simp (maxDischargeDepth := 30) +contextual -implicitDefEqProofs
@[simp] theorem goes_disposeReset {r s : State} (x0 : RingIdent) (x1 : Nat) (x2 : Nat × Nat)
    (h : Goes r s) : Goes r (disposeReset x0 x1 x2 s).1 := by
  refine h.trans ?_
  unfold disposeReset
  try simp (maxDischargeDepth := 30) +contextual -implicitDefEqProofs
theorem goes_execVfDisposeReset {s t : State} (x0 : CmdRef) (q : execVfDisposeReset x0 s = .next t) : Goes s t := by
  unfold execVfDisposeReset at q
  refine goes_ok ?_ q
  try simp (maxDischargeDepth := 30) +contextual -implicitDefEqProofs
@[simp] theorem goes_dirtySwitch {r s : State} (x0 : Nat) (h : Goes r s) : Goes r (dirtySwitch x0 s) := by
  refine h.trans ?_
  unfold dirtySwitch
  try simp (maxDischargeDepth := 30) +contextual -implicitDefEqProofs
@[simp] theorem goes_dirtyBase {r s : State} (x0 : Nat) (x1 : Bool) (x2 : Part) (x3 : W64)
    (h : Goes r s) : Goes r (dirtyBase x0 x1 x2 x3 s) := by
  refine h.trans ?_
  unfold dirtyBase
  try simp (maxDischargeDepth := 30) +contextual -implicitDefEqProofs

end Sys2Proof.Machine
end

