-- ==== Sys2Proof/Laws/GoesResets.lean ====
section
/-!
SUPPORT. What the operations of Machine/Resets.lean keep (Laws/Goes.lean).
-/

namespace Sys2Proof.Machine

@[simp] theorem rises_keepTab {α : Type} [DecidableEq α] {d : α} {f : α → α} {t : Tab α} : rises (keepTab d f t) = true :=
  rises_foldl (fun _ _ h => rises_tset h) rfl
@[simp] theorem goes_keepResults {r s : State} (h : Goes r s) : Goes r (keepResults s) := by
  refine h.trans ?_
  unfold keepResults
  try simp (maxDischargeDepth := 30) +contextual -implicitDefEqProofs
@[simp] theorem goes_dropChainTransfer {r s : State} (h : Goes r s) : Goes r (dropChainTransfer s) := by
  refine h.trans ?_
  unfold dropChainTransfer
  try simp (maxDischargeDepth := 30) +contextual -implicitDefEqProofs
@[simp] theorem goes_haltWork {r s : State} (h : Goes r s) : Goes r (haltWork s) := by
  refine h.trans ?_
  unfold haltWork
  try simp (maxDischargeDepth := 30) +contextual -implicitDefEqProofs
@[simp] theorem goes_failsafeTrips {r s : State} (x0 : Nat) (h : Goes r s) : Goes r (failsafeTrips x0 s) := by
  refine h.trans ?_
  unfold failsafeTrips
  try simp (maxDischargeDepth := 30) +contextual -implicitDefEqProofs
@[simp] theorem goes_endpointReset {r s : State} (h : Goes r s) : Goes r (endpointReset s) := by
  refine h.trans ?_
  unfold endpointReset
  try simp (maxDischargeDepth := 30) +contextual -implicitDefEqProofs
@[simp] theorem goes_linkDown {r s : State} (h : Goes r s) : Goes r (linkDown s) := by
  refine h.trans ?_
  unfold linkDown
  try simp (maxDischargeDepth := 30) +contextual -implicitDefEqProofs
@[simp] theorem goes_endpointEvent {r s : State} (h : Goes r s) : Goes r (endpointEvent s) := by
  refine h.trans ?_
  unfold endpointEvent
  try simp (maxDischargeDepth := 30) +contextual -implicitDefEqProofs
theorem goes_execPerstAssertion {s t : State} (q : execPerstAssertion s = .next t) : Goes s t := by
  unfold execPerstAssertion at q
  simp only [Host.Outcome.next.injEq] at q
  subst q
  try simp (maxDischargeDepth := 30) +contextual -implicitDefEqProofs
theorem goes_execHotReset {s t : State} (q : execHotReset s = .next t) : Goes s t := by
  unfold execHotReset at q
  simp only [Host.Outcome.next.injEq] at q
  subst q
  try simp (maxDischargeDepth := 30) +contextual -implicitDefEqProofs
theorem goes_execLinkLoss {s t : State} (q : execLinkLoss s = .next t) : Goes s t := by
  unfold execLinkLoss at q
  simp only [Host.Outcome.next.injEq] at q
  subst q
  try simp (maxDischargeDepth := 30) +contextual -implicitDefEqProofs
theorem goes_execPerstDeassertion {s t : State} (q : execPerstDeassertion s = .next t) : Goes s t := by
  unfold execPerstDeassertion at q
  simp only [Host.Outcome.next.injEq] at q
  subst q
  try simp (maxDischargeDepth := 30) +contextual -implicitDefEqProofs
  all_goals repeat' (split <;> try simp (maxDischargeDepth := 30) +contextual -implicitDefEqProofs)
theorem goes_execPcieLinkTrained {s t : State} (q : execPcieLinkTrained s = .next t) : Goes s t := by
  unfold execPcieLinkTrained at q
  simp only [Host.Outcome.next.injEq] at q
  subst q
  try simp (maxDischargeDepth := 30) +contextual -implicitDefEqProofs
@[simp] theorem goes_abortSessionRing {r s : State} (x0 : Nat) (h : Goes r s) : Goes r (abortSessionRing x0 s) := by
  refine h.trans ?_
  unfold abortSessionRing
  try simp (maxDischargeDepth := 30) +contextual -implicitDefEqProofs
@[simp] theorem goes_endSession {r s : State} (x0 : Nat) (h : Goes r s) : Goes r (endSession x0 s) := by
  refine h.trans ?_
  unfold endSession
  try simp (maxDischargeDepth := 30) +contextual -implicitDefEqProofs
  all_goals repeat' (split <;> try simp (maxDischargeDepth := 30) +contextual -implicitDefEqProofs)
@[simp] theorem goes_endHandovers {r s : State} (h : Goes r s) : Goes r (endHandovers s) := by
  refine h.trans ?_
  unfold endHandovers
  refine goes_onKp (goes_foldl (fun t b => ?_) (goes_refl s)) id
  repeat' split
  all_goals simp
@[simp] theorem goes_resetCause {r s : State} (x0 : Nat) (h : Goes r s) : Goes r (resetCause x0 s) := by
  refine h.trans ?_
  unfold resetCause
  try simp (maxDischargeDepth := 30) +contextual -implicitDefEqProofs
  all_goals repeat' (split <;> try simp (maxDischargeDepth := 30) +contextual -implicitDefEqProofs)
@[simp] theorem goes_beginModuleReset {r s : State} (x0 : Nat) (h : Goes r s) : Goes r (beginModuleReset x0 s) := by
  refine h.trans ?_
  unfold beginModuleReset
  try simp (maxDischargeDepth := 30) +contextual -implicitDefEqProofs
  all_goals repeat' (split <;> try simp (maxDischargeDepth := 30) +contextual -implicitDefEqProofs)
@[simp] theorem goes_moduleResetWrite {r s : State} (x0 : W32) (h : Goes r s) : Goes r (moduleResetWrite x0 s) := by
  refine h.trans ?_
  unfold moduleResetWrite
  try simp (maxDischargeDepth := 30) +contextual -implicitDefEqProofs
@[simp] theorem goes_startHartReset {r s : State} (x0 : HartId) (h : Goes r s) : Goes r (startHartReset x0 s) := by
  refine h.trans ?_
  unfold startHartReset
  try simp (maxDischargeDepth := 30) +contextual -implicitDefEqProofs
@[simp] theorem goes_hartResetWrite {r s : State} (x0 : W32) (h : Goes r s) : Goes r (hartResetWrite x0 s) := by
  refine h.trans ?_
  unfold hartResetWrite
  try simp (maxDischargeDepth := 30) +contextual -implicitDefEqProofs
@[simp] theorem goes_switchOff {r s : State} (h : Goes r s) : Goes r (switchOff s) := by
  refine h.trans ?_
  have k : Goes s ((s.mu.sessions.map (·.1)).foldl (fun t u => endSession u t) (haltWork s)) :=
    goes_foldl (fun t u => goes_endSession u (goes_refl t)) (goes_haltWork (goes_refl s))
  refine k.trans ?_
  unfold switchOff
  exact { goes_refl _ with
    dram := fun _ => rfl, sram := fun _ => rfl, buf := fun _ => rfl, harts := fun _ => rfl, rings := fun _ => rises_keepTab,
    fns := fun _ => rises_keepTab, doms := fun _ => rfl, encls := fun _ => rfl, lines := fun _ => rfl, slices := fun _ => rfl,
    chans := fun _ => by dsimp only; exact rises_keepTab, sites := fun _ => by dsimp only; exact rises_keepTab, lanes := fun _ => rises_keepTab }

end Sys2Proof.Machine
end

