-- ==== Sys2Proof/Laws/GoesUpdate.lean ====
section
/-!
SUPPORT. What the operations of Machine/Update.lean keep (Laws/Goes.lean).
-/

namespace Sys2Proof.Machine

@[simp] theorem goes_prepareTarget {r s : State} (x0 : Slot) (x1 : Bool) (x2 : Nat)
    (h : Goes r s) : Goes r (prepareTarget x0 x1 x2 s) := by
  refine h.trans ?_
  unfold prepareTarget
  try simp (maxDischargeDepth := 30) +contextual -implicitDefEqProofs
@[simp] theorem goes_openTransfer {r s : State} (x0 : Bool) (x1 : Nat) (x2 : XferSource) (x3 : Nat) (x4 : List Byte) (x5 : Bool)
    (h : Goes r s) : Goes r (openTransfer x0 x1 x2 x3 x4 x5 s).1 := by
  refine h.trans ?_
  unfold openTransfer
  try simp (maxDischargeDepth := 30) +contextual -implicitDefEqProofs
  all_goals repeat' (split <;> try simp (maxDischargeDepth := 30) +contextual -implicitDefEqProofs)
@[simp] theorem goes_programBlock {r s : State} (x0 : Nat) (x1 : List Byte) (x2 : Option (Nat × Nat)) (x3 : Bool)
    (h : Goes r s) : Goes r (programBlock x0 x1 x2 x3 s).1 := by
  refine h.trans ?_
  unfold programBlock
  try simp (maxDischargeDepth := 30) +contextual -implicitDefEqProofs
  all_goals repeat' (split <;> try simp (maxDischargeDepth := 30) +contextual -implicitDefEqProofs)
@[simp] theorem goes_closeTransfer {r s : State} (x0 : Nat) (x1 : List Byte) (x2 : Bool)
    (h : Goes r s) : Goes r (closeTransfer x0 x1 x2 s).1 := by
  refine h.trans ?_
  unfold closeTransfer
  try simp (maxDischargeDepth := 30) +contextual -implicitDefEqProofs
  all_goals repeat' (split <;> try simp (maxDischargeDepth := 30) +contextual -implicitDefEqProofs)
@[simp] theorem goes_activate {r s : State} (x0 : Slot) (h : Goes r s) : Goes r (activate x0 s).1 := by
  refine h.trans ?_
  unfold activate
  try simp (maxDischargeDepth := 30) +contextual -implicitDefEqProofs
  all_goals repeat' (split <;> try simp (maxDischargeDepth := 30) +contextual -implicitDefEqProofs)
@[simp] theorem goes_abortTransfer {r s : State} (h : Goes r s) : Goes r (abortTransfer s).1 := by
  refine h.trans ?_
  unfold abortTransfer
  try simp (maxDischargeDepth := 30) +contextual -implicitDefEqProofs
@[simp] theorem goes_offer {r s : State} (x0 : Forward) (h : Goes r s) : Goes r (offer x0 s) := by
  refine h.trans ?_
  unfold offer
  try simp (maxDischargeDepth := 30) +contextual -implicitDefEqProofs
@[simp] theorem goes_startForward {r s : State} (x0 : Transfer) (h : Goes r s) : Goes r (startForward x0 s) := by
  refine h.trans ?_
  unfold startForward
  try simp (maxDischargeDepth := 30) +contextual -implicitDefEqProofs
@[simp] theorem goes_keepReport {r s : State} (x0 : List Byte) (h : Goes r s) : Goes r (keepReport x0 s) := by
  refine h.trans ?_
  unfold keepReport
  try simp (maxDischargeDepth := 30) +contextual -implicitDefEqProofs
@[simp] theorem goes_giveUp {r s : State} (x0 : Forward) (x1 : Nat) (h : Goes r s) : Goes r (giveUp x0 x1 s) := by
  refine h.trans ?_
  unfold giveUp
  try simp (maxDischargeDepth := 30) +contextual -implicitDefEqProofs
@[simp] theorem goes_updCommand {r s : State} (x0 : CmdRef) (x1 : Nat) (x2 : Cmd →   RingIdent → State → State × Result) (hx2 : ∀ y0 y1 t, Goes t (x2 y0 y1 t).1)
    (h : Goes r s) : Goes r (updCommand x0 x1 x2 s) := by
  refine h.trans ?_
  have kx2 : ∀ r y0 y1 t, Goes r t → Goes r (x2 y0 y1 t).1 := fun _ y0 y1 t h => h.trans (hx2 y0 y1 t)
  unfold updCommand
  try simp (maxDischargeDepth := 30) +contextual -implicitDefEqProofs [kx2]
theorem goes_execUpdOpen {s t : State} (x0 : CmdRef) (x1 : Bool) (q : execUpdOpen x0 x1 s = .next t) : Goes s t := by
  unfold execUpdOpen at q
  refine goes_ok ?_ q
  try simp (maxDischargeDepth := 30) +contextual -implicitDefEqProofs
theorem goes_execUpdBlock {s t : State} (x0 : CmdRef) (x1 : Bool)
    (q : execUpdBlock x0 x1 s = .next t) : Goes s t := by
  unfold execUpdBlock at q
  refine goes_ok ?_ q
  try simp (maxDischargeDepth := 30) +contextual -implicitDefEqProofs
theorem goes_execUpdClose {s t : State} (x0 : CmdRef) (x1 : Bool)
    (q : execUpdClose x0 x1 s = .next t) : Goes s t := by
  unfold execUpdClose at q
  refine goes_ok (goes_updCommand _ _ _ (fun k i t => ?_) (goes_refl s)) q
  simp only
  split
  · exact goes_refl t
  · split
    · simp
    · split
      · split <;> simp (maxDischargeDepth := 30)
      · simp (maxDischargeDepth := 30)
theorem goes_execUpdActivate {s t : State} (x0 : CmdRef) (q : execUpdActivate x0 s = .next t) : Goes s t := by
  unfold execUpdActivate at q
  refine goes_ok ?_ q
  try simp (maxDischargeDepth := 30) +contextual -implicitDefEqProofs
theorem goes_execUpdAbort {s t : State} (x0 : CmdRef) (q : execUpdAbort x0 s = .next t) : Goes s t := by
  unfold execUpdAbort at q
  refine goes_ok ?_ q
  try simp (maxDischargeDepth := 30) +contextual -implicitDefEqProofs
theorem goes_execChainReport {s t : State} (x0 : CmdRef) (q : execChainReport x0 s = .next t) : Goes s t := by
  unfold execChainReport at q
  refine goes_ok ?_ q
  try simp (maxDischargeDepth := 30) +contextual -implicitDefEqProofs
@[simp] theorem goes_confirm {r s : State} (x0 : Option Nat) (h : Goes r s) : Goes r (confirm x0 s) := by
  refine h.trans ?_
  unfold confirm
  try simp (maxDischargeDepth := 30) +contextual -implicitDefEqProofs
  all_goals repeat' (split <;> try simp (maxDischargeDepth := 30) +contextual -implicitDefEqProofs)
@[simp] theorem goes_expireHealth {r s : State} (h : Goes r s) : Goes r (expireHealth s) := by
  refine h.trans ?_
  unfold expireHealth
  try simp (maxDischargeDepth := 30) +contextual -implicitDefEqProofs
theorem goes_execHealthWindowExpiry {s t : State} (q : execHealthWindowExpiry s = .next t) : Goes s t := by
  unfold execHealthWindowExpiry at q
  refine goes_ok ?_ q
  try simp (maxDischargeDepth := 30) +contextual -implicitDefEqProofs
theorem goes_execBcHello {s t : State} (x0 : Port) (x1 : List Block)
    (q : execBcHello x0 x1 s = .next t) : Goes s t := by
  unfold execBcHello at q
  refine goes_ok ?_ q
  try simp (maxDischargeDepth := 30) +contextual -implicitDefEqProofs
  all_goals repeat' (split <;> try simp (maxDischargeDepth := 30) +contextual -implicitDefEqProofs)
@[simp] theorem goes_ownReport {r s : State} (x0 : Nat) (x1 : Result)
    (h : Goes r s) : Goes r (ownReport x0 x1 s) := by
  refine h.trans ?_
  unfold ownReport
  try simp (maxDischargeDepth := 30) +contextual -implicitDefEqProofs
@[simp] theorem goes_answerOffer {r s : State} (x0 : List Byte) (x1 : Bool)
    (h : Goes r s) : Goes r (answerOffer x0 x1 s).1 := by
  refine h.trans ?_
  unfold answerOffer
  simp only
  repeat' split
  all_goals first
    | exact goes_refl _
    | simp (maxDischargeDepth := 30)
@[simp] theorem goes_receiveOffer {r s : State} (x0 : Bool) (x1 : List Byte)
    (h : Goes r s) : Goes r (receiveOffer x0 x1 s) := by
  refine h.trans ?_
  unfold receiveOffer
  try simp (maxDischargeDepth := 30) +contextual -implicitDefEqProofs
theorem goes_execBcOffer {s t : State} (x0 : List Block) (x1 : Bool)
    (q : execBcOffer x0 x1 s = .next t) : Goes s t := by
  unfold execBcOffer at q
  refine goes_ok ?_ q
  try simp (maxDischargeDepth := 30) +contextual -implicitDefEqProofs
  all_goals repeat' (split <;> try simp (maxDischargeDepth := 30) +contextual -implicitDefEqProofs)
@[simp] theorem goes_receiveAnswer {r s : State} (x0 : List Byte) (h : Goes r s) : Goes r (receiveAnswer x0 s) := by
  refine h.trans ?_
  unfold receiveAnswer
  try simp (maxDischargeDepth := 30) +contextual -implicitDefEqProofs
  all_goals repeat' (split <;> try simp (maxDischargeDepth := 30) +contextual -implicitDefEqProofs)
theorem goes_execBcAnswer {s t : State} (x0 : List Block) (q : execBcAnswer x0 s = .next t) : Goes s t := by
  unfold execBcAnswer at q
  refine goes_ok ?_ q
  try simp (maxDischargeDepth := 30) +contextual -implicitDefEqProofs
  all_goals repeat' (split <;> try simp (maxDischargeDepth := 30) +contextual -implicitDefEqProofs)
@[simp] theorem goes_receiveHeader {r s : State} (x0 : List Byte) (h : Goes r s) : Goes r (receiveHeader x0 s) := by
  refine h.trans ?_
  unfold receiveHeader
  try simp (maxDischargeDepth := 30) +contextual -implicitDefEqProofs
theorem goes_execBcBlockHdr {s t : State} (x0 : List Block) (q : execBcBlockHdr x0 s = .next t) : Goes s t := by
  unfold execBcBlockHdr at q
  refine goes_ok ?_ q
  try simp (maxDischargeDepth := 30) +contextual -implicitDefEqProofs
  all_goals repeat' (split <;> try simp (maxDischargeDepth := 30) +contextual -implicitDefEqProofs)
@[simp] theorem goes_endChain {r s : State} (x0 : Nat) (x1 : Result) (h : Goes r s) : Goes r (endChain x0 x1 s) := by
  refine h.trans ?_
  unfold endChain
  try simp (maxDischargeDepth := 30) +contextual -implicitDefEqProofs
@[simp] theorem goes_afterChainClose {r s : State} (x0 : Transfer)
    (h : Goes r s) : Goes r (afterChainClose x0 s) := by
  refine h.trans ?_
  unfold afterChainClose
  have k : Goes s (if (updateFlags s).getLsbD 2 then (activate x0.target s).1 else s) :=
    goes_ite (fun _ => goes_activate _ (goes_refl s)) (fun _ => goes_refl s)
  exact goes_ite (fun _ => goes_startForward _ k) (fun _ => k)
@[simp] theorem goes_blockDone {r s : State} (x0 : Transfer) (x1 : Nat) (x2 : Nat) (x3 : List Byte) (x4 : List Byte) (x5 : Bool)
    (h : Goes r s) : Goes r (blockDone x0 x1 x2 x3 x4 x5 s) := by
  refine h.trans ?_
  unfold blockDone
  try simp (maxDischargeDepth := 30) +contextual -implicitDefEqProofs
@[simp] theorem goes_receiveData {r s : State} (x0 : Bool) (x1 : List Byte)
    (h : Goes r s) : Goes r (receiveData x0 x1 s) := by
  refine h.trans ?_
  unfold receiveData
  try simp (maxDischargeDepth := 30) +contextual -implicitDefEqProofs
  all_goals repeat' (split <;> try simp (maxDischargeDepth := 30) +contextual -implicitDefEqProofs)
theorem goes_execBcBlockData {s t : State} (x0 : List Block) (x1 : Bool)
    (q : execBcBlockData x0 x1 s = .next t) : Goes s t := by
  unfold execBcBlockData at q
  refine goes_ok ?_ q
  try simp (maxDischargeDepth := 30) +contextual -implicitDefEqProofs
  all_goals repeat' (split <;> try simp (maxDischargeDepth := 30) +contextual -implicitDefEqProofs)
theorem goes_execBcResult {s t : State} (x0 : List Block) (q : execBcResult x0 s = .next t) : Goes s t := by
  unfold execBcResult at q
  refine goes_ok ?_ q
  try simp (maxDischargeDepth := 30) +contextual -implicitDefEqProofs
  all_goals repeat' (split <;> try simp (maxDischargeDepth := 30) +contextual -implicitDefEqProofs)
theorem goes_execBcReport {s t : State} (x0 : List Block) (q : execBcReport x0 s = .next t) : Goes s t := by
  unfold execBcReport at q
  refine goes_ok ?_ q
  try simp (maxDischargeDepth := 30) +contextual -implicitDefEqProofs
  all_goals repeat' (split <;> try simp (maxDischargeDepth := 30) +contextual -implicitDefEqProofs)
theorem goes_execBcPortLeavesUp {s t : State} (x0 : Port) (q : execBcPortLeavesUp x0 s = .next t) : Goes s t := by
  unfold execBcPortLeavesUp at q
  refine goes_ok ?_ q
  try simp (maxDischargeDepth := 30) +contextual -implicitDefEqProofs
@[simp] theorem goes_reoffer {r s : State} (h : Goes r s) : Goes r (reoffer s) := by
  refine h.trans ?_
  unfold reoffer
  try simp (maxDischargeDepth := 30) +contextual -implicitDefEqProofs
  all_goals repeat' (split <;> try simp (maxDischargeDepth := 30) +contextual -implicitDefEqProofs)
theorem goes_execBcReofferTimer {s t : State} (q : execBcReofferTimer s = .next t) : Goes s t := by
  unfold execBcReofferTimer at q
  refine goes_ok ?_ q
  try simp (maxDischargeDepth := 30) +contextual -implicitDefEqProofs
@[simp] theorem goes_daymarkOp {r s : State} (x0 : Nat) (x1 : Nat) (x2 : Nat) (x3 : List Byte) (x4 : Bool)
    (h : Goes r s) : Goes r (daymarkOp x0 x1 x2 x3 x4 s).1 := by
  refine h.trans ?_
  unfold daymarkOp
  simp only
  repeat' split
  all_goals first
    | exact goes_refl _
    | simp (maxDischargeDepth := 30)
@[simp] theorem goes_daymarkWrite {r s : State} (x0 : Requester) (x1 : Nat) (x2 : Nat) (x3 : Bool)
    (h : Goes r s) : Goes r (daymarkWrite x0 x1 x2 x3 s) := by
  refine h.trans ?_
  unfold daymarkWrite
  try simp (maxDischargeDepth := 30) +contextual -implicitDefEqProofs
@[simp] theorem goes_uartRequest {r s : State} (x0 : List Byte) (x1 : Bool)
    (h : Goes r s) : Goes r (uartRequest x0 x1 s) := by
  refine h.trans ?_
  unfold uartRequest
  simp only
  repeat' split
  all_goals first
    | exact goes_refl _
    | simp (maxDischargeDepth := 30)
theorem goes_execUartRequest {s t : State} (x0 : List Byte) (x1 : Bool)
    (q : execUartRequest x0 x1 s = .next t) : Goes s t := by
  unfold execUartRequest at q
  refine goes_ok ?_ q
  try simp (maxDischargeDepth := 30) +contextual -implicitDefEqProofs

end Sys2Proof.Machine
end

