-- ==== Sys2Proof/Laws/GoesRegMap.lean ====
section
/-!
SUPPORT. What the operations of Machine/RegMap.lean keep (Laws/Goes.lean).
-/

namespace Sys2Proof.Machine

@[simp] theorem goes_gpioEdges {r s t : State} (h : Goes r t) : Goes r (gpioEdges s t) := by
  unfold gpioEdges
  split
  · exact goes_foldl (fun u i => goes_aplic _ (goes_refl u)) h
  · exact h
@[simp] theorem goes_dropLatch {r s : State} (x0 : Requester) (x1 : Nat)
    (h : Goes r s) : Goes r (dropLatch x0 x1 s) := by
  refine h.trans ?_
  unfold dropLatch
  try simp (maxDischargeDepth := 30) +contextual -implicitDefEqProofs
@[simp] theorem goes_readEffect {r s : State} (x0 : Requester) (x1 : Nat)
    (h : Goes r s) : Goes r (readEffect x0 x1 s) := by
  refine h.trans ?_
  unfold readEffect
  try simp (maxDischargeDepth := 30) +contextual -implicitDefEqProofs
  all_goals repeat' (split <;> try simp (maxDischargeDepth := 30) +contextual -implicitDefEqProofs)
@[simp] theorem goes_read64 {r s : State} (x0 : Requester) (x1 : Nat) (x2 : Nat) (x3 : Part)
    (h : Goes r s) : Goes r (read64 x0 x1 x2 x3 s).1 := by
  refine h.trans ?_
  unfold read64
  try simp (maxDischargeDepth := 30) +contextual -implicitDefEqProofs
  all_goals repeat' (split <;> try simp (maxDischargeDepth := 30) +contextual -implicitDefEqProofs)
@[simp] theorem goes_read32 {r s : State} (x0 : Requester) (x1 : Nat) (h : Goes r s) : Goes r (read32 x0 x1 s).1 := by
  refine h.trans ?_
  unfold read32
  try simp (maxDischargeDepth := 30) +contextual -implicitDefEqProofs
  all_goals repeat' (split <;> try simp (maxDischargeDepth := 30) +contextual -implicitDefEqProofs)
@[simp] theorem goes_regRead {r s : State} (x0 : Requester) (x1 : Nat) (x2 : Part)
    (h : Goes r s) : Goes r (regRead x0 x1 x2 s).1 := by
  refine h.trans ?_
  unfold regRead
  try simp (maxDischargeDepth := 30) +contextual -implicitDefEqProofs
  all_goals repeat' (split <;> try simp (maxDischargeDepth := 30) +contextual -implicitDefEqProofs)
@[simp] theorem goes_ringWrite64 {r s : State} (x0 : Nat) (x1 : Part) (x2 : W64)
    (h : Goes r s) : Goes r (ringWrite64 x0 x1 x2 s) := by
  refine h.trans ?_
  unfold ringWrite64
  try simp (maxDischargeDepth := 30) +contextual -implicitDefEqProofs
  all_goals repeat' (split <;> try simp (maxDischargeDepth := 30) +contextual -implicitDefEqProofs)
@[simp] theorem goes_enclaveWrite {r s : State} (x0 : Nat) (x1 : Part) (x2 : W64)
    (h : Goes r s) : Goes r (enclaveWrite x0 x1 x2 s) := by
  refine h.trans ?_
  unfold enclaveWrite
  try simp (maxDischargeDepth := 30) +contextual -implicitDefEqProofs
@[simp] theorem goes_rangeWordWrite {r s : State} (x0 : Nat) (x1 : Part) (x2 : W64)
    (h : Goes r s) : Goes r (rangeWordWrite x0 x1 x2 s) := by
  refine h.trans ?_
  unfold rangeWordWrite
  try simp (maxDischargeDepth := 30) +contextual -implicitDefEqProofs
@[simp] theorem goes_write64 {r s : State} (x0 : Requester) (x1 : Nat) (x2 : Part) (x3 : W64)
    (h : Goes r s) : Goes r (write64 x0 x1 x2 x3 s) := by
  refine h.trans ?_
  unfold write64
  repeat' (first | (with_reducible refine goes_ite (fun _ => ?_) (fun _ => ?_)) | split)
  all_goals first
    | with_reducible exact goes_refl _
    | with_reducible exact goes_onHost (goes_refl _) id
    | with_reducible exact goes_onLb (goes_refl _) (Nat.le_refl _)
    | with_reducible exact goes_onUp (goes_refl _) id id (Nat.le_refl _) (Nat.le_refl _)
    | with_reducible exact goes_onFn (goes_refl _)
    | with_reducible exact goes_onPwr (goes_refl _)
    | with_reducible exact goes_onDom (goes_refl _)
    | with_reducible exact goes_onRing (goes_refl _)
    | with_reducible exact goes_onCt (goes_refl _)
    | with_reducible exact goes_onSd (goes_refl _)
    | (simp; done)
    | simp (maxDischargeDepth := 30)
@[simp] theorem goes_dirtyCtrlWrite {r s : State} (x0 : W32) (h : Goes r s) : Goes r (dirtyCtrlWrite x0 s) := by
  refine h.trans ?_
  unfold dirtyCtrlWrite
  exact goes_ite (fun _ => goes_dirtySwitch _ (goes_onFn (goes_refl s))) (fun _ => goes_onFn (goes_refl s))
@[simp] theorem goes_violClear {r s : State} (x0 : W32) (h : Goes r s) : Goes r (violClear x0 s) := by
  exact h.trans { goes_refl s with }
@[simp] theorem goes_mbxCommand {r s : State} (x0 : Nat) (x1 : Bool) (x2 : W32)
    (h : Goes r s) : Goes r (mbxCommand x0 x1 x2 s) := by
  refine h.trans ?_
  have k : Goes s (if x2.getLsbD 0 then mbxSend x0 x1 s else s) :=
    goes_ite (fun _ => goes_mbxSend _ _ (goes_refl s)) (fun _ => goes_refl s)
  exact goes_ite (fun _ => goes_mbxAck _ _ k) (fun _ => k)
@[simp] theorem goes_traceCtrlWrite {r s : State} (x0 : Nat) (x1 : W32)
    (h : Goes r s) : Goes r (traceCtrlWrite x0 x1 s) := by
  unfold traceCtrlWrite
  exact goes_onDom h
@[simp] theorem goes_enclaveCommand {r s : State} (x0 : W32) (h : Goes r s) : Goes r (enclaveCommand x0 s) := by
  refine h.trans ?_
  unfold enclaveCommand
  split
  · exact goes_buildEnclave _ (goes_refl s)
  · exact goes_sealEnclave _ (goes_refl s)
  · exact goes_destroyCommand _ (goes_refl s)
  · exact goes_refl s
@[simp] theorem goes_pmcCtrlWrite {r s : State} (x0 : W32) (h : Goes r s) : Goes r (pmcCtrlWrite x0 s) := by
  refine h.trans ?_
  have k : Goes s (if x0.getLsbD 0 then pmcClear s else s) := goes_ite (fun _ => goes_pmcClear (goes_refl s)) (fun _ => goes_refl s)
  exact goes_onMesh (f := fun m => { m with freeze := x0.getLsbD 1 }) k id id id id
@[simp] theorem goes_ringWrite32 {r s : State} (x0 : Nat) (x1 : Nat) (x2 : W32)
    (h : Goes r s) : Goes r (ringWrite32 x0 x1 x2 s) := by
  refine h.trans ?_
  unfold ringWrite32
  try simp (maxDischargeDepth := 30) +contextual -implicitDefEqProofs
@[simp] theorem goes_koWrite32 {r s : State} (x0 : Nat) (x1 : W32) (h : Goes r s) : Goes r (koWrite32 x0 x1 s) := by
  refine h.trans ?_
  unfold koWrite32
  try simp (maxDischargeDepth := 30) +contextual -implicitDefEqProofs
@[simp] theorem goes_chTroubleWrite {r s : State} (x0 : Requester) (x1 : Nat) (x2 : W32)
    (h : Goes r s) : Goes r (chTroubleWrite x0 x1 x2 s) := by
  refine h.trans ?_
  unfold chTroubleWrite
  try simp (maxDischargeDepth := 30) +contextual -implicitDefEqProofs
@[simp] theorem goes_write32Low {r s : State} (x0 : Requester) (x1 : Nat) (x2 : W32)
    (h : Goes r s) : Goes r (write32Low x0 x1 x2 s) := by
  refine h.trans ?_
  unfold write32Low
  repeat' (first | (with_reducible refine goes_ite (fun _ => ?_) (fun _ => ?_)) | split)
  all_goals first
    | with_reducible exact goes_refl _
    | with_reducible exact goes_onHost (goes_refl _) id
    | with_reducible exact goes_onLb (goes_refl _) (Nat.le_refl _)
    | with_reducible exact goes_onUp (goes_refl _) id id (Nat.le_refl _) (Nat.le_refl _)
    | with_reducible exact goes_onFn (goes_refl _)
    | with_reducible exact goes_onPwr (goes_refl _)
    | with_reducible exact goes_onDom (goes_refl _)
    | with_reducible exact goes_onRing (goes_refl _)
    | with_reducible exact goes_onCt (goes_refl _)
    | with_reducible exact goes_onSd (goes_refl _)
    | (simp; done)
    | simp (maxDischargeDepth := 30)
@[simp] theorem goes_write32 {r s : State} (x0 : Requester) (x1 : Nat) (x2 : W32)
    (h : Goes r s) : Goes r (write32 x0 x1 x2 s) := by
  refine h.trans ?_
  unfold write32
  repeat' (first | (with_reducible refine goes_ite (fun _ => ?_) (fun _ => ?_)) | split)
  all_goals first
    | with_reducible exact goes_refl _
    | with_reducible exact goes_onHost (goes_refl _) id
    | with_reducible exact goes_onLb (goes_refl _) (Nat.le_refl _)
    | with_reducible exact goes_onUp (goes_refl _) id id (Nat.le_refl _) (Nat.le_refl _)
    | with_reducible exact goes_onFn (goes_refl _)
    | with_reducible exact goes_onPwr (goes_refl _)
    | with_reducible exact goes_onDom (goes_refl _)
    | with_reducible exact goes_onRing (goes_refl _)
    | with_reducible exact goes_onCt (goes_refl _)
    | with_reducible exact goes_onSd (goes_refl _)
    | (simp; done)
    | simp (maxDischargeDepth := 30)
@[simp] theorem goes_write32At {r s : State} (x0 : Requester) (x1 : Nat) (x2 : W32)
    (h : Goes r s) : Goes r (write32At x0 x1 x2 s) := by
  refine h.trans ?_
  unfold write32At
  try simp (maxDischargeDepth := 30) +contextual -implicitDefEqProofs
  all_goals repeat' (split <;> try simp (maxDischargeDepth := 30) +contextual -implicitDefEqProofs)
@[simp] theorem goes_windowWrite {r s : State} (x0 : Nat) (x1 : Nat) (x2 : W64)
    (h : Goes r s) : Goes r (windowWrite x0 x1 x2 s) := by
  refine h.trans ?_
  unfold windowWrite
  try simp (maxDischargeDepth := 30) +contextual -implicitDefEqProofs
@[simp] theorem goes_regWrite {r s : State} (x0 : Requester) (x1 : Nat) (x2 : Part) (x3 : W64)
    (h : Goes r s) : Goes r (regWrite x0 x1 x2 x3 s) := by
  refine h.trans ?_
  unfold regWrite
  try simp (maxDischargeDepth := 30) +contextual -implicitDefEqProofs
  all_goals repeat' (split <;> try simp (maxDischargeDepth := 30) +contextual -implicitDefEqProofs)

end Sys2Proof.Machine
end

