-- ==== Sys2Proof/Laws/GoesTraps.lean ====
section
/-!
SUPPORT. What the operations of Machine/Traps.lean keep (Laws/Goes.lean).
-/

namespace Sys2Proof.Machine

@[simp] theorem goes_retireLen {r s : State} (x0 : HartId) (x1 : Nat)
    (h : Goes r s) : Goes r (retireLen x0 x1 s) := by
  refine h.trans ?_
  unfold retireLen
  try simp (maxDischargeDepth := 30) +contextual -implicitDefEqProofs
  all_goals repeat' (split <;> try simp (maxDischargeDepth := 30) +contextual -implicitDefEqProofs)
@[simp] theorem goes_passOn {r s : State} (x0 : HartId) (h : Goes r s) : Goes r (passOn x0 s) := by
  refine h.trans ?_
  unfold passOn
  try simp (maxDischargeDepth := 30) +contextual -implicitDefEqProofs
  all_goals repeat' (split <;> try simp (maxDischargeDepth := 30) +contextual -implicitDefEqProofs)
@[simp] theorem goes_retire {r s : State} (x0 : HartId) (h : Goes r s) : Goes r (retire x0 s) := by
  unfold retire
  exact goes_onHart h
@[simp] theorem goes_breakLoop {r s : State} (x0 : HartId) (h : Goes r s) : Goes r (breakLoop x0 s) := by
  refine h.trans ?_
  unfold breakLoop
  try simp (maxDischargeDepth := 30) +contextual -implicitDefEqProofs
  all_goals repeat' (split <;> try simp (maxDischargeDepth := 30) +contextual -implicitDefEqProofs)
@[simp] theorem goes_instr {r s : State} (x0 : HartId) (x1 : State → State) (hx1 : ∀ t, Goes t (x1 t))
    (h : Goes r s) : Goes r (instr x0 x1 s) := by
  refine h.trans ?_
  have kx1 : ∀ r t, Goes r t → Goes r (x1 t) := fun _ t h => h.trans (hx1 t)
  unfold instr
  try simp (maxDischargeDepth := 30) +contextual -implicitDefEqProofs [kx1]
@[simp] theorem goes_raiseGuest {r s : State} (x0 : HartId) (x1 : W64) (x2 : W64) (x3 : W64) (x4 : W64)
    (h : Goes r s) : Goes r (raiseGuest x0 x1 x2 x3 x4 s) := by
  refine h.trans ?_
  unfold raiseGuest
  try simp (maxDischargeDepth := 30) +contextual -implicitDefEqProofs
  all_goals repeat' (split <;> try simp (maxDischargeDepth := 30) +contextual -implicitDefEqProofs)
@[simp] theorem goes_raise {r s : State} (x0 : HartId) (x1 : W64) (x2 : W64)
    (h : Goes r s) : Goes r (raise x0 x1 x2 s) := by
  refine h.trans ?_
  unfold raise
  try simp (maxDischargeDepth := 30) +contextual -implicitDefEqProofs
@[simp] theorem goes_illegal {r s : State} (x0 : HartId) (x1 : W32) (h : Goes r s) : Goes r (illegal x0 x1 s) := by
  refine h.trans ?_
  unfold illegal
  try simp (maxDischargeDepth := 30) +contextual -implicitDefEqProofs
  all_goals repeat' (split <;> try simp (maxDischargeDepth := 30) +contextual -implicitDefEqProofs)
@[simp] theorem goes_virtualInstr {r s : State} (x0 : HartId) (h : Goes r s) : Goes r (virtualInstr x0 s) := by
  refine h.trans ?_
  unfold virtualInstr
  try simp (maxDischargeDepth := 30) +contextual -implicitDefEqProofs
  all_goals repeat' (split <;> try simp (maxDischargeDepth := 30) +contextual -implicitDefEqProofs)
@[simp] theorem goes_interruptTo {r s : State} (x0 : HartId) (x1 : Bool) (x2 : W64)
    (h : Goes r s) : Goes r (interruptTo x0 x1 x2 s) := by
  refine h.trans ?_
  unfold interruptTo
  try simp (maxDischargeDepth := 30) +contextual -implicitDefEqProofs
  all_goals repeat' (split <;> try simp (maxDischargeDepth := 30) +contextual -implicitDefEqProofs)
@[simp] theorem goes_vendor {r s : State} (x0 : HartId) (x1 : VendorOp) (x2 : W32) (x3 : State → State) (hx3 : ∀ t, Goes t (x3 t))
    (h : Goes r s) : Goes r (vendor x0 x1 x2 x3 s) := by
  refine h.trans ?_
  have kx3 : ∀ r t, Goes r t → Goes r (x3 t) := fun _ t h => h.trans (hx3 t)
  unfold vendor
  try simp (maxDischargeDepth := 30) +contextual -implicitDefEqProofs [kx3]
  all_goals repeat' (split <;> try simp (maxDischargeDepth := 30) +contextual -implicitDefEqProofs [kx3])

end Sys2Proof.Machine
end

