-- ==== Sys2Proof/Laws/GoesTranslate.lean ====
section
/-!
SUPPORT. What the operations of Machine/Translate.lean keep (Laws/Goes.lean).
-/

namespace Sys2Proof.Machine

@[simp] theorem goes_walkNow {r s : State} (x0 : HartId) (x1 : AccessKind) (x2 : Access)
    (h : Goes r s) : Goes r (walkNow x0 x1 x2 s) := by
  refine h.trans ?_
  unfold walkNow
  try simp (maxDischargeDepth := 30) +contextual -implicitDefEqProofs
  all_goals repeat' (split <;> try simp (maxDischargeDepth := 30) +contextual -implicitDefEqProofs)
@[simp] theorem goes_access {r s : State} (x0 : HartId) (x1 : AccessKind) (x2 : Nat) (x3 : Access) (x4 : Access → State → State) (hx4 : ∀ y0 t, Goes t (x4 y0 t))
    (h : Goes r s) : Goes r (access x0 x1 x2 x3 x4 s) := by
  refine h.trans ?_
  have kx4 : ∀ r y0 t, Goes r t → Goes r (x4 y0 t) := fun _ y0 t h => h.trans (hx4 y0 t)
  unfold access
  try simp (maxDischargeDepth := 30) +contextual -implicitDefEqProofs [kx4]
  all_goals repeat' (split <;> try simp (maxDischargeDepth := 30) +contextual -implicitDefEqProofs [kx4])

end Sys2Proof.Machine
end

