-- ==== Sys2Proof/Laws/GoesCores.lean ====
section
/-!
SUPPORT. What the operations of Machine/Cores.lean keep (Laws/Goes.lean).
-/

namespace Sys2Proof.Machine

@[simp] theorem goes_fillL1d {r s : State} (x0 : HartId) (x1 : Nat) (x2 : Nat) (x3 : Bool)
    (h : Goes r s) : Goes r (fillL1d x0 x1 x2 x3 s) := by
  refine h.trans ?_
  unfold fillL1d
  try simp (maxDischargeDepth := 30) +contextual -implicitDefEqProofs
  all_goals repeat' (split <;> try simp (maxDischargeDepth := 30) +contextual -implicitDefEqProofs)
@[simp] theorem goes_cacheError {r s : State} (x0 : HartId) (x1 : Nat) (x2 : BitError) (x3 : State → State) (hx3 : ∀ t, Goes t (x3 t))
    (h : Goes r s) : Goes r (cacheError x0 x1 x2 x3 s) := by
  refine h.trans ?_
  have kx3 : ∀ r t, Goes r t → Goes r (x3 t) := fun _ t h => h.trans (hx3 t)
  unfold cacheError
  try simp (maxDischargeDepth := 30) +contextual -implicitDefEqProofs [kx3]
  all_goals repeat' (split <;> try simp (maxDischargeDepth := 30) +contextual -implicitDefEqProofs [kx3])
@[simp] theorem goes_dropForeign {r s : State} (x0 : HartId) (x1 : Nat)
    (h : Goes r s) : Goes r (dropForeign x0 x1 s) := by
  refine h.trans ?_
  unfold dropForeign
  try simp (maxDischargeDepth := 30) +contextual -implicitDefEqProofs
  all_goals repeat' (split <;> try simp (maxDischargeDepth := 30) +contextual -implicitDefEqProofs)
@[simp] theorem goes_lookUp {r s : State} (x0 : HartId) (x1 : Nat) (x2 : CacheCheck)
    (h : Goes r s) : Goes r (lookUp x0 x1 x2 s) := by
  refine h.trans ?_
  unfold lookUp
  try simp (maxDischargeDepth := 30) +contextual -implicitDefEqProofs
  all_goals repeat' (split <;> try simp (maxDischargeDepth := 30) +contextual -implicitDefEqProofs)
@[simp] theorem goes_touch {r s : State} (x0 : HartId) (x1 : Bool) (x2 : Bool) (x3 : Nat) (x4 : Nat) (x5 : CacheCheck)
    (h : Goes r s) : Goes r (touch x0 x1 x2 x3 x4 x5 s) := by
  refine h.trans ?_
  unfold touch
  try simp (maxDischargeDepth := 30) +contextual -implicitDefEqProofs
  all_goals repeat' (split <;> try simp (maxDischargeDepth := 30) +contextual -implicitDefEqProofs)
@[simp] theorem goes_readThrough {r s : State} (x0 : HartId) (x1 : Nat) (x2 : CacheCheck)
    (h : Goes r s) : Goes r (readThrough x0 x1 x2 s) := by
  refine h.trans ?_
  unfold readThrough
  try simp (maxDischargeDepth := 30) +contextual -implicitDefEqProofs
  all_goals repeat' (split <;> try simp (maxDischargeDepth := 30) +contextual -implicitDefEqProofs)
@[simp] theorem goes_inWorld {r s : State} (x0 : HartId) (x1 : Bool) (x2 : Byte) (x3 : State → State) (hx3 : ∀ t, Goes t (x3 t))
    (h : Goes r s) : Goes r (inWorld x0 x1 x2 x3 s) := by
  refine h.trans ?_
  have kx3 : ∀ r t, Goes r t → Goes r (x3 t) := fun _ t h => h.trans (hx3 t)
  unfold inWorld
  try simp (maxDischargeDepth := 30) +contextual -implicitDefEqProofs [kx3]
  all_goals repeat' (split <;> try simp (maxDischargeDepth := 30) +contextual -implicitDefEqProofs [kx3])
@[simp] theorem goes_storeLine {r s : State} (x0 : HartId) (x1 : Agent) (x2 : SbEntry) (x3 : Nat)
    (h : Goes r s) : Goes r (storeLine x0 x1 x2 x3 s) := by
  refine h.trans ?_
  unfold storeLine
  try simp (maxDischargeDepth := 30) +contextual -implicitDefEqProofs
  all_goals repeat' (split <;> try simp (maxDischargeDepth := 30) +contextual -implicitDefEqProofs)
@[simp] theorem goes_ioStore {r s : State} (x0 : HartId) (x1 : SbEntry)
    (h : Goes r s) : Goes r (ioStore x0 x1 s) := by
  refine h.trans ?_
  unfold ioStore
  try simp (maxDischargeDepth := 30) +contextual -implicitDefEqProofs
  all_goals repeat' (split <;> try simp (maxDischargeDepth := 30) +contextual -implicitDefEqProofs)
@[simp] theorem goes_performEntry {r s : State} (x0 : HartId) (x1 : SbEntry)
    (h : Goes r s) : Goes r (performEntry x0 x1 s) := by
  refine h.trans ?_
  unfold performEntry
  refine goes_inWorld _ _ _ _ (fun t => ?_) (goes_refl s)
  simp only
  repeat' split
  all_goals simp (maxDischargeDepth := 30) +contextual -implicitDefEqProofs
@[simp] theorem goes_drainOne {r s : State} (x0 : HartId) (h : Goes r s) : Goes r (drainOne x0 s) := by
  refine h.trans ?_
  unfold drainOne
  try simp (maxDischargeDepth := 30) +contextual -implicitDefEqProofs
  all_goals repeat' (split <;> try simp (maxDischargeDepth := 30) +contextual -implicitDefEqProofs)
@[simp] theorem goes_drainN {r s : State} (x0 : HartId) (x1 : Nat) (h : Goes r s) : Goes r (drainN x0 x1 s) := by
  induction x1 generalizing s with
  | zero =>
    unfold drainN
    try simp (maxDischargeDepth := 30) +contextual -implicitDefEqProofs [h]
    all_goals repeat' (split <;> try simp (maxDischargeDepth := 30) +contextual -implicitDefEqProofs [h])
  | succ n ih =>
    unfold drainN
    try simp (maxDischargeDepth := 30) +contextual -implicitDefEqProofs [h, ih]
    all_goals repeat' (split <;> try simp (maxDischargeDepth := 30) +contextual -implicitDefEqProofs [h, ih])
@[simp] theorem goes_drainAll {r s : State} (x0 : HartId) (h : Goes r s) : Goes r (drainAll x0 s) := by
  refine h.trans ?_
  unfold drainAll
  try simp (maxDischargeDepth := 30) +contextual -implicitDefEqProofs
@[simp] theorem goes_drainThrough {r s : State} (x0 : HartId) (x1 : SbEntry → Bool)
    (h : Goes r s) : Goes r (drainThrough x0 x1 s) := by
  refine h.trans ?_
  unfold drainThrough
  try simp (maxDischargeDepth := 30) +contextual -implicitDefEqProofs
@[simp] theorem goes_drainEntry {r s : State} (x0 : HartId) (x1 : NtEntry)
    (h : Goes r s) : Goes r (drainEntry x0 x1 s) := by
  refine h.trans ?_
  unfold drainEntry
  try simp (maxDischargeDepth := 30) +contextual -implicitDefEqProofs
@[simp] theorem goes_drainLine {r s : State} (x0 : HartId) (x1 : Nat)
    (h : Goes r s) : Goes r (drainLine x0 x1 s) := by
  refine h.trans ?_
  unfold drainLine
  try simp (maxDischargeDepth := 30) +contextual -implicitDefEqProofs
  all_goals repeat' (split <;> try simp (maxDischargeDepth := 30) +contextual -implicitDefEqProofs)
@[simp] theorem goes_drainCombining {r s : State} (x0 : HartId) (h : Goes r s) : Goes r (drainCombining x0 s) := by
  refine h.trans ?_
  unfold drainCombining
  try simp (maxDischargeDepth := 30) +contextual -implicitDefEqProofs
@[simp] theorem goes_drainBoth {r s : State} (x0 : HartId) (h : Goes r s) : Goes r (drainBoth x0 s) := by
  refine h.trans ?_
  unfold drainBoth
  try simp (maxDischargeDepth := 30) +contextual -implicitDefEqProofs
@[simp] theorem goes_memInstr {r s : State} (x0 : HartId) (x1 : Instr) (x2 : State → State) (hx2 : ∀ t, Goes t (x2 t))
    (h : Goes r s) : Goes r (memInstr x0 x1 x2 s) := by
  refine h.trans ?_
  have kx2 : ∀ r t, Goes r t → Goes r (x2 t) := fun _ t h => h.trans (hx2 t)
  unfold memInstr
  try simp (maxDischargeDepth := 30) +contextual -implicitDefEqProofs [kx2]
  all_goals repeat' (split <;> try simp (maxDischargeDepth := 30) +contextual -implicitDefEqProofs [kx2])
theorem goes_execStoreBufferDrain {s t : State} (x0 : HartId)
    (q : execStoreBufferDrain x0 s = .next t) : Goes s t := by
  unfold execStoreBufferDrain at q
  refine goes_ok ?_ q
  try simp (maxDischargeDepth := 30) +contextual -implicitDefEqProofs
  all_goals repeat' (split <;> try simp (maxDischargeDepth := 30) +contextual -implicitDefEqProofs)
theorem goes_execCombiningBufferDrain {s t : State} (x0 : HartId) (x1 : LineNo)
    (q : execCombiningBufferDrain x0 x1 s = .next t) : Goes s t := by
  unfold execCombiningBufferDrain at q
  refine goes_ok ?_ q
  try simp (maxDischargeDepth := 30) +contextual -implicitDefEqProofs
@[simp] theorem goes_touchLines {r s : State} (x0 : HartId) (x1 : Bool) (x2 : Bool) (x3 : Access) (x4 : Nat)
    (h : Goes r s) : Goes r (touchLines x0 x1 x2 x3 x4 s) := by
  refine h.trans ?_
  unfold touchLines
  try simp (maxDischargeDepth := 30) +contextual -implicitDefEqProofs
  all_goals repeat' (split <;> try simp (maxDischargeDepth := 30) +contextual -implicitDefEqProofs)
@[simp] theorem goes_dramRead {r s : State} (x0 : HartId) (x1 : Access) (x2 : Bool) (x3 : Bool) (x4 : Nat)
    (h : Goes r s) : Goes r (dramRead x0 x1 x2 x3 x4 s).1 := by
  refine h.trans ?_
  unfold dramRead
  try simp (maxDischargeDepth := 30) +contextual -implicitDefEqProofs
  all_goals repeat' (split <;> try simp (maxDischargeDepth := 30) +contextual -implicitDefEqProofs)
@[simp] theorem goes_ioLoad {r s : State} (x0 : HartId) (x1 : Nat) (x2 : Nat)
    (h : Goes r s) : Goes r (ioLoad x0 x1 x2 s).1 := by
  refine h.trans ?_
  unfold ioLoad
  try simp (maxDischargeDepth := 30) +contextual -implicitDefEqProofs
  all_goals repeat' (split <;> try simp (maxDischargeDepth := 30) +contextual -implicitDefEqProofs)
@[simp] theorem goes_romDenied {r s : State} (x0 : HartId) (x1 : Bool) (x2 : Nat)
    (h : Goes r s) : Goes r (romDenied x0 x1 x2 s) := by
  refine h.trans ?_
  unfold romDenied
  try simp (maxDischargeDepth := 30) +contextual -implicitDefEqProofs
  all_goals repeat' (split <;> try simp (maxDischargeDepth := 30) +contextual -implicitDefEqProofs)
@[simp] theorem goes_loadInto {r s : State} (x0 : HartId) (x1 : Nat → Hart → Hart) (x2 : Access)
    (h : Goes r s) : Goes r (loadInto x0 x1 x2 s) := by
  refine h.trans ?_
  unfold loadInto
  try simp (maxDischargeDepth := 30) +contextual -implicitDefEqProofs
  all_goals repeat' (split <;> try simp (maxDischargeDepth := 30) +contextual -implicitDefEqProofs)
@[simp] theorem goes_loadAt {r s : State} (x0 : HartId) (x1 : Nat) (x2 : Bool) (x3 : Access)
    (h : Goes r s) : Goes r (loadAt x0 x1 x2 x3 s) := by
  refine h.trans ?_
  unfold loadAt
  try simp (maxDischargeDepth := 30) +contextual -implicitDefEqProofs
  all_goals repeat' (split <;> try simp (maxDischargeDepth := 30) +contextual -implicitDefEqProofs)
@[simp] theorem goes_load {r s : State} (x0 : HartId) (x1 : Nat) (x2 : Bool) (x3 : Access)
    (h : Goes r s) : Goes r (load x0 x1 x2 x3 s) := by
  refine h.trans ?_
  unfold load
  try simp (maxDischargeDepth := 30) +contextual -implicitDefEqProofs
  all_goals repeat' (split <;> try simp (maxDischargeDepth := 30) +contextual -implicitDefEqProofs)
theorem goes_execLoad {s t : State} (x0 : HartId) (x1 : Fin 32) (x2 : Bool) (x3 : Access)
    (q : execLoad x0 x1 x2 x3 s = .next t) : Goes s t := by
  unfold execLoad at q
  refine goes_ok ?_ q
  try simp (maxDischargeDepth := 30) +contextual -implicitDefEqProofs
@[simp] theorem goes_bufferStore {r s : State} (x0 : HartId) (x1 : Bool) (x2 : Access) (x3 : W64)
    (h : Goes r s) : Goes r (bufferStore x0 x1 x2 x3 s) := by
  refine h.trans ?_
  unfold bufferStore
  try simp (maxDischargeDepth := 30) +contextual -implicitDefEqProofs
  all_goals repeat' (split <;> try simp (maxDischargeDepth := 30) +contextual -implicitDefEqProofs)
@[simp] theorem goes_combineStore {r s : State} (x0 : HartId) (x1 : Bool) (x2 : Nat) (x3 : Tab Byte)
    (h : Goes r s) : Goes r (combineStore x0 x1 x2 x3 s) := by
  refine h.trans ?_
  unfold combineStore
  try simp (maxDischargeDepth := 30) +contextual -implicitDefEqProofs
  all_goals repeat' (split <;> try simp (maxDischargeDepth := 30) +contextual -implicitDefEqProofs)
@[simp] theorem goes_storeAt {r s : State} (x0 : HartId) (x1 : W64) (x2 : Access)
    (h : Goes r s) : Goes r (storeAt x0 x1 x2 s) := by
  refine h.trans ?_
  unfold storeAt
  try simp (maxDischargeDepth := 30) +contextual -implicitDefEqProofs
  all_goals repeat' (split <;> try simp (maxDischargeDepth := 30) +contextual -implicitDefEqProofs)
@[simp] theorem goes_store {r s : State} (x0 : HartId) (x1 : Access) (x2 : W64)
    (h : Goes r s) : Goes r (store x0 x1 x2 s) := by
  refine h.trans ?_
  unfold store
  try simp (maxDischargeDepth := 30) +contextual -implicitDefEqProofs
  all_goals repeat' (split <;> try simp (maxDischargeDepth := 30) +contextual -implicitDefEqProofs)
theorem goes_execStore {s t : State} (x0 : HartId) (x1 : Access) (x2 : W64)
    (q : execStore x0 x1 x2 s = .next t) : Goes s t := by
  unfold execStore at q
  refine goes_ok ?_ q
  try simp (maxDischargeDepth := 30) +contextual -implicitDefEqProofs
@[simp] theorem goes_fence {r s : State} (x0 : HartId) (x1 : FenceSet) (x2 : FenceSet)
    (h : Goes r s) : Goes r (fence x0 x1 x2 s) := by
  refine h.trans ?_
  unfold fence
  try simp (maxDischargeDepth := 30) +contextual -implicitDefEqProofs
theorem goes_execFence {s t : State} (x0 : HartId) (x1 : FenceSet) (x2 : FenceSet)
    (q : execFence x0 x1 x2 s = .next t) : Goes s t := by
  unfold execFence at q
  refine goes_ok ?_ q
  try simp (maxDischargeDepth := 30) +contextual -implicitDefEqProofs
@[simp] theorem goes_fenceTso {r s : State} (x0 : HartId) (h : Goes r s) : Goes r (fenceTso x0 s) := by
  refine h.trans ?_
  unfold fenceTso
  try simp (maxDischargeDepth := 30) +contextual -implicitDefEqProofs
  all_goals repeat' (split <;> try simp (maxDischargeDepth := 30) +contextual -implicitDefEqProofs)
theorem goes_execFenceTso {s t : State} (x0 : HartId) (q : execFenceTso x0 s = .next t) : Goes s t := by
  unfold execFenceTso at q
  refine goes_ok ?_ q
  try simp (maxDischargeDepth := 30) +contextual -implicitDefEqProofs
@[simp] theorem goes_fenceI {r s : State} (x0 : HartId) (h : Goes r s) : Goes r (fenceI x0 s) := by
  refine h.trans ?_
  unfold fenceI
  try simp (maxDischargeDepth := 30) +contextual -implicitDefEqProofs
  all_goals repeat' (split <;> try simp (maxDischargeDepth := 30) +contextual -implicitDefEqProofs)
theorem goes_execFenceI {s t : State} (x0 : HartId) (q : execFenceI x0 s = .next t) : Goes s t := by
  unfold execFenceI at q
  refine goes_ok ?_ q
  try simp (maxDischargeDepth := 30) +contextual -implicitDefEqProofs
@[simp] theorem goes_settleHart {r s : State} (x0 : HartId) (x1 : Nat) (x2 : Nat)
    (h : Goes r s) : Goes r (settleHart x0 x1 x2 s) := by
  refine h.trans ?_
  unfold settleHart
  try simp (maxDischargeDepth := 30) +contextual -implicitDefEqProofs
@[simp] theorem goes_ordered {r s : State} (x0 : HartId) (x1 : Bool) (x2 : Bool) (x3 : State → State) (hx3 : ∀ t, Goes t (x3 t))
    (h : Goes r s) : Goes r (ordered x0 x1 x2 x3 s) := by
  refine h.trans ?_
  have kx3 : ∀ r t, Goes r t → Goes r (x3 t) := fun _ t h => h.trans (hx3 t)
  unfold ordered
  try simp (maxDischargeDepth := 30) +contextual -implicitDefEqProofs [kx3]
  all_goals repeat' (split <;> try simp (maxDischargeDepth := 30) +contextual -implicitDefEqProofs [kx3])
@[simp] theorem goes_amoDram {r s : State} (x0 : HartId) (x1 : Nat) (x2 : AmoOp) (x3 : W64) (x4 : Access)
    (h : Goes r s) : Goes r (amoDram x0 x1 x2 x3 x4 s) := by
  refine h.trans ?_
  unfold amoDram
  try simp (maxDischargeDepth := 30) +contextual -implicitDefEqProofs
  all_goals repeat' (split <;> try simp (maxDischargeDepth := 30) +contextual -implicitDefEqProofs)
@[simp] theorem goes_amoSram {r s : State} (x0 : HartId) (x1 : Nat) (x2 : AmoOp) (x3 : W64) (x4 : Access)
    (h : Goes r s) : Goes r (amoSram x0 x1 x2 x3 x4 s) := by
  refine h.trans ?_
  unfold amoSram
  try simp (maxDischargeDepth := 30) +contextual -implicitDefEqProofs
  all_goals repeat' (split <;> try simp (maxDischargeDepth := 30) +contextual -implicitDefEqProofs)
@[simp] theorem goes_amoAt {r s : State} (x0 : HartId) (x1 : Nat) (x2 : AmoOp) (x3 : W64) (x4 : Bool) (x5 : Bool) (x6 : Access)
    (h : Goes r s) : Goes r (amoAt x0 x1 x2 x3 x4 x5 x6 s) := by
  refine h.trans ?_
  unfold amoAt
  try simp (maxDischargeDepth := 30) +contextual -implicitDefEqProofs
  all_goals repeat' (split <;> try simp (maxDischargeDepth := 30) +contextual -implicitDefEqProofs)
@[simp] theorem goes_amo {r s : State} (x0 : HartId) (x1 : Nat) (x2 : AmoOp) (x3 : Access) (x4 : W64) (x5 : Bool) (x6 : Bool)
    (h : Goes r s) : Goes r (amo x0 x1 x2 x3 x4 x5 x6 s) := by
  refine h.trans ?_
  unfold amo
  try simp (maxDischargeDepth := 30) +contextual -implicitDefEqProofs
  all_goals repeat' (split <;> try simp (maxDischargeDepth := 30) +contextual -implicitDefEqProofs)
theorem goes_execAmo {s t : State} (x0 : HartId) (x1 : Fin 32) (x2 : AmoOp) (x3 : Access) (x4 : W64) (x5 : Bool) (x6 : Bool)
    (q : execAmo x0 x1 x2 x3 x4 x5 x6 s = .next t) : Goes s t := by
  unfold execAmo at q
  refine goes_ok ?_ q
  try simp (maxDischargeDepth := 30) +contextual -implicitDefEqProofs
@[simp] theorem goes_lrDram {r s : State} (x0 : HartId) (x1 : Nat) (x2 : Bool) (x3 : Access)
    (h : Goes r s) : Goes r (lrDram x0 x1 x2 x3 s) := by
  refine h.trans ?_
  unfold lrDram
  try simp (maxDischargeDepth := 30) +contextual -implicitDefEqProofs
  all_goals repeat' (split <;> try simp (maxDischargeDepth := 30) +contextual -implicitDefEqProofs)
@[simp] theorem goes_loadReserved {r s : State} (x0 : HartId) (x1 : Nat) (x2 : Access) (x3 : Bool) (x4 : Bool) (x5 : Bool)
    (h : Goes r s) : Goes r (loadReserved x0 x1 x2 x3 x4 x5 s) := by
  refine h.trans ?_
  unfold loadReserved
  try simp (maxDischargeDepth := 30) +contextual -implicitDefEqProofs
  all_goals repeat' (split <;> try simp (maxDischargeDepth := 30) +contextual -implicitDefEqProofs)
theorem goes_execLr {s t : State} (x0 : HartId) (x1 : Fin 32) (x2 : Access) (x3 : Bool) (x4 : Bool) (x5 : Bool)
    (q : execLr x0 x1 x2 x3 x4 x5 s = .next t) : Goes s t := by
  unfold execLr at q
  refine goes_ok ?_ q
  try simp (maxDischargeDepth := 30) +contextual -implicitDefEqProofs
  all_goals repeat' (split <;> try simp (maxDischargeDepth := 30) +contextual -implicitDefEqProofs)
@[simp] theorem goes_scDram {r s : State} (x0 : HartId) (x1 : Nat) (x2 : W64) (x3 : Access)
    (h : Goes r s) : Goes r (scDram x0 x1 x2 x3 s) := by
  refine h.trans ?_
  unfold scDram
  try simp (maxDischargeDepth := 30) +contextual -implicitDefEqProofs
  all_goals repeat' (split <;> try simp (maxDischargeDepth := 30) +contextual -implicitDefEqProofs)
@[simp] theorem goes_storeConditional {r s : State} (x0 : HartId) (x1 : Nat) (x2 : Access) (x3 : W64) (x4 : Bool) (x5 : Bool)
    (h : Goes r s) : Goes r (storeConditional x0 x1 x2 x3 x4 x5 s) := by
  refine h.trans ?_
  unfold storeConditional
  try simp (maxDischargeDepth := 30) +contextual -implicitDefEqProofs
  all_goals repeat' (split <;> try simp (maxDischargeDepth := 30) +contextual -implicitDefEqProofs)
@[simp] theorem goes_cboRetire {r s : State} (x0 : HartId) (h : Goes r s) : Goes r (cboRetire x0 s) := by
  refine h.trans ?_
  unfold cboRetire
  try simp (maxDischargeDepth := 30) +contextual -implicitDefEqProofs
  all_goals repeat' (split <;> try simp (maxDischargeDepth := 30) +contextual -implicitDefEqProofs)
@[simp] theorem goes_cbo {r s : State} (x0 : HartId) (x1 : AccessKind) (x2 : Access) (x3 : W64 → Bool) (x4 : Region → Access → State → State) (hx4 : ∀ y0 y1 t, Goes t (x4 y0 y1 t))
    (h : Goes r s) : Goes r (cbo x0 x1 x2 x3 x4 s) := by
  refine h.trans ?_
  have kx4 : ∀ r y0 y1 t, Goes r t → Goes r (x4 y0 y1 t) := fun _ y0 y1 t h => h.trans (hx4 y0 y1 t)
  unfold cbo
  simp only
  split
  · simp
  · simp
  · refine goes_access _ _ _ _ _ (fun c t => ?_) (by simp)
    split
    · simp
    · refine goes_ite (fun _ => ?_) (fun _ => ?_)
      · exact (goes_settleHart _ _ _ (goes_refl t)).trans (hx4 _ _ _)
      · exact goes_cboRetire _ (goes_rangeViolation _ _ _ (goes_settleHart _ _ _ (goes_refl t)))
    · refine goes_ite (fun _ => hx4 _ _ _) (fun _ => ?_)
      exact goes_cboRetire _ (goes_romDenied _ _ _ (goes_refl t))
    · exact hx4 _ _ _
@[simp] theorem goes_dropRom {r s : State} (x0 : Nat) (h : Goes r s) : Goes r (dropRom x0 s) := by
  refine h.trans ?_
  unfold dropRom
  try simp (maxDischargeDepth := 30) +contextual -implicitDefEqProofs
  all_goals repeat' (split <;> try simp (maxDischargeDepth := 30) +contextual -implicitDefEqProofs)
@[simp] theorem goes_cboClean {r s : State} (x0 : HartId) (x1 : Access)
    (h : Goes r s) : Goes r (cboClean x0 x1 s) := by
  refine h.trans ?_
  unfold cboClean
  try simp (maxDischargeDepth := 30) +contextual -implicitDefEqProofs
  all_goals repeat' (split <;> try simp (maxDischargeDepth := 30) +contextual -implicitDefEqProofs)
theorem goes_execCboClean {s t : State} (x0 : HartId) (x1 : Access)
    (q : execCboClean x0 x1 s = .next t) : Goes s t := by
  unfold execCboClean at q
  refine goes_ok ?_ q
  try simp (maxDischargeDepth := 30) +contextual -implicitDefEqProofs
@[simp] theorem goes_flushOn {r s : State} (x0 : HartId) (x1 : Region) (x2 : Access)
    (h : Goes r s) : Goes r (flushOn x0 x1 x2 s) := by
  refine h.trans ?_
  unfold flushOn
  try simp (maxDischargeDepth := 30) +contextual -implicitDefEqProofs
  all_goals repeat' (split <;> try simp (maxDischargeDepth := 30) +contextual -implicitDefEqProofs)
@[simp] theorem goes_cboFlush {r s : State} (x0 : HartId) (x1 : Access)
    (h : Goes r s) : Goes r (cboFlush x0 x1 s) := by
  refine h.trans ?_
  unfold cboFlush
  try simp (maxDischargeDepth := 30) +contextual -implicitDefEqProofs
  all_goals repeat' (split <;> try simp (maxDischargeDepth := 30) +contextual -implicitDefEqProofs)
theorem goes_execCboFlush {s t : State} (x0 : HartId) (x1 : Access)
    (q : execCboFlush x0 x1 s = .next t) : Goes s t := by
  unfold execCboFlush at q
  refine goes_ok ?_ q
  try simp (maxDischargeDepth := 30) +contextual -implicitDefEqProofs
@[simp] theorem goes_cboInval {r s : State} (x0 : HartId) (x1 : Access)
    (h : Goes r s) : Goes r (cboInval x0 x1 s) := by
  refine h.trans ?_
  unfold cboInval
  refine goes_cbo _ _ _ _ _ (fun r c t => ?_) (goes_refl s)
  split
  · simp
  · refine goes_cboRetire _ ?_
    split <;> simp
theorem goes_execCboInval {s t : State} (x0 : HartId) (x1 : Access)
    (q : execCboInval x0 x1 s = .next t) : Goes s t := by
  unfold execCboInval at q
  refine goes_ok ?_ q
  try simp (maxDischargeDepth := 30) +contextual -implicitDefEqProofs
  all_goals repeat' (split <;> try simp (maxDischargeDepth := 30) +contextual -implicitDefEqProofs)
@[simp] theorem goes_cboZero {r s : State} (x0 : HartId) (x1 : Access) (h : Goes r s) : Goes r (cboZero x0 x1 s) := by
  refine h.trans ?_
  unfold cboZero
  try simp (maxDischargeDepth := 30) +contextual -implicitDefEqProofs
  all_goals repeat' (split <;> try simp (maxDischargeDepth := 30) +contextual -implicitDefEqProofs)
theorem goes_execCboZero {s t : State} (x0 : HartId) (x1 : Access)
    (q : execCboZero x0 x1 s = .next t) : Goes s t := by
  unfold execCboZero at q
  refine goes_ok ?_ q
  try simp (maxDischargeDepth := 30) +contextual -implicitDefEqProofs
@[simp] theorem goes_fillL1i {r s : State} (x0 : HartId) (x1 : Nat) (x2 : Nat)
    (h : Goes r s) : Goes r (fillL1i x0 x1 x2 s) := by
  refine h.trans ?_
  unfold fillL1i
  try simp (maxDischargeDepth := 30) +contextual -implicitDefEqProofs
  all_goals repeat' (split <;> try simp (maxDischargeDepth := 30) +contextual -implicitDefEqProofs)
@[simp] theorem goes_fetchLine_refill {r s : State} (x0 : HartId) (x1 : Nat) (x2 : Nat) (x3 : CacheCheck)
    (h : Goes r s) : Goes r (fetchLine.refill x0 x1 x2 x3 s).1 := by
  refine h.trans ?_
  unfold fetchLine.refill
  try simp (maxDischargeDepth := 30) +contextual -implicitDefEqProofs
  all_goals repeat' (split <;> try simp (maxDischargeDepth := 30) +contextual -implicitDefEqProofs)
@[simp] theorem goes_fetchLine {r s : State} (x0 : HartId) (x1 : Nat) (x2 : Nat) (x3 : CacheCheck)
    (h : Goes r s) : Goes r (fetchLine x0 x1 x2 x3 s).1 := by
  refine h.trans ?_
  unfold fetchLine
  try simp (maxDischargeDepth := 30) +contextual -implicitDefEqProofs
  all_goals repeat' (split <;> try simp (maxDischargeDepth := 30) +contextual -implicitDefEqProofs)
@[simp] theorem goes_fetch {r s : State} (x0 : HartId) (x1 : Nat) (x2 : Access)
    (h : Goes r s) : Goes r (fetch x0 x1 x2 s).1 := by
  refine h.trans ?_
  unfold fetch
  try simp (maxDischargeDepth := 30) +contextual -implicitDefEqProofs
  all_goals repeat' (split <;> try simp (maxDischargeDepth := 30) +contextual -implicitDefEqProofs)
@[simp] theorem goes_prefetchLine {r s : State} (x0 : HartId) (x1 : PrefetchKind) (x2 : Access)
    (h : Goes r s) : Goes r (prefetchLine x0 x1 x2 s) := by
  refine h.trans ?_
  unfold prefetchLine
  try simp (maxDischargeDepth := 30) +contextual -implicitDefEqProofs
  all_goals repeat' (split <;> try simp (maxDischargeDepth := 30) +contextual -implicitDefEqProofs)
theorem goes_execPrefetch {s t : State} (x0 : HartId) (x1 : PrefetchKind) (x2 : Access)
    (q : execPrefetch x0 x1 x2 s = .next t) : Goes s t := by
  unfold execPrefetch at q
  refine goes_ok ?_ q
  try simp (maxDischargeDepth := 30) +contextual -implicitDefEqProofs
@[simp] theorem goes_lineOp {r s : State} (x0 : Instr) (h : Goes r s) : Goes r (lineOp x0 s) := by
  refine h.trans ?_
  unfold lineOp
  try simp (maxDischargeDepth := 30) +contextual -implicitDefEqProofs
  all_goals repeat' (split <;> try simp (maxDischargeDepth := 30) +contextual -implicitDefEqProofs)
@[simp] theorem goes_wakeLine {r s : State} (x0 : HartId) (h : Goes r s) : Goes r (wakeLine x0 s) := by
  refine h.trans ?_
  unfold wakeLine
  try simp (maxDischargeDepth := 30) +contextual -implicitDefEqProofs
  all_goals repeat' (split <;> try simp (maxDischargeDepth := 30) +contextual -implicitDefEqProofs)
@[simp] theorem goes_wakeAll {r s : State} (h : Goes r s) : Goes r (wakeAll s) := by
  refine h.trans ?_
  unfold wakeAll
  try simp (maxDischargeDepth := 30) +contextual -implicitDefEqProofs
  all_goals repeat' (split <;> try simp (maxDischargeDepth := 30) +contextual -implicitDefEqProofs)
theorem goes_execSc {s t : State} (x0 : HartId) (x1 : Fin 32) (x2 : Access) (x3 : W64) (x4 : Bool) (x5 : Bool)
    (q : execSc x0 x1 x2 x3 x4 x5 s = .next t) : Goes s t := by
  unfold execSc at q
  refine goes_ok ?_ q
  try simp (maxDischargeDepth := 30) +contextual -implicitDefEqProofs
  all_goals repeat' (split <;> try simp (maxDischargeDepth := 30) +contextual -implicitDefEqProofs)
@[simp] theorem goes_lrTimeout {r s : State} (x0 : HartId) (h : Goes r s) : Goes r (lrTimeout x0 s) := by
  refine h.trans ?_
  unfold lrTimeout
  try simp (maxDischargeDepth := 30) +contextual -implicitDefEqProofs
  all_goals repeat' (split <;> try simp (maxDischargeDepth := 30) +contextual -implicitDefEqProofs)
theorem goes_execLrDeferralTimeout {s t : State} (x0 : HartId)
    (q : execLrDeferralTimeout x0 s = .next t) : Goes s t := by
  unfold execLrDeferralTimeout at q
  refine goes_ok ?_ q
  try simp (maxDischargeDepth := 30) +contextual -implicitDefEqProofs
  all_goals repeat' (split <;> try simp (maxDischargeDepth := 30) +contextual -implicitDefEqProofs)

end Sys2Proof.Machine
end

