-- ==== Sys2Proof/Laws/Cores.lean ====
section
/-!
SUPPORT. What the harts' accesses do where nothing stops them: an untranslated access reaches its range, a read of sound quiet lines
gives memory's bytes, and a write changes its own bytes alone.
-/

namespace Sys2Proof.Machine

theorem maskOf_getLsbD {i n j : Nat} (h : j < 64) : (maskOf i n).getLsbD j = decide (i ≤ j ∧ j < i + n) := by
  have e : (maskOf i n).getLsbD j = ((2 ^ n - 1) * 2 ^ i).testBit j := by
    rw [maskOf, BitVec.getLsbD_ofNat]; simp [h]
  rw [e, Nat.testBit_mul_two_pow, Nat.testBit_two_pow_sub_one]
  by_cases p : i ≤ j <;> simp [p]
  · omega


/-! ### An access that nothing stops -/

section
variable {s : State} {h : HartId} {k : AccessKind} {n : Nat} {c : Access}

theorem access_untranslated {f : Access → State → State} (w : c.walk = none) (e : accessStop (s.hart h) k n c = none) :
    access h k n c f s = f c s := by
  have m : mapped c (s.hart h) = c := by simp [mapped, w]
  have t : walkNow h k c s = s := by simp [walkNow, w]
  simp only [access, m, t, ite_self, e]

/-- Breaking a constrained loop changes nothing that an access is judged by. -/
theorem breakLoop_hart (w : rises s.harts = true) (i : HartId) :
    ∃ a b d, (breakLoop h s).hart i = { s.hart i with looping := a, deferring := b, scFails := d } := by
  unfold breakLoop
  split
  · rename_i q
    by_cases e : i = h
    · subst e
      exact ⟨false, false, 0, by rw [hart_onHart_same s w, Hart.breakLoop, if_pos q]⟩
    · exact ⟨_, _, _, hart_onHart_other s e⟩
  · exact ⟨_, _, _, rfl⟩

theorem breakLoop_rest : breakLoop h s = { s with harts := (breakLoop h s).harts } := by
  unfold breakLoop
  split <;> rfl

theorem accessStop_breakLoop (w : rises s.harts = true) :
    accessStop ((breakLoop h s).hart h) k n c = accessStop (s.hart h) k n c := by
  obtain ⟨a, b, d, e⟩ := breakLoop_hart (h := h) w h
  rw [e]
  rfl

end

/-! ### Reading and writing DRAM -/

section
variable {s : State} {h : HartId} {n : Nat} {c : Access}

theorem carries_touchLines {un al : Bool} (w : rises s.mesh.slices = true) (e : c.cache = {})
    (q : ∀ l ∈ linesOf c.pa.toNat n, quiet s h.val l) : Carries s (touchLines h un al c n s) := by
  unfold touchLines
  simp only [e, ite_self]
  generalize linesOf c.pa.toNat n = ls at q
  induction ls generalizing s with
  | nil => exact carries_refl s
  | cons l ls ih =>
    have a : Carries s (if !mayReach s (hartAgent s h c.fetchedInside) (64 * l) then s
        else if al then touch h un (Ntl.low c.hint) (c.va.toNat + 64 * (l - c.pa.toNat / 64)) l {} s else readThrough h l {} s) :=
      carries_ite (fun _ => carries_refl s) fun _ =>
        carries_ite (fun _ => carries_touch _ _ _ _ _ w (q l (List.mem_cons_self ..))) fun _ =>
          carries_readThrough _ _ w (q l (List.mem_cons_self ..))
    exact a.trans (ih (a.slices w) fun m i => quiet_of_carries a w (q m (List.mem_cons_of_mem _ i)))

/-- A read of lines that may be reached, sound and quiet, gives memory's bytes and moves lines alone. -/
theorem dramRead_readable {un al : Bool} (w : TablesInv s) (q : readable s h c n) :
    Carries s (touchLines h un al c n s) ∧
      dramRead h c un al n s = (touchLines h un al c n s, some (readBytes s.mesh.mem c.pa.toNat n)) := by
  obtain ⟨_, e, ls, bs⟩ := q
  obtain ⟨wh, _, _, _, _, wl, ws, _⟩ := w
  have a : Carries s (touchLines h un al c n s) := carries_touchLines ws e fun l m => (ls l m).2.2
  refine ⟨a, ?_⟩
  have nobad : (linesOf c.pa.toNat n).find? (fun l => !mayReach (touchLines h un al c n s) (hartAgent s h c.fetchedInside) (64 * l)) = none :=
    List.find?_eq_none.mpr fun l m => by simp [mayReach_of_carries a, (ls l m).1]
  have nopoison : (linesOf c.pa.toNat n).any (fun l => mayReach (touchLines h un al c n s) (hartAgent s h c.fetchedInside) (64 * l) &&
      poisoned (touchLines h un al c n s) l) = false := by
    rw [List.any_eq_false]
    intro l m
    simp [poisoned_of_sound (a.sound wl l (ls l m).2.1)]
  have bytes : ((List.range n).map fun i => if mayReach (touchLines h un al c n s) (hartAgent s h c.fetchedInside) (c.pa.toNat + i) then
      bget (touchLines h un al c n s).mesh.mem (c.pa.toNat + i) else 0) = readBytes s.mesh.mem c.pa.toNat n := by
    rw [readBytes_eq, a.mem]
    refine List.map_congr_left fun i m => ?_
    rw [mayReach_of_carries a, bs i (List.mem_range.mp m)]
    rfl
  simp only [dramRead, nopoison, nobad, bytes]
  rfl

/-- The hart's own stores do not stand in the way where its buffers are empty. -/
theorem drainLine_empty {l : Nat} (e : (s.hart h).combining = []) : drainLine h l s = s := by
  simp [drainLine, e]
theorem drainLines_empty (ls : List Nat) (e : (s.hart h).combining = []) : ls.foldl (fun t l => drainLine h l t) s = s := by
  induction ls with
  | nil => rfl
  | cons l ls ih => rw [List.foldl_cons, drainLine_empty e, ih]
theorem drainThrough_empty {p : SbEntry → Bool} (e : (s.hart h).storeBuf = []) : drainThrough h p s = s := by
  simp [drainThrough, countThrough, e, drainN]
theorem forwarded_empty {x : Hart} {a : Nat} (e : x.storeBuf = []) : forwarded x a n = none := by simp [forwarded, e]
theorem settleHart_empty {a : Nat} (e : unbuffered s h) : settleHart h a n s = s := by
  rw [settleHart, drainLines_empty _ e.2, drainThrough_empty e.1]
theorem drainCombining_empty (e : (s.hart h).combining = []) : drainCombining h s = s := by simp [drainCombining, e, byLine]
theorem drainAll_empty (e : (s.hart h).storeBuf = []) : drainAll h s = s := by simp [drainAll, e, drainN]
theorem fence_empty {p q : FenceSet} (e : unbuffered s h) : fence h p q s = s := by
  simp [fence, drainCombining_empty e.2, drainAll_empty e.1, drainThrough_empty e.1]
/-- With both buffers empty before and after, the ordering bits of an atomic instruction ask for nothing more. -/
theorem ordered_empty {aq rl : Bool} {f : State → State} (e : unbuffered s h) (g : unbuffered (f s) h) : ordered h aq rl f s = f s := by
  simp [ordered, fence_empty e, fence_empty g]
theorem bufferStore_io {c : Access} {v : W64} (e : (s.hart h).storeBuf.length < 64) :
    bufferStore h true c v s = s.onHart h fun x => { x with storeBuf := x.storeBuf ++
      [⟨storeBytes c.pa.toNat c.width.bytes v, true, x.keeper, x.kenc, c.fetchedInside, c.va.toNat, Ntl.low c.hint, c.cache⟩] } := by
  unfold bufferStore
  cases (s.hart h).storeBuf.getLast? <;> simp [Nat.not_le.mpr e]
theorem unbuffered_breakLoop (w : rises s.harts = true) (e : unbuffered s h) : unbuffered (breakLoop h s) h := by
  obtain ⟨a, b, d, k⟩ := breakLoop_hart (h := h) w h
  exact ⟨by rw [k]; exact e.1, by rw [k]; exact e.2⟩

/-- Retiring leaves the buffers of the hart as they are. -/
theorem Hart.pass_buffers (x : Hart) (d : Bool) (m : Nat) :
    (x.countRetired.pass d m).storeBuf = x.storeBuf ∧ (x.countRetired.pass d m).combining = x.combining := by
  have t : ∀ (y : Hart) d r, (y.takeTrap d r).storeBuf = y.storeBuf ∧ (y.takeTrap d r).combining = y.combining := by
    intro y d r; cases d <;> exact ⟨rfl, rfl⟩
  have c : x.countRetired.storeBuf = x.storeBuf ∧ x.countRetired.combining = x.combining := by
    unfold Hart.countRetired; split <;> exact ⟨rfl, rfl⟩
  have i : ∀ y : Hart, (y.icount d).storeBuf = y.storeBuf ∧ (y.icount d).combining = y.combining := by
    intro y
    unfold Hart.icount
    dsimp only
    split
    · exact ⟨rfl, rfl⟩
    · split
      · exact t ..
      · exact ⟨rfl, rfl⟩
  exact ⟨(i _).1.trans c.1, (i _).2.trans c.2⟩
theorem unbuffered_retire {f : Hart → Hart} (w : rises s.harts = true) (e : unbuffered s h)
    (p : ∀ x, (f x).storeBuf = x.storeBuf ∧ (f x).combining = x.combining) : unbuffered (retire h (s.onHart h f)) h := by
  unfold unbuffered retire retireLen
  rw [hart_onHart_same _ (by rw [onHart_harts]; exact rises_tmod w), hart_onHart_same _ w, (Hart.pass_buffers ..).1,
    (Hart.pass_buffers ..).2, (p _).1, (p _).2]
  exact e
theorem unbuffered_of_bare {t : State} (e : unbuffered s h) (b : (t.hart h).bare = (s.hart h).bare) : unbuffered t h :=
  ⟨(congrArg Hart.storeBuf b : (Hart.bare _).storeBuf = _).trans e.1, (congrArg Hart.combining b : (Hart.bare _).combining = _).trans e.2⟩

/-- The lines of `n` bytes, at least one, of which the first and the last lie in one line. -/
theorem linesOf_one {a : Nat} (p : 0 < n) (e : (a + n - 1) / 64 = a / 64) : linesOf a n = [a / 64] := by
  unfold linesOf
  rw [if_neg (by omega), e, Nat.sub_self]
  rfl

/-- A masked write of a line changes the bytes of its mask, and marks of poison and what DRAM holds of it. -/
theorem putLine_mem {l : Nat} {d : Line} {m : BitVec 64} : (putLine l d m s).mesh.mem = writeMasked s.mesh.mem (64 * l) m 0 (lineBytes d) := by
  unfold putLine markLine keepStale
  split <;> rfl
theorem putLine_rest {l : Nat} {d : Line} {m : BitVec 64} :
    putLine l d m s = { s with mesh := (putLine l d m s).mesh } ∧ (putLine l d m s).mesh.sram = s.mesh.sram := by
  unfold putLine markLine keepStale
  split <;> exact ⟨rfl, rfl⟩

theorem putLine_harts {l : Nat} {d : Line} {m : BitVec 64} : (putLine l d m s).harts = s.harts := by
  unfold putLine markLine keepStale
  split <;> rfl
theorem mayReach_putLine {l : Nat} {d : Line} {m : BitVec 64} {g : Agent} {a : Nat} :
    mayReach (putLine l d m s) g a = mayReach s g a := by
  unfold putLine markLine keepStale
  split <;> rfl

/-- A write of `n` bytes inside one line, after lines only moved. -/
theorem stored_of_putLine {t : State} {a v : Nat} (w : TablesInv s) (wm : Memory.wf s.mesh.mem = true) (k : Carries s t)
    (f : a % 64 + n ≤ 64) : stored s (putLine (a / 64) (lineOf (List.replicate (a % 64) 0 ++ bytesLE n v)) (maskOf (a % 64) n) t) a n v := by
  obtain ⟨r, q⟩ := putLine_rest (s := t) (l := a / 64) (d := lineOf (List.replicate (a % 64) 0 ++ bytesLE n v)) (m := maskOf (a % 64) n)
  have hh : (putLine (a / 64) (lineOf (List.replicate (a % 64) 0 ++ bytesLE n v)) (maskOf (a % 64) n) t).harts = t.harts := by rw [r]
  refine ⟨?_, q.trans k.sram, fun i => ?_, fun b => ?_⟩
  · have := k.rest
    grind
  · have := k.bare w.1 i
    simpa only [State.hart, hh] using this
  · have len : (List.replicate (a % 64) (0 : Byte) ++ bytesLE n v).length = a % 64 + n := by simp [bytesLE_length]
    have len64 : (lineBytes (lineOf (List.replicate (a % 64) 0 ++ bytesLE n v))).length = 64 := bytesLE_length ..
    rw [putLine_mem, bget_writeMasked (by rw [k.mem]; exact wm), k.mem, len64]
    by_cases p : 64 * (a / 64) ≤ b ∧ b < 64 * (a / 64) + 64
    · have j : b - 64 * (a / 64) < 64 := by omega
      simp only [Nat.zero_add, maskOf_getLsbD j, p, true_and, decide_eq_true_eq]
      by_cases i : a ≤ b ∧ b < a + n
      · rw [if_pos (by omega), if_pos i, lineBytes_lineOf (by omega)]
        simp only [List.getD_eq_getElem?_getD]
        rw [List.getElem?_append_left (by omega), List.getElem?_append_right (by simp; omega)]
        simp only [List.length_replicate]
        congr 2
        omega
      · rw [if_neg (by omega), if_neg i]
    · rw [if_neg (fun z => p ⟨z.1, z.2.1⟩), if_neg (by omega)]

end

/-! ### A broken loop changes no other part -/

theorem tables_of_goes {s t : State} (g : Goes s t) (w : TablesInv s) : TablesInv t := by
  obtain ⟨a, b, c, d, e, f, i, j, k, l⟩ := w
  exact ⟨g.harts a, g.rings b, g.fns c, g.doms d, g.encls e, g.lines f, g.slices i, g.chans j, g.sites k, g.lanes l⟩

theorem tables_breakLoop {s : State} {h : HartId} (w : TablesInv s) : TablesInv (breakLoop h s) :=
  tables_of_goes (goes_breakLoop h (goes_refl s)) w

theorem hartAgent_breakLoop {s : State} {h : HartId} {b : Bool} (w : TablesInv s) : hartAgent (breakLoop h s) h b = hartAgent s h b := by
  obtain ⟨_, _, _, k⟩ := breakLoop_hart (h := h) w.1 h
  simp only [hartAgent, actingFn, k]
  rfl

theorem readable_breakLoop {s : State} {h : HartId} {c : Access} {n : Nat} (w : TablesInv s) (q : readable s h c n) :
    readable (breakLoop h s) h c n := by
  have hm : ∀ g a, mayReach (breakLoop h s) g a = mayReach s g a := fun g a => by rw [breakLoop_rest]; rfl
  have hp : (breakLoop h s).mesh = s.mesh := by rw [breakLoop_rest]
  unfold readable soundLine quiet State.lineAt State.slice at *
  simp only [hartAgent_breakLoop w, hm, hp]
  exact q

/-! ### Drains -/

/-- A hart from what `Hart.bare` leaves of it and the rest. -/
def Hart.fill (y b : Hart) : Hart :=
  { b with counters := y.counters, l1i := y.l1i, l1d := y.l1d, reserved := y.reserved, deferring := y.deferring }

theorem Hart.fill_bare (y : Hart) : y.fill y.bare = y := rfl

/-- A hart that works for an instruction of its past comes back as it was, where `f` changes its caches and the like alone; but for
harts, the state is as `f` leaves it. -/
theorem inWorld_bare {s : State} {h : HartId} {k : Bool} {e : Byte} {f : State → State} (w : rises s.harts = true)
    (b : ∀ t, t = { s with harts := t.harts } → (∀ i, (t.hart i).bind = (s.hart i).bind) → rises t.harts = true →
      rises (f t).harts = true ∧ ∀ i, ((f t).hart i).bare = (t.hart i).bare) :
    (∀ i, ((inWorld h k e f s).hart i).bare = (s.hart i).bare) ∧
      ∃ t, t = { s with harts := t.harts } ∧ (∀ i, (t.hart i).bind = (s.hart i).bind) ∧ rises t.harts = true ∧
        inWorld h k e f s = { f t with harts := (inWorld h k e f s).harts } := by
  unfold inWorld
  dsimp only
  generalize e₁ : s.onHart h _ = s₁
  have w₁ : rises s₁.harts = true := by subst e₁; rw [onHart_harts]; exact rises_tmod w
  have r₁ : s₁ = { s with harts := s₁.harts } := by subst e₁; rfl
  have b₁ : ∀ i, (s₁.hart i).bind = (s.hart i).bind := by
    subst e₁
    intro i
    by_cases n : i = h
    · subst n; rw [hart_onHart_same s w]
    · rw [hart_onHart_other _ n]
  obtain ⟨wr, q⟩ := b s₁ r₁ b₁ w₁
  refine ⟨fun i => ?_, s₁, r₁, b₁, w₁, rfl⟩
  by_cases n : i = h
  · subst n
    have q := q i
    rw [← e₁, hart_onHart_same s w, e₁] at q
    rw [hart_onHart_same _ wr, ← Hart.fill_bare ((f s₁).hart i), q]
    simp [Hart.fill, Hart.bare]
  · rw [hart_onHart_other _ n, q i, ← e₁, hart_onHart_other _ n]

theorem linesIn_one {bs : Tab Byte} {l : Nat} (ne : bs ≠ []) (al : ∀ b ∈ bs, b.1 / 64 = l) : linesIn bs = [l] := by
  have go : ∀ (bs : Tab Byte), (∀ b ∈ bs, b.1 / 64 = l) → bs.foldl (fun t e => addSorted (e.1 / 64) t) [l] = [l] := by
    intro bs
    induction bs with
    | nil => intro _; rfl
    | cons b t ih =>
      intro q
      rw [List.foldl_cons, q b (List.mem_cons_self ..)]
      simp only [addSorted, if_true]
      exact ih fun x m => q x (List.mem_cons_of_mem _ m)
  cases bs with
  | nil => exact absurd rfl ne
  | cons b t =>
    rw [linesIn, List.foldl_cons, al b (List.mem_cons_self ..)]
    exact go t fun x m => al x (List.mem_cons_of_mem _ m)

theorem setBit_getLsbD {w n j : Nat} {m : BitVec w} (h : j < w) : (setBit m n).getLsbD j = (m.getLsbD j || decide (n = j)) := by
  simp only [setBit, BitVec.getLsbD_or, BitVec.getLsbD_twoPow]
  by_cases e : n = j
  · subst e; simp [h]
  · simp [e]

/-- The mask of a line's bytes. -/
theorem lineMask_mask {bs : Tab Byte} {l j : Nat} (al : ∀ b ∈ bs, b.1 / 64 = l) (h : j < 64) :
    (lineMask l bs).2.getLsbD j = bs.any fun b => b.1 == 64 * l + j := by
  have f : bs.filter (fun e => decide (e.1 / 64 = l)) = bs := List.filter_eq_self.mpr fun b m => by simp [al b m]
  have go : ∀ (bs : Tab Byte) (m : BitVec 64), (∀ b ∈ bs, b.1 / 64 = l) →
      (bs.foldl (fun (m : BitVec 64) e => setBit m (e.1 % 64)) m).getLsbD j = (m.getLsbD j || bs.any fun b => b.1 == 64 * l + j) := by
    intro bs
    induction bs with
    | nil => intro m _; simp
    | cons b t ih =>
      intro m q
      rw [List.foldl_cons, ih _ fun x i => q x (List.mem_cons_of_mem _ i), setBit_getLsbD h, List.any_cons, Bool.or_assoc]
      have k := q b (List.mem_cons_self ..)
      congr 2
      rw [Bool.eq_iff_iff]
      simp only [decide_eq_true_eq, beq_iff_eq]
      omega
  have := go bs 0 al
  simpa [lineMask, f] using this

theorem lineMask_data {bs : Tab Byte} {l j : Nat} (al : ∀ b ∈ bs, b.1 / 64 = l) (h : j < 64) :
    (lineBytes (lineMask l bs).1).getD j 0 = tget 0 bs (64 * l + j) := by
  have f : bs.filter (fun e => decide (e.1 / 64 = l)) = bs := List.filter_eq_self.mpr fun b m => by simp [al b m]
  simp only [lineMask, f]
  rw [lineBytes_lineOf (by simp)]
  simp [h]

/-- A store-buffer entry inside one line that its hart may write, the line quiet, changes exactly the bytes that it holds. -/
theorem performEntry_bytes {s : State} {h : HartId} {e : SbEntry} {l : Nat} (w : TablesInv s) (wm : Memory.wf s.mesh.mem = true)
    (io : e.io = false) (ne : e.bytes ≠ []) (al : ∀ b ∈ e.bytes, b.1 / 64 = l) (ca : e.cache = {})
    (mr : mayReach s (entryAgent s h e.keeper e.kenc e.inside) (64 * l) = true) (q : quiet s h.val l) :
    (performEntry h e s = { s with
        harts := (performEntry h e s).harts, mesh := (performEntry h e s).mesh, out := (performEntry h e s).out
        free := (performEntry h e s).free }) ∧
      (performEntry h e s).mesh.sram = s.mesh.sram ∧ (∀ i, ((performEntry h e s).hart i).bare = (s.hart i).bare) ∧
      ∀ a, bget (performEntry h e s).mesh.mem a = if e.bytes.any (fun b => b.1 == a) then tget 0 e.bytes a else bget s.mesh.mem a := by
  unfold performEntry
  generalize ef : (fun t : State => if e.io = true then ioStore h e t else _) = f
  have k : ∀ t, t = { s with harts := t.harts } → (∀ i, (t.hart i).bind = (s.hart i).bind) → rises t.harts = true →
      ∃ u, Carries t u ∧ f t = putLine l (lineMask l e.bytes).1 (lineMask l e.bytes).2 u := by
    intro t tr tb wt
    subst ef
    have hm : ∀ g a, mayReach t g a = mayReach s g a := fun g a => by rw [tr]; rfl
    have hg : entryAgent t h e.keeper e.kenc e.inside = entryAgent s h e.keeper e.kenc e.inside := by simp only [entryAgent, actingFn, tb]
    have hq : quiet t h.val l := by rw [tr]; exact q
    have hs : rises t.mesh.slices = true := by rw [tr]; exact w.2.2.2.2.2.2.1
    have a := carries_clearReservations l none (carries_touch h true e.low e.va l hs hq)
    have fl : storeLine h (entryAgent t h e.keeper e.kenc e.inside) e l t =
        putLine l (lineMask l e.bytes).1 (lineMask l e.bytes).2 (clearReservations l none (touch h true e.low e.va l {} t)) := by
      simp only [storeLine, hm, hg, mr, ca]
      rfl
    refine ⟨_, a, ?_⟩
    have mk : ∀ g x, mayReach (putLine l (lineMask l e.bytes).1 (lineMask l e.bytes).2 (clearReservations l none (touch h true e.low e.va l {} t))) g x
        = mayReach t g x := by
      intro g x
      rw [mayReach_putLine]
      exact mayReach_of_carries a
    simp only [io, linesIn_one ne al, Bool.false_eq_true, if_false, List.filter_cons, hm, hg, mr, if_true, List.filter_nil,
      List.foldl_cons, List.foldl_nil, List.find?_cons, List.find?_nil]
    rw [← hg, fl]
    simp only [mk, hm, hg, mr, Bool.not_true]
  have kb : ∀ t, t = { s with harts := t.harts } → (∀ i, (t.hart i).bind = (s.hart i).bind) → rises t.harts = true →
      rises (f t).harts = true ∧ ∀ i, ((f t).hart i).bare = (t.hart i).bare := by
    intro t tr tb wt
    obtain ⟨u, a, fu⟩ := k t tr tb wt
    have hh : (f t).harts = u.harts := by rw [fu, (putLine_rest ..).1]
    exact ⟨hh ▸ a.harts wt, fun i => by simp only [State.hart, hh]; exact a.bare wt i⟩
  obtain ⟨bare, t, tr, tb, wt, rest⟩ := inWorld_bare (h := h) (k := e.keeper) (e := e.kenc) (f := f) w.1 kb
  obtain ⟨u, a, fu⟩ := k t tr tb wt
  have mesh : (inWorld h e.keeper e.kenc f s).mesh = (f t).mesh := by rw [rest]
  have tm : t.mesh = s.mesh := by rw [tr]
  refine ⟨?_, ?_, bare, fun x => ?_⟩
  · have r := a.rest
    have p := (putLine_rest (s := u) (l := l) (d := (lineMask l e.bytes).1) (m := (lineMask l e.bytes).2)).1
    rw [← fu] at p
    grind
  · rw [mesh, fu, (putLine_rest ..).2, a.sram, tm]
  · rw [mesh, fu, putLine_mem, a.mem, tm, bget_writeMasked wm]
    have len : (lineBytes (lineMask l e.bytes).1).length = 64 := bytesLE_length ..
    rw [len]
    by_cases p : 64 * l ≤ x ∧ x < 64 * l + 64
    · have j : x - 64 * l < 64 := by omega
      have ex : 64 * l + (x - 64 * l) = x := by omega
      simp only [Nat.zero_add, lineMask_mask al j, lineMask_data al j, ex, p, true_and]
    · rw [if_neg (fun z => p ⟨z.1, z.2.1⟩), if_neg]
      intro z
      obtain ⟨b, m, eb⟩ := List.any_eq_true.mp z
      have := al b m
      simp only [beq_iff_eq] at eb
      omega

/-- A change of a hart that keeps its reservation and its deferral keeps who defers a line. -/
theorem deferredBy_onHart {s : State} {h : HartId} {f : Hart → Hart} {l b : Nat} (w : rises s.harts = true)
    (p : ∀ x, (f x).deferring = x.deferring ∧ (f x).reserved = x.reserved) : deferredBy (s.onHart h f) l b = deferredBy s l b := by
  unfold deferredBy
  congr 1
  funext i
  by_cases n : i = h
  · subst n; simp only [hart_onHart_same s w, p]
  · simp only [hart_onHart_other s n]

/-- A combining-buffer entry of a DRAM line that its hart may write, with no request waiting for the line and none of the hart's
writes held back, changes exactly the bytes of its mask. -/
theorem drainEntry_bytes {s : State} {h : HartId} {e : NtEntry} (w : TablesInv s) (wm : Memory.wf s.mesh.mem = true)
    (ll : e.line < dramLines) (mr : mayReach s (entryAgent s h e.keeper e.kenc e.inside) (64 * e.line) = true)
    (q : ∀ r ∈ (s.slice (homeOf e.line)).queued, r.line ≠ e.line) (df : deferredBy s e.line h.val = false)
    (bh : s.mesh.behind = []) :
    (drainEntry h e s = { s with
        harts := (drainEntry h e s).harts, mesh := (drainEntry h e s).mesh, out := (drainEntry h e s).out
        free := (drainEntry h e s).free }) ∧
      (drainEntry h e s).mesh.sram = s.mesh.sram ∧
      (∀ i, ((drainEntry h e s).hart i).bare = ((s.onHart h fun x => { x with combining := x.combining.erase e }).hart i).bare) ∧
      ∀ a, bget (drainEntry h e s).mesh.mem a =
        if a / 64 = e.line ∧ e.mask.getLsbD (a % 64) = true then (lineBytes e.data).getD (a % 64) 0 else bget s.mesh.mem a := by
  generalize e₀ : (s.onHart h fun x => { x with combining := x.combining.erase e }) = s₀
  have r₀ : s₀ = { s with harts := s₀.harts } := by subst e₀; rfl
  have w₀ : rises s₀.harts = true := by subst e₀; rw [onHart_harts]; exact rises_tmod w.1
  have b₀ : ∀ i, (s₀.hart i).bind = (s.hart i).bind := by
    subst e₀
    intro i
    by_cases n : i = h
    · subst n; rw [hart_onHart_same s w.1]
    · rw [hart_onHart_other s n]
  have d₀ : deferredBy s₀ e.line h.val = false := by
    subst e₀
    refine (deferredBy_onHart w.1 ?_).trans df
    exact fun _ => ⟨rfl, rfl⟩
  have sl₀ : rises s₀.mesh.slices = true := by rw [r₀]; exact w.2.2.2.2.2.2.1
  have k : Carries s₀ (countEvent h 0x0B 1 s₀) := carries_countEvent _ _ _ (carries_refl _)
  have d₁ : deferredBy (countEvent h 0x0B 1 s₀) e.line h.val = false := by
    unfold countEvent
    dsimp only
    split
    · exact d₀
    · refine (deferredBy_onHart w₀ ?_).trans d₀
      exact fun _ => ⟨rfl, rfl⟩
  have m₁ : (countEvent h 0x0B 1 s₀).mesh = s.mesh := by
    unfold countEvent
    dsimp only
    split <;> (subst e₀; rfl)
  have b₁ : ∀ i, ((countEvent h 0x0B 1 s₀).hart i).bind = (s.hart i).bind := by
    intro i
    have := k.bare w₀ i
    exact (by simpa [Hart.bare] using congrArg Hart.bind this : _ = _).trans (b₀ i)
  have g₁ : entryAgent (countEvent h 0x0B 1 s₀) h e.keeper e.kenc e.inside = entryAgent s h e.keeper e.kenc e.inside := by
    simp only [entryAgent, actingFn, b₁]
  have mr₁ : mayReach (countEvent h 0x0B 1 s₀) (entryAgent s h e.keeper e.kenc e.inside) (64 * e.line) = true := by
    rw [mayReach_of_carries k, r₀]; exact mr
  have fin : Carries s₀ (clearReservations e.line none (finishTxn e.line (countEvent h 0x0B 1 s₀))) :=
    carries_clearReservations _ _ (k.trans (carries_finishTxn _ (k.slices sl₀) (by
      simpa only [State.slice, m₁] using q)))
  have fl : drainEntry h e s = if e.mask = 0 then finishTxn e.line (countEvent h 0x0B 1 s₀) else
      allocL3 e.line .dirty e.keeper (dropCopies e.line (putLine e.line e.data e.mask
        (clearReservations e.line none (finishTxn e.line (countEvent h 0x0B 1 s₀))))) := by
    have dd : deferredBy (countEvent h 0x0B 1 s₀) e.line (entryAgent s h e.keeper e.kenc e.inside).requester = false := d₁
    unfold drainEntry
    rw [e₀]
    simp only [g₁, mr₁, if_true, agentWriteLine, ll, and_self, dd, m₁, bh, List.any_nil, Bool.or_false, Bool.false_eq_true, if_false,
      homeWrite, mergeAtHome]
    rfl
  have fin' : Carries s₀ (finishTxn e.line (countEvent h 0x0B 1 s₀)) :=
    k.trans (carries_finishTxn _ (k.slices sl₀) (by simpa only [State.slice, m₁] using q))
  rw [fl]
  split
  · rename_i z
    refine ⟨?_, ?_, fin'.bare w₀, fun a => ?_⟩
    · have := fin'.rest; grind
    · rw [fin'.sram, r₀]
    · rw [fin'.mem, r₀, z]; simp
  · generalize clearReservations e.line none (finishTxn e.line (countEvent h 0x0B 1 s₀)) = u at fin
    have c : Carries (putLine e.line e.data e.mask u)
        (allocL3 e.line .dirty e.keeper (dropCopies e.line (putLine e.line e.data e.mask u))) :=
      carries_allocL3 _ _ _ (carries_dropCopies _ (carries_refl _))
    obtain ⟨p, ps⟩ := putLine_rest (s := u) (l := e.line) (d := e.data) (m := e.mask)
    have ph : (putLine e.line e.data e.mask u).harts = u.harts := by rw [p]
    refine ⟨?_, ?_, fun i => ?_, fun a => ?_⟩
    · have := c.rest; have := fin.rest; grind
    · rw [c.sram, ps, fin.sram, r₀]
    · rw [c.bare (by rw [ph]; exact fin.harts w₀) i]
      simp only [State.hart, ph]
      exact fin.bare w₀ i
    · have len : (lineBytes e.data).length = 64 := bytesLE_length ..
      rw [c.mem, putLine_mem, fin.mem, r₀, bget_writeMasked wm, len]
      by_cases z : a / 64 = e.line
      · have x : a - 64 * e.line = a % 64 := by omega
        have y : 64 * e.line ≤ a ∧ a < 64 * e.line + 64 := by omega
        simp only [Nat.zero_add, x, y, z, true_and]
      · rw [if_neg (by omega), if_neg (fun n => z n.1)]

end Sys2Proof.Machine
end

