-- ==== Sys2Proof/Laws/Frames.lean ====
section
/-!
SUPPORT. What a sent frame parses as, on a lane and on the chain.
-/

namespace Sys2Proof.Machine

/-- The bytes before a frame's CRC. -/
theorem frameBytes_split (e q t f : Nat) (p : List Byte) : ∃ b c : List Byte, frameBytes e q t f p = b ++ c ∧ c = bytesBE 4 (crc32c b).toNat ∧
    b = bytesBE 2 e ++ [0, 0] ++ bytesBE 4 q ++ bytesBE 1 t ++ bytesBE 1 f ++ bytesBE 2 p.length ++ p :=
  ⟨_, _, rfl, rfl, rfl⟩

/-- A frame that is sent parses as what it carries, judged by its form (R750, R751, R753). -/
theorem parseBytes_frameBytes (sound : Frame → Nat → Bool) {e q t f : Nat} {p : List Byte} (he : e < 65536) (ht : t < 256)
    (hf : f < 256) (hp : p.length < 65536) :
    parseBytes sound (frameBytes e q t f p) =
      if sound ⟨e, BitVec.ofNat 32 q, t, f, p⟩ 0 then .good ⟨e, BitVec.ofNat 32 q, t, f, p⟩ else .malformed := by
  obtain ⟨b, c, hb, hc, hs⟩ := frameBytes_split e q t f p
  have lc : c.length = 4 := by simp [hc, bytesBE, bytesLE_length]
  have lb : b.length = 12 + p.length := by simp [hs, bytesBE, bytesLE_length]; omega
  have l : (frameBytes e q t f p).length = 16 + p.length := by simp [hb, lb, lc]; omega
  have f0 : beField (b ++ c) 0 2 = e := by
    simp [hs, beField, bytesBE, bytesLE, ofBytesBE, ofBytesLE]; omega
  have f2 : beField (b ++ c) 2 2 = 0 := by
    simp [hs, beField, bytesBE, bytesLE, ofBytesBE, ofBytesLE]
  have f4 : BitVec.ofNat 32 (beField (b ++ c) 4 4) = BitVec.ofNat 32 q := by
    have : beField (b ++ c) 4 4 = q % 2 ^ 32 := by
      simp [hs, beField, bytesBE, bytesLE, ofBytesBE, ofBytesLE]; omega
    rw [this]
    exact BitVec.eq_of_toNat_eq (by simp)
  have f8 : beField (b ++ c) 8 1 = t := by
    simp [hs, beField, bytesBE, bytesLE, ofBytesBE, ofBytesLE]; omega
  have f9 : beField (b ++ c) 9 1 = f := by
    simp [hs, beField, bytesBE, bytesLE, ofBytesBE, ofBytesLE]; omega
  have f10 : beField (b ++ c) 10 2 = p.length := by
    simp [hs, beField, bytesBE, bytesLE, ofBytesBE, ofBytesLE]; omega
  have fp : ((b ++ c).drop 12).take p.length = p := by
    simp [hs, bytesBE, bytesLE]
  have fc : beField (b ++ c) (12 + p.length) 4 = (crc32c b).toNat := by
    rw [beField, ← lb, List.drop_left, hc, List.take_of_length_le (by simp [bytesBE, bytesLE_length]), ofBytesBE_bytesBE]
    exact Nat.mod_eq_of_lt (crc32c b).isLt
  have tk : (b ++ c).take (12 + p.length) = b := by rw [← lb, List.take_left]
  rw [parseBytes]
  have e4 : 16 + p.length - 4 = 12 + p.length := by omega
  have e16 : 16 + p.length - 16 = p.length := by omega
  rw [hb] at l ⊢
  simp only [l, e4, e16, f0, f2, f4, f8, f9, f10, fp, fc, tk]
  have n : ¬(16 + p.length < 16) := by omega
  simp [n]

/-! ### Blocks (R748, R749) -/

/-- A control block carries its octets. -/
theorem blockBytes_control {t : Byte} {bs : List Byte} (h : bs.length ≤ 7) :
    blockBytes (controlBlock t bs) = t :: (bs ++ List.replicate (7 - bs.length) 0) := by
  have l : (t :: bs).length ≤ 8 := by simp; omega
  have k : ofBytesLE (t :: bs) < 2 ^ 64 :=
    Nat.lt_of_lt_of_le (ofBytesLE_lt _) (Nat.le_trans (Nat.pow_le_pow_right (by omega) l) (by omega))
  rw [blockBytes, controlBlock, BitVec.toNat_ofNat, Nat.mod_eq_of_lt k, bytesLE_ofBytesLE l]
  simp

/-- A data block carries its eight octets. -/
theorem blockBytes_data {bs : List Byte} (h : bs.length = 8) : blockBytes ⟨false, BitVec.ofNat 64 (ofBytesLE bs)⟩ = bs := by
  have k : ofBytesLE bs < 2 ^ 64 := Nat.lt_of_lt_of_le (ofBytesLE_lt _) (by rw [h]; omega)
  rw [blockBytes, BitVec.toNat_ofNat, Nat.mod_eq_of_lt k, bytesLE_ofBytesLE (by omega)]
  simp [h]

/-- Each terminate block's type says how many octets it carries. -/
theorem terminate_index : ∀ n : Fin 8, terminateTypes.findIdx? (· == terminateTypes.getD n.val 0) = some n.val := by decide

/-- The terminate block gives its octets back. -/
theorem readRest_terminate {bs : List Byte} (h : bs.length < 8) (more : List Block) :
    readRest (controlBlock (terminateTypes.getD bs.length 0) bs :: more) = some bs := by
  have c : ∀ t b, (controlBlock t b).control = true := fun _ _ => rfl
  rw [readRest, if_pos (c _ _), blockBytes_control (by omega), List.headD_cons, terminate_index ⟨bs.length, h⟩]
  simp

/-- Data blocks and their terminate block give their octets back. -/
theorem readRest_restBlocks : ∀ (fuel : Nat) (bs : List Byte) (more : List Block), bs.length < 8 * (fuel + 1) →
    readRest (restBlocks fuel bs ++ more) = some bs
  | 0, bs, more, h => readRest_terminate (by omega) more
  | fuel + 1, bs, more, h => by
    rw [restBlocks]
    split
    · exact readRest_terminate ‹_› more
    · rw [List.cons_append, readRest, if_neg (by simp), readRest_restBlocks fuel (bs.drop 8) more (by simp; omega),
        blockBytes_data (by simp; omega)]
      simp

/-- The blocks of a frame carry the frame. -/
theorem readFrame_frameBlocks {bs : List Byte} (h : 7 ≤ bs.length) : readFrame (frameBlocks bs) = some bs := by
  have l : (bs.take 7).length = 7 := by simp; omega
  rw [frameBlocks, readFrame, blockBytes_control (by omega), readRest_restBlocks _ _ _ (by simp; omega)]
  simp [controlBlock, startType, l]

/-- A frame that is sent in blocks parses as what it carries, judged by its form. -/
theorem parseBy_frameBlocks (sound : Frame → Nat → Bool) {e q t f : Nat} {p : List Byte} (he : e < 65536) (ht : t < 256)
    (hf : f < 256) (hp : p.length < 65536) :
    parseBy sound (frameBlocks (frameBytes e q t f p)) =
      if sound ⟨e, BitVec.ofNat 32 q, t, f, p⟩ 0 then .good ⟨e, BitVec.ofNat 32 q, t, f, p⟩ else .malformed := by
  have l : 7 ≤ (frameBytes e q t f p).length := by simp [frameBytes, bytesBE, bytesLE_length]; omega
  rw [parseBy, readFrame_frameBlocks l]
  exact parseBytes_frameBytes sound he ht hf hp

/-- The descrambler, started from the scrambler's state, gives the bits back (R748). -/
theorem descramble_scramble (bs : List Bool) (st : BitVec 58) : descrambleBits st (scrambleBits st bs).1 = (bs, (scrambleBits st bs).2) := by
  induction bs generalizing st with
  | nil => rfl
  | cons b bs ih =>
    rw [scrambleBits, descrambleBits]
    change (_, _) = (_, _)
    rw [show (st <<< 1) ||| (if (scrambleBit st b).1 then 1#58 else 0#58) = (scrambleBit st b).2 from rfl, ih]
    simp [scrambleBit]

end Sys2Proof.Machine
end

