-- ==== Sys2Proof/Laws/GoesCsrs.lean ====
section
/-!
SUPPORT. What the operations of Machine/Csrs.lean keep (Laws/Goes.lean).
-/

namespace Sys2Proof.Machine

@[simp] theorem goes_csrStore {r s : State} (x0 : HartId) (x1 : Nat) (x2 : W64)
    (h : Goes r s) : Goes r (csrStore x0 x1 x2 s) := by
  refine h.trans ?_
  unfold csrStore
  try simp (maxDischargeDepth := 30) +contextual -implicitDefEqProofs
  all_goals repeat' (split <;> try simp (maxDischargeDepth := 30) +contextual -implicitDefEqProofs)
@[simp] theorem goes_csrAccess {r s : State} (x0 : HartId) (x1 : Nat) (x2 : Bool) (x3 : W32) (x4 : State → State) (hx4 : ∀ t, Goes t (x4 t))
    (h : Goes r s) : Goes r (csrAccess x0 x1 x2 x3 x4 s) := by
  refine h.trans ?_
  have kx4 : ∀ r t, Goes r t → Goes r (x4 t) := fun _ t h => h.trans (hx4 t)
  unfold csrAccess
  try simp (maxDischargeDepth := 30) +contextual -implicitDefEqProofs [kx4]
  all_goals repeat' (split <;> try simp (maxDischargeDepth := 30) +contextual -implicitDefEqProofs [kx4])
@[simp] theorem goes_csrWrite {r s : State} (x0 : HartId) (x1 : Nat) (x2 : W64) (x3 : W32)
    (h : Goes r s) : Goes r (csrWrite x0 x1 x2 x3 s) := by
  refine h.trans ?_
  unfold csrWrite
  try simp (maxDischargeDepth := 30) +contextual -implicitDefEqProofs
  all_goals repeat' (split <;> try simp (maxDischargeDepth := 30) +contextual -implicitDefEqProofs)
theorem goes_execMisaWrite {s t : State} (x0 : HartId) (x1 : W64) (x2 : W32)
    (q : execMisaWrite x0 x1 x2 s = .next t) : Goes s t := by
  unfold execMisaWrite at q
  simp only [Host.Outcome.next.injEq] at q
  subst q
  try simp (maxDischargeDepth := 30) +contextual -implicitDefEqProofs
  all_goals repeat' (split <;> try simp (maxDischargeDepth := 30) +contextual -implicitDefEqProofs)
theorem goes_execTrapVectorWrite {s t : State} (x0 : HartId) (x1 : TvecReg) (x2 : W64) (x3 : W32)
    (q : execTrapVectorWrite x0 x1 x2 x3 s = .next t) : Goes s t := by
  unfold execTrapVectorWrite at q
  simp only [Host.Outcome.next.injEq] at q
  subst q
  try simp (maxDischargeDepth := 30) +contextual -implicitDefEqProofs
  all_goals repeat' (split <;> try simp (maxDischargeDepth := 30) +contextual -implicitDefEqProofs)
theorem goes_execSatpWrite {s t : State} (x0 : HartId) (x1 : AtpReg) (x2 : W64) (x3 : W32)
    (q : execSatpWrite x0 x1 x2 x3 s = .next t) : Goes s t := by
  unfold execSatpWrite at q
  simp only [Host.Outcome.next.injEq] at q
  subst q
  try simp (maxDischargeDepth := 30) +contextual -implicitDefEqProofs
  all_goals repeat' (split <;> try simp (maxDischargeDepth := 30) +contextual -implicitDefEqProofs)
theorem goes_execPmpcfgWrite {s t : State} (x0 : HartId) (x1 : Fin 16) (x2 : Byte) (x3 : W32)
    (q : execPmpcfgWrite x0 x1 x2 x3 s = .next t) : Goes s t := by
  unfold execPmpcfgWrite at q
  simp only [Host.Outcome.next.injEq] at q
  subst q
  try simp (maxDischargeDepth := 30) +contextual -implicitDefEqProofs
  all_goals repeat' (split <;> try simp (maxDischargeDepth := 30) +contextual -implicitDefEqProofs)
theorem goes_execMhpmeventWrite {s t : State} (x0 : HartId) (x1 : Fin 8) (x2 : W64) (x3 : W32)
    (q : execMhpmeventWrite x0 x1 x2 x3 s = .next t) : Goes s t := by
  unfold execMhpmeventWrite at q
  simp only [Host.Outcome.next.injEq] at q
  subst q
  try simp (maxDischargeDepth := 30) +contextual -implicitDefEqProofs
  all_goals repeat' (split <;> try simp (maxDischargeDepth := 30) +contextual -implicitDefEqProofs)
theorem goes_execCounterWrite {s t : State} (x0 : HartId) (x1 : CounterId) (x2 : W64) (x3 : W32)
    (q : execCounterWrite x0 x1 x2 x3 s = .next t) : Goes s t := by
  unfold execCounterWrite at q
  simp only [Host.Outcome.next.injEq] at q
  subst q
  try simp (maxDischargeDepth := 30) +contextual -implicitDefEqProofs
  all_goals repeat' (split <;> try simp (maxDischargeDepth := 30) +contextual -implicitDefEqProofs)
theorem goes_execSkulctlWrite {s t : State} (x0 : HartId) (x1 : W64) (x2 : W32)
    (q : execSkulctlWrite x0 x1 x2 s = .next t) : Goes s t := by
  unfold execSkulctlWrite at q
  simp only [Host.Outcome.next.injEq] at q
  subst q
  try simp (maxDischargeDepth := 30) +contextual -implicitDefEqProofs
  all_goals repeat' (split <;> try simp (maxDischargeDepth := 30) +contextual -implicitDefEqProofs)
theorem goes_execHkulctlWrite {s t : State} (x0 : HartId) (x1 : W64) (x2 : W32)
    (q : execHkulctlWrite x0 x1 x2 s = .next t) : Goes s t := by
  unfold execHkulctlWrite at q
  simp only [Host.Outcome.next.injEq] at q
  subst q
  try simp (maxDischargeDepth := 30) +contextual -implicitDefEqProofs
  all_goals repeat' (split <;> try simp (maxDischargeDepth := 30) +contextual -implicitDefEqProofs)
theorem goes_execHkuldispWrite {s t : State} (x0 : HartId) (x1 : W64) (x2 : W32)
    (q : execHkuldispWrite x0 x1 x2 s = .next t) : Goes s t := by
  unfold execHkuldispWrite at q
  simp only [Host.Outcome.next.injEq] at q
  subst q
  try simp (maxDischargeDepth := 30) +contextual -implicitDefEqProofs
  all_goals repeat' (split <;> try simp (maxDischargeDepth := 30) +contextual -implicitDefEqProofs)
theorem goes_execSeedCsrRead {s t : State} (x0 : HartId) (x1 : Fin 32) (x2 : W32)
    (q : execSeedCsrRead x0 x1 x2 s = .next t) : Goes s t := by
  unfold execSeedCsrRead at q
  simp only [Host.Outcome.next.injEq] at q
  subst q
  try simp (maxDischargeDepth := 30) +contextual -implicitDefEqProofs
  all_goals repeat' (split <;> try simp (maxDischargeDepth := 30) +contextual -implicitDefEqProofs)
@[simp] theorem goes_resolveBranch {r s : State} (x0 : HartId) (x1 : Nat) (x2 : Bool) (x3 : Bool) (x4 : Bool) (x5 : Bool) (x6 : W64)
    (h : Goes r s) : Goes r (resolveBranch x0 x1 x2 x3 x4 x5 x6 s) := by
  refine h.trans ?_
  unfold resolveBranch
  try simp (maxDischargeDepth := 30) +contextual -implicitDefEqProofs
  all_goals repeat' (split <;> try simp (maxDischargeDepth := 30) +contextual -implicitDefEqProofs)
theorem goes_execPredFlush {s t : State} (x0 : HartId) (x1 : W32)
    (q : execPredFlush x0 x1 s = .next t) : Goes s t := by
  unfold execPredFlush at q
  simp only [Host.Outcome.next.injEq] at q
  subst q
  try simp (maxDischargeDepth := 30) +contextual -implicitDefEqProofs
  all_goals repeat' (split <;> try simp (maxDischargeDepth := 30) +contextual -implicitDefEqProofs)
theorem goes_execPredBar {s t : State} (x0 : HartId) (x1 : W32) (q : execPredBar x0 x1 s = .next t) : Goes s t := by
  unfold execPredBar at q
  simp only [Host.Outcome.next.injEq] at q
  subst q
  try simp (maxDischargeDepth := 30) +contextual -implicitDefEqProofs
  all_goals repeat' (split <;> try simp (maxDischargeDepth := 30) +contextual -implicitDefEqProofs)
theorem goes_execPause {s t : State} (x0 : HartId) (q : execPause x0 s = .next t) : Goes s t := by
  unfold execPause at q
  simp only [Host.Outcome.next.injEq] at q
  subst q
  try simp (maxDischargeDepth := 30) +contextual -implicitDefEqProofs
theorem goes_execWfi {s t : State} (x0 : HartId) (q : execWfi x0 s = .next t) : Goes s t := by
  unfold execWfi at q
  simp only [Host.Outcome.next.injEq] at q
  subst q
  try simp (maxDischargeDepth := 30) +contextual -implicitDefEqProofs
@[simp] theorem goes_hartClocks {r s : State} (x0 : HartId) (x1 : Nat)
    (h : Goes r s) : Goes r (hartClocks x0 x1 s) := by
  refine h.trans ?_
  unfold hartClocks
  exact goes_ite (fun _ => goes_refl s) (fun _ => goes_onHart (goes_ite (fun _ => goes_countEvent _ _ _ (goes_refl s)) (fun _ => goes_refl s)))

end Sys2Proof.Machine
end

