-- ==== Sys2Proof/Laws/GoesKeeperWorld.lean ====
section
/-!
SUPPORT. What the operations of Machine/KeeperWorld.lean keep (Laws/Goes.lean).
-/

namespace Sys2Proof.Machine

@[simp] theorem goes_dropKeeperL1 {r s : State} (x0 : HartId) (h : Goes r s) : Goes r (dropKeeperL1 x0 s) := by
  refine h.trans ?_
  unfold dropKeeperL1
  try simp (maxDischargeDepth := 30) +contextual -implicitDefEqProofs
  all_goals repeat' (split <;> try simp (maxDischargeDepth := 30) +contextual -implicitDefEqProofs)
@[simp] theorem goes_partitionExit {r s : State} (x0 : HartId) (h : Goes r s) : Goes r (partitionExit x0 s) := by
  refine h.trans ?_
  unfold partitionExit
  try simp (maxDischargeDepth := 30) +contextual -implicitDefEqProofs
@[simp] theorem goes_flushExitLine {r s : State} (x0 : HartId) (x1 : Nat)
    (h : Goes r s) : Goes r (flushExitLine x0 x1 s) := by
  refine h.trans ?_
  unfold flushExitLine
  try simp (maxDischargeDepth := 30) +contextual -implicitDefEqProofs
  all_goals repeat' (split <;> try simp (maxDischargeDepth := 30) +contextual -implicitDefEqProofs)
@[simp] theorem goes_flushExit {r s : State} (x0 : HartId) (x1 : Byte)
    (h : Goes r s) : Goes r (flushExit x0 x1 s) := by
  refine h.trans ?_
  unfold flushExit
  try simp (maxDischargeDepth := 30) +contextual -implicitDefEqProofs
@[simp] theorem goes_exitAction {r s : State} (x0 : HartId) (x1 : Byte)
    (h : Goes r s) : Goes r (exitAction x0 x1 s) := by
  refine h.trans ?_
  unfold exitAction
  try simp (maxDischargeDepth := 30) +contextual -implicitDefEqProofs
@[simp] theorem goes_leaveEnclave {r s : State} (x0 : HartId) (x1 : EnclState)
    (h : Goes r s) : Goes r (leaveEnclave x0 x1 s) := by
  refine h.trans ?_
  unfold leaveEnclave
  try simp (maxDischargeDepth := 30) +contextual -implicitDefEqProofs
@[simp] theorem goes_keeperMode {r s : State} (x0 : HartId) (x1 : W32) (x2 : State → State) (hx2 : ∀ t, Goes t (x2 t))
    (h : Goes r s) : Goes r (keeperMode x0 x1 x2 s) := by
  refine h.trans ?_
  have kx2 : ∀ r t, Goes r t → Goes r (x2 t) := fun _ t h => h.trans (hx2 t)
  unfold keeperMode
  try simp (maxDischargeDepth := 30) +contextual -implicitDefEqProofs [kx2]
  all_goals repeat' (split <;> try simp (maxDischargeDepth := 30) +contextual -implicitDefEqProofs [kx2])
@[simp] theorem goes_keeperStatus {r s : State} (x0 : HartId) (x1 : Nat)
    (h : Goes r s) : Goes r (keeperStatus x0 x1 s) := by
  refine h.trans ?_
  unfold keeperStatus
  try simp (maxDischargeDepth := 30) +contextual -implicitDefEqProofs
@[simp] theorem goes_enterEnclave {r s : State} (x0 : HartId) (x1 : Nat)
    (h : Goes r s) : Goes r (enterEnclave x0 x1 s) := by
  refine h.trans ?_
  unfold enterEnclave
  try simp (maxDischargeDepth := 30) +contextual -implicitDefEqProofs
theorem goes_execKenter {s t : State} (x0 : HartId) (x1 : W32) (q : execKenter x0 x1 s = .next t) : Goes s t := by
  unfold execKenter at q
  refine goes_ok (goes_instr _ _ (fun t => goes_vendor _ _ _ _ (fun t => goes_keeperMode _ _ _ (fun t => ?_) (goes_refl t)) (goes_refl t))
    (goes_refl s)) q
  try simp only
  split <;> simp
@[simp] theorem goes_restoreSaved {r s : State} (x0 : HartId) (x1 : Nat)
    (h : Goes r s) : Goes r (restoreSaved x0 x1 s) := by
  refine h.trans ?_
  unfold restoreSaved
  try simp (maxDischargeDepth := 30) +contextual -implicitDefEqProofs
@[simp] theorem goes_resumeEnclave {r s : State} (x0 : HartId) (x1 : Nat)
    (h : Goes r s) : Goes r (resumeEnclave x0 x1 s) := by
  refine h.trans ?_
  unfold resumeEnclave
  try simp (maxDischargeDepth := 30) +contextual -implicitDefEqProofs
theorem goes_execKresume {s t : State} (x0 : HartId) (x1 : W32) (q : execKresume x0 x1 s = .next t) : Goes s t := by
  unfold execKresume at q
  refine goes_ok (goes_instr _ _ (fun t => goes_vendor _ _ _ _ (fun t => goes_keeperMode _ _ _ (fun t => ?_) (goes_refl t)) (goes_refl t))
    (goes_refl s)) q
  try simp only
  split <;> simp
@[simp] theorem goes_kexit {r s : State} (x0 : HartId) (x1 : W32) (h : Goes r s) : Goes r (kexit x0 x1 s) := by
  refine h.trans ?_
  unfold kexit
  try simp (maxDischargeDepth := 30) +contextual -implicitDefEqProofs
  all_goals repeat' (split <;> try simp (maxDischargeDepth := 30) +contextual -implicitDefEqProofs)
theorem goes_execKexit {s t : State} (x0 : HartId) (x1 : W32) (q : execKexit x0 x1 s = .next t) : Goes s t := by
  unfold execKexit at q
  refine goes_ok ?_ q
  try simp (maxDischargeDepth := 30) +contextual -implicitDefEqProofs
  all_goals repeat' (split <;> try simp (maxDischargeDepth := 30) +contextual -implicitDefEqProofs)
@[simp] theorem goes_writeSave {r s : State} (x0 : HartId) (x1 : W64)
    (h : Goes r s) : Goes r (writeSave x0 x1 s) := by
  refine h.trans ?_
  unfold writeSave
  try simp (maxDischargeDepth := 30) +contextual -implicitDefEqProofs
@[simp] theorem goes_suspendEnclave {r s : State} (x0 : HartId) (x1 : W64)
    (h : Goes r s) : Goes r (suspendEnclave x0 x1 s) := by
  refine h.trans ?_
  unfold suspendEnclave
  try simp (maxDischargeDepth := 30) +contextual -implicitDefEqProofs
@[simp] theorem goes_takeInterrupt {r s : State} (x0 : HartId) (x1 : W64)
    (h : Goes r s) : Goes r (takeInterrupt x0 x1 s) := by
  refine h.trans ?_
  unfold takeInterrupt
  try simp (maxDischargeDepth := 30) +contextual -implicitDefEqProofs
theorem goes_execAsyncExit {s t : State} (x0 : HartId) (x1 : W64)
    (q : execAsyncExit x0 x1 s = .next t) : Goes s t := by
  unfold execAsyncExit at q
  refine goes_ok ?_ q
  try simp (maxDischargeDepth := 30) +contextual -implicitDefEqProofs
@[simp] theorem goes_scan {r s : State} (x0 : BitVec 5) (x1 : State → State) (hx1 : ∀ t, Goes t (x1 t))
    (h : Goes r s) : Goes r (scan x0 x1 s) := by
  refine h.trans ?_
  have kx1 : ∀ r t, Goes r t → Goes r (x1 t) := fun _ t h => h.trans (hx1 t)
  unfold scan
  try simp (maxDischargeDepth := 30) +contextual -implicitDefEqProofs [kx1]
@[simp] theorem goes_kdbgChal {r s : State} (h : Goes r s) : Goes r (kdbgChal s) := by
  refine h.trans ?_
  unfold kdbgChal
  try simp (maxDischargeDepth := 30) +contextual -implicitDefEqProofs
theorem goes_execKdbgChal {s t : State} (q : execKdbgChal s = .next t) : Goes s t := by
  unfold execKdbgChal at q
  simp only [Host.Outcome.next.injEq] at q
  subst q
  try simp (maxDischargeDepth := 30) +contextual -implicitDefEqProofs
theorem goes_execKdbgStat {s t : State} (x0 : W32) (q : execKdbgStat x0 s = .next t) : Goes s t := by
  unfold execKdbgStat at q
  simp only [Host.Outcome.next.injEq] at q
  subst q
  try simp (maxDischargeDepth := 30) +contextual -implicitDefEqProofs
@[simp] theorem goes_grantKeeper {r s : State} (h : Goes r s) : Goes r (grantKeeper s) := by
  refine h.trans ?_
  unfold grantKeeper
  try simp (maxDischargeDepth := 30) +contextual -implicitDefEqProofs
@[simp] theorem goes_kdbgResp {r s : State} (x0 : DebugResponse) (h : Goes r s) : Goes r (kdbgResp x0 s) := by
  refine h.trans ?_
  unfold kdbgResp
  try simp (maxDischargeDepth := 30) +contextual -implicitDefEqProofs
  all_goals repeat' (split <;> try simp (maxDischargeDepth := 30) +contextual -implicitDefEqProofs)
theorem goes_execKdbgResp {s t : State} (x0 : DebugResponse) (q : execKdbgResp x0 s = .next t) : Goes s t := by
  unfold execKdbgResp at q
  refine goes_ok ?_ q
  try simp (maxDischargeDepth := 30) +contextual -implicitDefEqProofs
@[simp] theorem goes_dispMode {r s : State} (x0 : HartId) (x1 : W32) (x2 : State → State) (hx2 : ∀ t, Goes t (x2 t))
    (h : Goes r s) : Goes r (dispMode x0 x1 x2 s) := by
  refine h.trans ?_
  have kx2 : ∀ r t, Goes r t → Goes r (x2 t) := fun _ t h => h.trans (hx2 t)
  unfold dispMode
  try simp (maxDischargeDepth := 30) +contextual -implicitDefEqProofs [kx2]
  all_goals repeat' (split <;> try simp (maxDischargeDepth := 30) +contextual -implicitDefEqProofs [kx2])
@[simp] theorem goes_dispInstr {r s : State} (x0 : HartId) (x1 : VendorOp) (x2 : W32) (x3 : State → State) (hx3 : ∀ t, Goes t (x3 t))
    (h : Goes r s) : Goes r (dispInstr x0 x1 x2 x3 s) := by
  refine h.trans ?_
  have kx3 : ∀ r t, Goes r t → Goes r (x3 t) := fun _ t h => h.trans (hx3 t)
  unfold dispInstr
  try simp (maxDischargeDepth := 30) +contextual -implicitDefEqProofs [kx3]
  all_goals repeat' (split <;> try simp (maxDischargeDepth := 30) +contextual -implicitDefEqProofs [kx3])
@[simp] theorem goes_unclaim {r s : State} (x0 : HartId) (h : Goes r s) : Goes r (unclaim x0 s) := by
  refine h.trans ?_
  unfold unclaim
  try simp (maxDischargeDepth := 30) +contextual -implicitDefEqProofs
@[simp] theorem goes_readHead {r s : State} (x0 : HartId) (x1 : BitError)
    (h : Goes r s) : Goes r (readHead x0 x1 s) := by
  refine h.trans ?_
  unfold readHead
  try simp (maxDischargeDepth := 30) +contextual -implicitDefEqProofs
  all_goals repeat' (split <;> try simp (maxDischargeDepth := 30) +contextual -implicitDefEqProofs)
@[simp] theorem goes_takeHead {r s : State} (x0 : HartId) (x1 : Nat) (x2 : Nat)
    (h : Goes r s) : Goes r (takeHead x0 x1 x2 s) := by
  refine h.trans ?_
  unfold takeHead
  try simp (maxDischargeDepth := 30) +contextual -implicitDefEqProofs
  all_goals repeat' (split <;> try simp (maxDischargeDepth := 30) +contextual -implicitDefEqProofs)
@[simp] theorem goes_takeNothing {r s : State} (x0 : HartId) (x1 : Nat)
    (h : Goes r s) : Goes r (takeNothing x0 x1 s) := by
  refine h.trans ?_
  unfold takeNothing
  try simp (maxDischargeDepth := 30) +contextual -implicitDefEqProofs
@[simp] theorem goes_dispNext {r s : State} (x0 : HartId) (x1 : Nat) (x2 : BitError)
    (h : Goes r s) : Goes r (dispNext x0 x1 x2 s) := by
  refine h.trans ?_
  unfold dispNext
  try simp (maxDischargeDepth := 30) +contextual -implicitDefEqProofs
  all_goals repeat' (split <;> try simp (maxDischargeDepth := 30) +contextual -implicitDefEqProofs)
theorem goes_execDispNext {s t : State} (x0 : HartId) (x1 : W32) (x2 : BitError)
    (q : execDispNext x0 x1 x2 s = .next t) : Goes s t := by
  unfold execDispNext at q
  refine goes_ok ?_ q
  try simp (maxDischargeDepth := 30) +contextual -implicitDefEqProofs
  all_goals repeat' (split <;> try simp (maxDischargeDepth := 30) +contextual -implicitDefEqProofs)
@[simp] theorem goes_dispEnq {r s : State} (x0 : HartId) (x1 : W64) (x2 : W64)
    (h : Goes r s) : Goes r (dispEnq x0 x1 x2 s).1 := by
  refine h.trans ?_
  unfold dispEnq
  have k := goes_settleDomain (boundDomain s x0) (goes_refl s)
  by_cases a : x1 = 0 ∨ bits x2 5 7 ≠ 0
  · rw [if_pos a]
    exact goes_refl s
  · rw [if_neg a]
    simp only
    split
    · split
      · exact goes_traceEvent _ _ _ _ _ (goes_onDom k)
      · exact goes_busyRefused _ _ _ _ k
    · split
      · exact goes_makeReady _ _ _ _ k
      · exact goes_busyRefused _ _ _ _ k
theorem goes_execDispEnq {s t : State} (x0 : HartId) (x1 : W32) (q : execDispEnq x0 x1 s = .next t) : Goes s t := by
  unfold execDispEnq at q
  refine goes_ok ?_ q
  try simp (maxDischargeDepth := 30) +contextual -implicitDefEqProofs
  all_goals repeat' (split <;> try simp (maxDischargeDepth := 30) +contextual -implicitDefEqProofs)
@[simp] theorem goes_dispWait {r s : State} (x0 : HartId) (x1 : Nat) (x2 : BitError)
    (h : Goes r s) : Goes r (dispWait x0 x1 x2 s) := by
  refine h.trans ?_
  unfold dispWait
  try simp (maxDischargeDepth := 30) +contextual -implicitDefEqProofs
  all_goals repeat' (split <;> try simp (maxDischargeDepth := 30) +contextual -implicitDefEqProofs)
theorem goes_execDispWait {s t : State} (x0 : HartId) (x1 : W32) (x2 : BitError)
    (q : execDispWait x0 x1 x2 s = .next t) : Goes s t := by
  unfold execDispWait at q
  refine goes_ok ?_ q
  try simp (maxDischargeDepth := 30) +contextual -implicitDefEqProofs
  all_goals repeat' (split <;> try simp (maxDischargeDepth := 30) +contextual -implicitDefEqProofs)
@[simp] theorem goes_dispYield {r s : State} (x0 : HartId) (x1 : Nat) (x2 : W64) (x3 : BitError)
    (h : Goes r s) : Goes r (dispYield x0 x1 x2 x3 s) := by
  refine h.trans ?_
  unfold dispYield
  try simp (maxDischargeDepth := 30) +contextual -implicitDefEqProofs
  all_goals repeat' (split <;> try simp (maxDischargeDepth := 30) +contextual -implicitDefEqProofs)
theorem goes_execDispYield {s t : State} (x0 : HartId) (x1 : W32) (x2 : BitError)
    (q : execDispYield x0 x1 x2 s = .next t) : Goes s t := by
  unfold execDispYield at q
  refine goes_ok ?_ q
  try simp (maxDischargeDepth := 30) +contextual -implicitDefEqProofs
  all_goals repeat' (split <;> try simp (maxDischargeDepth := 30) +contextual -implicitDefEqProofs)

end Sys2Proof.Machine
end

