-- ==== Sys2Proof/Laws/GoesExecute.lean ====
section
/-!
SUPPORT. What the operations of Machine/Execute.lean keep (Laws/Goes.lean).
-/

namespace Sys2Proof.Machine

/-- What the effect of a row that completes keeps, the effect of one that does not keeps. -/
theorem goes_after {r s : State} {o : Host.Outcome State Fault Refusal} (p : ∀ t, o = .next t → Goes r t) (h : Goes r s) :
    Goes r (after o s) := by
  unfold after
  split
  · exact p _ rfl
  · exact h
@[simp] theorem goes_putX {r s : State} (x0 : HartId) (x1 : Insn) (x2 : Nat) (x3 : W64)
    (h : Goes r s) : Goes r (putX x0 x1 x2 x3 s) := by
  refine h.trans ?_
  unfold putX
  try simp (maxDischargeDepth := 30) +contextual -implicitDefEqProofs
  all_goals repeat' (split <;> try simp (maxDischargeDepth := 30) +contextual -implicitDefEqProofs)
@[simp] theorem goes_runLoad {r s : State} (x0 : HartId) (x1 : Insn) (h : Goes r s) : Goes r (runLoad x0 x1 s) := by
  refine h.trans ?_
  unfold runLoad
  repeat' (first | (with_reducible exact goes_refl _) | (refine goes_foldl (fun _ _ => ?_) ?_) | (refine goes_forAll (fun _ _ => ?_) ?_) | (refine goes_ite (fun _ => ?_) (fun _ => ?_)) | split)
  all_goals try simp (maxDischargeDepth := 30) +contextual -implicitDefEqProofs
  all_goals repeat' (split <;> try simp (maxDischargeDepth := 30) +contextual -implicitDefEqProofs)
@[simp] theorem goes_runStore {r s : State} (x0 : HartId) (x1 : Insn) (h : Goes r s) : Goes r (runStore x0 x1 s) := by
  refine h.trans ?_
  unfold runStore
  repeat' (first | (with_reducible exact goes_refl _) | (refine goes_foldl (fun _ _ => ?_) ?_) | (refine goes_forAll (fun _ _ => ?_) ?_) | (refine goes_ite (fun _ => ?_) (fun _ => ?_)) | split)
  all_goals try simp (maxDischargeDepth := 30) +contextual -implicitDefEqProofs
  all_goals repeat' (split <;> try simp (maxDischargeDepth := 30) +contextual -implicitDefEqProofs)
@[simp] theorem goes_runFpLoad {r s : State} (x0 : HartId) (x1 : Insn)
    (h : Goes r s) : Goes r (runFpLoad x0 x1 s) := by
  refine h.trans ?_
  unfold runFpLoad
  try simp (maxDischargeDepth := 30) +contextual -implicitDefEqProofs
  all_goals repeat' (split <;> try simp (maxDischargeDepth := 30) +contextual -implicitDefEqProofs)
@[simp] theorem goes_runFpStore {r s : State} (x0 : HartId) (x1 : Insn)
    (h : Goes r s) : Goes r (runFpStore x0 x1 s) := by
  refine h.trans ?_
  unfold runFpStore
  repeat' split
  all_goals first
    | with_reducible exact goes_after (fun _ q => goes_execStore _ _ _ q) (goes_refl s)
    | simp (maxDischargeDepth := 30)
@[simp] theorem goes_runAmo {r s : State} (x0 : HartId) (x1 : Insn) (h : Goes r s) : Goes r (runAmo x0 x1 s) := by
  refine h.trans ?_
  unfold runAmo
  simp only
  repeat' split
  all_goals first
    | with_reducible exact goes_after (fun _ q => goes_execLr _ _ _ _ _ _ q) (goes_refl s)
    | with_reducible exact goes_after (fun _ q => goes_execSc _ _ _ _ _ _ q) (goes_refl s)
    | with_reducible exact goes_after (fun _ q => goes_execAmo _ _ _ _ _ _ _ q) (goes_refl s)
    | simp (maxDischargeDepth := 30)
@[simp] theorem goes_putFp {r s : State} (x0 : HartId) (x1 : Insn) (x2 : FpResult)
    (h : Goes r s) : Goes r (putFp x0 x1 x2 s) := by
  refine h.trans ?_
  unfold putFp
  try simp (maxDischargeDepth := 30) +contextual -implicitDefEqProofs
  all_goals repeat' (split <;> try simp (maxDischargeDepth := 30) +contextual -implicitDefEqProofs)
@[simp] theorem goes_runFp {r s : State} (x0 : HartId) (x1 : Insn) (h : Goes r s) : Goes r (runFp x0 x1 s) := by
  refine h.trans ?_
  unfold runFp
  try simp (maxDischargeDepth := 30) +contextual -implicitDefEqProofs
  all_goals repeat' (split <;> try simp (maxDischargeDepth := 30) +contextual -implicitDefEqProofs)
@[simp] theorem goes_jumpTo {r s : State} (x0 : HartId) (x1 : Insn) (x2 : W64)
    (h : Goes r s) : Goes r (jumpTo x0 x1 x2 s) := by
  refine h.trans ?_
  unfold jumpTo
  try simp (maxDischargeDepth := 30) +contextual -implicitDefEqProofs
  all_goals repeat' (split <;> try simp (maxDischargeDepth := 30) +contextual -implicitDefEqProofs)
@[simp] theorem goes_predicted {r s : State} (x0 : HartId) (x1 : Bool) (x2 : Bool) (x3 : Bool) (x4 : Bool) (x5 : W64)
    (h : Goes r s) : Goes r (predicted x0 x1 x2 x3 x4 x5 s) := by
  refine h.trans ?_
  unfold predicted
  try simp (maxDischargeDepth := 30) +contextual -implicitDefEqProofs
  all_goals repeat' (split <;> try simp (maxDischargeDepth := 30) +contextual -implicitDefEqProofs)
@[simp] theorem goes_runBranch {r s : State} (x0 : HartId) (x1 : Insn)
    (h : Goes r s) : Goes r (runBranch x0 x1 s) := by
  refine h.trans ?_
  unfold runBranch
  try simp (maxDischargeDepth := 30) +contextual -implicitDefEqProofs
  all_goals repeat' (split <;> try simp (maxDischargeDepth := 30) +contextual -implicitDefEqProofs)
@[simp] theorem goes_runJal {r s : State} (x0 : HartId) (x1 : Insn) (h : Goes r s) : Goes r (runJal x0 x1 s) := by
  refine h.trans ?_
  unfold runJal
  try simp (maxDischargeDepth := 30) +contextual -implicitDefEqProofs
  all_goals repeat' (split <;> try simp (maxDischargeDepth := 30) +contextual -implicitDefEqProofs)
@[simp] theorem goes_runJalr {r s : State} (x0 : HartId) (x1 : Insn) (h : Goes r s) : Goes r (runJalr x0 x1 s) := by
  refine h.trans ?_
  unfold runJalr
  try simp (maxDischargeDepth := 30) +contextual -implicitDefEqProofs
  all_goals repeat' (split <;> try simp (maxDischargeDepth := 30) +contextual -implicitDefEqProofs)
@[simp] theorem goes_runEcall {r s : State} (x0 : HartId) (x1 : Insn) (h : Goes r s) : Goes r (runEcall x0 x1 s) := by
  refine h.trans ?_
  unfold runEcall
  try simp (maxDischargeDepth := 30) +contextual -implicitDefEqProofs
  all_goals repeat' (split <;> try simp (maxDischargeDepth := 30) +contextual -implicitDefEqProofs)
@[simp] theorem goes_runEbreak {r s : State} (x0 : HartId) (h : Goes r s) : Goes r (runEbreak x0 s) := by
  refine h.trans ?_
  unfold runEbreak
  try simp (maxDischargeDepth := 30) +contextual -implicitDefEqProofs
  all_goals repeat' (split <;> try simp (maxDischargeDepth := 30) +contextual -implicitDefEqProofs)
@[simp] theorem goes_runReturn {r s : State} (x0 : HartId) (x1 : TrapTo)
    (h : Goes r s) : Goes r (runReturn x0 x1 s) := by
  refine h.trans ?_
  unfold runReturn
  try simp (maxDischargeDepth := 30) +contextual -implicitDefEqProofs
  all_goals repeat' (split <;> try simp (maxDischargeDepth := 30) +contextual -implicitDefEqProofs)
@[simp] theorem goes_runXret {r s : State} (x0 : HartId) (x1 : Insn) (x2 : Bool)
    (h : Goes r s) : Goes r (runXret x0 x1 x2 s) := by
  refine h.trans ?_
  unfold runXret
  try simp (maxDischargeDepth := 30) +contextual -implicitDefEqProofs
  all_goals repeat' (split <;> try simp (maxDischargeDepth := 30) +contextual -implicitDefEqProofs)
@[simp] theorem goes_runTlbFence {r s : State} (x0 : HartId) (x1 : Insn) (x2 : Nat)
    (h : Goes r s) : Goes r (runTlbFence x0 x1 x2 s) := by
  refine h.trans ?_
  unfold runTlbFence
  try simp (maxDischargeDepth := 30) +contextual -implicitDefEqProofs
  all_goals repeat' (split <;> try simp (maxDischargeDepth := 30) +contextual -implicitDefEqProofs)
@[simp] theorem goes_runGuestAccess {r s : State} (x0 : HartId) (x1 : Insn)
    (h : Goes r s) : Goes r (runGuestAccess x0 x1 s) := by
  refine h.trans ?_
  unfold runGuestAccess
  repeat' (first | (with_reducible exact goes_refl _) | (refine goes_foldl (fun _ _ => ?_) ?_) | (refine goes_forAll (fun _ _ => ?_) ?_) | (refine goes_ite (fun _ => ?_) (fun _ => ?_)) | split)
  all_goals try simp (maxDischargeDepth := 30) +contextual -implicitDefEqProofs
  all_goals repeat' (split <;> try simp (maxDischargeDepth := 30) +contextual -implicitDefEqProofs)
@[simp] theorem goes_runPriv {r s : State} (x0 : HartId) (x1 : Insn) (h : Goes r s) : Goes r (runPriv x0 x1 s) := by
  refine h.trans ?_
  unfold runPriv
  refine goes_ite (fun _ => goes_runEcall _ _ (goes_refl s)) fun _ => goes_ite (fun _ => goes_runEbreak _ (goes_refl s)) fun _ =>
    goes_ite (fun _ => goes_runXret _ _ _ (goes_refl s)) fun _ => goes_ite (fun _ => goes_runXret _ _ _ (goes_refl s)) fun _ =>
    goes_ite (fun _ => goes_after (fun _ q => goes_execWfi _ q) (goes_refl s)) fun _ =>
    goes_ite (fun _ => goes_runTlbFence _ _ _ (goes_refl s)) fun _ => goes_illegal _ _ (goes_refl s)
@[simp] theorem goes_runCsr {r s : State} (x0 : HartId) (x1 : Insn) (h : Goes r s) : Goes r (runCsr x0 x1 s) := by
  refine h.trans ?_
  unfold runCsr
  simp only
  refine goes_ite (fun _ => goes_ite (fun _ => goes_after (fun _ q => goes_execSeedCsrRead _ _ _ q) (goes_refl s)) (fun _ => ?_)) (fun _ => ?_)
  · simp
  · refine goes_csrAccess _ _ _ _ _ (fun t => goes_passOn _ (goes_onHart ?_)) (goes_refl s)
    split <;> simp
@[simp] theorem goes_runSystem {r s : State} (x0 : HartId) (x1 : Insn)
    (h : Goes r s) : Goes r (runSystem x0 x1 s) := by
  refine h.trans ?_
  unfold runSystem
  try simp (maxDischargeDepth := 30) +contextual -implicitDefEqProofs
  all_goals repeat' (split <;> try simp (maxDischargeDepth := 30) +contextual -implicitDefEqProofs)
@[simp] theorem goes_runCbo {r s : State} (x0 : HartId) (x1 : Insn) (h : Goes r s) : Goes r (runCbo x0 x1 s) := by
  refine h.trans ?_
  unfold runCbo
  simp only
  repeat' split
  all_goals first
    | with_reducible exact goes_after (fun _ q => goes_execCboInval _ _ q) (goes_refl s)
    | with_reducible exact goes_after (fun _ q => goes_execCboClean _ _ q) (goes_refl s)
    | with_reducible exact goes_after (fun _ q => goes_execCboFlush _ _ q) (goes_refl s)
    | with_reducible exact goes_after (fun _ q => goes_execCboZero _ _ q) (goes_refl s)
    | simp (maxDischargeDepth := 30)
@[simp] theorem goes_runMiscMem {r s : State} (x0 : HartId) (x1 : Insn)
    (h : Goes r s) : Goes r (runMiscMem x0 x1 s) := by
  refine h.trans ?_
  unfold runMiscMem
  repeat' split
  all_goals first
    | with_reducible exact goes_after (fun _ q => goes_execPause _ q) (goes_refl s)
    | with_reducible exact goes_after (fun _ q => goes_execFenceTso _ q) (goes_refl s)
    | with_reducible exact goes_after (fun _ q => goes_execFence _ _ _ q) (goes_refl s)
    | with_reducible exact goes_after (fun _ q => goes_execFenceI _ q) (goes_refl s)
    | simp (maxDischargeDepth := 30)
@[simp] theorem goes_runVendor {r s : State} (x0 : HartId) (x1 : Insn)
    (h : Goes r s) : Goes r (runVendor x0 x1 s) := by
  refine h.trans ?_
  unfold runVendor
  repeat' split
  all_goals first
    | with_reducible exact goes_after (fun _ q => goes_execPredFlush _ _ q) (goes_refl s)
    | with_reducible exact goes_after (fun _ q => goes_execPredBar _ _ q) (goes_refl s)
    | with_reducible exact goes_after (fun _ q => goes_execKenter _ _ q) (goes_refl s)
    | with_reducible exact goes_after (fun _ q => goes_execKexit _ _ q) (goes_refl s)
    | with_reducible exact goes_after (fun _ q => goes_execKresume _ _ q) (goes_refl s)
    | with_reducible exact goes_after (fun _ q => goes_execDispNext _ _ _ q) (goes_refl s)
    | with_reducible exact goes_after (fun _ q => goes_execDispEnq _ _ q) (goes_refl s)
    | with_reducible exact goes_after (fun _ q => goes_execDispWait _ _ _ q) (goes_refl s)
    | with_reducible exact goes_after (fun _ q => goes_execDispYield _ _ _ q) (goes_refl s)
    | simp (maxDischargeDepth := 30)
@[simp] theorem goes_runCompute {r s : State} (x0 : HartId) (x1 : Insn)
    (h : Goes r s) : Goes r (runCompute x0 x1 s) := by
  refine h.trans ?_
  unfold runCompute
  simp only
  repeat' split
  all_goals first
    | with_reducible exact goes_after (fun _ q => goes_execPrefetch _ _ _ q) (goes_refl s)
    | simp (maxDischargeDepth := 30)
@[simp] theorem goes_runInsn {r s : State} (x0 : HartId) (x1 : Insn) (h : Goes r s) : Goes r (runInsn x0 x1 s) := by
  refine h.trans ?_
  unfold runInsn
  try simp (maxDischargeDepth := 30) +contextual -implicitDefEqProofs
  all_goals repeat' (split <;> try simp (maxDischargeDepth := 30) +contextual -implicitDefEqProofs)
@[simp] theorem goes_fetchHalf {r s : State} (x0 : HartId) (x1 : W64)
    (h : Goes r s) : Goes r (fetchHalf x0 x1 s).1 := by
  refine h.trans ?_
  have k := fun c => goes_fetch x0 2 c (goes_refl s)
  unfold fetchHalf
  simp only
  split
  all_goals exact (k _).of_eq ‹_›
@[simp] theorem goes_fetchAndRun {r s : State} (x0 : HartId) (h : Goes r s) : Goes r (fetchAndRun x0 s) := by
  refine h.trans ?_
  have k := goes_fetchHalf x0 (s.hart x0).pc (goes_refl s)
  unfold fetchAndRun
  simp only
  split
  · exact k.of_eq ‹_›
  · have k' := k.of_eq ‹_›
    refine goes_ite (fun _ => goes_runInsn _ _ k') (fun _ => ?_)
    have g := goes_fetchHalf x0 ((s.hart x0).pc + 2) k'
    split
    · exact g.of_eq ‹_›
    · exact goes_runInsn _ _ (g.of_eq ‹_›)

end Sys2Proof.Machine
end

