-- ==== Sys2Proof/Laws/GoesDebug.lean ====
section
/-!
SUPPORT. What the operations of Machine/Debug.lean keep (Laws/Goes.lean).
-/

namespace Sys2Proof.Machine

@[simp] theorem goes_dmSet {r s : State} (x0 : Nat) (x1 : W32) (h : Goes r s) : Goes r (dmSet x0 x1 s) := by
  refine h.trans ?_
  unfold dmSet
  try simp (maxDischargeDepth := 30) +contextual -implicitDefEqProofs
  all_goals repeat' (split <;> try simp (maxDischargeDepth := 30) +contextual -implicitDefEqProofs)
@[simp] theorem goes_haltHart {r s : State} (x0 : HartId) (h : Goes r s) : Goes r (haltHart x0 s) := by
  refine h.trans ?_
  unfold haltHart
  try simp (maxDischargeDepth := 30) +contextual -implicitDefEqProofs
  all_goals repeat' (split <;> try simp (maxDischargeDepth := 30) +contextual -implicitDefEqProofs)
@[simp] theorem goes_stepHart {r s : State} (x0 : HartId) (h : Goes r s) : Goes r (stepHart x0 s) := by
  refine h.trans ?_
  unfold stepHart
  try simp (maxDischargeDepth := 30) +contextual -implicitDefEqProofs
  all_goals repeat' (split <;> try simp (maxDischargeDepth := 30) +contextual -implicitDefEqProofs)
@[simp] theorem goes_resumeHart {r s : State} (x0 : HartId) (h : Goes r s) : Goes r (resumeHart x0 s) := by
  refine h.trans ?_
  unfold resumeHart
  repeat' (first | (with_reducible exact goes_refl _) | (refine goes_foldl (fun _ _ => ?_) ?_) | (refine goes_forAll (fun _ _ => ?_) ?_) | (refine goes_ite (fun _ => ?_) (fun _ => ?_)) | split)
  all_goals try simp (maxDischargeDepth := 30) +contextual -implicitDefEqProofs
  all_goals repeat' (split <;> try simp (maxDischargeDepth := 30) +contextual -implicitDefEqProofs)
@[simp] theorem goes_dmControl {r s : State} (x0 : W32) (h : Goes r s) : Goes r (dmControl x0 s) := by
  refine h.trans ?_
  unfold dmControl
  repeat' (first | (with_reducible exact goes_refl _) | (refine goes_foldl (fun _ _ => ?_) ?_) | (refine goes_forAll (fun _ _ => ?_) ?_) | (refine goes_ite (fun _ => ?_) (fun _ => ?_)) | split)
  all_goals try simp (maxDischargeDepth := 30) +contextual -implicitDefEqProofs
  all_goals repeat' (split <;> try simp (maxDischargeDepth := 30) +contextual -implicitDefEqProofs)
@[simp] theorem goes_cmdError {r s : State} (x0 : Nat) (h : Goes r s) : Goes r (cmdError x0 s) := by
  refine h.trans ?_
  unfold cmdError
  try simp (maxDischargeDepth := 30) +contextual -implicitDefEqProofs
  all_goals repeat' (split <;> try simp (maxDischargeDepth := 30) +contextual -implicitDefEqProofs)
@[simp] theorem goes_abstractWrite {r s : State} (x0 : HartId) (x1 : Nat) (x2 : W64)
    (h : Goes r s) : Goes r (abstractWrite x0 x1 x2 s) := by
  refine h.trans ?_
  unfold abstractWrite
  try simp (maxDischargeDepth := 30) +contextual -implicitDefEqProofs
  all_goals repeat' (split <;> try simp (maxDischargeDepth := 30) +contextual -implicitDefEqProofs)
@[simp] theorem goes_runBuffer {r s : State} (x0 : HartId) (x1 : Nat) (x2 : List Nat)
    (h : Goes r s) : Goes r (runBuffer x0 x1 x2 s).1 := by
  induction x1 generalizing s x2 with
  | zero => simpa [runBuffer] using h
  | succ n ih =>
    cases x2 with
    | nil => simpa [runBuffer] using h
    | cons lo rest =>
      unfold runBuffer
      have k := goes_runInsn x0 (insnOf lo (rest.headD 0) false true) h
      exact goes_ite_fst (fun _ => h) fun _ => goes_ite_fst (fun _ => ih _ k) fun _ => goes_onHart k
@[simp] theorem goes_programBuffer {r s : State} (x0 : HartId) (h : Goes r s) : Goes r (programBuffer x0 s) := by
  refine h.trans ?_
  unfold programBuffer
  try simp (maxDischargeDepth := 30) +contextual -implicitDefEqProofs
  all_goals repeat' (split <;> try simp (maxDischargeDepth := 30) +contextual -implicitDefEqProofs)
@[simp] theorem goes_accessRegister {r s : State} (x0 : W32) (h : Goes r s) : Goes r (accessRegister x0 s) := by
  refine h.trans ?_
  unfold accessRegister
  split
  · exact goes_cmdError _ (goes_refl s)
  · refine goes_ite (fun _ => goes_cmdError _ (goes_refl s)) fun _ => ?_
    have k (u : State) (g : Goes s u) (i : HartId) (c : Prop) [Decidable c] : Goes s (if c then programBuffer i u else u) :=
      goes_ite (fun _ => goes_programBuffer i g) fun _ => g
    refine k _ ?_ _ _
    refine goes_ite (fun _ => goes_refl s) fun _ => ?_
    split
    · exact goes_cmdError _ (goes_refl s)
    · exact goes_ite (fun _ => goes_abstractWrite _ _ _ (goes_refl s)) fun _ =>
        goes_ite (fun _ => goes_dmSet _ _ (goes_dmSet _ _ (goes_refl s))) fun _ => goes_dmSet _ _ (goes_refl s)
@[simp] theorem goes_dmCommand {r s : State} (x0 : W32) (h : Goes r s) : Goes r (dmCommand x0 s) := by
  refine h.trans ?_
  unfold dmCommand
  repeat' (first | (with_reducible exact goes_refl _) | (refine goes_foldl (fun _ _ => ?_) ?_) | (refine goes_forAll (fun _ _ => ?_) ?_) | (refine goes_ite (fun _ => ?_) (fun _ => ?_)) | split)
  all_goals try simp (maxDischargeDepth := 30) +contextual -implicitDefEqProofs
  all_goals repeat' (split <;> try simp (maxDischargeDepth := 30) +contextual -implicitDefEqProofs)
@[simp] theorem goes_sbAdvance {r s : State} (h : Goes r s) : Goes r (sbAdvance s) := by
  refine h.trans ?_
  unfold sbAdvance
  try simp (maxDischargeDepth := 30) +contextual -implicitDefEqProofs
  all_goals repeat' (split <;> try simp (maxDischargeDepth := 30) +contextual -implicitDefEqProofs)
@[simp] theorem goes_sbError {r s : State} (x0 : Nat) (h : Goes r s) : Goes r (sbError x0 s) := by
  refine h.trans ?_
  unfold sbError
  try simp (maxDischargeDepth := 30) +contextual -implicitDefEqProofs
  all_goals repeat' (split <;> try simp (maxDischargeDepth := 30) +contextual -implicitDefEqProofs)
@[simp] theorem goes_systemBus {r s : State} (x0 : Agent → Nat → Nat → State → State) (hx0 : ∀ y0 y1 y2 t, Goes t (x0 y0 y1 y2 t))
    (h : Goes r s) : Goes r (systemBus x0 s) := by
  refine h.trans ?_
  have kx0 : ∀ r y0 y1 y2 t, Goes r t → Goes r (x0 y0 y1 y2 t) := fun _ y0 y1 y2 t h => h.trans (hx0 y0 y1 y2 t)
  unfold systemBus
  try simp (maxDischargeDepth := 30) +contextual -implicitDefEqProofs [kx0]
  all_goals repeat' (split <;> try simp (maxDischargeDepth := 30) +contextual -implicitDefEqProofs [kx0])
@[simp] theorem goes_sbRead {r s : State} (h : Goes r s) : Goes r (sbRead s) := by
  refine h.trans ?_
  unfold sbRead
  try simp (maxDischargeDepth := 30) +contextual -implicitDefEqProofs
  all_goals repeat' (split <;> try simp (maxDischargeDepth := 30) +contextual -implicitDefEqProofs)
@[simp] theorem goes_sbWrite {r s : State} (h : Goes r s) : Goes r (sbWrite s) := by
  refine h.trans ?_
  unfold sbWrite
  try simp (maxDischargeDepth := 30) +contextual -implicitDefEqProofs
  all_goals repeat' (split <;> try simp (maxDischargeDepth := 30) +contextual -implicitDefEqProofs)
@[simp] theorem goes_dmReadOn {r s : State} (x0 : Nat) (h : Goes r s) : Goes r (dmReadOn x0 s) := by
  refine h.trans ?_
  unfold dmReadOn
  exact goes_ite (fun _ => goes_sbRead (goes_emit (goes_refl s))) fun _ => goes_emit (goes_refl s)
@[simp] theorem goes_dmWrite {r s : State} (x0 : Nat) (x1 : W32) (h : Goes r s) : Goes r (dmWrite x0 x1 s) := by
  refine h.trans ?_
  unfold dmWrite
  split
  · exact goes_dmControl _ (goes_refl s)
  · exact goes_refl s
  · exact goes_dmSet _ _ (goes_refl s)
  · exact goes_dmCommand _ (goes_refl s)
  · exact goes_dmSet _ _ (goes_refl s)
  · exact goes_ite (fun _ => goes_sbRead (goes_dmSet _ _ (goes_refl s))) fun _ => goes_dmSet _ _ (goes_refl s)
  · exact goes_sbWrite (goes_dmSet _ _ (goes_refl s))
  · exact goes_ite (fun _ => goes_dmSet _ _ (goes_refl s)) fun _ => goes_refl s
@[simp] theorem goes_dmiAccess {r s : State} (x0 : DmiOp) (h : Goes r s) : Goes r (dmiAccess x0 s) := by
  refine h.trans ?_
  unfold dmiAccess
  try simp (maxDischargeDepth := 30) +contextual -implicitDefEqProofs
  all_goals repeat' (split <;> try simp (maxDischargeDepth := 30) +contextual -implicitDefEqProofs)
theorem goes_execDmiAccess {s t : State} (x0 : DmiOp) (q : execDmiAccess x0 s = .next t) : Goes s t := by
  unfold execDmiAccess at q
  simp only [Host.Outcome.next.injEq] at q
  subst q
  try simp (maxDischargeDepth := 30) +contextual -implicitDefEqProofs

end Sys2Proof.Machine
end

