-- ==== Sys2Proof/Laws/GoesFeeds.lean ====
section
/-!
SUPPORT. What the operations of Machine/Feeds.lean keep (Laws/Goes.lean).
-/

namespace Sys2Proof.Machine

@[simp] theorem goes_onFeed {r s : State} (x1 : Feed) (x2 : FeedState → FeedState)
    (h : Goes r s) : Goes r (State.onFeed s x1 x2) := by
  refine h.trans ?_
  unfold State.onFeed
  try simp (maxDischargeDepth := 30) +contextual -implicitDefEqProofs
@[simp] theorem goes_psSet {r s : State} (x0 : Nat) (h : Goes r s) : Goes r (psSet x0 s) := by
  refine h.trans ?_
  unfold psSet
  try simp (maxDischargeDepth := 30) +contextual -implicitDefEqProofs
@[simp] theorem goes_psEvent {r s : State} (x0 : Nat) (h : Goes r s) : Goes r (psEvent x0 s) := by
  refine h.trans ?_
  unfold psEvent
  try simp (maxDischargeDepth := 30) +contextual -implicitDefEqProofs
@[simp] theorem goes_feedLost {r s : State} (x0 : Feed) (h : Goes r s) : Goes r (feedLost x0 s) := by
  refine h.trans ?_
  unfold feedLost
  try simp (maxDischargeDepth := 30) +contextual -implicitDefEqProofs
@[simp] theorem goes_judgeFeeds {r s : State} (h : Goes r s) : Goes r (judgeFeeds s) := by
  refine h.trans ?_
  unfold judgeFeeds
  try simp (maxDischargeDepth := 30) +contextual -implicitDefEqProofs
@[simp] theorem goes_bothLost {r s : State} (h : Goes r s) : Goes r (bothLost s) := by
  refine h.trans ?_
  unfold bothLost
  try simp (maxDischargeDepth := 30) +contextual -implicitDefEqProofs
@[simp] theorem goes_feedValid {r s : State} (x0 : Feed) (x1 : Int) (h : Goes r s) : Goes r (feedValid x0 x1 s) := by
  refine h.trans ?_
  unfold feedValid
  try simp (maxDischargeDepth := 30) +contextual -implicitDefEqProofs
theorem goes_execFeedBecomesValid {s t : State} (x0 : Feed) (x1 : Int)
    (q : execFeedBecomesValid x0 x1 s = .next t) : Goes s t := by
  unfold execFeedBecomesValid at q
  split at q
  · cases q
  · simp only [Host.Outcome.next.injEq] at q
    subst q
    simp
@[simp] theorem goes_feedInvalid {r s : State} (x0 : Feed) (x1 : Int)
    (h : Goes r s) : Goes r (feedInvalid x0 x1 s) := by
  refine h.trans ?_
  unfold feedInvalid
  try simp (maxDischargeDepth := 30) +contextual -implicitDefEqProofs
theorem goes_execFeedBecomesInvalid {s t : State} (x0 : Feed) (x1 : Int)
    (q : execFeedBecomesInvalid x0 x1 s = .next t) : Goes s t := by
  unfold execFeedBecomesInvalid at q
  split at q
  · cases q
  · refine goes_ok ?_ q
    simp (maxDischargeDepth := 30) +contextual -implicitDefEqProofs
theorem goes_execFeedOvervoltage {s t : State} (x0 : Feed) (x1 : Int)
    (q : execFeedOvervoltage x0 x1 s = .next t) : Goes s t := by
  unfold execFeedOvervoltage at q
  split at q
  · cases q
  · refine goes_ok ?_ q
    simp (maxDischargeDepth := 30) +contextual -implicitDefEqProofs
theorem goes_execFeedReversed {s t : State} (x0 : Feed) (x1 : Int)
    (q : execFeedReversed x0 x1 s = .next t) : Goes s t := by
  unfold execFeedReversed at q
  split at q
  · cases q
  · refine goes_ok ?_ q
    simp (maxDischargeDepth := 30) +contextual -implicitDefEqProofs
theorem goes_execFeedShorted {s t : State} (x0 : Feed) (q : execFeedShorted x0 s = .next t) : Goes s t := by
  unfold execFeedShorted at q
  refine goes_ok ?_ q
  try simp (maxDischargeDepth := 30) +contextual -implicitDefEqProofs
@[simp] theorem goes_powerCapInterval {r s : State} (x0 : Nat) (h : Goes r s) : Goes r (powerCapInterval x0 s) := by
  refine h.trans ?_
  unfold powerCapInterval
  try simp (maxDischargeDepth := 30) +contextual -implicitDefEqProofs
theorem goes_execPowerCapInterval {s t : State} (x0 : Nat) (q : execPowerCapInterval x0 s = .next t) : Goes s t := by
  unfold execPowerCapInterval at q
  refine goes_ok ?_ q
  try simp (maxDischargeDepth := 30) +contextual -implicitDefEqProofs
theorem goes_execHoldupCharged {s t : State} (q : execHoldupCharged s = .next t) : Goes s t := by
  unfold execHoldupCharged at q
  simp only [Host.Outcome.next.injEq] at q
  subst q
  try simp (maxDischargeDepth := 30) +contextual -implicitDefEqProofs
@[simp] theorem goes_commitBegin {r s : State} (h : Goes r s) : Goes r (commitBegin s) := by
  refine h.trans ?_
  unfold commitBegin
  try simp (maxDischargeDepth := 30) +contextual -implicitDefEqProofs
@[simp] theorem goes_powerFailCommit {r s : State} (x0 : Nat) (h : Goes r s) : Goes r (powerFailCommit x0 s) := by
  refine h.trans ?_
  unfold powerFailCommit
  try simp (maxDischargeDepth := 30) +contextual -implicitDefEqProofs
theorem goes_execPowerFailCommit {s t : State} (q : execPowerFailCommit s = .next t) : Goes s t := by
  unfold execPowerFailCommit at q
  refine goes_ok ?_ q
  try simp (maxDischargeDepth := 30) +contextual -implicitDefEqProofs
@[simp] theorem goes_cutLines {r s : State} (x0 : Nat) (h : Goes r s) : Goes r (cutLines x0 s) := by
  refine h.trans ?_
  unfold cutLines
  try simp (maxDischargeDepth := 30) +contextual -implicitDefEqProofs
@[simp] theorem goes_tornCommit {r s : State} (h : Goes r s) : Goes r (tornCommit s) := by
  refine h.trans ?_
  unfold tornCommit
  try simp (maxDischargeDepth := 30) +contextual -implicitDefEqProofs
theorem goes_execHoldupExhausted {s t : State} (q : execHoldupExhausted s = .next t) : Goes s t := by
  unfold execHoldupExhausted at q
  refine goes_ok ?_ q
  try simp (maxDischargeDepth := 30) +contextual -implicitDefEqProofs
@[simp] theorem goes_lockOut {r s : State} (h : Goes r s) : Goes r (lockOut s) := by
  refine h.trans ?_
  unfold lockOut
  try simp (maxDischargeDepth := 30) +contextual -implicitDefEqProofs
@[simp] theorem goes_polFault {r s : State} (h : Goes r s) : Goes r (polFault s) := by
  refine h.trans ?_
  unfold polFault
  split
  · simp
  · simp
  · simp
  · dsimp only
    split <;> simp (maxDischargeDepth := 30)
theorem goes_execPolFault {s t : State} (q : execPolFault s = .next t) : Goes s t := by
  unfold execPolFault at q
  refine goes_ok ?_ q
  try simp (maxDischargeDepth := 30) +contextual -implicitDefEqProofs
theorem goes_execPolRailNotGood {s t : State} (q : execPolRailNotGood s = .next t) : Goes s t := by
  unfold execPolRailNotGood at q
  refine goes_ok ?_ q
  try simp (maxDischargeDepth := 30) +contextual -implicitDefEqProofs
theorem goes_execPolLockoutEnd {s t : State} (q : execPolLockoutEnd s = .next t) : Goes s t := by
  unfold execPolLockoutEnd at q
  simp only [Host.Outcome.next.injEq] at q
  subst q
  try simp (maxDischargeDepth := 30) +contextual -implicitDefEqProofs
@[simp] theorem goes_presentConditions {r s : State} (x0 : Feed)
    (h : Goes r s) : Goes r (presentConditions x0 s) := by
  refine h.trans ?_
  unfold presentConditions
  try simp (maxDischargeDepth := 30) +contextual -implicitDefEqProofs
@[simp] theorem goes_powerOn {r s : State} (x0 : Bool) (h : Goes r s) : Goes r (powerOn x0 s) := by
  refine h.trans ?_
  unfold powerOn
  try simp (maxDischargeDepth := 30) +contextual -implicitDefEqProofs
theorem goes_execPowerOnReset {s t : State} (x0 : Bool) (q : execPowerOnReset x0 s = .next t) : Goes s t := by
  unfold execPowerOnReset at q
  refine goes_ok ?_ q
  try simp (maxDischargeDepth := 30) +contextual -implicitDefEqProofs
@[simp] theorem goes_railsGood {r s : State} (x0 : BitVec 6) (x1 : Bool)
    (h : Goes r s) : Goes r (railsGood x0 x1 s) := by
  refine h.trans ?_
  unfold railsGood
  try simp (maxDischargeDepth := 30) +contextual -implicitDefEqProofs
theorem goes_execPolRailsGood {s t : State} (x0 : BitVec 6) (x1 : Bool)
    (q : execPolRailsGood x0 x1 s = .next t) : Goes s t := by
  unfold execPolRailsGood at q
  refine goes_ok ?_ q
  try simp (maxDischargeDepth := 30) +contextual -implicitDefEqProofs
theorem goes_execThermalHoldRelease {s t : State} (x0 : Int)
    (q : execThermalHoldRelease x0 s = .next t) : Goes s t := by
  unfold execThermalHoldRelease at q
  simp only [Host.Outcome.next.injEq] at q
  subst q
  try simp (maxDischargeDepth := 30) +contextual -implicitDefEqProofs
theorem goes_execThermWarnAssert {s t : State} (x0 : Int) (q : execThermWarnAssert x0 s = .next t) : Goes s t := by
  unfold execThermWarnAssert at q
  simp only [Host.Outcome.next.injEq] at q
  subst q
  try simp (maxDischargeDepth := 30) +contextual -implicitDefEqProofs
theorem goes_execThermWarnRelease {s t : State} (x0 : Int) (q : execThermWarnRelease x0 s = .next t) : Goes s t := by
  unfold execThermWarnRelease at q
  simp only [Host.Outcome.next.injEq] at q
  subst q
  try simp (maxDischargeDepth := 30) +contextual -implicitDefEqProofs
@[simp] theorem goes_throttleStep {r s : State} (x0 : Int) (h : Goes r s) : Goes r (throttleStep x0 s) := by
  refine h.trans ?_
  unfold throttleStep
  try simp (maxDischargeDepth := 30) +contextual -implicitDefEqProofs
theorem goes_execThrottleStep {s t : State} (x0 : Int) (q : execThrottleStep x0 s = .next t) : Goes s t := by
  unfold execThrottleStep at q
  refine goes_ok ?_ q
  try simp (maxDischargeDepth := 30) +contextual -implicitDefEqProofs
theorem goes_execDieTempShutdown {s t : State} (x0 : Int) (q : execDieTempShutdown x0 s = .next t) : Goes s t := by
  unfold execDieTempShutdown at q
  refine goes_ok ?_ q
  try simp (maxDischargeDepth := 30) +contextual -implicitDefEqProofs

end Sys2Proof.Machine
end

