-- ==== Sys2Proof/Laws/GoesBoot.lean ====
section
/-!
SUPPORT. What the operations of Machine/Boot.lean keep (Laws/Goes.lean).
-/

namespace Sys2Proof.Machine

/-- What a change of the update block's state keeps. -/
structure UpKeeps (u v : Update) : Prop where
  dmBuf : v.dmBuf = u.dmBuf
  nor : v.nor = u.nor
  fuses : u.fuses ≤ v.fuses
  floor : v.floor = u.floor
theorem UpKeeps.refl (u : Update) : UpKeeps u u := ⟨rfl, rfl, Nat.le_refl _, rfl⟩
theorem UpKeeps.trans {u v w : Update} (a : UpKeeps u v) (b : UpKeeps v w) : UpKeeps u w :=
  ⟨b.dmBuf.trans a.dmBuf, b.nor.trans a.nor, Nat.le_trans a.fuses b.fuses, b.floor.trans a.floor⟩
theorem upKeeps_foldl {α : Type} {f : Update → α → Update} (p : ∀ u a, UpKeeps u (f u a)) (l : List α) (u : Update) :
    UpKeeps u (l.foldl f u) := by
  induction l generalizing u with
  | nil => exact .refl u
  | cons a l ih => exact (p u a).trans (ih _)
theorem upKeeps_onSlot (u : Update) (k : Slot) (f : SlotRec → SlotRec) : UpKeeps u (u.onSlot k f) := by
  constructor <;> simp
theorem upKeeps_finishFuses (u : Update) : UpKeeps u (finishFuses u) := by
  unfold finishFuses
  split
  · exact ⟨rfl, rfl, Nat.le_max_left _ _, rfl⟩
  · exact .refl u
theorem upKeeps_failedBoot (k : Slot) (u : Update) : UpKeeps u (failedBoot k u) :=
  (upKeeps_onSlot u k _).trans ⟨rfl, rfl, Nat.le_refl _, rfl⟩
theorem upKeeps_foundMarks (u : Update) : UpKeeps u (foundMarks u) :=
  upKeeps_foldl (fun u k => by
    split
    · exact upKeeps_failedBoot k u
    · exact .refl u) _ u
theorem upKeeps_tries (u : Update) (l : List Slot) : UpKeeps u { u with tries := l } := ⟨rfl, rfl, Nat.le_refl _, rfl⟩
theorem upKeeps_dropSlots (u : Update) : UpKeeps u (dropSlots u) :=
  upKeeps_foldl (fun u k => by
    dsimp only
    split
    · exact (upKeeps_onSlot u k _).trans ⟨rfl, rfl, Nat.le_refl _, rfl⟩
    · split
      · exact upKeeps_onSlot u k _
      · exact .refl u) _ u
theorem upKeeps_slotsAtStart (u : Update) : UpKeeps u (slotsAtStart u) :=
  (((upKeeps_finishFuses u).trans (upKeeps_foundMarks _)).trans (upKeeps_dropSlots _)).trans (upKeeps_tries _ _)
theorem goes_upKeeps {r s : State} {f : Update → Update} (h : Goes r s) (p : ∀ u, UpKeeps u (f u)) : Goes r (s.onUp f) :=
  goes_onUp h (fun w => (p s.up).dmBuf ▸ w) (fun w => (p s.up).nor ▸ w) (p s.up).fuses (Nat.le_of_eq (p s.up).floor.symm)
theorem upKeeps_slotFailed (k : Slot) (trial light : Bool) (u : Update) : UpKeeps u (slotFailed k trial light u) := by
  unfold slotFailed
  refine UpKeeps.trans (v := if trial then { ((failedBoot k u).onSlot k fun r => { r with st := .invalid }) with
    trouble := setBit (failedBoot k u).trouble 1 } else failedBoot k u) ?_ ⟨rfl, rfl, Nat.le_refl _, rfl⟩
  split
  · exact ((upKeeps_failedBoot k u).trans (upKeeps_onSlot _ _ _)).trans ⟨rfl, rfl, Nat.le_refl _, rfl⟩
  · exact upKeeps_failedBoot k u
@[simp] theorem goes_startPorts {r s : State} (h : Goes r s) : Goes r (startPorts s) := by
  refine h.trans ?_
  unfold startPorts
  try simp (maxDischargeDepth := 30) +contextual -implicitDefEqProofs
@[simp] theorem goes_noTable {r s : State} (h : Goes r s) : Goes r (noTable s) := by
  refine h.trans ?_
  unfold noTable
  try simp (maxDischargeDepth := 30) +contextual -implicitDefEqProofs
  all_goals repeat' (split <;> try simp (maxDischargeDepth := 30) +contextual -implicitDefEqProofs)
@[simp] theorem goes_enterDaymark {r s : State} (x0 : Nat) (h : Goes r s) : Goes r (enterDaymark x0 s) := by
  refine h.trans ?_
  unfold enterDaymark
  have k (u : State) : Goes u ((u.onUp fun u => { u with daymark := true, daymarkCause := x0, tries := [] }).onPwr
      fun p => { p with stage := .daymark }) := goes_onPwr (goes_onUp (goes_refl u) id id (Nat.le_refl _) (Nat.le_refl _))
  exact goes_judgeFeeds (goes_startPorts ((goes_noTable
    (goes_foldl (fun t n => goes_assertTrip _ _ _ (goes_refl t)) (goes_refl s))).trans (k _)))
@[simp] theorem goes_selfTest {r s : State} (x0 : Bool) (h : Goes r s) : Goes r (selfTest x0 s) := by
  refine h.trans ?_
  unfold selfTest
  try simp (maxDischargeDepth := 30) +contextual -implicitDefEqProofs
@[simp] theorem goes_romStart {r s : State} (x0 : Bool) (h : Goes r s) : Goes r (romStart x0 s) := by
  refine h.trans ?_
  unfold romStart
  have k (b : Bool) (u : State) (h : Goes s u) :
      Goes s (if b then psSet 10 (u.onPwr fun p => { p with commitMark := false }) else u) :=
    goes_ite (fun _ => goes_psSet _ (goes_onPwr h)) (fun _ => h)
  refine goes_ite (fun _ => goes_enterDaymark _ ?_) fun _ => goes_ite (fun _ => goes_enterDaymark _ ?_) fun _ => ?_
  all_goals
    refine goes_upKeeps (goes_onLt (goes_onPwr (goes_onHost (k _ _ (goes_emit (goes_selfTest _ (goes_onCt (goes_refl s))))) id id))) fun u => ?_
    refine UpKeeps.trans ?_ (upKeeps_slotsAtStart _)
    exact ⟨rfl, rfl, Nat.le_refl _, rfl⟩
theorem goes_execRomStart {s t : State} (x0 : Bool) (q : execRomStart x0 s = .next t) : Goes s t := by
  unfold execRomStart at q
  refine goes_ok ?_ q
  try simp (maxDischargeDepth := 30) +contextual -implicitDefEqProofs
@[simp] theorem goes_setResult {r s : State} (x0 : Slot) (x1 : Nat) (h : Goes r s) : Goes r (setResult x0 x1 s) := by
  refine h.trans ?_
  unfold setResult
  try simp (maxDischargeDepth := 30) +contextual -implicitDefEqProofs
@[simp] theorem goes_slotFails {r s : State} (x0 : Slot) (x1 : Bool) (h : Goes r s) : Goes r (slotFails x0 x1 s) := by
  refine h.trans ?_
  unfold slotFails
  have m := goes_upKeeps (goes_refl s) (upKeeps_slotFailed x0 (decide ((s.up.slot x0).st = .trial)) x1)
  exact goes_ite (fun _ => goes_enterDaymark _ m) (fun _ => m)
@[simp] theorem goes_initialWorlds {r s : State} (h : Goes r s) : Goes r (initialWorlds s) := by
  refine h.trans ?_
  unfold initialWorlds
  refine goes_onKp (goes_foldl (fun t u => ?_) (goes_refl s)) id
  split
  · exact goes_endSession _ (goes_refl t)
  · exact goes_refl t
@[simp] theorem goes_dropEnclaves {r s : State} (h : Goes r s) : Goes r (dropEnclaves s) := by
  refine h.trans ?_
  unfold dropEnclaves
  try simp (maxDischargeDepth := 30) +contextual -implicitDefEqProofs
@[simp] theorem goes_dropSlotKeys {r s : State} (h : Goes r s) : Goes r (dropSlotKeys s) := by
  refine h.trans ?_
  unfold dropSlotKeys
  try simp (maxDischargeDepth := 30) +contextual -implicitDefEqProofs
@[simp] theorem goes_remapSites {r s : State} (h : Goes r s) : Goes r (remapSites s) := by
  refine h.trans ?_
  unfold remapSites
  try simp (maxDischargeDepth := 30) +contextual -implicitDefEqProofs
  all_goals repeat' (split <;> try simp (maxDischargeDepth := 30) +contextual -implicitDefEqProofs)
@[simp] theorem goes_releaseTrips {r s : State} (h : Goes r s) : Goes r (releaseTrips s) := by
  refine h.trans ?_
  unfold releaseTrips
  exact goes_ite (fun _ => goes_refl s) fun _ => goes_onSd (goes_refl s) id (fun w => rises_map_of (fun e => by split <;> rfl) w)
@[simp] theorem goes_applyTable {r s : State} (x0 : Slot) (x1 : LightTable)
    (h : Goes r s) : Goes r (applyTable x0 x1 s) := by
  refine h.trans ?_
  unfold applyTable
  try simp (maxDischargeDepth := 30) +contextual -implicitDefEqProofs
@[simp] theorem goes_lightTableCheck {r s : State} (x0 : Slot) (x1 : Bool)
    (h : Goes r s) : Goes r (lightTableCheck x0 x1 s) := by
  refine h.trans ?_
  unfold lightTableCheck
  try simp (maxDischargeDepth := 30) +contextual -implicitDefEqProofs
  all_goals repeat' (split <;> try simp (maxDischargeDepth := 30) +contextual -implicitDefEqProofs)
theorem goes_execLightTableCheck {s t : State} (x0 : Slot) (x1 : Bool)
    (q : execLightTableCheck x0 x1 s = .next t) : Goes s t := by
  unfold execLightTableCheck at q
  refine goes_ok ?_ q
  try simp (maxDischargeDepth := 30) +contextual -implicitDefEqProofs
@[simp] theorem goes_norTimeout {r s : State} (h : Goes r s) : Goes r (norTimeout s) := by
  refine h.trans ?_
  unfold norTimeout
  try simp (maxDischargeDepth := 30) +contextual -implicitDefEqProofs
  all_goals repeat' (split <;> try simp (maxDischargeDepth := 30) +contextual -implicitDefEqProofs)
theorem goes_execNorCommandTimeout {s t : State} (q : execNorCommandTimeout s = .next t) : Goes s t := by
  unfold execNorCommandTimeout at q
  refine goes_ok ?_ q
  try simp (maxDischargeDepth := 30) +contextual -implicitDefEqProofs
@[simp] theorem goes_startMonitor {r s : State} (h : Goes r s) : Goes r (startMonitor s) := by
  refine h.trans ?_
  unfold startMonitor
  try simp (maxDischargeDepth := 30) +contextual -implicitDefEqProofs
@[simp] theorem goes_dramTrained {r s : State} (h : Goes r s) : Goes r (dramTrained s) := by
  refine h.trans ?_
  unfold dramTrained
  try simp (maxDischargeDepth := 30) +contextual -implicitDefEqProofs
theorem goes_execDramTrained {s t : State} (q : execDramTrained s = .next t) : Goes s t := by
  unfold execDramTrained at q
  refine goes_ok ?_ q
  try simp (maxDischargeDepth := 30) +contextual -implicitDefEqProofs
@[simp] theorem goes_replayNothing {r s : State} (h : Goes r s) : Goes r (replayNothing s) := by
  refine h.trans ?_
  unfold replayNothing
  try simp (maxDischargeDepth := 30) +contextual -implicitDefEqProofs
@[simp] theorem goes_rebuildRings {r s : State} (h : Goes r s) : Goes r (rebuildRings s) := by
  refine h.trans ?_
  unfold rebuildRings
  try simp (maxDischargeDepth := 30) +contextual -implicitDefEqProofs
@[simp] theorem goes_abortUnfinished {r s : State} (h : Goes r s) : Goes r (abortUnfinished s) := by
  refine h.trans ?_
  unfold abortUnfinished
  try simp (maxDischargeDepth := 30) +contextual -implicitDefEqProofs
  all_goals repeat' (split <;> try simp (maxDischargeDepth := 30) +contextual -implicitDefEqProofs)
@[simp] theorem goes_settleRing {r s : State} (x0 : Nat) (h : Goes r s) : Goes r (settleRing x0 s) := by
  refine h.trans ?_
  unfold settleRing
  try simp (maxDischargeDepth := 30) +contextual -implicitDefEqProofs
@[simp] theorem goes_settleFunction {r s : State} (x0 : Nat) (h : Goes r s) : Goes r (settleFunction x0 s) := by
  refine h.trans ?_
  unfold settleFunction
  try simp (maxDischargeDepth := 30) +contextual -implicitDefEqProofs
  all_goals repeat' (split <;> try simp (maxDischargeDepth := 30) +contextual -implicitDefEqProofs)
@[simp] theorem goes_replayRecords {r s : State} (h : Goes r s) : Goes r (replayRecords s) := by
  refine h.trans ?_
  unfold replayRecords
  try simp (maxDischargeDepth := 30) +contextual -implicitDefEqProofs
@[simp] theorem goes_logbookReplay {r s : State} (h : Goes r s) : Goes r (logbookReplay s) := by
  refine h.trans ?_
  unfold logbookReplay
  try simp (maxDischargeDepth := 30) +contextual -implicitDefEqProofs
theorem goes_execLogbookReplay {s t : State} (q : execLogbookReplay s = .next t) : Goes s t := by
  unfold execLogbookReplay at q
  refine goes_ok ?_ q
  try simp (maxDischargeDepth := 30) +contextual -implicitDefEqProofs
@[simp] theorem goes_settleSlot {r s : State} (h : Goes r s) : Goes r (settleSlot s) := by
  refine h.trans ?_
  unfold settleSlot
  try simp (maxDischargeDepth := 30) +contextual -implicitDefEqProofs
@[simp] theorem goes_ringService {r s : State} (h : Goes r s) : Goes r (ringService s) := by
  refine h.trans ?_
  unfold ringService
  try simp (maxDischargeDepth := 30) +contextual -implicitDefEqProofs
theorem goes_execRingService {s t : State} (q : execRingService s = .next t) : Goes s t := by
  unfold execRingService at q
  refine goes_ok ?_ q
  try simp (maxDischargeDepth := 30) +contextual -implicitDefEqProofs
theorem goes_execBootSlowTimeout {s t : State} (q : execBootSlowTimeout s = .next t) : Goes s t := by
  unfold execBootSlowTimeout at q
  refine goes_ok ?_ q
  try simp (maxDischargeDepth := 30) +contextual -implicitDefEqProofs

end Sys2Proof.Machine
end

