-- ==== Sys2Proof/Laws/GoesResetEnd.lean ====
section
/-!
SUPPORT. What the operations of Machine/ResetEnd.lean keep (Laws/Goes.lean).
-/

namespace Sys2Proof.Machine

@[simp] theorem goes_drainHarts {r s : State} (x0 : List HartId) (h : Goes r s) : Goes r (drainHarts x0 s) := by
  refine h.trans ?_
  unfold drainHarts
  try simp (maxDischargeDepth := 30) +contextual -implicitDefEqProofs
  all_goals repeat' (split <;> try simp (maxDischargeDepth := 30) +contextual -implicitDefEqProofs)
@[simp] theorem goes_resetModule {r s : State} (x0 : Nat) (h : Goes r s) : Goes r (resetModule x0 s) := by
  refine h.trans ?_
  unfold resetModule
  try simp (maxDischargeDepth := 30) +contextual -implicitDefEqProofs
  all_goals repeat' (split <;> try simp (maxDischargeDepth := 30) +contextual -implicitDefEqProofs)
theorem goes_execModResetPin {s t : State} (q : execModResetPin s = .next t) : Goes s t := by
  unfold execModResetPin at q
  refine goes_ok ?_ q
  try simp (maxDischargeDepth := 30) +contextual -implicitDefEqProofs
@[simp] theorem goes_resetHarts {r s : State} (x0 : List HartId) (h : Goes r s) : Goes r (resetHarts x0 s) := by
  refine h.trans ?_
  unfold resetHarts
  try simp (maxDischargeDepth := 30) +contextual -implicitDefEqProofs
  all_goals repeat' (split <;> try simp (maxDischargeDepth := 30) +contextual -implicitDefEqProofs)
theorem goes_execDebugHartreset {s t : State} (x0 : HartId) (q : execDebugHartreset x0 s = .next t) : Goes s t := by
  unfold execDebugHartreset at q
  refine goes_ok ?_ q
  try simp (maxDischargeDepth := 30) +contextual -implicitDefEqProofs
  all_goals repeat' (split <;> try simp (maxDischargeDepth := 30) +contextual -implicitDefEqProofs)
theorem goes_execDebugNdmreset {s t : State} (q : execDebugNdmreset s = .next t) : Goes s t := by
  unfold execDebugNdmreset at q
  refine goes_ok ?_ q
  try simp (maxDischargeDepth := 30) +contextual -implicitDefEqProofs
  all_goals repeat' (split <;> try simp (maxDischargeDepth := 30) +contextual -implicitDefEqProofs)
@[simp] theorem goes_resetBlocks {r s : State} (h : Goes r s) : Goes r (resetBlocks s) := by
  refine h.trans ?_
  exact { goes_refl _ with
    sram := fun _ => rfl, buf := fun _ => rfl, harts := fun _ => rfl,
    fns := fun _ => by dsimp only [resetBlocks, HostIf.moduleReset]; exact rises_keepTab, doms := fun _ => rfl
    encls := fun w => by dsimp only [resetBlocks, Keeper.moduleReset]; exact rises_map_of (fun _ => rfl) w,
    lines := fun _ => rfl, slices := fun _ => rfl, lanes := fun _ => by dsimp only [resetBlocks]; exact rises_keepTab }
@[simp] theorem goes_moduleReset {r s : State} (h : Goes r s) : Goes r (moduleReset s) := by
  exact goes_resetBlocks (goes_forAll (fun t a => goes_drainBoth _ (goes_refl t)) h)
@[simp] theorem goes_releasePin {r s : State} (h : Goes r s) : Goes r (releasePin s) := by
  refine h.trans ?_
  unfold releasePin
  try simp (maxDischargeDepth := 30) +contextual -implicitDefEqProofs
  all_goals repeat' (split <;> try simp (maxDischargeDepth := 30) +contextual -implicitDefEqProofs)
@[simp] theorem goes_moduleRelease {r s : State} (x0 : BitVec 6) (x1 : Bool)
    (h : Goes r s) : Goes r (moduleRelease x0 x1 s) := by
  refine h.trans ?_
  unfold moduleRelease
  try simp (maxDischargeDepth := 30) +contextual -implicitDefEqProofs
theorem goes_execModuleResetRelease {s t : State} (x0 : BitVec 6) (x1 : Bool)
    (q : execModuleResetRelease x0 x1 s = .next t) : Goes s t := by
  unfold execModuleResetRelease at q
  refine goes_ok ?_ q
  try simp (maxDischargeDepth := 30) +contextual -implicitDefEqProofs
@[simp] theorem goes_emptyHartCaches {r s : State} (x0 : HartId) (h : Goes r s) : Goes r (emptyHartCaches x0 s) := by
  refine h.trans ?_
  unfold emptyHartCaches
  try simp (maxDischargeDepth := 30) +contextual -implicitDefEqProofs
@[simp] theorem goes_hartRestart {r s : State} (x0 : HartId) (h : Goes r s) : Goes r (hartRestart x0 s) := by
  refine h.trans ?_
  unfold hartRestart
  try simp (maxDischargeDepth := 30) +contextual -implicitDefEqProofs
theorem goes_execHartResetComplete {s t : State} (x0 : HartId)
    (q : execHartResetComplete x0 s = .next t) : Goes s t := by
  unfold execHartResetComplete at q
  refine goes_ok ?_ q
  try simp (maxDischargeDepth := 30) +contextual -implicitDefEqProofs
theorem goes_execWatchdogExpiryHard {s t : State} (q : execWatchdogExpiryHard s = .next t) : Goes s t := by
  unfold execWatchdogExpiryHard at q
  refine goes_ok ?_ q
  try simp (maxDischargeDepth := 30) +contextual -implicitDefEqProofs
@[simp] theorem goes_forcedExit {r s : State} (x0 : HartId) (h : Goes r s) : Goes r (forcedExit x0 s) := by
  refine h.trans ?_
  unfold forcedExit
  try simp (maxDischargeDepth := 30) +contextual -implicitDefEqProofs
@[simp] theorem goes_downUnit {r s : State} (x0 : Nat) (h : Goes r s) : Goes r (downUnit x0 s) := by
  refine h.trans ?_
  unfold downUnit
  try simp (maxDischargeDepth := 30) +contextual -implicitDefEqProofs
  all_goals repeat' (split <;> try simp (maxDischargeDepth := 30) +contextual -implicitDefEqProofs)
@[simp] theorem goes_keeperDown {r s : State} (h : Goes r s) : Goes r (keeperDown s) := by
  refine h.trans ?_
  unfold keeperDown
  try simp (maxDischargeDepth := 30) +contextual -implicitDefEqProofs
theorem goes_execWatchdogExpirySoft {s t : State} (q : execWatchdogExpirySoft s = .next t) : Goes s t := by
  unfold execWatchdogExpirySoft at q
  refine goes_ok ?_ q
  try simp (maxDischargeDepth := 30) +contextual -implicitDefEqProofs

end Sys2Proof.Machine
end

