-- ==== Sys2Proof/Laws/GoesPorts.lean ====
section
/-!
SUPPORT. What the operations of Machine/Ports.lean keep (Laws/Goes.lean).
-/

namespace Sys2Proof.Machine

@[simp] theorem goes_smbRead {r s : State} (x0 : Byte) (x1 : List Byte) (x2 : Bool)
    (h : Goes r s) : Goes r (smbRead x0 x1 x2 s) := by
  refine h.trans ?_
  unfold smbRead
  try simp (maxDischargeDepth := 30) +contextual -implicitDefEqProofs
@[simp] theorem goes_smbWord {r s : State} (x0 : Byte) (x1 : Nat) (x2 : Bool)
    (h : Goes r s) : Goes r (smbWord x0 x1 x2 s) := by
  refine h.trans ?_
  unfold smbWord
  try simp (maxDischargeDepth := 30) +contextual -implicitDefEqProofs
@[simp] theorem goes_smbBlock {r s : State} (x0 : Byte) (x1 : Nat) (x2 : Nat) (x3 : Bool)
    (h : Goes r s) : Goes r (smbBlock x0 x1 x2 x3 s) := by
  refine h.trans ?_
  unfold smbBlock
  try simp (maxDischargeDepth := 30) +contextual -implicitDefEqProofs
theorem goes_execSmbPsStatus {s t : State} (x0 : Bool) (q : execSmbPsStatus x0 s = .next t) : Goes s t := by
  unfold execSmbPsStatus at q
  simp only [Host.Outcome.next.injEq] at q
  subst q
  try simp (maxDischargeDepth := 30) +contextual -implicitDefEqProofs
theorem goes_execSmbTroubleSum {s t : State} (x0 : Bool) (q : execSmbTroubleSum x0 s = .next t) : Goes s t := by
  unfold execSmbTroubleSum at q
  simp only [Host.Outcome.next.injEq] at q
  subst q
  try simp (maxDischargeDepth := 30) +contextual -implicitDefEqProofs
theorem goes_execSmbFeedAVoltage {s t : State} (x0 : Bool) (q : execSmbFeedAVoltage x0 s = .next t) : Goes s t := by
  unfold execSmbFeedAVoltage at q
  simp only [Host.Outcome.next.injEq] at q
  subst q
  try simp (maxDischargeDepth := 30) +contextual -implicitDefEqProofs
theorem goes_execSmbFeedBVoltage {s t : State} (x0 : Bool) (q : execSmbFeedBVoltage x0 s = .next t) : Goes s t := by
  unfold execSmbFeedBVoltage at q
  simp only [Host.Outcome.next.injEq] at q
  subst q
  try simp (maxDischargeDepth := 30) +contextual -implicitDefEqProofs
theorem goes_execSmbInputPower {s t : State} (x0 : Bool) (q : execSmbInputPower x0 s = .next t) : Goes s t := by
  unfold execSmbInputPower at q
  simp only [Host.Outcome.next.injEq] at q
  subst q
  try simp (maxDischargeDepth := 30) +contextual -implicitDefEqProofs
theorem goes_execSmbDieTemperature {s t : State} (x0 : Bool)
    (q : execSmbDieTemperature x0 s = .next t) : Goes s t := by
  unfold execSmbDieTemperature at q
  simp only [Host.Outcome.next.injEq] at q
  subst q
  try simp (maxDischargeDepth := 30) +contextual -implicitDefEqProofs
theorem goes_execSmbModId {s t : State} (x0 : Bool) (q : execSmbModId x0 s = .next t) : Goes s t := by
  unfold execSmbModId at q
  simp only [Host.Outcome.next.injEq] at q
  subst q
  try simp (maxDischargeDepth := 30) +contextual -implicitDefEqProofs
theorem goes_execSmbPartId {s t : State} (x0 : Bool) (q : execSmbPartId x0 s = .next t) : Goes s t := by
  unfold execSmbPartId at q
  simp only [Host.Outcome.next.injEq] at q
  subst q
  try simp (maxDischargeDepth := 30) +contextual -implicitDefEqProofs
theorem goes_execSmbDeviceSerial {s t : State} (x0 : Bool) (q : execSmbDeviceSerial x0 s = .next t) : Goes s t := by
  unfold execSmbDeviceSerial at q
  simp only [Host.Outcome.next.injEq] at q
  subst q
  try simp (maxDischargeDepth := 30) +contextual -implicitDefEqProofs
theorem goes_execSmbUpStatus {s t : State} (x0 : Bool) (q : execSmbUpStatus x0 s = .next t) : Goes s t := by
  unfold execSmbUpStatus at q
  simp only [Host.Outcome.next.injEq] at q
  subst q
  try simp (maxDischargeDepth := 30) +contextual -implicitDefEqProofs
theorem goes_execSmbWrite {s t : State} (x0 : Byte) (x1 : List Byte)
    (q : execSmbWrite x0 x1 s = .next t) : Goes s t := by
  unfold execSmbWrite at q
  simp only [Host.Outcome.next.injEq] at q
  subst q
  try simp (maxDischargeDepth := 30) +contextual -implicitDefEqProofs
@[simp] theorem goes_smbAlertResponse {r s : State} (x0 : Bool) (h : Goes r s) : Goes r (smbAlertResponse x0 s) := by
  refine h.trans ?_
  unfold smbAlertResponse
  try simp (maxDischargeDepth := 30) +contextual -implicitDefEqProofs
theorem goes_execSmbAlertResponse {s t : State} (x0 : Bool) (q : execSmbAlertResponse x0 s = .next t) : Goes s t := by
  unfold execSmbAlertResponse at q
  simp only [Host.Outcome.next.injEq] at q
  subst q
  try simp (maxDischargeDepth := 30) +contextual -implicitDefEqProofs
@[simp] theorem goes_bypassScan {r s : State} (x0 : List Bool) (h : Goes r s) : Goes r (bypassScan x0 s) := by
  refine h.trans ?_
  unfold bypassScan
  try simp (maxDischargeDepth := 30) +contextual -implicitDefEqProofs
@[simp] theorem goes_boundaryScan {r s : State} (x0 : List Bool) (h : Goes r s) : Goes r (boundaryScan x0 s) := by
  refine h.trans ?_
  unfold boundaryScan
  try simp (maxDischargeDepth := 30) +contextual -implicitDefEqProofs
theorem goes_execExtest {s t : State} (x0 : List Bool) (q : execExtest x0 s = .next t) : Goes s t := by
  unfold execExtest at q
  simp only [Host.Outcome.next.injEq] at q
  subst q
  try simp (maxDischargeDepth := 30) +contextual -implicitDefEqProofs
theorem goes_execIdcode {s t : State} (q : execIdcode s = .next t) : Goes s t := by
  unfold execIdcode at q
  simp only [Host.Outcome.next.injEq] at q
  subst q
  try simp (maxDischargeDepth := 30) +contextual -implicitDefEqProofs
theorem goes_execSamplePreload {s t : State} (x0 : List Bool) (q : execSamplePreload x0 s = .next t) : Goes s t := by
  unfold execSamplePreload at q
  simp only [Host.Outcome.next.injEq] at q
  subst q
  try simp (maxDischargeDepth := 30) +contextual -implicitDefEqProofs
theorem goes_execClamp {s t : State} (q : execClamp s = .next t) : Goes s t := by
  unfold execClamp at q
  simp only [Host.Outcome.next.injEq] at q
  subst q
  try simp (maxDischargeDepth := 30) +contextual -implicitDefEqProofs
theorem goes_execHighz {s t : State} (q : execHighz s = .next t) : Goes s t := by
  unfold execHighz at q
  simp only [Host.Outcome.next.injEq] at q
  subst q
  try simp (maxDischargeDepth := 30) +contextual -implicitDefEqProofs
theorem goes_execBypass {s t : State} (x0 : BitVec 5) (x1 : Bool) (q : execBypass x0 x1 s = .next t) : Goes s t := by
  unfold execBypass at q
  simp only [Host.Outcome.next.injEq] at q
  subst q
  try simp (maxDischargeDepth := 30) +contextual -implicitDefEqProofs
theorem goes_execDtmcs {s t : State} (x0 : W32) (q : execDtmcs x0 s = .next t) : Goes s t := by
  unfold execDtmcs at q
  simp only [Host.Outcome.next.injEq] at q
  subst q
  try simp (maxDischargeDepth := 30) +contextual -implicitDefEqProofs
theorem goes_execJtagTrst {s t : State} (q : execJtagTrst s = .next t) : Goes s t := by
  unfold execJtagTrst at q
  simp only [Host.Outcome.next.injEq] at q
  subst q
  try simp (maxDischargeDepth := 30) +contextual -implicitDefEqProofs
theorem goes_execGpioInputChange {s t : State} (x0 : Byte) (q : execGpioInputChange x0 s = .next t) : Goes s t := by
  unfold execGpioInputChange at q
  simp only [Host.Outcome.next.injEq] at q
  subst q
  try simp (maxDischargeDepth := 30) +contextual -implicitDefEqProofs
@[simp] theorem goes_internalDma {r s : State} (x0 : Nat) (x1 : Nat) (x2 : DmaOp)
    (h : Goes r s) : Goes r (internalDma x0 x1 x2 s) := by
  refine h.trans ?_
  unfold internalDma
  try simp (maxDischargeDepth := 30) +contextual -implicitDefEqProofs
  all_goals repeat' (split <;> try simp (maxDischargeDepth := 30) +contextual -implicitDefEqProofs)
theorem goes_execInternalDmaAccess {s t : State} (x0 : Fin 32) (x1 : BitVec 48) (x2 : DmaOp)
    (q : execInternalDmaAccess x0 x1 x2 s = .next t) : Goes s t := by
  unfold execInternalDmaAccess at q
  refine goes_ok ?_ q
  try simp (maxDischargeDepth := 30) +contextual -implicitDefEqProofs

end Sys2Proof.Machine
end

