-- ==== Sys2Proof/Laws/GoesMigration.lean ====
section
/-!
SUPPORT. What the operations of Machine/Migration.lean keep (Laws/Goes.lean).
-/

namespace Sys2Proof.Machine

@[simp] theorem goes_deliverMessage {r s : State} (x0 : RingIdent) (x1 : Nat × Nat) (x2 : List Byte)
    (h : Goes r s) : Goes r (deliverMessage x0 x1 x2 s).1 := by
  refine h.trans ?_
  unfold deliverMessage
  try simp (maxDischargeDepth := 30) +contextual -implicitDefEqProofs
@[simp] theorem goes_importOffer {r s : State} (x0 : RingIdent) (x1 : Cmd)
    (h : Goes r s) : Goes r (importOffer x0 x1 s).1 := by
  refine h.trans ?_
  unfold importOffer
  refine goes_ite_fst (fun _ => goes_refl _) fun _ => goes_ite_fst (fun _ => goes_refl _) fun _ => ?_
  refine goes_ite_fst (fun _ => goes_refl _) fun _ => goes_ite_fst (fun _ => goes_refl _) fun _ => ?_
  exact goes_deliverMessage _ _ _ (goes_onFn (goes_refl s))
@[simp] theorem goes_vfExport {r s : State} (x0 : RingIdent) (x1 : Cmd)
    (h : Goes r s) : Goes r (vfExport x0 x1 s).1 := by
  refine h.trans ?_
  unfold vfExport
  try simp (maxDischargeDepth := 30) +contextual -implicitDefEqProofs
  all_goals repeat' (split <;> try simp (maxDischargeDepth := 30) +contextual -implicitDefEqProofs)
@[simp] theorem goes_placeMoved {r s : State} (x0 : Nat) (x1 : Moved)
    (h : Goes r s) : Goes r (placeMoved x0 x1 s) := by
  refine h.trans ?_
  unfold placeMoved
  try simp (maxDischargeDepth := 30) +contextual -implicitDefEqProofs
@[simp] theorem goes_reformSnapshots {r s : State} (x0 : Nat) (h : Goes r s) : Goes r (reformSnapshots x0 s) := by
  refine h.trans ?_
  unfold reformSnapshots
  try simp (maxDischargeDepth := 30) +contextual -implicitDefEqProofs
@[simp] theorem goes_vfImport {r s : State} (x0 : RingIdent) (x1 : Cmd)
    (h : Goes r s) : Goes r (vfImport x0 x1 s).1 := by
  refine h.trans ?_
  unfold vfImport
  refine goes_ite_fst (fun _ => goes_refl _) fun _ => goes_ite_fst (fun _ => goes_refl _) fun _ => ?_
  have k := goes_ringRead x0 (mIn x1.first).1 (mIn x1.first).2 (goes_refl s)
  revert k
  generalize ringRead x0 (mIn x1.first).1 (mIn x1.first).2 s = p
  obtain ⟨u, bs, poison⟩ := p
  intro k
  refine k.trans (goes_ite_fst (fun _ => goes_refl _) fun _ => ?_)
  generalize importChecks _ _ _ _ = q
  match q with
  | .error e => exact goes_refl u
  | .ok (m, b) =>
    refine goes_ite_fst (fun _ => goes_refl _) fun _ => goes_deliverMessage _ _ _ (goes_onFn ?_)
    have g (n n' : Nat) : Goes u { u with free := u.free + n + n' } :=
      { goes_refl u with free := Nat.le_trans (Nat.le_add_right _ n) (Nat.le_add_right _ n') }
    exact goes_commitMigrated _ _ _ (goes_reformSnapshots _ (goes_placeMoved _ _ (g _ _)))
@[simp] theorem goes_dropHeld {r s : State} (x0 : List Nat) (h : Goes r s) : Goes r (dropHeld x0 s) := by
  refine h.trans ?_
  unfold dropHeld
  try simp (maxDischargeDepth := 30) +contextual -implicitDefEqProofs
@[simp] theorem goes_exportCommit {r s : State} (x0 : RingIdent) (x1 : Cmd)
    (h : Goes r s) : Goes r (exportCommit x0 x1 s).1 := by
  refine h.trans ?_
  unfold exportCommit
  try simp (maxDischargeDepth := 30) +contextual -implicitDefEqProofs
  all_goals repeat' (split <;> try simp (maxDischargeDepth := 30) +contextual -implicitDefEqProofs)
@[simp] theorem goes_importCommit {r s : State} (x0 : RingIdent) (x1 : Cmd)
    (h : Goes r s) : Goes r (importCommit x0 x1 s).1 := by
  refine h.trans ?_
  unfold importCommit
  try simp (maxDischargeDepth := 30) +contextual -implicitDefEqProofs
  all_goals repeat' (split <;> try simp (maxDischargeDepth := 30) +contextual -implicitDefEqProofs)
@[simp] theorem goes_exportAbort {r s : State} (x0 : Cmd) (h : Goes r s) : Goes r (exportAbort x0 s).1 := by
  refine h.trans ?_
  unfold exportAbort
  try simp (maxDischargeDepth := 30) +contextual -implicitDefEqProofs
@[simp] theorem goes_importDiscard {r s : State} (x0 : Cmd) (h : Goes r s) : Goes r (importDiscard x0 s).1 := by
  refine h.trans ?_
  unfold importDiscard
  try simp (maxDischargeDepth := 30) +contextual -implicitDefEqProofs
@[simp] theorem goes_migrate {r s : State} (x0 : CmdRef) (x1 : Nat) (x2 : RingIdent →   Cmd → State → State × Result) (hx2 : ∀ y0 y1 t, Goes t (x2 y0 y1 t).1)
    (h : Goes r s) : Goes r (migrate x0 x1 x2 s) := by
  refine h.trans ?_
  have kx2 : ∀ r y0 y1 t, Goes r t → Goes r (x2 y0 y1 t).1 := fun _ y0 y1 t h => h.trans (hx2 y0 y1 t)
  unfold migrate
  try simp (maxDischargeDepth := 30) +contextual -implicitDefEqProofs [kx2]
theorem goes_execVfImportOffer {s t : State} (x0 : CmdRef) (q : execVfImportOffer x0 s = .next t) : Goes s t := by
  unfold execVfImportOffer at q
  refine goes_ok ?_ q
  try simp (maxDischargeDepth := 30) +contextual -implicitDefEqProofs
theorem goes_execVfExport {s t : State} (x0 : CmdRef) (q : execVfExport x0 s = .next t) : Goes s t := by
  unfold execVfExport at q
  refine goes_ok ?_ q
  try simp (maxDischargeDepth := 30) +contextual -implicitDefEqProofs
theorem goes_execVfImport {s t : State} (x0 : CmdRef) (q : execVfImport x0 s = .next t) : Goes s t := by
  unfold execVfImport at q
  refine goes_ok ?_ q
  try simp (maxDischargeDepth := 30) +contextual -implicitDefEqProofs
theorem goes_execVfExportCommit {s t : State} (x0 : CmdRef) (q : execVfExportCommit x0 s = .next t) : Goes s t := by
  unfold execVfExportCommit at q
  refine goes_ok ?_ q
  try simp (maxDischargeDepth := 30) +contextual -implicitDefEqProofs
theorem goes_execVfImportCommit {s t : State} (x0 : CmdRef) (q : execVfImportCommit x0 s = .next t) : Goes s t := by
  unfold execVfImportCommit at q
  refine goes_ok ?_ q
  try simp (maxDischargeDepth := 30) +contextual -implicitDefEqProofs
theorem goes_execVfExportAbort {s t : State} (x0 : CmdRef) (q : execVfExportAbort x0 s = .next t) : Goes s t := by
  unfold execVfExportAbort at q
  refine goes_ok ?_ q
  try simp (maxDischargeDepth := 30) +contextual -implicitDefEqProofs
theorem goes_execVfImportDiscard {s t : State} (x0 : CmdRef) (q : execVfImportDiscard x0 s = .next t) : Goes s t := by
  unfold execVfImportDiscard at q
  refine goes_ok ?_ q
  try simp (maxDischargeDepth := 30) +contextual -implicitDefEqProofs

end Sys2Proof.Machine
end

