-- ==== Sys2Proof/Laws/GoesAccesses.lean ====
section
/-!
SUPPORT. What the operations of Machine/Accesses.lean keep (Laws/Goes.lean).
-/

namespace Sys2Proof.Machine

@[simp] theorem goes_programOrder {r s : State} (x0 : Requester) (x1 : Bool) (x2 : State → State) (hx2 : ∀ t, Goes t (x2 t))
    (h : Goes r s) : Goes r (programOrder x0 x1 x2 s) := by
  refine h.trans ?_
  have kx2 : ∀ r t, Goes r t → Goes r (x2 t) := fun _ t h => h.trans (hx2 t)
  unfold programOrder
  try simp (maxDischargeDepth := 30) +contextual -implicitDefEqProofs [kx2]
  all_goals repeat' (split <;> try simp (maxDischargeDepth := 30) +contextual -implicitDefEqProofs [kx2])
@[simp] theorem goes_pfWrite {r s : State} (x0 : Requester) (x1 : State → State) (hx1 : ∀ t, Goes t (x1 t))
    (h : Goes r s) : Goes r (pfWrite x0 x1 s) := by
  refine h.trans ?_
  have kx1 : ∀ r t, Goes r t → Goes r (x1 t) := fun _ t h => h.trans (hx1 t)
  unfold pfWrite
  try simp (maxDischargeDepth := 30) +contextual -implicitDefEqProofs [kx1]
  all_goals repeat' (split <;> try simp (maxDischargeDepth := 30) +contextual -implicitDefEqProofs [kx1])
theorem goes_execPsModuleReset {s t : State} (x0 : Requester) (x1 : W32)
    (q : execPsModuleReset x0 x1 s = .next t) : Goes s t := by
  unfold execPsModuleReset at q
  refine goes_ok ?_ q
  try simp (maxDischargeDepth := 30) +contextual -implicitDefEqProofs
theorem goes_execPsHartReset {s t : State} (x0 : Requester) (x1 : W32)
    (q : execPsHartReset x0 x1 s = .next t) : Goes s t := by
  unfold execPsHartReset at q
  refine goes_ok ?_ q
  try simp (maxDischargeDepth := 30) +contextual -implicitDefEqProofs
  all_goals repeat' (split <;> try simp (maxDischargeDepth := 30) +contextual -implicitDefEqProofs)
theorem goes_execDsTraceRecLoRead {s t : State} (x0 : Requester) (x1 : Bool)
    (q : execDsTraceRecLoRead x0 x1 s = .next t) : Goes s t := by
  unfold execDsTraceRecLoRead at q
  refine goes_ok ?_ q
  try simp (maxDischargeDepth := 30) +contextual -implicitDefEqProofs
  all_goals repeat' (split <;> try simp (maxDischargeDepth := 30) +contextual -implicitDefEqProofs)
theorem goes_execDsTraceRecHiRead {s t : State} (x0 : Requester) (x1 : Bool)
    (q : execDsTraceRecHiRead x0 x1 s = .next t) : Goes s t := by
  unfold execDsTraceRecHiRead at q
  refine goes_ok ?_ q
  try simp (maxDischargeDepth := 30) +contextual -implicitDefEqProofs
  all_goals repeat' (split <;> try simp (maxDischargeDepth := 30) +contextual -implicitDefEqProofs)
theorem goes_execTraceClrOvf {s t : State} (x0 : Requester) (q : execTraceClrOvf x0 s = .next t) : Goes s t := by
  unfold execTraceClrOvf at q
  refine goes_ok ?_ q
  try simp (maxDischargeDepth := 30) +contextual -implicitDefEqProofs
theorem goes_execTraceRestart {s t : State} (x0 : Requester) (q : execTraceRestart x0 s = .next t) : Goes s t := by
  unfold execTraceRestart at q
  refine goes_ok ?_ q
  try simp (maxDischargeDepth := 30) +contextual -implicitDefEqProofs
  all_goals repeat' (split <;> try simp (maxDischargeDepth := 30) +contextual -implicitDefEqProofs)
theorem goes_execCtAlarmCmpWrite {s t : State} (x0 : Requester) (x1 : Fin 4) (x2 : Part) (x3 : W64)
    (q : execCtAlarmCmpWrite x0 x1 x2 x3 s = .next t) : Goes s t := by
  unfold execCtAlarmCmpWrite at q
  refine goes_ok ?_ q
  try simp (maxDischargeDepth := 30) +contextual -implicitDefEqProofs
theorem goes_execCtAlarmCtrlWrite {s t : State} (x0 : Requester) (x1 : Fin 4) (x2 : W32)
    (q : execCtAlarmCtrlWrite x0 x1 x2 s = .next t) : Goes s t := by
  unfold execCtAlarmCtrlWrite at q
  refine goes_ok ?_ q
  try simp (maxDischargeDepth := 30) +contextual -implicitDefEqProofs
theorem goes_execReg64LowHalfRead {s t : State} (x0 : Requester) (x1 : BitVec 32)
    (q : execReg64LowHalfRead x0 x1 s = .next t) : Goes s t := by
  unfold execReg64LowHalfRead at q
  refine goes_ok ?_ q
  try simp (maxDischargeDepth := 30) +contextual -implicitDefEqProofs
theorem goes_execPmcClear {s t : State} (x0 : HartId) (q : execPmcClear x0 s = .next t) : Goes s t := by
  unfold execPmcClear at q
  refine goes_ok ?_ q
  try simp (maxDischargeDepth := 30) +contextual -implicitDefEqProofs
  all_goals repeat' (split <;> try simp (maxDischargeDepth := 30) +contextual -implicitDefEqProofs)
theorem goes_execPmcFreeze {s t : State} (x0 : HartId) (x1 : Bool)
    (q : execPmcFreeze x0 x1 s = .next t) : Goes s t := by
  unfold execPmcFreeze at q
  refine goes_ok ?_ q
  try simp (maxDischargeDepth := 30) +contextual -implicitDefEqProofs
  all_goals repeat' (split <;> try simp (maxDischargeDepth := 30) +contextual -implicitDefEqProofs)
theorem goes_execEnclaveBuild {s t : State} (x0 : HartId) (x1 : Byte)
    (q : execEnclaveBuild x0 x1 s = .next t) : Goes s t := by
  unfold execEnclaveBuild at q
  refine goes_ok ?_ q
  try simp (maxDischargeDepth := 30) +contextual -implicitDefEqProofs
theorem goes_execEnclaveSeal {s t : State} (x0 : HartId) (x1 : Byte)
    (q : execEnclaveSeal x0 x1 s = .next t) : Goes s t := by
  unfold execEnclaveSeal at q
  refine goes_ok ?_ q
  try simp (maxDischargeDepth := 30) +contextual -implicitDefEqProofs
theorem goes_execEnclaveDestroy {s t : State} (x0 : HartId) (x1 : Byte)
    (q : execEnclaveDestroy x0 x1 s = .next t) : Goes s t := by
  unfold execEnclaveDestroy at q
  refine goes_ok ?_ q
  try simp (maxDischargeDepth := 30) +contextual -implicitDefEqProofs
theorem goes_execKpRangeWrite {s t : State} (x0 : HartId) (x1 : Fin 1024) (x2 : W64) (x3 : W64)
    (q : execKpRangeWrite x0 x1 x2 x3 s = .next t) : Goes s t := by
  unfold execKpRangeWrite at q
  refine goes_ok ?_ q
  try simp (maxDischargeDepth := 30) +contextual -implicitDefEqProofs
theorem goes_execHandoverRequest {s t : State} (x0 : HartId) (x1 : W32)
    (q : execHandoverRequest x0 x1 s = .next t) : Goes s t := by
  unfold execHandoverRequest at q
  refine goes_ok ?_ q
  try simp (maxDischargeDepth := 30) +contextual -implicitDefEqProofs
theorem goes_execKpWdKick {s t : State} (x0 : HartId) (x1 : W32) (q : execKpWdKick x0 x1 s = .next t) : Goes s t := by
  unfold execKpWdKick at q
  refine goes_ok ?_ q
  try simp (maxDischargeDepth := 30) +contextual -implicitDefEqProofs
theorem goes_execKpVlogPop {s t : State} (x0 : HartId) (x1 : W32)
    (q : execKpVlogPop x0 x1 s = .next t) : Goes s t := by
  unfold execKpVlogPop at q
  refine goes_ok ?_ q
  try simp (maxDischargeDepth := 30) +contextual -implicitDefEqProofs
theorem goes_execPsGateWrite {s t : State} (x0 : Requester) (x1 : W32)
    (q : execPsGateWrite x0 x1 s = .next t) : Goes s t := by
  unfold execPsGateWrite at q
  refine goes_ok ?_ q
  try simp (maxDischargeDepth := 30) +contextual -implicitDefEqProofs
theorem goes_execPsIdleHintWrite {s t : State} (x0 : Requester) (x1 : W32)
    (q : execPsIdleHintWrite x0 x1 s = .next t) : Goes s t := by
  unfold execPsIdleHintWrite at q
  refine goes_ok ?_ q
  try simp (maxDischargeDepth := 30) +contextual -implicitDefEqProofs
  all_goals repeat' (split <;> try simp (maxDischargeDepth := 30) +contextual -implicitDefEqProofs)
theorem goes_execMbxPfSend {s t : State} (x0 : Requester) (q : execMbxPfSend x0 s = .next t) : Goes s t := by
  unfold execMbxPfSend at q
  refine goes_ok ?_ q
  try simp (maxDischargeDepth := 30) +contextual -implicitDefEqProofs
  all_goals repeat' (split <;> try simp (maxDischargeDepth := 30) +contextual -implicitDefEqProofs)
theorem goes_execMbxPfAck {s t : State} (x0 : Requester) (q : execMbxPfAck x0 s = .next t) : Goes s t := by
  unfold execMbxPfAck at q
  refine goes_ok ?_ q
  try simp (maxDischargeDepth := 30) +contextual -implicitDefEqProofs
  all_goals repeat' (split <;> try simp (maxDischargeDepth := 30) +contextual -implicitDefEqProofs)
theorem goes_execMbxMessageWrite {s t : State} (x0 : Requester) (x1 : Fin 16) (x2 : Part) (x3 : W64)
    (q : execMbxMessageWrite x0 x1 x2 x3 s = .next t) : Goes s t := by
  unfold execMbxMessageWrite at q
  refine goes_ok ?_ q
  try simp (maxDischargeDepth := 30) +contextual -implicitDefEqProofs
  all_goals repeat' (split <;> try simp (maxDischargeDepth := 30) +contextual -implicitDefEqProofs)
theorem goes_execDirtySwitch {s t : State} (x0 : Requester) (q : execDirtySwitch x0 s = .next t) : Goes s t := by
  unfold execDirtySwitch at q
  refine goes_ok ?_ q
  try simp (maxDischargeDepth := 30) +contextual -implicitDefEqProofs
  all_goals repeat' (split <;> try simp (maxDischargeDepth := 30) +contextual -implicitDefEqProofs)
theorem goes_execFnDirtyBaseWrite {s t : State} (x0 : Requester) (x1 : Bool) (x2 : Part) (x3 : W64)
    (q : execFnDirtyBaseWrite x0 x1 x2 x3 s = .next t) : Goes s t := by
  unfold execFnDirtyBaseWrite at q
  refine goes_ok ?_ q
  try simp (maxDischargeDepth := 30) +contextual -implicitDefEqProofs
  all_goals repeat' (split <;> try simp (maxDischargeDepth := 30) +contextual -implicitDefEqProofs)
theorem goes_execRingEnable {s t : State} (x0 : Requester) (x1 : RingId) (x2 : W32)
    (q : execRingEnable x0 x1 x2 s = .next t) : Goes s t := by
  unfold execRingEnable at q
  refine goes_ok ?_ q
  try simp (maxDischargeDepth := 30) +contextual -implicitDefEqProofs
theorem goes_execRingDisable {s t : State} (x0 : Requester) (x1 : RingId) (x2 : W32)
    (q : execRingDisable x0 x1 x2 s = .next t) : Goes s t := by
  unfold execRingDisable at q
  refine goes_ok ?_ q
  try simp (maxDischargeDepth := 30) +contextual -implicitDefEqProofs
theorem goes_execRgNotifyWrite {s t : State} (x0 : Requester) (x1 : RingId) (x2 : W32)
    (q : execRgNotifyWrite x0 x1 x2 s = .next t) : Goes s t := by
  unfold execRgNotifyWrite at q
  refine goes_ok ?_ q
  try simp (maxDischargeDepth := 30) +contextual -implicitDefEqProofs
theorem goes_execRingConfigWrite {s t : State} (x0 : Requester) (x1 : RingId) (x2 : Fin 3) (x3 : Part) (x4 : W64)
    (q : execRingConfigWrite x0 x1 x2 x3 x4 s = .next t) : Goes s t := by
  unfold execRingConfigWrite at q
  refine goes_ok ?_ q
  try simp (maxDischargeDepth := 30) +contextual -implicitDefEqProofs
theorem goes_execRgProdWrite {s t : State} (x0 : Requester) (x1 : RingId) (x2 : W32)
    (q : execRgProdWrite x0 x1 x2 s = .next t) : Goes s t := by
  unfold execRgProdWrite at q
  refine goes_ok ?_ q
  try simp (maxDischargeDepth := 30) +contextual -implicitDefEqProofs
theorem goes_execMuAbortWrite {s t : State} (x0 : Requester) (x1 : W32)
    (q : execMuAbortWrite x0 x1 s = .next t) : Goes s t := by
  unfold execMuAbortWrite at q
  refine goes_ok ?_ q
  try simp (maxDischargeDepth := 30) +contextual -implicitDefEqProofs
theorem goes_execSdHistRead {s t : State} (x0 : Requester) (x1 : SiteId) (x2 : Fin 16)
    (q : execSdHistRead x0 x1 x2 s = .next t) : Goes s t := by
  unfold execSdHistRead at q
  refine goes_ok ?_ q
  try simp (maxDischargeDepth := 30) +contextual -implicitDefEqProofs
  all_goals repeat' (split <;> try simp (maxDischargeDepth := 30) +contextual -implicitDefEqProofs)
theorem goes_execUpConfirm {s t : State} (x0 : Requester) (x1 : W32) (x2 : Option Nat)
    (q : execUpConfirm x0 x1 x2 s = .next t) : Goes s t := by
  unfold execUpConfirm at q
  refine goes_ok ?_ q
  try simp (maxDischargeDepth := 30) +contextual -implicitDefEqProofs
  all_goals repeat' (split <;> try simp (maxDischargeDepth := 30) +contextual -implicitDefEqProofs)
theorem goes_execDmOpen {s t : State} (x0 : Requester) (x1 : Byte) (x2 : Bool)
    (q : execDmOpen x0 x1 x2 s = .next t) : Goes s t := by
  unfold execDmOpen at q
  refine goes_ok ?_ q
  try simp (maxDischargeDepth := 30) +contextual -implicitDefEqProofs
theorem goes_execDmBlock {s t : State} (x0 : Requester) (x1 : Bool)
    (q : execDmBlock x0 x1 s = .next t) : Goes s t := by
  unfold execDmBlock at q
  refine goes_ok ?_ q
  try simp (maxDischargeDepth := 30) +contextual -implicitDefEqProofs
theorem goes_execDmClose {s t : State} (x0 : Requester) (x1 : Byte) (x2 : Bool)
    (q : execDmClose x0 x1 x2 s = .next t) : Goes s t := by
  unfold execDmClose at q
  refine goes_ok ?_ q
  try simp (maxDischargeDepth := 30) +contextual -implicitDefEqProofs
theorem goes_execDmActivate {s t : State} (x0 : Requester) (x1 : Byte)
    (q : execDmActivate x0 x1 s = .next t) : Goes s t := by
  unfold execDmActivate at q
  refine goes_ok ?_ q
  try simp (maxDischargeDepth := 30) +contextual -implicitDefEqProofs
theorem goes_execDmAbort {s t : State} (x0 : Requester) (q : execDmAbort x0 s = .next t) : Goes s t := by
  unfold execDmAbort at q
  refine goes_ok ?_ q
  try simp (maxDischargeDepth := 30) +contextual -implicitDefEqProofs
theorem goes_execDmStatus {s t : State} (x0 : Requester) (q : execDmStatus x0 s = .next t) : Goes s t := by
  unfold execDmStatus at q
  refine goes_ok ?_ q
  try simp (maxDischargeDepth := 30) +contextual -implicitDefEqProofs
theorem goes_execTroubleW1cWrite {s t : State} (x0 : RegWrite)
    (q : execTroubleW1cWrite x0 s = .next t) : Goes s t := by
  unfold execTroubleW1cWrite at q
  refine goes_ok ?_ q
  try simp (maxDischargeDepth := 30) +contextual -implicitDefEqProofs
theorem goes_execPsViolClr {s t : State} (x0 : Requester) (x1 : W32)
    (q : execPsViolClr x0 x1 s = .next t) : Goes s t := by
  unfold execPsViolClr at q
  refine goes_ok ?_ q
  try simp (maxDischargeDepth := 30) +contextual -implicitDefEqProofs
  all_goals repeat' (split <;> try simp (maxDischargeDepth := 30) +contextual -implicitDefEqProofs)
theorem goes_execRegisterWrite {s t : State} (x0 : RegTarget) (q : execRegisterWrite x0 s = .next t) : Goes s t := by
  unfold execRegisterWrite at q
  refine goes_ok ?_ q
  try simp (maxDischargeDepth := 30) +contextual -implicitDefEqProofs
  all_goals repeat' (split <;> try simp (maxDischargeDepth := 30) +contextual -implicitDefEqProofs)

end Sys2Proof.Machine
end

