-- ==== Sys2Proof/Laws/GoesStep.lean ====
section
/-!
SUPPORT. What the operations of Machine/Step.lean keep (Laws/Goes.lean).
-/

namespace Sys2Proof.Machine

@[simp] theorem goes_coreTime {r s : State} (h : Goes r s) : Goes r (coreTime s) := by
  refine h.trans ?_
  unfold coreTime
  try simp (maxDischargeDepth := 30) +contextual -implicitDefEqProofs
  all_goals repeat' (split <;> try simp (maxDischargeDepth := 30) +contextual -implicitDefEqProofs)
@[simp] theorem goes_watchdogClock {r s : State} (h : Goes r s) : Goes r (watchdogClock s) := by
  refine h.trans ?_
  unfold watchdogClock
  try simp (maxDischargeDepth := 30) +contextual -implicitDefEqProofs
  all_goals repeat' (split <;> try simp (maxDischargeDepth := 30) +contextual -implicitDefEqProofs)
@[simp] theorem goes_settleClock {r s : State} (h : Goes r s) : Goes r (settleClock s) := by
  refine h.trans ?_
  unfold settleClock
  try simp (maxDischargeDepth := 30) +contextual -implicitDefEqProofs
  all_goals repeat' (split <;> try simp (maxDischargeDepth := 30) +contextual -implicitDefEqProofs)
@[simp] theorem goes_idle {r s : State} (h : Goes r s) : Goes r (idle s) := by
  refine h.trans ?_
  unfold idle
  try simp (maxDischargeDepth := 30) +contextual -implicitDefEqProofs

end Sys2Proof.Machine
end

