-- ==== Sys2Proof/WellFormed.lean ====
section
/-!
DEFINITION. The bounds that the spec gives a command's operands where their types are wider. The machine has a meaning for
every term; these say which terms are commands that the hardware can be sent.
-/

namespace Sys2Proof

/-- A stage's walk goes down at most the four levels of Sv48 (R195). -/
def StageWalk.wf (w : StageWalk) : Bool := decide (w.path.length + w.level < 4)

/-- A page walk's stages are well-formed, and it keeps the page offset (R195, R200). -/
def Access.wf (a : Access) : Bool :=
  (match a.walk with
   | none => true
   | some w => (w.first.map StageWalk.wf).getD true && (w.guest.map StageWalk.wf).getD true) && decide (a.va.extractLsb' 0 12 = a.pa.extractLsb' 0 12)

/-- A debug response has the lengths of R387. -/
def DebugResponse.wf (r : DebugResponse) : Bool :=
  decide (r.mldsa.length = 4627) && decide (r.ecdsaR.length = 48) && decide (r.ecdsaS.length = 48)

/-- A TCB frame lies at least one boundary after the one before it (R72). -/
def TcbFrame.wf (f : TcbFrame) : Bool := decide (1 ≤ f.gap)

/-- An internal DMA access covers at most 64 bytes of DRAM's coherence unit (R276). -/
def DmaOp.wf : DmaOp → Bool
  | .read n => decide (1 ≤ n.val)
  | .write bs => decide (1 ≤ bs.length ∧ bs.length ≤ 64)

/-- The operands lie inside their bounds. -/
def Instr.wf : Instr → Bool
  | .tcbFrame f => f.wf
  | .load _ _ _ a | .store _ a _ | .amo _ _ _ a _ _ _ | .lr _ _ a _ _ _ | .sc _ _ a _ _ _ => a.wf
  | .cboClean _ a | .cboFlush _ a | .cboInval _ a | .cboZero _ a | .prefetch _ _ a => a.wf
  | .kdbgResp r => r.wf
  | .configRequest _ (.read d) => decide (d < 1024)
  | .msixDeliverPending _ v => decide (v < 64)
  | .hostReadCompletion (.data _ bs) => decide (1 ≤ bs.length ∧ bs.length ≤ 4096)
  | .carriedCopy lsn => decide (lsn < 2 ^ 64)
  | .sampleOutput _ bs => !bs.isEmpty
  | .smbWrite _ bs => decide (bs.length ≤ 255)
  | .extest cs | .samplePreload cs => !cs.isEmpty
  | .internalDmaAccess _ _ op => op.wf
  | _ => true

end Sys2Proof
end

