-- ==== Sys2Proof/Laws/PerInstr.lean ====
section
/-!
SUPPORT. One law for every command: a command that a word of the opcode table spells is well formed. The table gives no row
bits, so no word spells any.
-/

namespace Sys2Proof.Laws.F

/-- Every word that spells the command spells a well-formed one. -/
def Statement (i : Instr) : Prop := ∀ nbits w : Nat, decodeTableWord nbits w = some i → i.wf = true

theorem no_word (i : Instr) : Statement i := fun _ _ h => nomatch h

theorem feedBecomesValid (f : Feed) (v : Int) : Statement (.feedBecomesValid f v) := no_word _
theorem feedBecomesInvalid (f : Feed) (v : Int) : Statement (.feedBecomesInvalid f v) := no_word _
theorem feedOvervoltage (f : Feed) (v : Int) : Statement (.feedOvervoltage f v) := no_word _
theorem feedReversed (f : Feed) (v : Int) : Statement (.feedReversed f v) := no_word _
theorem feedShorted (f : Feed) : Statement (.feedShorted f) := no_word _
theorem powerCapInterval (deciWatts : Nat) : Statement (.powerCapInterval deciWatts) := no_word _
theorem holdupCharged : Statement (.holdupCharged) := no_word _
theorem powerFailCommit : Statement (.powerFailCommit) := no_word _
theorem powerOnReset (holdupLow : Bool) : Statement (.powerOnReset holdupLow) := no_word _
theorem polRailsGood (modId : BitVec 6) (daymarkHigh : Bool) : Statement (.polRailsGood modId daymarkHigh) := no_word _
theorem thermalHoldRelease (temp : Int) : Statement (.thermalHoldRelease temp) := no_word _
theorem romStart (entropyOk : Bool) : Statement (.romStart entropyOk) := no_word _
theorem lightTableCheck (slot : Slot) (readError : Bool) : Statement (.lightTableCheck slot readError) := no_word _
theorem dramTrained : Statement (.dramTrained) := no_word _
theorem pcieLinkTrained : Statement (.pcieLinkTrained) := no_word _
theorem logbookReplay : Statement (.logbookReplay) := no_word _
theorem ringService : Statement (.ringService) := no_word _
theorem bootSlowTimeout : Statement (.bootSlowTimeout) := no_word _
theorem polFault : Statement (.polFault) := no_word _
theorem polLockoutEnd : Statement (.polLockoutEnd) := no_word _
theorem modResetPin : Statement (.modResetPin) := no_word _
theorem psModuleReset (who : Requester) (value : W32) : Statement (.psModuleReset who value) := no_word _
theorem moduleResetRelease (modId : BitVec 6) (daymarkHigh : Bool) : Statement (.moduleResetRelease modId daymarkHigh) := no_word _
theorem perstAssertion : Statement (.perstAssertion) := no_word _
theorem hotReset : Statement (.hotReset) := no_word _
theorem linkLoss : Statement (.linkLoss) := no_word _
theorem perstDeassertion : Statement (.perstDeassertion) := no_word _
theorem configRequest (f : FnId) (op : ConfigOp) : Statement (.configRequest f op) := no_word _
theorem psHartReset (who : Requester) (mask : W32) : Statement (.psHartReset who mask) := no_word _
theorem debugHartreset (h : HartId) : Statement (.debugHartreset h) := no_word _
theorem debugNdmreset : Statement (.debugNdmreset) := no_word _
theorem hartResetComplete (h : HartId) : Statement (.hartResetComplete h) := no_word _
theorem thermWarnAssert (temp : Int) : Statement (.thermWarnAssert temp) := no_word _
theorem thermWarnRelease (temp : Int) : Statement (.thermWarnRelease temp) := no_word _
theorem throttleStep (temp : Int) : Statement (.throttleStep temp) := no_word _
theorem dieTempShutdown (temp : Int) : Statement (.dieTempShutdown temp) := no_word _
theorem tcbFrame (fr : TcbFrame) : Statement (.tcbFrame fr) := no_word _
theorem tcbCoastLimit : Statement (.tcbCoastLimit) := no_word _
theorem tcbAlignmentChange (aligned : Bool) (inverted : Bool) : Statement (.tcbAlignmentChange aligned inverted) := no_word _
theorem tcbRefToleranceChange (within : Bool) : Statement (.tcbRefToleranceChange within) := no_word _
theorem alarmFire (f : FnId) (a : Fin 4) : Statement (.alarmFire f a) := no_word _
theorem ctAlarmCmpWrite (who : Requester) (a : Fin 4) (part : Part) (value : W64) : Statement (.ctAlarmCmpWrite who a part value) := no_word _
theorem ctAlarmCtrlWrite (who : Requester) (a : Fin 4) (value : W32) : Statement (.ctAlarmCtrlWrite who a value) := no_word _
theorem reg64LowHalfRead (who : Requester) (offset : BitVec 32) : Statement (.reg64LowHalfRead who offset) := no_word _
theorem load (h : HartId) (rd : Fin 32) (signed : Bool) (acc : Access) : Statement (.load h rd signed acc) := no_word _
theorem store (h : HartId) (acc : Access) (value : W64) : Statement (.store h acc value) := no_word _
theorem storeBufferDrain (h : HartId) : Statement (.storeBufferDrain h) := no_word _
theorem combiningBufferDrain (h : HartId) (line : LineNo) : Statement (.combiningBufferDrain h line) := no_word _
theorem amo (h : HartId) (rd : Fin 32) (op : AmoOp) (acc : Access) (value : W64) (aq rl : Bool) : Statement (.amo h rd op acc value aq rl) := no_word _
theorem lr (h : HartId) (rd : Fin 32) (acc : Access) (aq rl : Bool) (constrained : Bool) : Statement (.lr h rd acc aq rl constrained) := no_word _
theorem sc (h : HartId) (rd : Fin 32) (acc : Access) (value : W64) (aq rl : Bool) : Statement (.sc h rd acc value aq rl) := no_word _
theorem lrDeferralTimeout (h : HartId) : Statement (.lrDeferralTimeout h) := no_word _
theorem fence (h : HartId) (pred succ : FenceSet) : Statement (.fence h pred succ) := no_word _
theorem fenceTso (h : HartId) : Statement (.fenceTso h) := no_word _
theorem fenceI (h : HartId) : Statement (.fenceI h) := no_word _
theorem cboClean (h : HartId) (acc : Access) : Statement (.cboClean h acc) := no_word _
theorem cboFlush (h : HartId) (acc : Access) : Statement (.cboFlush h acc) := no_word _
theorem cboInval (h : HartId) (acc : Access) : Statement (.cboInval h acc) := no_word _
theorem cboZero (h : HartId) (acc : Access) : Statement (.cboZero h acc) := no_word _
theorem prefetch (h : HartId) (kind : PrefetchKind) (acc : Access) : Statement (.prefetch h kind acc) := no_word _
theorem predFlush (h : HartId) (word : W32) : Statement (.predFlush h word) := no_word _
theorem predBar (h : HartId) (word : W32) : Statement (.predBar h word) := no_word _
theorem pause (h : HartId) : Statement (.pause h) := no_word _
theorem wfi (h : HartId) : Statement (.wfi h) := no_word _
theorem misaWrite (h : HartId) (value : W64) (insn : W32) : Statement (.misaWrite h value insn) := no_word _
theorem trapVectorWrite (h : HartId) (reg : TvecReg) (value : W64) (insn : W32) : Statement (.trapVectorWrite h reg value insn) := no_word _
theorem satpWrite (h : HartId) (reg : AtpReg) (value : W64) (insn : W32) : Statement (.satpWrite h reg value insn) := no_word _
theorem pmpcfgWrite (h : HartId) (entry : Fin 16) (value : Byte) (insn : W32) : Statement (.pmpcfgWrite h entry value insn) := no_word _
theorem mhpmeventWrite (h : HartId) (n : Fin 8) (value : W64) (insn : W32) : Statement (.mhpmeventWrite h n value insn) := no_word _
theorem counterWrite (h : HartId) (c : CounterId) (value : W64) (insn : W32) : Statement (.counterWrite h c value insn) := no_word _
theorem skulctlWrite (h : HartId) (value : W64) (insn : W32) : Statement (.skulctlWrite h value insn) := no_word _
theorem hkulctlWrite (h : HartId) (value : W64) (insn : W32) : Statement (.hkulctlWrite h value insn) := no_word _
theorem seedCsrRead (h : HartId) (rd : Fin 32) (insn : W32) : Statement (.seedCsrRead h rd insn) := no_word _
theorem rdShared (core : HartId) (line : LineNo) (chk : HomeCheck) : Statement (.rdShared core line chk) := no_word _
theorem rdUnique (core : HartId) (line : LineNo) (chk : HomeCheck) : Statement (.rdUnique core line chk) := no_word _
theorem upgrade (core : HartId) (line : LineNo) : Statement (.upgrade core line) := no_word _
theorem wbDirty (core : HartId) (line : LineNo) : Statement (.wbDirty core line) := no_word _
theorem evictClean (core : HartId) (line : LineNo) : Statement (.evictClean core line) := no_word _
theorem devRead (who : MeshReq) (line : LineNo) (chk : HomeCheck) : Statement (.devRead who line chk) := no_word _
theorem devWrite (who : MeshReq) (line : LineNo) (data : Line) (mask : BitVec 64) : Statement (.devWrite who line data mask) := no_word _
theorem snpShared (core : HartId) (line : LineNo) : Statement (.snpShared core line) := no_word _
theorem snpUnique (core : HartId) (line : LineNo) : Statement (.snpUnique core line) := no_word _
theorem snpInv (core : HartId) (line : LineNo) : Statement (.snpInv core line) := no_word _
theorem data (core : HartId) (line : LineNo) : Statement (.data core line) := no_word _
theorem dataDirty (core : HartId) (line : LineNo) : Statement (.dataDirty core line) := no_word _
theorem ack (core : HartId) (line : LineNo) : Statement (.ack core line) := no_word _
theorem retry (who : MeshReq) (slice : SliceId) : Statement (.retry who slice) := no_word _
theorem trackerRelease (slice : SliceId) (line : LineNo) : Statement (.trackerRelease slice line) := no_word _
theorem creditGrant (who : MeshReq) (slice : SliceId) : Statement (.creditGrant who slice) := no_word _
theorem patrolScrub (channel : Fin 4) (chk : DramCheck) : Statement (.patrolScrub channel chk) := no_word _
theorem dramZeroing : Statement (.dramZeroing) := no_word _
theorem pmcClear (h : HartId) : Statement (.pmcClear h) := no_word _
theorem pmcFreeze (h : HartId) (freeze : Bool) : Statement (.pmcFreeze h freeze) := no_word _
theorem kenter (h : HartId) (word : W32) : Statement (.kenter h word) := no_word _
theorem kexit (h : HartId) (word : W32) : Statement (.kexit h word) := no_word _
theorem kresume (h : HartId) (word : W32) : Statement (.kresume h word) := no_word _
theorem asyncExit (h : HartId) (cause : W64) : Statement (.asyncExit h cause) := no_word _
theorem enclaveBuild (h : HartId) (e : Byte) : Statement (.enclaveBuild h e) := no_word _
theorem enclaveSeal (h : HartId) (e : Byte) : Statement (.enclaveSeal h e) := no_word _
theorem enclaveDestroy (h : HartId) (e : Byte) : Statement (.enclaveDestroy h e) := no_word _
theorem kpRangeWrite (h : HartId) (i : Fin 1024) (base : W64) (word1 : W64) : Statement (.kpRangeWrite h i base word1) := no_word _
theorem handoverRequest (h : HartId) (value : W32) : Statement (.handoverRequest h value) := no_word _
theorem handoverBlockReset (block : Fin 16) : Statement (.handoverBlockReset block) := no_word _
theorem kpWdKick (h : HartId) (value : W32) : Statement (.kpWdKick h value) := no_word _
theorem watchdogPreExpiry : Statement (.watchdogPreExpiry) := no_word _
theorem watchdogExpiryHard : Statement (.watchdogExpiryHard) := no_word _
theorem watchdogExpirySoft : Statement (.watchdogExpirySoft) := no_word _
theorem kpVlogPop (h : HartId) (value : W32) : Statement (.kpVlogPop h value) := no_word _
theorem psGateWrite (who : Requester) (value : W32) : Statement (.psGateWrite who value) := no_word _
theorem gateTakesEffect (block : Fin 16) : Statement (.gateTakesEffect block) := no_word _
theorem psIdleHintWrite (who : Requester) (value : W32) : Statement (.psIdleHintWrite who value) := no_word _
theorem idleHintUngate (unit : Fin 22) : Statement (.idleHintUngate unit) := no_word _
theorem kdbgChal : Statement (.kdbgChal) := no_word _
theorem kdbgResp (resp : DebugResponse) : Statement (.kdbgResp resp) := no_word _
theorem kdbgStat (shiftIn : W32) : Statement (.kdbgStat shiftIn) := no_word _
theorem dmiAccess (op : DmiOp) : Statement (.dmiAccess op) := no_word _
theorem dispNext (h : HartId) (word : W32) (sram : BitError) : Statement (.dispNext h word sram) := no_word _
theorem dispEnq (h : HartId) (word : W32) : Statement (.dispEnq h word) := no_word _
theorem dispWait (h : HartId) (word : W32) (sram : BitError) : Statement (.dispWait h word sram) := no_word _
theorem dispYield (h : HartId) (word : W32) (sram : BitError) : Statement (.dispYield h word sram) := no_word _
theorem hkuldispWrite (h : HartId) (value : W64) (insn : W32) : Statement (.hkuldispWrite h value insn) := no_word _
theorem tickBoundary (sram : BitError) : Statement (.tickBoundary sram) := no_word _
theorem wakeHeldMove (d : FnId) (sram : BitError) : Statement (.wakeHeldMove d sram) := no_word _
theorem devicePost (source : Fin 255) (d : FnId) (payload : W64) (prio : Fin 16) : Statement (.devicePost source d payload prio) := no_word _
theorem heldEventPost (d : FnId) : Statement (.heldEventPost d) := no_word _
theorem dsTraceRecLoRead (who : Requester) (corrected : Bool) : Statement (.dsTraceRecLoRead who corrected) := no_word _
theorem dsTraceRecHiRead (who : Requester) (corrected : Bool) : Statement (.dsTraceRecHiRead who corrected) := no_word _
theorem traceClrOvf (who : Requester) : Statement (.traceClrOvf who) := no_word _
theorem traceRestart (who : Requester) : Statement (.traceRestart who) := no_word _
theorem msixDeliverPending (f : FnId) (v : Nat) : Statement (.msixDeliverPending f v) := no_word _
theorem mbxVfSend (f : FnId) : Statement (.mbxVfSend f) := no_word _
theorem mbxVfAck (f : FnId) : Statement (.mbxVfAck f) := no_word _
theorem mbxPfSend (who : Requester) : Statement (.mbxPfSend who) := no_word _
theorem mbxPfAck (who : Requester) : Statement (.mbxPfAck who) := no_word _
theorem mbxMessageWrite (who : Requester) (n : Fin 16) (part : Part) (value : W64) : Statement (.mbxMessageWrite who n part value) := no_word _
theorem vfEnableWrite (enable : Bool) : Statement (.vfEnableWrite enable) := no_word _
theorem numvfsWrite (n : BitVec 16) : Statement (.numvfsWrite n) := no_word _
theorem vfFlr (f : FnId) : Statement (.vfFlr f) := no_word _
theorem vfFlrComplete (f : FnId) : Statement (.vfFlrComplete f) := no_word _
theorem pfFlr : Statement (.pfFlr) := no_word _
theorem vfMoored (f : FnId) : Statement (.vfMoored f) := no_word _
theorem custodyWait (c : CmdRef) : Statement (.custodyWait c) := no_word _
theorem vfQuiesce (c : CmdRef) : Statement (.vfQuiesce c) := no_word _
theorem vfDisposeRelease (c : CmdRef) : Statement (.vfDisposeRelease c) := no_word _
theorem vfDisposeReset (c : CmdRef) : Statement (.vfDisposeReset c) := no_word _
theorem vfImportOffer (c : CmdRef) : Statement (.vfImportOffer c) := no_word _
theorem vfExport (c : CmdRef) : Statement (.vfExport c) := no_word _
theorem vfImport (c : CmdRef) : Statement (.vfImport c) := no_word _
theorem vfExportCommit (c : CmdRef) : Statement (.vfExportCommit c) := no_word _
theorem vfImportCommit (c : CmdRef) : Statement (.vfImportCommit c) := no_word _
theorem vfExportAbort (c : CmdRef) : Statement (.vfExportAbort c) := no_word _
theorem vfImportDiscard (c : CmdRef) : Statement (.vfImportDiscard c) := no_word _
theorem dirtySwitch (who : Requester) : Statement (.dirtySwitch who) := no_word _
theorem fnDirtyBaseWrite (who : Requester) (bitmap : Bool) (part : Part) (value : W64) : Statement (.fnDirtyBaseWrite who bitmap part value) := no_word _
theorem hostReadCompletion (r : HostRead) : Statement (.hostReadCompletion r) := no_word _
theorem hostAccessResume (f : FnId) : Statement (.hostAccessResume f) := no_word _
theorem ringEnable (who : Requester) (r : RingId) (value : W32) : Statement (.ringEnable who r value) := no_word _
theorem ringDisable (who : Requester) (r : RingId) (value : W32) : Statement (.ringDisable who r value) := no_word _
theorem rgNotifyWrite (who : Requester) (r : RingId) (value : W32) : Statement (.rgNotifyWrite who r value) := no_word _
theorem ringConfigWrite (who : Requester) (r : RingId) (reg : Fin 3) (part : Part) (value : W64) : Statement (.ringConfigWrite who r reg part value) := no_word _
theorem rgProdWrite (who : Requester) (r : RingId) (value : W32) : Statement (.rgProdWrite who r value) := no_word _
theorem commandAccept (r : RingId) : Statement (.commandAccept r) := no_word _
theorem commandComplete (r : RingId) : Statement (.commandComplete r) := no_word _
theorem nop (c : CmdRef) : Statement (.nop c) := no_word _
theorem qRing (c : CmdRef) : Statement (.qRing c) := no_word _
theorem qCommand (c : CmdRef) : Statement (.qCommand c) := no_word _
theorem qRecords (c : CmdRef) : Statement (.qRecords c) := no_word _
theorem recordCommitted (a b : BankWrite) : Statement (.recordCommitted a b) := no_word _
theorem bankSuspend (b : Bank) : Statement (.bankSuspend b) := no_word _
theorem bankResume (b : Bank) : Statement (.bankResume b) := no_word _
theorem bankFail (b : Bank) : Statement (.bankFail b) := no_word _
theorem carriedCopy (lsn : Nat) : Statement (.carriedCopy lsn) := no_word _
theorem hash (c : CmdRef) : Statement (.hash c) := no_word _
theorem aesCbc (c : CmdRef) : Statement (.aesCbc c) := no_word _
theorem aesCtr (c : CmdRef) : Statement (.aesCtr c) := no_word _
theorem aesGcm (c : CmdRef) : Statement (.aesGcm c) := no_word _
theorem aesXts (c : CmdRef) : Statement (.aesXts c) := no_word _
theorem aesCmac (c : CmdRef) : Statement (.aesCmac c) := no_word _
theorem aesKw (c : CmdRef) : Statement (.aesKw c) := no_word _
theorem aesKwp (c : CmdRef) : Statement (.aesKwp c) := no_word _
theorem chachaPoly (c : CmdRef) : Statement (.chachaPoly c) := no_word _
theorem hmac (c : CmdRef) : Statement (.hmac c) := no_word _
theorem kmac (c : CmdRef) : Statement (.kmac c) := no_word _
theorem random (c : CmdRef) : Statement (.random c) := no_word _
theorem keyImport (c : CmdRef) : Statement (.keyImport c) := no_word _
theorem keyGenerate (c : CmdRef) : Statement (.keyGenerate c) := no_word _
theorem keyDerive (c : CmdRef) : Statement (.keyDerive c) := no_word _
theorem keyExport (c : CmdRef) : Statement (.keyExport c) := no_word _
theorem keyDestroy (c : CmdRef) : Statement (.keyDestroy c) := no_word _
theorem keyInfo (c : CmdRef) : Statement (.keyInfo c) := no_word _
theorem kekRelease (c : CmdRef) : Statement (.kekRelease c) := no_word _
theorem entropyHealthFail : Statement (.entropyHealthFail) := no_word _
theorem entropyRestartDone : Statement (.entropyRestartDone) := no_word _
theorem drbgReseed : Statement (.drbgReseed) := no_word _
theorem cryptoLaneSelfTest (lane : LaneNo) (passed : Bool) : Statement (.cryptoLaneSelfTest lane passed) := no_word _
theorem cryptoLaneFail (lane : LaneNo) (chain : Option CmdRef) : Statement (.cryptoLaneFail lane chain) := no_word _
theorem mopen (c : CmdRef) : Statement (.mopen c) := no_word _
theorem mclose (c : CmdRef) : Statement (.mclose c) := no_word _
theorem mabort (c : CmdRef) : Statement (.mabort c) := no_word _
theorem mload (c : CmdRef) : Statement (.mload c) := no_word _
theorem mstore (c : CmdRef) : Statement (.mstore c) := no_word _
theorem mldkey (c : CmdRef) : Statement (.mldkey c) := no_word _
theorem madd (c : CmdRef) : Statement (.madd c) := no_word _
theorem msub (c : CmdRef) : Statement (.msub c) := no_word _
theorem mmul (c : CmdRef) : Statement (.mmul c) := no_word _
theorem msqr (c : CmdRef) : Statement (.msqr c) := no_word _
theorem minv (c : CmdRef) : Statement (.minv c) := no_word _
theorem mexp (c : CmdRef) : Statement (.mexp c) := no_word _
theorem p384Sign (c : CmdRef) : Statement (.p384Sign c) := no_word _
theorem p384Verify (c : CmdRef) : Statement (.p384Verify c) := no_word _
theorem p384Agree (c : CmdRef) : Statement (.p384Agree c) := no_word _
theorem mlkemEncaps (c : CmdRef) : Statement (.mlkemEncaps c) := no_word _
theorem mlkemDecaps (c : CmdRef) : Statement (.mlkemDecaps c) := no_word _
theorem mldsaSign (c : CmdRef) : Statement (.mldsaSign c) := no_word _
theorem mldsaVerify (c : CmdRef) : Statement (.mldsaVerify c) := no_word _
theorem luNtt (c : CmdRef) : Statement (.luNtt c) := no_word _
theorem luIntt (c : CmdRef) : Statement (.luIntt c) := no_word _
theorem luPwmul (c : CmdRef) : Statement (.luPwmul c) := no_word _
theorem luSample (c : CmdRef) : Statement (.luSample c) := no_word _
theorem luCompress (c : CmdRef) : Statement (.luCompress c) := no_word _
theorem unitCommandEnd (unit : UnitNo) (how : UnitEnd) : Statement (.unitCommandEnd unit how) := no_word _
theorem muAbortWrite (who : Requester) (value : W32) : Statement (.muAbortWrite who value) := no_word _
theorem muSelfTest (unit : UnitNo) (passed : Bool) (memory : BitError) : Statement (.muSelfTest unit passed memory) := no_word _
theorem muUnitFail (unit : Fin 4) (memory : Bool) : Statement (.muUnitFail unit memory) := no_word _
theorem luUnitFail (unit : Fin 2) (memory : Bool) : Statement (.luUnitFail unit memory) := no_word _
theorem measWindow (c : CmdRef) : Statement (.measWindow c) := no_word _
theorem windowClose (c : SiteId) : Statement (.windowClose c) := no_word _
theorem tripArm (c : CmdRef) : Statement (.tripArm c) := no_word _
theorem tripRelease (c : CmdRef) : Statement (.tripRelease c) := no_word _
theorem tripAssert (c : CmdRef) : Statement (.tripAssert c) := no_word _
theorem tripWait (c : CmdRef) : Statement (.tripWait c) := no_word _
theorem sampleOutput (c : SiteId) (bits : List Bool) : Statement (.sampleOutput c bits) := no_word _
theorem fastPathOutput (c : SiteId) (bits : BitVec 16) : Statement (.fastPathOutput c bits) := no_word _
theorem noclkDeclared (c : SiteId) : Statement (.noclkDeclared c) := no_word _
theorem noclkCleared (c : SiteId) : Statement (.noclkCleared c) := no_word _
theorem clkRangeMeasurement (c : SiteId) (tenKHz : BitVec 16) : Statement (.clkRangeMeasurement c tenKHz) := no_word _
theorem stuckDeclared (c : SiteId) : Statement (.stuckDeclared c) := no_word _
theorem stuckCleared (c : SiteId) : Statement (.stuckCleared c) := no_word _
theorem tripShortDetect (n : SiteId) (high : Bool) : Statement (.tripShortDetect n high) := no_word _
theorem tripOpenDetect (n : SiteId) (land : TripLand) : Statement (.tripOpenDetect n land) := no_word _
theorem sdHistRead (who : Requester) (c : SiteId) (k : Fin 16) : Statement (.sdHistRead who c k) := no_word _
theorem laneDetectProbe (l : LineEnd) (far : FarEnd) : Statement (.laneDetectProbe l far) := no_word _
theorem laneSwapDetect (l : LineEnd) : Statement (.laneSwapDetect l) := no_word _
theorem laneBlockLock (l : LineEnd) (inverted crossed : Bool) : Statement (.laneBlockLock l inverted crossed) := no_word _
theorem laneBlockLockLoss (l : LineEnd) : Statement (.laneBlockLockLoss l) := no_word _
theorem laneHelloTimer (l : LineEnd) : Statement (.laneHelloTimer l) := no_word _
theorem laneHelloReceived (n : SiteId) (blocks : List Block) : Statement (.laneHelloReceived n blocks) := no_word _
theorem laneDownTimeout (l : LineEnd) : Statement (.laneDownTimeout l) := no_word _
theorem dataFrameReceived (n : SiteId) (blocks : List Block) : Statement (.dataFrameReceived n blocks) := no_word _
theorem voidFrameReceived (l : LineEnd) (blocks : List Block) : Statement (.voidFrameReceived l blocks) := no_word _
theorem ackFrameReceived (l : LineEnd) (blocks : List Block) : Statement (.ackFrameReceived l blocks) := no_word _
theorem epochStartReceived (n : SiteId) (blocks : List Block) : Statement (.epochStartReceived n blocks) := no_word _
theorem badFrameReceived (l : LineEnd) (blocks : List Block) (codeError : Bool) : Statement (.badFrameReceived l blocks codeError) := no_word _
theorem laneAckTimeout (l : LineEnd) : Statement (.laneAckTimeout l) := no_word _
theorem laneSend (c : CmdRef) : Statement (.laneSend c) := no_word _
theorem laneRecv (c : CmdRef) : Statement (.laneRecv c) := no_word _
theorem updOpen (c : CmdRef) (worn : Bool) : Statement (.updOpen c worn) := no_word _
theorem updBlock (c : CmdRef) (worn : Bool) : Statement (.updBlock c worn) := no_word _
theorem updClose (c : CmdRef) (worn : Bool) : Statement (.updClose c worn) := no_word _
theorem updActivate (c : CmdRef) : Statement (.updActivate c) := no_word _
theorem updAbort (c : CmdRef) : Statement (.updAbort c) := no_word _
theorem chainReport (c : CmdRef) : Statement (.chainReport c) := no_word _
theorem upConfirm (who : Requester) (value : W32) (cutAfter : Option Nat) : Statement (.upConfirm who value cutAfter) := no_word _
theorem healthWindowExpiry : Statement (.healthWindowExpiry) := no_word _
theorem norCommandTimeout : Statement (.norCommandTimeout) := no_word _
theorem bcHello (p : Port) (blocks : List Block) : Statement (.bcHello p blocks) := no_word _
theorem bcOffer (blocks : List Block) (worn : Bool) : Statement (.bcOffer blocks worn) := no_word _
theorem bcAnswer (blocks : List Block) : Statement (.bcAnswer blocks) := no_word _
theorem bcBlockHdr (blocks : List Block) : Statement (.bcBlockHdr blocks) := no_word _
theorem bcBlockData (blocks : List Block) (worn : Bool) : Statement (.bcBlockData blocks worn) := no_word _
theorem bcResult (blocks : List Block) : Statement (.bcResult blocks) := no_word _
theorem bcReport (blocks : List Block) : Statement (.bcReport blocks) := no_word _
theorem bcPortLeavesUp (p : Port) : Statement (.bcPortLeavesUp p) := no_word _
theorem bcReofferTimer : Statement (.bcReofferTimer) := no_word _
theorem dmOpen (who : Requester) (arg : Byte) (worn : Bool) : Statement (.dmOpen who arg worn) := no_word _
theorem dmBlock (who : Requester) (worn : Bool) : Statement (.dmBlock who worn) := no_word _
theorem dmClose (who : Requester) (arg : Byte) (worn : Bool) : Statement (.dmClose who arg worn) := no_word _
theorem dmActivate (who : Requester) (arg : Byte) : Statement (.dmActivate who arg) := no_word _
theorem dmAbort (who : Requester) : Statement (.dmAbort who) := no_word _
theorem dmStatus (who : Requester) : Statement (.dmStatus who) := no_word _
theorem uartRequest (bytes : List Byte) (worn : Bool) : Statement (.uartRequest bytes worn) := no_word _
theorem troubleW1cWrite (w : RegWrite) : Statement (.troubleW1cWrite w) := no_word _
theorem psViolClr (who : Requester) (value : W32) : Statement (.psViolClr who value) := no_word _
theorem registerWrite (w : RegTarget) : Statement (.registerWrite w) := no_word _
theorem smbPsStatus (pec : Bool) : Statement (.smbPsStatus pec) := no_word _
theorem smbTroubleSum (pec : Bool) : Statement (.smbTroubleSum pec) := no_word _
theorem smbFeedAVoltage (pec : Bool) : Statement (.smbFeedAVoltage pec) := no_word _
theorem smbFeedBVoltage (pec : Bool) : Statement (.smbFeedBVoltage pec) := no_word _
theorem smbInputPower (pec : Bool) : Statement (.smbInputPower pec) := no_word _
theorem smbDieTemperature (pec : Bool) : Statement (.smbDieTemperature pec) := no_word _
theorem smbModId (pec : Bool) : Statement (.smbModId pec) := no_word _
theorem smbPartId (pec : Bool) : Statement (.smbPartId pec) := no_word _
theorem smbDeviceSerial (pec : Bool) : Statement (.smbDeviceSerial pec) := no_word _
theorem smbUpStatus (pec : Bool) : Statement (.smbUpStatus pec) := no_word _
theorem smbWrite (code : Byte) (bytes : List Byte) : Statement (.smbWrite code bytes) := no_word _
theorem smbAlertResponse (pec : Bool) : Statement (.smbAlertResponse pec) := no_word _
theorem extest (cells : List Bool) : Statement (.extest cells) := no_word _
theorem idcode : Statement (.idcode) := no_word _
theorem samplePreload (cells : List Bool) : Statement (.samplePreload cells) := no_word _
theorem clamp : Statement (.clamp) := no_word _
theorem highz : Statement (.highz) := no_word _
theorem bypass (code : BitVec 5) (tdi : Bool) : Statement (.bypass code tdi) := no_word _
theorem dtmcs (shiftIn : W32) : Statement (.dtmcs shiftIn) := no_word _
theorem jtagTrst : Statement (.jtagTrst) := no_word _
theorem timerInterrupt (h : HartId) (k : TimerKind) : Statement (.timerInterrupt h k) := no_word _
theorem polRailNotGood : Statement (.polRailNotGood) := no_word _
theorem holdupExhausted : Statement (.holdupExhausted) := no_word _
theorem gpioInputChange (levels : Byte) : Statement (.gpioInputChange levels) := no_word _
theorem internalDmaAccess (channel : Fin 32) (addr : BitVec 48) (op : DmaOp) : Statement (.internalDmaAccess channel addr op) := no_word _

end Sys2Proof.Laws.F
end

