-- ==== Sys2Proof/Laws/Rings.lean ====
section
/-!
SUPPORT. What the ring engine's shared operations do: a command that starts, one that ends, and a record that is committed.
-/

namespace Sys2Proof.Machine

variable {s : State} {c : CmdRef} {isOp : Line → Bool} {k : Cmd} {e n : Nat}

@[simp] theorem commit_lt (r : Record) : (commit r s).lt = s.lt := rfl
@[simp] theorem commit_rings (r : Record) : (commit r s).rings = s.rings := rfl
@[simp] theorem commit_ct (r : Record) : (commit r s).ct = s.ct := rfl

/-- A start changes the command and the logbook, nothing else. -/
theorem startCmd_eq {r : Nat} : ∃ g l, startCmd r k e n s = { s with rings := g, lb := l } := by
  unfold startCmd
  by_cases h : (recordsFirstStart k.first || k.reexec) = true
  · simp only [h, if_true]
    exact ⟨_, _, rfl⟩
  · simp only [h]
    exact ⟨_, s.lb, rfl⟩

@[simp] theorem startCmd_lt {r : Nat} : (startCmd r k e n s).lt = s.lt := by
  obtain ⟨g, l, h⟩ := startCmd_eq (s := s) (k := k) (e := e) (n := n) (r := r)
  rw [h]

/-- A command that starts has its effect. -/
theorem runCommand_starts {f : Cmd → State → State} (h : Starts c isOp k s) :
    runCommand c isOp e n f s = f k (startCmd c.ring k e n s) := by
  obtain ⟨a, b, r, m, p⟩ := h
  simp [runCommand, a, b, r, m, p]

/-- A command that is executed in one step starts and ends with its result. -/
theorem runAtOnce_starts {f : Cmd → RingIdent → State → State × Result} (h : Starts c isOp k s) :
    runAtOnce c isOp e n f s = ended c k (f k (s.lt.ident c.ring) (startCmd c.ring k e n s)) := by
  unfold runAtOnce
  rw [runCommand_starts h]
  simp [ended]

/-- A finish changes the command's state only. -/
theorem finishCmd_eq {r q : Nat} {x : Result} : finishCmd r q x s =
    s.onRing r fun g => { g with cmds := g.cmds.map fun c => if c.seq = q then { c with st := .finished x } else c } := rfl

end Sys2Proof.Machine
end

