-- ==== Sys2Proof/Tests/Slice0.lean ====
section
/-!
SUPPORT. Tests: for every statement that has hypotheses, states and operands that meet them, clause by clause, at the ends of
their ranges; ill-formed terms that WellFormed refuses; and small single commands whose results the spec's own words, tables
and examples give.
-/

namespace Sys2Proof.Tests

set_option Elab.async false

open Sys2Proof.Machine

/-! ### Small states -/

/-- A module in ring service, with its units good, the link up and one VF enabled. -/
def module : State :=
  { pwr := { supply := .on, stage := .service, perst := false }
    lt := { applied := true, vfCount := 2 }
    host := { linkUp := true, vfEnable := true, numVfs := 1, fns := [(0, { busMaster := true })] }
    lb := { opened := true }
    kp := { started := true }
    mesh := { zeroed := true }
    rings := { allowance := 500000000 }
    cx := { laneOk := 0xFFFF, esOk := true, drbgOk := true }
    mu := { ok := 0x3F } }

/-- The module with one hart out of reset, its PMP entry 0 open to all. -/
def hart0 (x : Hart) : State := { module with harts := [(0, { x.openPmp with inReset := false })] }

/-- A module powered, at a boot stage. -/
def booting (b : BootStage) : State := { pwr := { supply := .on, stage := b } }

/-- A descriptor of a class and an opcode, with fields at byte offsets. -/
def desc (cls op : Nat) (fields : List (Nat × Nat)) : Line :=
  BitVec.ofNat 512 (op + 256 * cls + (fields.map fun p => p.2 * 2 ^ (8 * p.1)).sum)

/-- An accepted command of one descriptor. -/
def cmd (d : Line) : Cmd := { seq := 0, descs := [d], ct := 0 }

/-- Ring `r` of a state holds one accepted command. -/
def placed (r : Nat) (d : Line) (s : State) : State :=
  { s with rings := { s.rings with tab := [(r, { acceptSeq := 1, cmds := [cmd d] })] } }

/-! ### Power, reset and boot -/

/-- Both feeds valid, the module on. -/
def bothFeeds : State := { module with pwr := { module.pwr with feedA := { ok := true }, feedB := { ok := true } } }

theorem witness_FeedChanges :
    ((3150 : Int) ≤ 3150 ∧ (3150 : Int) ≤ 8400 ∧ ((State.reset.feed .a).overvoltage = false ∨ (3150 : Int) < 8050)) ∧
    ((-500 : Int) ≤ -500 ∧ (-500 : Int) < 3000 ∧ Feed.b ≠ .a ∧ (bothFeeds.feed .b).ok = true ∧ (bothFeeds.feed .a).ok = true) ∧
    ((8400 : Int) < 8401 ∧ (8401 : Int) ≤ 10000 ∧ Feed.b ≠ .a ∧ (bothFeeds.feed .b).ok = true) ∧
    ((-8000 : Int) ≤ -8000 ∧ (-8000 : Int) < -500) ∧ (Feed.a ≠ .b ∧ (bothFeeds.feed .a).ok = true) := by decide

/-- One feed valid, the module on, the commit not yet armed. -/
def lastFeed : State := { booting .rom with pwr := { (booting .rom).pwr with feedA := { ok := true } } }

theorem witness_BothFeedsGone :
    Feed.b ≠ .a ∧ (lastFeed.feed .b).ok = false ∧ lastFeed.pwr.supply = .on ∧ lastFeed.pwr.commitArmed = false ∧
    ((-500 : Int) ≤ 2999 ∧ (2999 : Int) < 3000) ∧ ((-8000 : Int) ≤ -501 ∧ (-501 : Int) < -500) ∧ ((8400 : Int) < 10000 ∧ (10000 : Int) ≤ 10000) := by
  decide

/-- No feed, the module on its hold-up, the commit armed. -/
def onHoldup : State := { booting .service with pwr := { (booting .service).pwr with commitArmed := true } }

theorem witness_HoldupAndCommit :
    feedPresent lastFeed = true ∧ (feedPresent onHoldup = false ∧ onHoldup.pwr.commitArmed = true ∧ onHoldup.pwr.supply = .on) ∧
    (feedPresent (booting .rom) = false ∧ (booting .rom).pwr.commitArmed = false) := by decide

/-- A lockout with the feeds removed, and a throttling module. -/
def lockedOut : State := { pwr := { supply := .lockout } }
def throttled : State := { module with pwr := { module.pwr with throttling := true, coreMHz := 1001 } }

theorem witness_PolFaultsAndTemperature :
    (({ pwr := { supply := .starting } } : State).pwr.supply = .starting) ∧
    (lastFeed.pwr.supply = .on ∧ lastFeed.pwr.commitArmed = false) ∧ (onHoldup.pwr.supply = .on ∧ onHoldup.pwr.commitArmed = true) ∧
    (lockedOut.pwr.supply = .lockout ∧ feedPresent lockedOut = false) ∧ (module.pwr.supply = .on ∧ (125 : Int) ≤ 125) ∧
    (throttled.pwr.supply = .on ∧ throttled.lt.throttleC ≤ 100 ∧ 1000 < throttled.pwr.coreMHz ∧ throttled.pwr.throttling = true) ∧
    (96 : Int) < throttled.lt.throttleC - 3 ∧ (10 * module.lt.powerCapW < 3201 ∧ 200 ≤ module.pwr.capMHz ∧ module.pwr.capMHz ≤ 3000) ∧
    3200 ≤ 10 * module.lt.powerCapW := by decide

/-- The module off with a feed present, and starting with no TRIP record. -/
def offWithFeed : State := { pwr := { feedA := { ok := true } } }
def starting : State := { pwr := { supply := .starting } }

theorem witness_PowerOn :
    (offWithFeed.pwr.supply = .off ∧ feedPresent offWithFeed = true) ∧ (starting.pwr.supply = .starting ∧ TablesInv starting) := by
  unfold TablesInv
  decide

/-- The rails good; DAYMARK# low; a slot chosen. -/
def rails : State := booting .rails
def daymarkLow : State := { pwr := { supply := .on, stage := .rails, daymarkPin := false } }
def choosing : State := { booting .rom with up := { a := { st := .trial }, tries := [.a] } }

theorem witness_BootSequence :
    romReady rails = true ∧ (romReady daymarkLow = true ∧ daymarkLow.pwr.daymarkPin = false) ∧
    (choosing.pwr.stage = .rom ∧ choosing.up.tries.head? = some .a) ∧ (choosing.pwr.supply = .on ∧ choosing.up.norRetries < 3) ∧
    (booting .lightTable).pwr.stage = .lightTable ∧ (booting .dram).pwr.stage = .dram ∧ (booting .replayed).pwr.stage = .replayed ∧
    ((booting .dram).pwr.supply = .on ∧ (booting .dram).pwr.stage ≠ .service) ∧
    (({ pwr := { perst := false }, host := { training := true } } : State).host.training = true ∧
      ({ pwr := { perst := false }, host := { training := true } } : State).pwr.perst = false) ∧
    firmwareVerifies choosing .a = false := by decide +kernel

/-- A MODULE reset in progress. -/
def inModuleReset : State := { booting .rails with pwr := { (booting .rails).pwr with moduleReset := true } }

theorem witness_EndpointResets :
    (module.pwr.supply = .on ∧ module.pwr.moduleReset = false) ∧ inModuleReset.pwr.moduleReset = true ∧ module.host.linkUp = true ∧
    (module.pwr.stage ≠ .none ∧ module.pwr.stage ≠ .rails) := by decide

/-- A MODULE reset that a register write started in the present clock. -/
def resetThisClock : State := { inModuleReset with clock := { reset := some 5 } }

theorem witness_ModuleReset :
    mayReset module = true ∧ (mayReset resetThisClock = false ∧ resetThisClock.clock.reset = some 5 ∧ resetRank 4 < resetRank 5 ∧
      ¬ resetRank 5 < resetRank 5) ∧
    (seesPf module (.fn 0) = true ∧ nothingBefore module (.fn 0) ∧ resetsHeld module = false) ∧ 0x4D525355#32 ≠ 0x4D525354#32 ∧
    (watchdogExpires { module with lt := { module.lt with wdHard := true } } = true ∧ ({ module.lt with wdHard := true }).wdHard = true) ∧
    inModuleReset.pwr.moduleReset = true ∧ module.pwr.moduleReset = false := by
  simp only [nothingBefore]
  decide

/-- An unlocked debug module. -/
def unlocked : State := { module with kp := { module.kp with granted := 1 } }

theorem witness_HartResets :
    resetsHeld module = false ∧ (resetsHeld inModuleReset = true ∧ nothingBefore inModuleReset (.fn 0)) ∧ seesPf module (.fn 0) = true ∧
    (resetsHeld unlocked = false ∧ unlocked.kp.granted ≠ 0) ∧
    ((module.hart 23).inReset = true ∧ module.kp.started = true ∧ module.pwr.moduleReset = false ∧ TablesInv module) ∧
    (watchdogExpires module = true ∧ module.lt.wdHard = false) ∧ watchdogRuns module = true := by
  simp only [nothingBefore, TablesInv]
  decide

/-- A locked cycle-time unit, and one that coasts no longer. -/
def ticking : State := { module with ct := { aligned := true, refOk := true, running := true, locked := true, period := 4096, fresh := false } }
/-- A frame that fails its code check. -/
def badFrame : TcbFrame := { bits := 0, codeOk := false, onGrid := true, gap := 1, clocks := 0 }
/-- The example frame of 02 section 2.3 with its CRC, which that section leaves to be computed. -/
def exampleFrame : TcbFrame :=
  { badFrame with codeOk := true
                  bits := BitVec.ofNat 128 (0xC510000012A05F20000000989680 * 2 ^ 16
                    + (crc16 (bytesBE 14 0xC510000012A05F20000000989680)).toNat) }

theorem witness_CycleTime :
    module.ct.aligned = false ∧
    (ticking.ct.aligned = true ∧ ticking.pwr.supply = .on ∧ (ticking.ct.refOk && badFrame.sound ticking.ct.offGrid) = false) ∧
    (ticking.ct.refOk = true ∧ exampleFrame.sound ticking.ct.offGrid = true) ∧
    (ticking.ct.running = true ∧ ticking.ct.coasting = false) := by decide +kernel

/-- VF 1's alarm 3, due at CT 0. -/
def armed : State := { module with ct := { alarms := [(7, { enable := true })] } }

theorem witness_Alarms :
    ((armed.alarm 1 3).enable = true ∧ (armed.alarm 1 3).cmp ≤ armed.ct.now) ∧ (module.alarm 255 0).enable = false ∧
    (visible module (.fn 1) = true ∧ nothingBefore module (.fn 1) ∧ alarmFn module (.fn 1) = some 1) ∧
    (visible (hart0 {}) (.hart 0) = true ∧ nothingBefore (hart0 {}) (.hart 0) ∧ alarmFn (hart0 {}) (.hart 0) = none) := by
  simp only [nothingBefore]
  decide
/-! ### Functions, messages and rings -/

/-- VF 1 with a vector pending, bus mastering and MSI-X on. -/
def vector : State :=
  { module with host := { module.host with fns := [(1, { busMaster := true, msixEnable := true, msix := [(63, { masked := false, pba := true })] })] } }

/-- Command 0 of ring 0 has started. -/
def started : State :=
  { module with rings := { tab := [(0, { acceptSeq := 1, cmds := [{ cmd 0 with st := .started }] })] } }

theorem witness_ConfigMessagesAndHostReads :
    (tableUp (booting .rom) = false ∧ (booting .rom).pwr.stage ≠ .daymark) ∧
    (tableUp module = true ∧ (2#3).toNat ≤ 2 ∧ (5#3).toNat ≤ 5 ∧ (0 : FnId).val = 0 ∧ (255 : FnId).val ≠ 0) ∧
    ((tget {} (vector.fn 1).msix 63).pba = true ∧ (tget {} (vector.fn 1).msix 63).masked = false ∧ (vector.fn 1).fnMask = false ∧
      (vector.fn 1).msixEnable = true ∧ hostReachable vector 1 = true) ∧
    ((started.ring 0).find 0 = some { cmd 0 with st := .started } ∧ ({ cmd 0 with st := .started } : Cmd).isFinished = false ∧
      (started.lt.ident 0).origin = .host) ∧ ((started.ring 0).acceptSeq ≤ 1) := by decide +kernel

/-- VF 1's mailbox with a message waiting each way. -/
def mail : State := { module with host := { module.host with mbxSel := 1, fns := [(1, { mbx := { outPending := true, inPending := true } })] } }
def noMail : State := { module with host := { module.host with mbxSel := 1 }, harts := [(0, { inReset := false })] }

theorem witness_Mailboxes :
    (visible noMail (.fn 1) = true ∧ hasMailbox noMail 1 = true ∧ (noMail.fn 1).mbx.outPending = false) ∧
    (mail.fn 1).mbx.outPending = true ∧ (nothingBefore mail (.hart 0) ∧ (mail.fn mail.host.mbxSel.toNat).mbx.inPending = true) ∧
    (visible mail (.fn 1) = true ∧ hasMailbox mail 1 = true ∧ (mail.fn 1).mbx.inPending = true) ∧
    (seesPf noMail (.fn 0) = true ∧ nothingBefore noMail (.fn 0) ∧ hasMailbox noMail noMail.host.mbxSel.toNat = true ∧
      (noMail.fn noMail.host.mbxSel.toNat).mbx.inPending = false) ∧
    (seesPf mail (.fn 0) = true ∧ nothingBefore mail (.fn 0) ∧ hasMailbox mail mail.host.mbxSel.toNat = true ∧
      (mail.fn mail.host.mbxSel.toNat).mbx.outPending = true) ∧
    (visible noMail (.hart 0) = true ∧ nothingBefore noMail (.hart 0) ∧ (∀ f : FnId, Requester.hart 0 = .fn f → f.val = 0)) := by
  simp only [nothingBefore]
  decide +kernel

/-- VFs not enabled; an FLR in progress; a VF whose work is moored. -/
def vfsOff : State := { module with host := { linkUp := true } }
def flr : State := { module with host := { module.host with fns := [(1, { flrBusy := true })] } }
def mooring : State := { module with host := { module.host with fns := [(1, { vf := .mooring })] } }

theorem witness_VfLifecycle :
    (tableUp vfsOff = true ∧ vfsOff.host.vfEnable = false ∧ (2#16).toNat ≤ vfsOff.lt.vfCount) ∧ module.host.vfEnable = true ∧
    vfsOff.lt.vfCount < (3#16).toNat ∧ (tableUp (booting .rom) = false ∧ (booting .rom).pwr.stage ≠ .daymark) ∧
    (tableUp module = true ∧ module.lt.exists 2 = true ∧ (2 : FnId).val ≠ 0) ∧
    ((flr.fn 1).flrBusy = true ∧ flr.host.vfEnable = true ∧ 1 ≤ flr.host.numVfs) ∧
    ((mooring.fn 1).vf = .mooring ∧ moorDone mooring 1 = true) := by decide +kernel

/-- CUSTODY_WAIT on ring 3, with and without a report; the other lifecycle commands on ring 0. -/
def custody : Line := desc 1 0x21 [(40, 64)]
def noReport : State := placed 3 custody module
def report : State := { noReport with host := { noReport.host with reports := [1] } }
def quiesce : Line := desc 1 0x20 [(8, 1), (9, 1)]
def activeVf : State := placed 0 quiesce { module with host := { module.host with fns := [(1, { vf := .active })] } }
def dispose (arg : Nat) : Line := desc 1 0x22 [(8, 1), (9, arg)]

theorem witness_LifecycleCommands :
    ((3 : RingId).val = 3 ∧ Starts ⟨3, 0, .none⟩ (isOpcode 1 0x21) (cmd custody) noReport ∧ lifeForm [0] custody = true ∧ 64 ≤ (mOut custody).2 ∧ noReport.host.reports = []) ∧
    (Starts ⟨3, 0, .none⟩ (isOpcode 1 0x21) (cmd custody) report ∧ report.host.reports = 1 :: []) ∧
    (Starts ⟨0, 0, .none⟩ (isOpcode 1 0x20) (cmd quiesce) activeVf ∧ lifeTurn ⟨0, 0, .none⟩ activeVf = true ∧ lifeForm [0, 1] quiesce = true ∧
      (activeVf.fn (mFn quiesce)).vf = .active ∧ mFn quiesce ≠ 0 ∧ rises activeVf.host.fns = true) ∧
    (Starts ⟨0, 0, .none⟩ (fun d => isOpcode 1 0x22 d && decide (mArg d ≠ 2)) (cmd (dispose 1)) (placed 0 (dispose 1) module) ∧
      lifeTurn ⟨0, 0, .none⟩ (placed 0 (dispose 1) module) = true ∧ lifeForm [1] (dispose 1) = true) ∧
    (Starts ⟨0, 0, .none⟩ (fun d => isOpcode 1 0x22 d && decide (mArg d = 2)) (cmd (dispose 2)) (placed 0 (dispose 2) module) ∧
      lifeTurn ⟨0, 0, .none⟩ (placed 0 (dispose 2) module) = true ∧ lifeForm [2] (dispose 2) = true) := by
  unfold Starts; decide +kernel

theorem witness_MigrationCommands : ∀ op ∈ [0x23, 0x24, 0x25, 0x26, 0x27, 0x28, 0x29],
    lifeTurn ⟨0, 0, .none⟩ (placed 0 (desc 1 op []) module) = true ∧
    Starts ⟨0, 0, .none⟩ (isOpcode 1 op) (cmd (desc 1 op [])) (placed 0 (desc 1 op []) module) := by
  unfold Starts; decide +kernel

/-- A function whose log covers one page. -/
def logging : State := { module with host := { module.host with fns := [(1, { dirty := { limit := 4096 } })] } }

theorem witness_DirtyLogging :
    (seesPf module (.fn 0) = true ∧ nothingBefore module (.fn 0)) ∧
    (0 * 4096 < (logging.fn 1).dirty.limit.toNat ∧ Memory.wf logging.host.hostMem = true) ∧
    (logging.fn 1).dirty.limit.toNat ≤ 1 * 4096 := by
  simp only [nothingBefore]
  decide

theorem witness_RingRegisters :
    (visible module (.fn 0) = true ∧ nothingBefore module (.fn 0) ∧ ringReach module (.fn 0) 0 = .full ∧ ringWriteLevel module 0 = 2) ∧
    (∀ k ∈ [4#5, 16#5], ({ size := k } : Ring).enabled = false ∧ ({ size := k } : Ring).draining = false ∧ 4 ≤ k.toNat ∧ k.toNat ≤ 16) ∧
    (∀ k ∈ [3#5, 17#5], ({ size := k } : Ring).enabled = false ∧ ({ size := k } : Ring).draining = false ∧ (k.toNat < 4 ∨ 16 < k.toNat)) ∧
    ({ enabled := true } : Ring).enabled = true := by
  simp only [nothingBefore]
  decide

/-- Ring 0 announces one NOP; ring 0's NOP has finished. -/
def announced : State :=
  { module with host := { module.host with fns := [(0, { busMaster := true })] }
                rings := { allowance := 500000000, tab := [(0, { enabled := true, size := 4, prod := 1 })] } }
def finished : State :=
  { module with host := { module.host with fns := [(0, { busMaster := true })] }
                rings := { tab := [(0, { enabled := true, size := 4, acceptSeq := 1, cmds := [{ cmd 0 with st := .finished (statusOf 0) }] })] } }

theorem witness_AcceptAndComplete :
    (mayAccept announced = true ∧ turnRing announced = some 0 ∧ gatherRing announced 0 = .command [0] false false false) ∧
    mayAccept State.reset = false ∧
    (headResult finished 0 = some ({ cmd 0 with st := .finished (statusOf 0) }, statusOf 0) ∧ canComplete finished 0 = true) ∧
    headResult module 0 = none := by decide +kernel

theorem witness_AcceptCounts : rises announced.rings.tab = true := by decide

theorem witness_RingCommands :
    Starts ⟨1023, 0, .none⟩ (fun d => dOpcode d == 0) (cmd (desc 4 0 [])) (placed 1023 (desc 4 0 []) module) ∧
    ∀ op ∈ [1, 2, 3], Starts ⟨0, 0, .none⟩ (isOpcode 4 op) (cmd (desc 4 op [])) (placed 0 (desc 4 op []) module) := by
  unfold Starts; decide +kernel
/-! ### Logbook, crypto and units -/

/-- Bank A suspended; a record formed; a committed epoch record still live. -/
def suspended : State := { module with lb := { opened := true, a := { suspended := true } } }
def formed : State := { module with lb := { opened := true, formed := [(0, 1)] } }
def recorded : State := commit { type := 0x05, ct := 0 } module

/-- The record at an LSN is live. -/
def liveAt (n : Nat) (s : State) : Bool := ((records s).find? (·.lsn == n)).any (isLive (records s) s.lb.restored)

theorem witness_LogbookRows :
    formed.lb.formed = (0, 1) :: [] ∧ (module.lb.bank .b).failed = false ∧
    ((suspended.lb.bank .a).failed = false ∧ (suspended.lb.bank .a).suspended = true) ∧
    canCommit recorded = true ∧ ∃ r, (records recorded).find? (·.lsn == 0) = some r ∧ isLive (records recorded) recorded.lb.restored r = true := by
  have h : liveAt 0 recorded = true := by decide +kernel
  refine ⟨by decide, by decide, by decide, by decide +kernel, ?_⟩
  simpa [liveAt, Option.any_eq_true] using h

theorem witness_CryptoChains : ∀ op ∈ [0x01, 0x02, 0x03, 0x04, 0x05, 0x06, 0x07, 0x08, 0x09, 0x0A, 0x0B, 0x0C],
    Starts ⟨0, 0, .none⟩ (isOpcode 2 op) (cmd (desc 2 op [])) (placed 0 (desc 2 op []) module) ∧
    freeCryptoLane (placed 0 (desc 2 op []) module) false = some 0 := by
  unfold Starts; decide +kernel

theorem witness_KeyCommands : ∀ op ∈ [0x10, 0x11, 0x12, 0x13, 0x14, 0x15, 0x16],
    Starts ⟨0, 0, .none⟩ (isOpcode 2 op) (cmd (desc 2 op [])) (placed 0 (desc 2 op []) module) ∧
    freeCryptoLane (placed 0 (desc 2 op []) module) false = some 0 := by
  unfold Starts; decide +kernel

theorem witness_CryptoUnits : module.cx.laneOk.getLsbD 15 = true := by decide

theorem witness_SeedCsr :
    ((hart0 {}).hart 0).runs = true ∧ ((hart0 {}).hart 0).priv = .m ∧ (hart0 {}).cx.drbgOk = true ∧
    { hart0 {} with cx := {} }.cx.drbgOk = false ∧ TablesInv (hart0 {}) ∧ TablesInv { hart0 {} with cx := {} } ∧
    (((hart0 { priv := .s }).hart 0).runs = true ∧ ((hart0 { priv := .s }).hart 0).priv ≠ .m ∧ TablesInv (hart0 { priv := .s })) := by
  unfold TablesInv
  decide

/-- A command of ch. 14, with a seed where it draws, on ring 0. -/
def seeded (d : Line) : Cmd := { cmd d with seed := some 0 }
/-- The module with that command, MODULE rings, line 0 poisoned, a session of the ring on unit 0, and keys found uncorrectable,
so that a run's result is known at once. -/
def unitsReady (d : Line) : State :=
  { module with
    lt := { module.lt with pfMgmtModule := true }
    mesh := { zeroed := true, poison := [0] }
    rings := { tab := [(0, { acceptSeq := 1, cmds := [seeded d] })] }
    cx := { module.cx with slots := [(0, ⟨0, 0, 0x20, 0x2010, [], 0, 0, 0, true⟩), (1, ⟨0, 0, 0x30, 0x0100, [], 0, 0, 0, true⟩),
                                     (2, ⟨0, 0, 0x32, 0x0010, [], 0, 0, 0, true⟩), (3, ⟨0, 0, 0x20, 0x0200, [1], 0, 0, 0, false⟩)] }
    mu := { ok := 0x3F, sessions := [(0, { ring := 0, fn := 0, encl := 0, num := 4, check := false, twin := false,
                                           regs := [(1, { val := 5 }), (2, { val := 6 }), (3, { val := 7 })] })] } }

/-- A start on a unit, looked for and judged. -/
def starts (op : Nat) (d : Line) : Bool :=
  match unitStart 0 (seeded d) ((unitsReady d).lt.ident 0) (slotErrors .none (seeded d) ((unitsReady d).lt.ident 0) (unitsReady d)) with
  | .run u _ t => decide ((t.ring 0).find 0 = some (seeded d)) && mayStart t 0 (seeded d) && decide (ringEngineResult (t.lt.ident 0) 0 (seeded d) = none) &&
      decide (((unitsReady d).ring 0).find 0 = some (seeded d)) && mayStart (unitsReady d) 0 (seeded d) &&
      decide (ringEngineResult ((unitsReady d).lt.ident 0) 0 (seeded d) = none) && isOpcode 2 op d && !lowerRingFirst (unitsReady d) 0 u
  | _ => false

/-- A start that is found is one that the statements speak of. -/
theorem unitStarts_of_starts {op : Nat} {d : Line} (h : starts op d = true) :
    ∃ u x t, UnitStarts ⟨0, 0, .none⟩ op (seeded d) (unitsReady d) u x t := by
  unfold starts at h
  split at h
  · rename_i u x t e
    simp only [Bool.and_eq_true, decide_eq_true_eq, Bool.not_eq_true'] at h
    obtain ⟨⟨⟨⟨⟨⟨⟨a1, a2⟩, a3⟩, b1⟩, b2⟩, b3⟩, c⟩, g⟩ := h
    exact ⟨u, x, t, ⟨b1, c, b3, b2, rfl⟩, ⟨a1, c, a3, a2, rfl⟩, e, g⟩
  · cases h

/-- The session commands: MOPEN, MCLOSE, MABORT, MLOAD, MSTORE, MLDKEY and the arithmetic on registers 1, 2 and 3. -/
def sessionCommands : List (Nat × List (Nat × Nat)) :=
  [(0x80, []), (0x81, [(10, 4)]), (0x82, [(10, 4)]), (0x83, [(10, 4), (24, 1)]), (0x84, [(10, 4), (13, 1), (28, 256), (40, 32)]),
   (0x85, [(8, 3), (10, 4)])] ++
  [0x86, 0x87, 0x88].map (fun op => (op, [(10, 4), (13, 1), (14, 2), (15, 3), (28, 256)])) ++
  [0x89, 0x8A].map (fun op => (op, [(10, 4), (13, 1), (15, 3), (28, 8192)])) ++
  [(0x8B, [(10, 4), (13, 1), (14, 2), (15, 3), (28, 256), (30, 3)])]

theorem witness_SessionCommands : ∀ p ∈ sessionCommands,
    ∃ u x t, UnitStarts ⟨0, 0, .none⟩ p.1 (seeded (desc 2 p.1 p.2)) (unitsReady (desc 2 p.1 p.2)) u x t := by
  have h : ∀ p ∈ sessionCommands, starts p.1 (desc 2 p.1 p.2) = true := by decide +kernel
  exact fun p hp => unitStarts_of_starts (h p hp)

/-- The commands without a session, with the lengths of Tables 14.6, 14.7 and 14.9. -/
def loneCommands : List (Nat × List (Nat × Nat)) :=
  [(0x90, [(10, 0xFFFF), (12, 0x20), (24, 1), (40, 96)]), (0x91, [(8, 0xFFFFFFFF), (24, 194)]),
   (0x92, [(10, 0xFFFF), (12, 0x20), (24, 97), (40, 48)]), (0xA0, [(8, 0xFFFFFFFF), (12, 0x30), (24, 1184), (40, 1120)]),
   (0xA1, [(8, 0xFFFF0001), (12, 0x30), (24, 1088), (40, 32)]), (0xA2, [(8, 0xFFFF0002), (12, 0x32), (24, 64), (40, 3309)]),
   (0xA3, [(8, 0xFFFFFFFF), (12, 0x32), (24, 5261)]), (0xA8, [(8, 0xFFFFFFFF), (24, 1024), (28, 3329), (40, 1024)]),
   (0xA9, [(8, 0xFFFFFFFF), (24, 1024), (28, 8380417), (40, 1024)]), (0xAA, [(8, 0xFFFFFFFF), (24, 2048), (28, 3329), (40, 1024)]),
   (0xAB, [(8, 0xFFFFFFFF), (24, 34), (28, 3329), (40, 1024)]), (0xAC, [(8, 0xFFFFFFFF), (24, 1024), (28, 3329), (40, 32), (44, 1)])]

theorem witness_LoneUnitCommands : ∀ p ∈ loneCommands,
    ∃ u x t, UnitStarts ⟨0, 0, .none⟩ p.1 (seeded (desc 2 p.1 p.2)) (unitsReady (desc 2 p.1 p.2)) u x t := by
  have h : ∀ p ∈ loneCommands, starts p.1 (desc 2 p.1 p.2) = true := by decide +kernel
  exact fun p hp => unitStarts_of_starts (h p hp)

/-- Unit 5 runs a command under CHECK and TWIN. -/
def occupiedUnit : State := { module with mu := { ok := 0x3F, busy := [(5, { ring := 0, seq := 0, check := true, twin := true })] } }

theorem witness_UnitEnds :
    runOn occupiedUnit 5 = some { ring := 0, seq := 0, check := true, twin := true } ∧ occupiedUnit.mu.ok.getLsbD 3 = true ∧
    occupiedUnit.mu.ok.getLsbD 5 = true ∧ runOn occupiedUnit 0 = none ∧ occupiedUnit.mu.ok.getLsbD 0 = true ∧
    (seesPf module (.fn 0) = true ∧ nothingBefore module (.fn 0) ∧ module.kp.world = 0) := by
  simp only [nothingBefore]
  decide
/-! ### Harts and memory -/

/-- Accesses of 8 bytes at the start of DRAM and at the SRAM beyond the dispatch lists, and of 4 bytes at the last word of DRAM. -/
def dram : Access := { va := 0, pa := 0, width := .b8, hint := .none, walk := none, fetchedInside := false, insn := 0x0002B303#32 }
def sram : Access := { dram with va := 0x4000180000, pa := 0x4000180000 }
def dramEnd : Access := { dram with va := 0x1FFFFFFFFC, pa := 0x1FFFFFFFFC, width := .b4 }

/-- Hart 0 in M-mode, in the Open world's S-mode, and with a store or a line's combined bytes waiting. -/
def mHart : State := hart0 {}
def sHart : State := hart0 { priv := .s }
def waiting : SbEntry := { bytes := [(0, 1), (1, 2), (2, 3), (3, 4), (4, 5), (5, 6), (6, 7), (7, 8)], io := false, keeper := false, kenc := 0, inside := false }
def storing : State := hart0 { priv := .s, storeBuf := [waiting] }
def combining : NtEntry := { line := 2, data := 1, mask := 1, kenc := 0, keeper := false, inside := false }
def streaming : State := hart0 { priv := .s, combining := [combining] }
/-- Hart 1 holds line 0 for its constrained loop. -/
def contended : State :=
  { hart0 { priv := .s } with harts := [(0, { ({ priv := .s } : Hart).openPmp with inReset := false }),
                                        (1, { inReset := false, reserved := some 0, deferring := true })] }

theorem witness_HartLoads :
    ((contended.hart 0).runs = true ∧ waits contended 0 (.load 0 1 true dram) = true) ∧
    (TablesInv sHart ∧ proceeds sHart 0 (.load 0 1 true sram) .load 8 sram ∧ sram.width.bytes = 8 ∧
      regionOf sram.pa.toNat sram.width.bytes = .sram ∧ sram.aligned = true ∧ 0x4000180000 ≤ sram.pa.toNat ∧ (sHart.hart 0).storeBuf = []) ∧
    (TablesInv storing ∧ proceeds storing 0 (.load 0 1 true dram) .load 8 dram ∧ regionOf dram.pa.toNat dram.width.bytes = .dram ∧
      (storing.hart 0).combining = [] ∧ forwarded (storing.hart 0) dram.pa.toNat dram.width.bytes = some [1, 2, 3, 4, 5, 6, 7, 8]) ∧
    (proceeds sHart 0 (.load 0 31 false dramEnd) .load 4 dramEnd ∧ unbuffered sHart 0 ∧ readable sHart 0 dramEnd 4) := by
  unfold TablesInv proceeds unbuffered readable soundLine quiet; and_intros <;> decide +kernel

theorem witness_HartStores :
    ((contended.hart 0).runs = true ∧ waits contended 0 (.store 0 dram 1) = true) ∧
    (TablesInv sHart ∧ proceeds sHart 0 (.store 0 dram 1) .store 8 dram ∧ dram.hint ≠ .all ∧ regionOf dram.pa.toNat 8 = .dram ∧ unbuffered sHart 0) ∧
    (let s := hart0 { priv := .s, storeBuf := List.replicate 63 waiting }
     TablesInv s ∧ proceeds s 0 (.store 0 sram 1) .store 8 sram ∧ widthAllowed (regionOf sram.pa.toNat 8) sram = true ∧
       regionOf sram.pa.toNat 8 ≠ .dram ∧ regionOf sram.pa.toNat 8 ≠ .rom ∧ (s.hart 0).storeBuf.length < 64) ∧
    (TablesInv storing ∧ proceeds storing 0 (.store 0 dram 1) .store 8 dram ∧ (storing.hart 0).combining = [] ∧
      (storing.hart 0).storeBuf = [] ++ [waiting] ∧ waiting.io = false ∧ sameWord waiting 0 8 = true ∧ waiting.kenc = (storing.hart 0).kenc ∧
      waiting.keeper = (storing.hart 0).keeper ∧ waiting.inside = dram.fetchedInside) ∧
    ((∀ l ∈ linesIn waiting.bytes, deferredBy storing l 0 = false) ∧ waiting.bytes ≠ [] ∧ rises waiting.bytes = true ∧
      (∀ b ∈ waiting.bytes, b.1 / 64 = 0) ∧ waiting.cache = {} ∧ MemoryInv storing ∧ quiet storing 0 0 ∧
      mayReach storing (entryAgent storing 0 waiting.keeper waiting.kenc waiting.inside) (64 * 0) = true) ∧
    ((streaming.hart 0).combining.find? (·.line == (2 : LineNo).toNat) = some combining ∧ (2 : LineNo).toNat < dramLines ∧ MemoryInv streaming ∧
      mayReach streaming (entryAgent streaming 0 combining.keeper combining.kenc combining.inside) (64 * 2) = true ∧
      (∀ q ∈ (streaming.slice (homeOf 2)).queued, q.line ≠ 2) ∧ deferredBy streaming 2 0 = false ∧ streaming.mesh.behind = []) := by
  unfold MemoryInv TablesInv proceeds unbuffered quiet; and_intros <;> decide +kernel

/-- Hart 0 holds a reservation of line 0; the same in a constrained loop whose SC has failed without cause as often as it may. -/
def reserving : State := hart0 { priv := .s, reserved := some 0, resAddr := 0 }
def lastTry : State := hart0 { priv := .s, reserved := some 0, resAddr := 0, deferring := true, looping := true, scFails := 24 }

theorem witness_HartAtomics :
    ((contended.hart 0).runs = true ∧ waits contended 0 (.amo 0 1 .add dram 1 true true) = true ∧ waits contended 0 (.lr 0 1 dram true true true) = true) ∧
    (TablesInv sHart ∧ unbuffered sHart 0 ∧ proceeds sHart 0 (.amo 0 1 .add dram 1 true true) .store 8 dram ∧ atomicPlace dram ∧
      readable sHart 0 dram 8 ∧ Memory.wf sHart.mesh.mem = true) ∧
    (proceeds sHart 0 (.amo 0 1 .maxu sram 1 false false) .store 8 sram ∧ sram.aligned = true ∧ regionOf sram.pa.toNat 8 = .sram ∧
      0x4000180000 ≤ sram.pa.toNat) ∧
    (proceeds sHart 0 (.lr 0 1 dramEnd true true true) .load 4 dramEnd ∧ atomicPlace dramEnd ∧ readable sHart 0 dramEnd 4) ∧
    (proceeds sHart 0 (.sc 0 1 dramEnd 5 true true) .store 4 dramEnd ∧ soundLine sHart (dramEnd.pa.toNat / 64) ∧ (sHart.hart 0).reserved = none) ∧
    (TablesInv lastTry ∧ unbuffered lastTry 0 ∧ proceeds lastTry 0 (.sc 0 1 dram 5 true true) .store 8 dram ∧ readable lastTry 0 dram 8 ∧
      (lastTry.hart 0).reserved = some (dram.pa.toNat / 64) ∧ (lastTry.hart 0).resAddr = dram.pa.toNat ∧ (lastTry.hart 0).looping = true ∧
      24 ≤ (lastTry.hart 0).scFails ∧ Memory.wf lastTry.mesh.mem = true) := by
  unfold TablesInv proceeds unbuffered readable atomicPlace soundLine quiet; and_intros <;> decide +kernel

/-- The 25th SC of a constrained loop does not fail without cause. -/
theorem witness_HartAtomics_success : spurious lastTry 0 = false := by
  have h : ((lastTry.hart 0).looping && decide (24 ≤ (lastTry.hart 0).scFails)) = true := by decide
  simp [spurious, h]

/-- The VS-mode hart whose menvcfg allows what its henvcfg does not. -/
def guestCbo : State := hart0 { priv := .s, v := true, menvcfg := 0xF0 }

theorem witness_FencesAndBlocks :
    ((mHart.hart 0).runs = true ∧ TablesInv mHart ∧ unbuffered mHart 0) ∧
    ((∀ op ∈ [Instr.cboClean 0 dram, .cboFlush 0 dram, .cboInval 0 dram], proceeds mHart 0 op .cbo 1 dram) ∧
      proceeds mHart 0 (.cboZero 0 dram) .store 1 dram ∧ envAllows (mHart.hart 0) (·.getLsbD 6) = 2 ∧
      envAllows (mHart.hart 0) (fun w => decide (bits w 4 2 ≠ 0)) = 2 ∧ envAllows (mHart.hart 0) (·.getLsbD 7) = 2) ∧
    (regionAt dram.pa.toNat = .dram ∧ mayReach mHart (hartAgent mHart 0 dram.fetchedInside) (64 * (dram.pa.toNat / 64)) = true ∧
      quiet mHart 0 0 ∧ dram.cache = {} ∧ Memory.wf mHart.mesh.mem = true ∧ (mHart.lineAt 0).txn = none) ∧
    (regionAt sram.pa.toNat = .sram ∧ proceeds mHart 0 (.cboClean 0 sram) .cbo 1 sram ∧ proceeds mHart 0 (.cboZero 0 sram) .store 1 sram) ∧
    ((sHart.hart 0).runs = true ∧ waits sHart 0 (.cboInval 0 dram) = false ∧ (sHart.hart 0).priv ≠ .m ∧
      bits (sHart.hart 0).menvcfg 4 2 = 0 ∧ (sHart.hart 0).menvcfg.getLsbD 6 = false) ∧
    (TablesInv guestCbo ∧ (guestCbo.hart 0).runs = true ∧ waits guestCbo 0 (.cboZero 0 dram) = false ∧ (guestCbo.hart 0).priv ≠ .m ∧
      (guestCbo.hart 0).menvcfg.getLsbD 7 = true ∧ (guestCbo.hart 0).v = true ∧ (guestCbo.hart 0).henvcfg.getLsbD 7 = false) ∧
    (accessStop (sHart.hart 0) (prefetchKind .w) 1 dram = none ∧
      (accessStop ({ priv := .s } : Hart) (prefetchKind .r) 1 dram).isSome = true) := by
  unfold TablesInv proceeds unbuffered quiet; and_intros <;> decide +kernel

/-- Harts with TW and with VTW, in VS-mode and U-mode, that wait, and with an interrupt pending. -/
def noWait : State := hart0 { priv := .s, tw := true }
def guestWait : State := hart0 { priv := .s, v := true, vtw := true }
def guest : State := hart0 { priv := .s, v := true }
def user : State := hart0 { priv := .u }
def stalled : State := hart0 { stall := .wfi }
def interrupted : State := hart0 { mip := 0x80, mie := 0x80 }

theorem witness_HartHintsAndCsrs :
    ((mHart.hart 0).runs = true ∧ TablesInv mHart ∧ (mHart.hart 0).priv = .m ∧ (mHart.hart 0).mip = 0 ∧ (mHart.hart 0).mip &&& (mHart.hart 0).mie = 0) ∧
    (TablesInv interrupted ∧ (interrupted.hart 0).runs = true ∧ (interrupted.hart 0).mip ≠ 0 ∧ (interrupted.hart 0).tw = false ∧
      (interrupted.hart 0).v = false ∧ (interrupted.hart 0).mip &&& (interrupted.hart 0).mie ≠ 0) ∧
    (TablesInv noWait ∧ (noWait.hart 0).runs = true ∧ (noWait.hart 0).tw = true ∧ (noWait.hart 0).priv ≠ .m) ∧
    (TablesInv guestWait ∧ (guestWait.hart 0).runs = true ∧ (guestWait.hart 0).tw = false ∧ (guestWait.hart 0).v = true ∧ (guestWait.hart 0).vtw = true) ∧
    (stalled.hart 0).runs = false ∧
    (TablesInv sHart ∧ (sHart.hart 0).runs = true ∧ (sHart.hart 0).priv = .s ∧ (sHart.hart 0).v = false ∧ (sHart.hart 0).tvm = false) ∧
    (TablesInv guest ∧ (guest.hart 0).runs = true ∧ (guest.hart 0).priv = .s ∧ (guest.hart 0).v = true ∧ (guest.hart 0).vtvm = false) ∧
    (TablesInv user ∧ (user.hart 0).runs = true ∧ (user.hart 0).priv = .u ∧ (user.hart 0).v = false) ∧
    ((tget 0 (mHart.hart 0).pmpcfg 15).getLsbD 7 = false) ∧ (bits (0x10 : Byte) 3 2 = 2) ∧ 0x11 < (0x12 : W64).toNat := by
  unfold TablesInv; and_intros <;> decide +kernel
/-! ### Mesh, Keeper world and dispatch -/

/-- Requests of core 0, core 1 and the I/O port for line 0. -/
def rq (who : Nat) (k : ReqKind) : MeshRequest := ⟨who, 0, k, {}, none⟩
/-- The module with a home slice 0, or a line 0, in a state. -/
def slice0 (x : Slice) : State := { module with mesh := { zeroed := true, slices := [(0, x)] } }
def line0 (x : LineState) : State := { module with mesh := { zeroed := true, lines := [(0, x)] } }
def txn : Txn := { core := 1, kind := .rdShared, tracker := .general, snoops := [], dirtyData := false, delivered := false, acked := false, into := .s }
/-- Every general tracker busy, and core 0's reserved one kept for it. -/
def fullSlice : Slice := { general := List.replicate 36 ⟨1, 12, .rdShared, {}, none⟩, held := [0] }

theorem witness_CoherenceRows_requests :
    (∀ k ∈ [ReqKind.rdShared, .rdUnique, .upgrade, .evictClean, .devRead], (rq 0 k).kind ∈ [ReqKind.rdShared, .rdUnique, .upgrade, .evictClean, .devRead]) ∧
    (2 ^ 31 ≤ (2 ^ 31 : LineNo).toNat) ∧ outstanding 0 module < requestLimit 0 ∧ homeOf 0 = 0 ∧
    (module.slice 0).waiting.any (·.who == 0) = false ∧ (module.slice 0).general.length < 36 ∧
    (let x := (slice0 fullSlice).slice 0
     x.waiting.any (·.who == 0) = false ∧ 36 ≤ x.general.length ∧ x.held.contains 0 = true ∧ x.reserved.any (·.who == 2) = false ∧
       x.held.contains 2 = false ∧ outstanding 2 (slice0 fullSlice) < requestLimit 2) ∧
    ((slice0 { waiting := [rq 0 .upgrade] }).slice 0).waiting.any (·.who == 0) = true ∧
    mustWait (rq 0 .rdShared) (line0 { txn := some txn }) = true := by and_intros <;> decide +kernel

theorem witness_CoherenceRows_lines :
    (TablesInv module ∧ outstanding 23 module < 32 ∧ (module.slice (homeOf 0)).waiting.any (·.who == 23) = false ∧
      (module.slice (homeOf 0)).general.length < 36 ∧ (module.lineAt 0).txn = none ∧ mayReach module (coreAgent module 23) (64 * 0) = true) ∧
    (let s : State := { module with kp := { module.kp with ranges := [(0, { base := 0, pages := 1, encl := 1, valid := true })] } }
     TablesInv s ∧ (s.lineAt 0).txn = none ∧ mayReach s (coreAgent s 0) (64 * 0) = false) ∧
    (∀ c ∈ [(⟨0, .m, false, 0⟩ : Copy), ⟨0, .o, false, 0⟩, ⟨0, .e, false, 0⟩, ⟨0, .s, false, 0⟩], let s := line0 { copies := [c] }
      TablesInv s ∧ (s.lineAt 0).txn = none ∧ (s.lineAt 0).copies.find? (·.core == 0) = some c ∧
        mayReach s (tagAgent (coreFn s 0) c.keeper c.kenc 0) (64 * 0) = true) ∧
    (∀ k ∈ [SnoopKind.shared, .unique, .inv], let s := line0 { txn := some { txn with snoops := [(0, k)] } }
      (s.lineAt 0).txn = some { txn with snoops := [(0, k)] } ∧ ({ txn with snoops := [(0, k)] } : Txn).snoops.contains (0, k) = true ∧
        deferredBy s 0 1 = false ∧ TablesInv s ∧ txn.snoops.contains (0, k) = false) ∧
    (∀ b ∈ [false, true], ((line0 { txn := some { txn with dirtyData := b } }).lineAt 0).txn = some { txn with dirtyData := b } ∧ txn.core = 1 ∧
      txn.snoops = [] ∧ txn.delivered = false) ∧
    ((line0 { txn := some { txn with delivered := true, kind := .upgrade } }).lineAt 0).txn = some { txn with delivered := true, kind := .upgrade } := by
  unfold TablesInv; and_intros <;> decide +kernel

theorem witness_CoherenceRows_trackers :
    (let s : State := { line0 { txn := some { txn with acked := true } } with
       mesh := { lines := [(0, { txn := some { txn with acked := true } })], slices := [(0, { general := [rq 1 .rdShared] })] } }
     (s.lineAt 0).txn = some { txn with acked := true } ∧ TablesInv s ∧ homeOf 0 = 0 ∧ txn.tracker = .general ∧
       ∀ q ∈ (s.slice 0).queued, q.line ≠ 0) ∧
    ((slice0 { refused := [rq 24 .devRead] }).slice 0).refused.find? (·.who == 24) = some (rq 24 .devRead) ∧
    (let s := slice0 { held := [24], waiting := [rq 24 (.devWrite 1 1)] }
     (s.slice 0).held.contains 24 = true ∧ (s.slice 0).waiting.find? (·.who == 24) = some (rq 24 (.devWrite 1 1))) ∧
    (module.slice 0).held.contains 24 = false := by
  unfold TablesInv; and_intros <;> decide +kernel

/-- The scrub at the last line of channel 3, and before the last but one; a write of the I/O port not yet served. -/
def lastScrub : State := { module with mesh := { zeroed := true, scrubNext := [(3, 2 ^ 29 - 1)] } }
def nearlyLast : State := { module with mesh := { zeroed := true, scrubNext := [(3, 2 ^ 29 - 2)], devErrors := [(120, 63)] } }
def writing : State := slice0 { waiting := [rq 25 (.devWrite 1 1)] }

theorem witness_MemoryRows :
    ((0 : LineNo).toNat < 2 ^ 31 ∧ outstanding 25 writing < requestLimit 25 ∧ writesBehind 25 writing = true) ∧
    (∀ l ∈ [0, 2 ^ 31 - 1], TablesInv module ∧ l < 2 ^ 31 ∧ outstanding 27 module < requestLimit 27 ∧
      (module.slice (homeOf l)).general.length < 36 ∧ (module.lineAt l).txn = none ∧ deferredBy module l 27 = false ∧
      mayReach module (openAgent 27) (64 * l) = true ∧ (module.slice (homeOf l)).waiting.any (·.who == 27) = false ∧ soundLine module l ∧
      writesBehind 27 module = false) ∧ Memory.wf module.mesh.mem = true ∧
    tget 0 nearlyLast.mesh.scrubNext 3 + 1 < 2 ^ 29 ∧ 2 ^ 29 ≤ tget 0 lastScrub.mesh.scrubNext 3 + 1 ∧
    (64 ≤ tget 0 nearlyLast.mesh.devErrors 120 + 1 ∧ tget 0 nearlyLast.mesh.devErrors 121 + 1 < 64) ∧
    ((booting .dram).mesh.zeroed = false ∧ (booting .dram).pwr.stage = .dram) ∧
    ((sHart.hart 0).inReset = false ∧ nothingBefore sHart (.hart 0)) := by
  unfold TablesInv soundLine nothingBefore; and_intros <;> decide +kernel

/-- Enclave 255 declared, in a state; hart 0 names it in x10 and x11. -/
def enclaved (e : EnclState) (x : Hart) (down : Bool) : State :=
  { module with lt := { module.lt with encl := [⟨255, 0, 0, 0⟩] }
                kp := { module.kp with encl := [(255, { st := e })], down := down }
                harts := [(0, { x with inReset := false, x := [(10, 255), (11, 255)] })] }
/-- Hart 0 in enclave 255, entered from S-mode, with the caller's timer pending. -/
def inEnclave : State :=
  enclaved .running { priv := .u, kenc := 255, caller := some { priv := .s, v := false, satp := 0, pc := 4 },
                      mip := 0x20, mie := 0x20, sieBit := true } false

theorem witness_EnclaveEntryAndExit :
    ((mHart.hart 0).runs = true ∧ vendorDecode 0x0015100B#32 = none) ∧
    (∀ e ∈ [EnclState.free, .building, .ready, .suspended, .running], let s := enclaved e { priv := .s } false
      TablesInv s ∧ (s.hart 0).runs = true ∧ (s.hart 0).priv = .s ∧ s.kp.down = false ∧
      ((s.hart 0).getX (wRs1 0x0005100B#32).toNat).toNat = 255 ∧ ((s.hart 0).getX (wRs1 0x0025900B#32).toNat).toNat = 255 ∧
      (s.lt.enclave 255).isSome = true ∧ (s.encl 255).st = e ∧ (linesOf (s.encl 255).save.toNat 576).any (poisoned s) = false) ∧
    (let s := { enclaved .suspended { priv := .s } false with mesh := { zeroed := true, poison := [0] } }
     (linesOf (s.encl 255).save.toNat 576).any (poisoned s) = true) ∧
    (let s := enclaved .ready { priv := .s } true; TablesInv s ∧ (s.hart 0).runs = true ∧ (s.hart 0).priv = .s ∧ s.kp.down = true) ∧
    (TablesInv mHart ∧ (mHart.hart 0).runs = true ∧ (mHart.hart 0).priv ≠ .s) ∧
    (TablesInv inEnclave ∧ (inEnclave.hart 0).runs = true ∧ (inEnclave.hart 0).priv = .u ∧ (inEnclave.hart 0).kenc ≠ 0 ∧
      (inEnclave.hart 0).inReset = false ∧ exitPends (inEnclave.hart 0) 0x8000000000000005#64 = true) ∧
    (TablesInv sHart ∧ (sHart.hart 0).runs = true ∧ (sHart.hart 0).priv ≠ .u ∧ (sHart.hart 0).kenc = 0) := by
  unfold TablesInv; and_intros <;> decide +kernel

/-- Enclave 1 in a state, a monitor hart, and its memory owned; a block's gate asked for and its hand-over. -/
def monitor (e : Enclave) : State :=
  { module with lt := { module.lt with encl := [⟨1, 0, 0, 2⟩] }
                kp := { module.kp with encl := [(1, e)], ranges := [(0, { base := 0, pages := 4, encl := 1, valid := true })] }
                harts := [(0, { inReset := false })] }
def gateSet : State := { module with kp := { module.kp with gate := 1, handover := [(15, true)] } }

theorem witness_KeeperRegisters :
    (((monitor {}).hart 0).inReset = false ∧ ((monitor {}).hart 0).keeper = true ∧ ((monitor {}).hart 0).storeBuf = [] ∧
      ((monitor {}).lt.enclave 1).isSome = true ∧ ((monitor {}).encl 1).st = .free) ∧
    (let s := monitor { st := .building }
     (s.encl 1).st = .building ∧ (ownsBytes s 1 (s.encl 1).entry.toNat 1 && ownsBytes s 1 (atpRoot (s.encl 1).satp) 4096
        && ownsBytes s 1 (s.encl 1).save.toNat 576) = true) ∧
    (let s := monitor { st := .building, save := 0x4000 }
     (ownsBytes s 1 (s.encl 1).entry.toNat 1 && ownsBytes s 1 (atpRoot (s.encl 1).satp) 4096
        && ownsBytes s 1 (s.encl 1).save.toNat 576) = false) ∧
    ((monitor { st := .running }).encl 1).st = .running ∧
    (let s := monitor { st := .building }
     let w : W64 := 0x8000000100000001#64
     let r : RangeEntry := ⟨(0x4000 : W64).toNat / 4096 * 4096, bits w 0 26, w.extractLsb' 32 8, w.getLsbD 63⟩
     (s.encl r.encl.toNat).st = .building ∧ (tget {} s.kp.ranges 1023).valid = false ∧ r.valid = true ∧ rangeRefused s 1023 r = false ∧
       rangeRefused s 1023 { r with base := 0 } = true ∧ (tget {} s.kp.ranges 0).valid = true ∧
       (s.encl (tget {} s.kp.ranges 0).encl.toNat).st = .building) ∧
    (bits (0x100 : W32) 0 5 ∈ movableBlocks ∧ module.kp.handover.any (·.1 == bits (0x100 : W32) 0 5) = false ∧
      module.kp.world.getLsbD (bits (0x100 : W32) 0 5) ≠ (0x100 : W32).getLsbD 8) ∧ (0x4B49434A#32 ≠ 0x4B49434B#32) ∧
    ((sHart.hart 0).inReset = false ∧ (sHart.hart 0).keeper = false ∧ (sHart.hart 0).storeBuf = []) ∧
    (gateSet.kp.handover.find? (·.1 == 15) = some (15, true)) ∧ (seesPf module (.fn 0) = true ∧ nothingBefore module (.fn 0)) ∧
    (gateSet.kp.gate.getLsbD 0 = true ∧ gateSet.kp.gated.getLsbD 0 = false ∧ runOn gateSet 0 = none) := by
  unfold nothingBefore; and_intros <;> decide +kernel

theorem witness_ViolationLogRegisters :
    let s : State := { monitor {} with kp := { (monitor {}).kp with vlog := [⟨1, 2, 3⟩] } }
    (s.hart 0).inReset = false ∧ (s.hart 0).keeper = true ∧ (s.hart 0).storeBuf = [] ∧ s.kp.vlog = ⟨1, 2, 3⟩ :: [] ∧ (0 : W32) ≠ 1 := by
  decide +kernel

theorem witness_DebugUnlock :
    module.pwr.supply = .on ∧ module.kp.challenge = none ∧ module.kp.granted = 0 ∧
    (let s : State := { module with kp := { module.kp with challenge := some (2, 0, 0), dbgLocked := true } }
     s.kp.challenge = some (2, 0, 0) ∧ s.kp.dbgLocked = true) ∧
    unlocked.kp.granted ≠ 0 := by decide

/-- Hart 0 bound to domain 1 in S-mode, with and without an entry ready. -/
def bound : State :=
  { hart0 { priv := .s, bind := { domain := 1, en := true, runprio := 15 } } with lt := { module.lt with disp := [⟨1, 1, 1, 1⟩] } }
def withTask : State := { bound with disp := { doms := [(1, { ready := [(15, [⟨7, 0, 15, 0xFF⟩])] })] } }

theorem witness_DispatchInstructions :
    (TablesInv withTask ∧ (withTask.hart 0).runs = true ∧ (withTask.hart 0).priv = .s ∧ (withTask.hart 0).bind.en = true ∧ unbuffered withTask 0 ∧
      nextList (readHead 0 .none (unclaim 0 (breakLoop 0 withTask))) 0 = some 15 ∧ nextList (unclaim 0 withTask) 0 = some 15 ∧
      (withTask.hart 0).bind.runprio ≤ 15) ∧
    (TablesInv bound ∧ (bound.hart 0).runs = true ∧ nextList (readHead 0 .none (unclaim 0 (breakLoop 0 bound))) 0 = none ∧ unbuffered bound 0) ∧
    ((7 : W64) ≠ 0 ∧ bits (0x1F : W64) 5 7 = 0 ∧ bits (0x20 : W64) 5 7 ≠ 0 ∧ (0x0F : W64).getLsbD 4 = false ∧
      readyFree (settleDomain 1 bound) (boundDomain bound 0) = true ∧ readyFree (settleDomain 1 withTask) (boundDomain withTask 0) = false ∧
      ((0x1010 : W64).getLsbD 4 = true ∧ ctCycles (settleDomain 1 bound) < bits (0x1010 : W64) 12 52 ∧ delayFree bound 1 = true)) ∧
    (TablesInv sHart ∧ (sHart.hart 0).runs = true ∧ (sHart.hart 0).priv = .s ∧ (sHart.hart 0).bind.en = false ∧ (sHart.hart 0).v = false) ∧
    (TablesInv guest ∧ (guest.hart 0).runs = true ∧ (guest.hart 0).bind.en = false ∧ (guest.hart 0).v = true ∧ (guest.hart 0).priv ≠ .m) ∧
    vendorDecode 0x0005852B#32 = none := by
  unfold unbuffered TablesInv; and_intros <;> decide +kernel

/-- Domain 1 with a due entry and room; with its list full; with a held event; hart 0 waiting; a trace record. -/
def dueTask : State := { bound with disp := { doms := [(1, { delay := [⟨7, 0, 3, 0xFF⟩] })] } }
def dueFull : State := { bound with disp := { doms := [(1, { ready := [(15, [⟨7, 0, 15, 0xFF⟩])], delay := [⟨7, 0, 3, 0xFF⟩] })] } }
def heldEvent : State := { bound with disp := { doms := [(1, { held := [⟨254, 9, 2⟩] })] } }
def heldFull : State := { bound with disp := { doms := [(1, { ready := [(15, [⟨7, 0, 15, 0xFF⟩])], held := [⟨254, 9, 2⟩] })] } }
def hartWaits : State := { bound with harts := [(0, { inReset := false, priv := .s, stall := .dispWait 5, bind := { domain := 1, en := true } })] }
def traced : State :=
  { bound with disp := { trace := [⟨1, 2, 1, false⟩], latched := [(.fn 0, 1, 2)] } }

theorem witness_DispatchUnit :
    (nextDue dueTask = some 1 ∧ dueHead dueTask 1 = some ⟨7, 0, 3, 0xFF⟩ ∧ readyFree dueTask 1 = true) ∧
    (dueHead dueFull 1 = some ⟨7, 0, 3, 0xFF⟩ ∧ readyFree dueFull 1 = false) ∧
    ((7 : W64) ≠ 0 ∧ readyFree (settleDomain 1 bound) 1 = true ∧ ((settleDomain 1 bound).dom 1).held.any (·.source == 254) = false ∧
      readyFree (settleDomain 1 withTask) 1 = false ∧ ((settleDomain 1 heldFull).dom 1).held.any (·.source == 254) = true) ∧
    (readyFree heldEvent 1 = true ∧ firstHeld (heldEvent.dom 1).held = some ⟨254, 9, 2⟩) ∧
    ((allHarts.filter (eligible hartWaits 1)).find? (fun h => (hartWaits.hart h).waiting.isSome) = some 0) ∧
    (visible traced (.hart 0) = true ∧ nothingBefore traced (.hart 0) ∧ dsDomain traced (.hart 0) = some 1 ∧
      oldestUnread traced 1 = some ⟨1, 2, 1, false⟩) ∧
    (dsDomain traced (.fn 0) = some 0 ∧ traced.disp.latched.find? (·.1 == .fn 0) = some (.fn 0, 1, 2)) ∧
    (seesPf traced (.fn 0) = true ∧ nothingBefore traced (.fn 0)) := by
  unfold nothingBefore; and_intros <;> decide +kernel
/-! ### Measurement, lanes and updates -/

/-- Channel 63 in a condition; site 0 asserted; channel 0's fault trips site 0. -/
def channel (h : Channel) : State := { module with sd := { chans := [(63, h)] } }
def tripped : State := { module with sd := { sites := [(0, { asserted := true })], chans := [(0, { faultTrip := true, noclk := true })] } }

theorem witness_MeasurementRows :
    (channelOn module 63 = true ∧ (module.chan 63).noclk = false ∧ (module.chan 63).stuck = false) ∧
    (450 ≤ (450#16).toNat ∧ (2750#16).toNat ≤ 2750) ∧
    (let v := (channel { armed := true, hi := 0, lo := 0, fastBits := List.replicate 46 true, qual := 30 }).onChan 63 fun h =>
       let l := (((List.range 16).map fun i => (0xFFFF#16).getLsbD (15 - i)) ++ h.fastBits).take 46
       ({ h with fastBits := l, fast := fastValue l }).qualify
     (v.chan 63).armed = true ∧ 0 < (v.chan 63).qual ∧ module.lt.chanQual 63 ≤ (v.chan 63).qual) ∧
    ((channel { noclk := true }).chan 63).noclk = true ∧ ((channel { stuck := true }).chan 63).stuck = true ∧
    chainRuns module 63 = true ∧ chainRuns State.reset 0 = false ∧ (tripped.site 0).asserted = true ∧
    ((module.site 0).asserted = ({ asserted := false, high := false } : TripLand).asserted ∧ ({ asserted := false, high := false } : TripLand).high = false) ∧
    (seesPf module (.fn 0) = true ∧ nothingBefore module (.fn 0) ∧ channelReach module (.fn 0) 63 = none) := by
  unfold nothingBefore; decide +kernel

theorem witness_TripsAndSamples :
    (tripped.site 0).asserted = true ∧ ((module.site 63).asserted = false ∧ (module.site 63).waits = [] ∧ rises module.sd.sites = true) ∧
    ((-8388608 : Int) ≤ -8388608 ∧ (8388607 : Int) ≤ 8388607) ∧
    (let w : Window := { ring := 0, seq := 0, openCt := 1, closeCt := 3, sum := 2 ^ 55 - 2 }
     w.closed = false ∧ w.openCt ≤ 1 ∧ (2 : W64) < w.closeCt ∧ w.flags.getLsbD 1 = false ∧ -(2 ^ 55 - 1) ≤ w.sum + 1 ∧ w.sum + 1 ≤ 2 ^ 55 - 1 ∧
       w.closeCt ≤ 3) ∧
    (({ armed := true, qual := 30 } : Channel).armed = true ∧ ({ armed := true, qual := 30 } : Channel).qual < 31) := by decide

/-- The measurement commands on channel or site 0, and one on a channel that does not exist. -/
def measurements : List (Nat × List (Nat × Nat)) :=
  [(0x40, [(40, 32)]), (0x41, [(16, 1)]), (0x42, []), (0x43, []), (0x44, [(40, 16)])]

theorem witness_MeasurementCommands :
    (∀ p ∈ measurements, let s := placed 0 (desc 3 p.1 p.2) module
      Starts ⟨0, 0, .none⟩ (isOpcode 3 p.1) (cmd (desc 3 p.1 p.2)) s ∧ measWaits s 0 (cmd (desc 3 p.1 p.2)) = false ∧
        measCheck s (s.lt.ident 0) (desc 3 p.1 p.2) = none) ∧
    (let d := desc 3 0x40 [(8, 64), (40, 32)]
     let s := placed 0 d module
     Starts ⟨0, 0, .none⟩ (isOpcode 3 0x40) (cmd d) s ∧ measWaits s 0 (cmd d) = false ∧ measCheck s (s.lt.ident 0) d = some (statusOf 0x340, none)) ∧
    (sDisarm (desc 3 0x41 []) = false ∧ sDisarm (desc 3 0x41 [(9, 2)]) = true) ∧
    ((tripped.site 0).asserted = true ∧ tripPersists tripped 0 = true) ∧ module.ct.running = false := by
  unfold Starts; decide +kernel

/-- Lane 63, and the chain's DOWN port, in a state. -/
def lane (l : Lane) : State := { module with ln := { tab := [(63, l)] } }
def port (c : ChainPort) : State := { module with up := { portDown := c } }
/-- An unacknowledged frame of a lane. -/
def unacked : OutFrame := { epoch := 0, seq := 0, type := 0x40, flags := 0, payload := [], ring := 0, cmd := 0, sent := true }

theorem witness_LineRows :
    ((lane { st := .detect }).lane 63).st = .detect ∧ ((lane { st := .align }).lane 63).st = .align ∧ ((lane { st := .hello }).lane 63).st = .hello ∧
    ((lane { st := .up }).lane 63).st = .up ∧ parseFrame (frameBlocks (frameBytes 1 0xFFFFFFFF 0x01 0 [])) = .good ⟨1, 0xFFFFFFFF, 0x01, 0, []⟩ ∧
    parseFrame (frameBlocks (frameBytes 1 0 0x10 0 (List.replicate 8 0))) = .good ⟨1, 0, 0x10, 0, List.replicate 8 0⟩ ∧
    (((lane { st := .up, timeouts := 15, outs := [unacked] }).lane 63).unacked = true ∧
      module.lt.retryLimit ≤ ((lane { st := .up, timeouts := 15, outs := [unacked] }).lane 63).timeouts + 1) ∧
    (((lane { st := .up, timeouts := 14, starting := some 0 }).lane 63).starting = some 0 ∧
      ((lane { st := .up, timeouts := 14, starting := some 0 }).lane 63).timeouts + 1 < module.lt.retryLimit) ∧
    ((port { st := .detect }).bc .down).st = .detect ∧ ((port { st := .align }).bc .down).st = .align ∧
    ((port { st := .hello }).bc .down).st = .hello ∧ ((port { st := .up }).bc .down).st = .up ∧
    parseChain (frameBlocks (frameBytes 1 0 0x01 0 [])) = .good ⟨1, 0, 0x01, 0, []⟩ ∧ seqDist ((port { st := .up }).bc .down).rxSeq 0 = 1 ∧
    (((port { st := .up, timeouts := 15, outs := [{ seq := 0, type := 0x40, payload := [], sent := true }] }).bc .down).outs.any (·.sent) = true ∧
      16 ≤ ((port { st := .up, timeouts := 15 }).bc .down).timeouts + 1) := by decide +kernel

/-- LANE_SEND and LANE_RECV to site 63, whose lane is UP with inbound epoch 1 at sequence 5. -/
def laneUp : State := lane { st := .up, rxCurrent := true, rxEpoch := 1, rxSeq := 5, ins := List.replicate 31 ⟨1, 0, 0x40, 0, [], 0, none⟩ }
def send : Line := desc 3 1 [(8, 63), (9, 0x40)]
def sendAt : Line := desc 3 1 [(8, 63), (9, 0x40), (0, 2 ^ 14), (16, 0)]
def recv : Line := desc 3 2 [(8, 63)]

theorem witness_LaneFramesAndCommands :
    (let p : List Byte := 1 :: List.replicate 15 0
     ((lane { st := .hello }).lane 63).st = .hello ∧ parseFrame (frameBlocks (frameBytes 0 0 0x12 0 p)) = .good ⟨0, 0, 0x12, 0, p⟩ ∧ p.getD 0 0 ≠ 0 ∧
       canCommit module = true) ∧
    ((laneUp.lane 63).st = .up ∧ parseFrame (frameBlocks (frameBytes 1 6 0x40 0 [7])) = .good ⟨1, 6, 0x40, 0, [7]⟩ ∧ (laneUp.lane 63).rxCurrent = true ∧
      1 = (laneUp.lane 63).rxEpoch ∧ seqDist (laneUp.lane 63).rxSeq 6 = 1 ∧ (laneUp.lane 63).ins.length < 32 ∧ (laneUp.lane 63).recvs = [] ∧
      (laneUp.lane 63).postEn = false ∧ rises laneUp.ln.tab = true) ∧
    (parseFrame (frameBlocks (frameBytes 2 0 0x11 0 [])) = .good ⟨2, 0, 0x11, 0, []⟩ ∧ (2 : Nat) ≠ 0 ∧ 2 ≠ (laneUp.lane 63).rxEpoch) ∧
    (let s := placed 0 send laneUp
     Starts ⟨0, 0, .none⟩ (isOpcode 3 1) (cmd send) s ∧ laneCheck s (s.lt.ident 0) send = none ∧ ownEntry s 63 0 0 = none ∧ (s.lane 63).out = false ∧
       (s.lane 63).outs.length < 32 ∧ (s.lane 63).txUsed < 2 ^ 32 ∧ sendDecision s send = none ∧
       ringRead (s.lt.ident 0) (nAddr send) (nLen send) s = (s, [], false)) ∧
    (let s := placed 0 sendAt laneUp
     Starts ⟨0, 0, .none⟩ (isOpcode 3 1) (cmd sendAt) s ∧ laneCheck s (s.lt.ident 0) sendAt = none ∧ sendDecision s sendAt = some 0x302) ∧
    (let s := placed 0 recv laneUp
     Starts ⟨0, 0, .none⟩ (isOpcode 3 2) (cmd recv) s ∧ laneCheck s (s.lt.ident 0) recv = none) := by
  unfold Starts; decide +kernel

theorem witness_FramesOutOfOrder :
    (laneUp.lane 63).st = .up ∧ (laneUp.lane 63).rxCurrent = true ∧
    (∀ q ∈ [7, 5 + 2 ^ 31 - 1], ∀ t ∈ [0x01, 0x40, 0xFF], parseFrame (frameBlocks (frameBytes 1 q t 0 [])) = .good ⟨1, BitVec.ofNat 32 q, t, 0, []⟩ ∧
      1 = (laneUp.lane 63).rxEpoch ∧ 1 < seqDist (laneUp.lane 63).rxSeq (BitVec.ofNat 32 q) ∧
      seqDist (laneUp.lane 63).rxSeq (BitVec.ofNat 32 q) < 2 ^ 31) ∧
    (parseFrame (frameBlocks (frameBytes 2 6 0x40 0 [])) = .good ⟨2, 6, 0x40, 0, []⟩ ∧ 2 ≠ (laneUp.lane 63).rxEpoch) := by decide +kernel

/-- The update commands, with lengths at the ends of their ranges. -/
def updates : List (Nat × List (Nat × Nat)) :=
  [(0x30, [(28, 8832)]), (0x30, [(8, 1), (28, 8832)]), (0x31, [(24, 1)]), (0x31, [(24, 65536)]), (0x32, [(24, 48)]), (0x33, [(9, 1)]), (0x34, []),
   (0x35, [(40, 8)])]
/-- Slot B staged; a transfer open; the health window open. -/
def staged : State := { module with up := { b := { st := .staged } } }
def transfer : Transfer := { target := .b, lightTable := false, total := 8832, source := .host }
def open_ : State := { module with up := { xfer := some transfer } }
def trial : State := { module with up := { a := { st := .trial }, health := some 0 } }

theorem witness_UpdateCommands :
    (∀ p ∈ updates, Starts ⟨0, 0, .none⟩ (isOpcode 1 p.1) (cmd (desc 1 p.1 p.2)) (placed 0 (desc 1 p.1 p.2) module) ∧ updFieldsOk (desc 1 p.1 p.2) = true) ∧
    (totalOk false 8832 = true ∧ totalOk true 8832 = true ∧ 0 < (pIn (desc 1 0x31 [(24, 1)])).2 ∧ (pIn (desc 1 0x31 [(24, 65536)])).2 ≤ 65536 ∧
      (pIn (desc 1 0x32 [(24, 48)])).2 = 48 ∧ pArg (desc 1 0x32 [(24, 48)]) = 0) ∧
    ((staged.up.slot .b).st = .staged ∧ bootedTrial staged = false ∧ staged.up.daymark = false ∧ (module.up.slot .b).st ≠ .staged) ∧
    (open_.up.xfer = some transfer ∧ 8704 % 256 = 0 ∧ 8704 + [(0 : Byte)].length ≤ transfer.total ∧ transfer.blocks = []) ∧
    (seesPf trial (.fn 0) = true ∧ nothingBefore trial (.fn 0) ∧ trial.up.health.isSome = true ∧ module.up.health = none) := by
  unfold Starts nothingBefore
  refine ⟨fun p hp => ?_, ?_, ?_, ?_, ?_⟩
  · revert p; unfold updates; decide +kernel
  · decide +kernel
  · decide +kernel
  · decide +kernel
  · decide +kernel

/-- The input of an update block on a HOST ring is always readable. -/
theorem witness_UpdateCommands_input (s : State) : ∃ v bs, ringRead {} 0 65536 s = (v, bs, false) := ⟨_, _, rfl⟩

theorem witness_UpdateAbort :
    (let d := desc 1 0x34 []
     Starts ⟨0, 0, .none⟩ (isOpcode 1 0x34) (cmd d) (placed 0 d open_) ∧ updFieldsOk d = true ∧ (placed 0 d open_).up.xfer = some transfer ∧
       Starts ⟨0, 0, .none⟩ (isOpcode 1 0x34) (cmd d) (placed 0 d module) ∧ (placed 0 d module).up.xfer = none) := by
  unfold Starts; decide +kernel

/-- The chain's UP port UP; a forwarding in a stage; Daymark mode with a UART request. -/
def upPort : State := { module with up := { portUp := { st := .up } } }
def forward (g : FwdStage) (links waits : Nat) : Forward := { slot := .b, lightTable := false, len := 8832, digest := [], hops := 0, stage := g, links := links, waits := waits }
def forwarding (g : FwdStage) (links waits : Nat) : State :=
  { module with up := { fwd := some (forward g links waits), portDown := { st := .up } } }
def daymark : State := { module with pwr := { module.pwr with stage := .daymark }, up := { daymark := true } }
def uartBytes : List Byte :=
  let b : List Byte := [6, 1, 0, 0, 0, 0, 0, 0]
  [0x55, 0xAA] ++ b ++ bytesBE 2 (crc16 b).toNat

/-- A chain frame of zeros that has its type's length. -/
theorem chain_zeros {t n : Nat} (ht : t < 256) (hn : n < 65536) (h : chainSound ⟨1, 0, t, 0, List.replicate n 0⟩ 0 = true) :
    parseChain (frameBlocks (frameBytes 1 0 t 0 (List.replicate n 0))) = .good ⟨1, 0, t, 0, List.replicate n 0⟩ := by
  rw [parseChain, parseBy_frameBlocks _ (by omega) ht (by omega) (by simpa using hn)]
  exact if_pos h

theorem witness_ChainAndDaymark_frames :
    (∀ t ∈ [(0x40, 64), (0x42, 56), (0x43, 2048)], (upPort.bc .up).st = .up ∧ seqDist (upPort.bc .up).rxSeq 0 = 1 ∧
      parseChain (frameBlocks (frameBytes 1 0 t.1 0 (List.replicate t.2 0))) = .good ⟨1, 0, t.1, 0, List.replicate t.2 0⟩) ∧
    (∀ t ∈ [(0x41, 8), (0x44, 8), (0x45, 24)], ((port { st := .up }).bc .down).st = .up ∧
      parseChain (frameBlocks (frameBytes 1 0 t.1 0 (List.replicate t.2 0))) = .good ⟨1, 0, t.1, 0, List.replicate t.2 0⟩) := by
  have a : ∀ t ∈ [(0x40, 64), (0x42, 56), (0x43, 2048), (0x41, 8), (0x44, 8), (0x45, 24)],
      t.1 < 256 ∧ t.2 < 65536 ∧ chainSound ⟨1, 0, t.1, 0, List.replicate t.2 0⟩ 0 = true := by
    simp [chainSound, beField, ofBytesBE, ofBytesLE, List.replicate]
  have b : (upPort.bc .up).st = .up ∧ seqDist (upPort.bc .up).rxSeq 0 = 1 ∧ ((port { st := .up }).bc .down).st = .up := by decide
  refine ⟨fun t ht => ⟨b.1, b.2.1, ?_⟩, fun t ht => ⟨b.2.2, ?_⟩⟩ <;>
  · obtain ⟨h1, h2, h3⟩ := a t (by
      simp only [List.mem_cons, List.not_mem_nil, or_false] at ht ⊢
      rcases ht with h | h | h <;> simp [h])
    exact chain_zeros h1 h2 h3

theorem witness_ChainAndDaymark :
    (∀ n ∈ [(0 : Byte), 1], let p := n :: List.replicate 15 0
      ((port { st := .hello }).bc .down).st = .hello ∧ parseChain (frameBlocks (frameBytes 0 0 0x12 0 p)) = .good ⟨0, 0, 0x12, 0, p⟩) ∧
    ((forwarding .port 2 0).up.fwd = some (forward .port 2 0) ∧ (forwarding .port 2 0).up.portDown.st = .up ∧ (forward .port 2 0).links < 3 ∧
      3 ≤ (forward .port 3 0).links ∧ (forward .reoffer 0 599).waits < 600 ∧ 600 ≤ (forward .reoffer 0 600).waits) ∧
    (updateFlags { module with lt := { module.lt with updFlags := 0 } }).getLsbD 0 = false ∧
    (seesPf daymark (.fn 0) = true ∧ nothingBefore daymark (.fn 0) ∧ daymark.up.daymark = true ∧ daymark.up.retained.getLsbD 3 = true ∧ uartSound uartBytes = true ∧
      daymark.up.uartLast = none) ∧
    ({ daymark.up with uartLast := some (1, []) }.uartLast = some (uartBytes.getD 3 0, [])) := by
  unfold nothingBefore; and_intros <;> decide +kernel

theorem witness_RegisterAccess :
    ((storing.hart 0).inReset = false ∧ (storing.hart 0).storeBuf ≠ [] ∧ storesHeld storing 0 = false) ∧
    (let s : State := { contended with harts := [(0, { ({ priv := .s, storeBuf := [waiting] } : Hart).openPmp with inReset := false }),
                                                 (1, { inReset := false, reserved := some 0, deferring := true })] }
     (s.hart 0).inReset = false ∧ (s.hart 0).storeBuf ≠ [] ∧ storesHeld s 0 = true) ∧
    ((sHart.hart 0).inReset = false ∧ (sHart.hart 0).keeper = false ∧ (sHart.hart 0).storeBuf = []) ∧
    latched { sHart with host := { sHart.host with latches := [(.hart 0, 0x2010, 1)] } } (.hart 0) 0x2010 = some 1 ∧
    (visible module (.fn 2) = false ∧ visible State.reset (.fn 0) = false ∧ nothingBefore module (.fn 2) ∧ nothingBefore State.reset (.fn 0)) ∧
    (0x400000 ≤ (0x400000 : BitVec 32).toNat ∧ (0x40FFFF : BitVec 32).toNat < 0x410000) ∧
    (seesPf module (.fn 0) = true ∧ nothingBefore module (.fn 0)) := by
  unfold nothingBefore; and_intros <;> decide +kernel

theorem witness_OutsidePorts :
    module.pwr.supply = .on ∧ (0x1E : BitVec 5) ∉ listedInstructions ∧
    ({ module.port with modResetLow := true }.modResetLow = true ∧ module.port.modResetLow = false) ∧ State.reset.pwr.supply ≠ .on ∧
    (module.mesh.zeroed = true ∧ module.pwr.moduleReset = false ∧ (agentCheck (dmaAgent module 31) 0 64 module).2 = false) := by decide +kernel

/-! ### The whole machine -/

theorem witness_StepRunsFrontCommand : ({ module with pending := [.jtagTrst] } : State).pending = .jtagTrst :: [] := rfl

/-- CT runs, at 10 ns a cycle. -/
def counting : State := { module with ct := { running := true, period := 10000000 } }

/-- Harts that nothing keeps waiting leave a module settled. -/
theorem settled_of (s : State) (hs : ∀ h, (s.hart h).stall = .none ∧ (s.hart h).storeBuf = [] ∧ (s.hart h).combining = [])
    (hm : s.mesh.behind = [] ∧ s.aplic.root.ready = [] ∧ s.aplic.child.ready = []) : settled s :=
  ⟨fun h _ => (hs h).2, hm.1, fun h op e => (by rw [(hs h).1] at e; cases e), hm.2⟩

theorem witness_IdleStep :
    (State.reset.pending = [] ∧ State.reset.pwr.supply ≠ .on) ∧
    (sHart.pending = [] ∧ sHart.pwr.supply = .on ∧ TablesInv sHart ∧ settled sHart ∧ sHart.ct.running = false ∧ (sHart.hart 1).inReset = true ∧
      (sHart.hart 0).inReset = false ∧ (sHart.hart 0).keeper = false ∧ (sHart.hart 0).mcountinhibit.getLsbD 0 = false ∧
      rises (sHart.hart 0).counters = true) ∧
    (counting.pending = [] ∧ counting.pwr.supply = .on ∧ TablesInv counting ∧ settled counting) ∧
    (counting.ct.running = true ∧ counting.ct.holding = false ∧ counting.ct.coasting = false ∧ counting.ct.slewLeft = 0 ∧ counting.ct.period ≠ 0 ∧
      counting.ct.full + 2000000 * 2 ^ 44 / counting.ct.period.toNat < 2 ^ 96) ∧
    (let c := { counting.ct with now := BitVec.allOnes 64 }; 2 ^ 96 ≤ c.full + 2000000 * 2 ^ 44 / c.period.toNat) := by
  have a := settled_of sHart (by decide) (by decide)
  have b := settled_of counting (by decide) (by decide)
  unfold TablesInv
  refine ⟨by decide, ?_, ?_, by decide, by decide⟩
  · exact ⟨by decide, by decide, by decide, a, by decide, by decide, by decide, by decide, by decide, by decide⟩
  · exact ⟨by decide, by decide, by decide, b⟩

theorem witness_OnlyAbsoluteMaximumStops :
    beyondMaximum (.feedReversed .a (-8001)) = true ∧ beyondMaximum (.feedOvervoltage .b 10001) = true ∧
    beyondMaximum (.feedReversed .a (-8000)) = false ∧ beyondMaximum (.feedOvervoltage .b 10000) = false := by decide

theorem witness_MemoryFormHolds : MemoryInv module ∧ ∃ t, step module = .next t := ⟨by unfold MemoryInv TablesInv; decide, _, rfl⟩

theorem witness_NothingGoesBack : (∃ t, exec .jtagTrst module = .next t) ∧ ∃ t, step module = .next t := ⟨⟨_, rfl⟩, _, rfl⟩

/-- Bit 0 of PS_TROUBLE (FEED_A_LOST) comes up. -/
def troubled : State := { module with pwr := { module.pwr with trouble := 1 } }

theorem witness_TroubleAssertsSources :
    (194 ∈ levelSources troubled ∧ 194 ∉ levelSources module ∧ 1 ≤ 194 ∧ 194 < 512 ∧ rootSource troubled 194 = false) ∧
    troubleWords module = troubleWords module := by decide +kernel

/-! ### Ill-formed terms -/

/-- An access of a hart, Bare. -/
def bare : Access := { va := 0x8000000000, pa := 0, width := .b8, hint := .none, walk := none, fetchedInside := false, insn := 0 }
/-- The same access through a walk that ends at level 4, and one whose walk moved the page offset. -/
def tooDeep : Access := { bare with va := 0, walk := some ⟨.single, some ⟨[], 0, 4⟩, none, 0, false⟩ }
def moved : Access := { bare with va := 1 }

theorem test_wf_accesses :
    ∀ a ∈ [tooDeep, moved], (Instr.load 0 1 true a).wf = false ∧ (Instr.store 0 a 0).wf = false ∧
      (Instr.amo 0 1 .add a 0 false false).wf = false ∧ (Instr.lr 0 1 a false false false).wf = false ∧ (Instr.sc 0 1 a 0 false false).wf = false ∧
      (Instr.cboClean 0 a).wf = false ∧ (Instr.cboFlush 0 a).wf = false ∧ (Instr.cboInval 0 a).wf = false ∧
      (Instr.cboZero 0 a).wf = false ∧ (Instr.prefetch 0 .r a).wf = false := by decide

theorem test_wf_others :
    (Instr.tcbFrame ⟨0, true, true, 0, 0⟩).wf = false ∧ (Instr.kdbgResp ⟨[], [], [], true⟩).wf = false ∧
    (Instr.configRequest 0 (.read 1024)).wf = false ∧ (Instr.msixDeliverPending 0 64).wf = false ∧
    (Instr.hostReadCompletion (.data 0 [])).wf = false ∧ (Instr.carriedCopy (2 ^ 64)).wf = false ∧
    (Instr.sampleOutput 0 []).wf = false ∧ (Instr.smbWrite 0 (List.replicate 256 0)).wf = false ∧
    (Instr.extest []).wf = false ∧ (Instr.samplePreload []).wf = false ∧
    (Instr.internalDmaAccess 0 0 (.read 0)).wf = false ∧ (Instr.internalDmaAccess 0 0 (.write [])).wf = false := by decide +kernel

theorem test_wf_sound_access : (Instr.load 0 1 true bare).wf = true ∧ (Instr.tcbFrame ⟨0, true, true, 1, 0⟩).wf = true := by decide

/-! ### The spec's own figures -/

/-- The table gives no row bits. -/
theorem test_no_word_is_a_command : decodeTableWord 32 0xFFFFFFFF = none ∧ module.withFetchWord 32 1 = module := ⟨rfl, rfl⟩

/-- R70 and R751: the check values. -/
theorem test_crc_check_values : crc16 (ascii "123456789") = 0x29B1#16 ∧ crc32c (ascii "123456789") = 0xE3069283#32 := by decide +kernel

/-- §2.3's example frame, its CRC formed as R70 says, and the next one. -/
theorem test_example_frame :
    exampleFrame.count = BitVec.ofNat 64 (5000000000 * 4096) ∧ exampleFrame.period = 10000000#32 ∧ exampleFrame.state = 1 ∧
    exampleFrame.sound false = true ∧ framesAgree exampleFrame.count exampleFrame.period (BitVec.ofNat 64 (5000000100 * 4096)) = true := by
  decide +kernel

/-- Table 2.3, steps 5 and 6: the frames of 8 ns agree, and an error of 80.4 us is removed by a step. -/
def atFive : Ct :=
  { running := true, coasting := true, now := BitVec.ofNat 64 (5000050200 * 4096), period := 8000000, agree := 2,
    prev := some (BitVec.ofNat 64 (5000060125 * 4096), 8000000) }
def frameSix : TcbFrame := ⟨BitVec.ofNat 128 ((5000060250 * 4096) * 2 ^ 48 + 8000000 * 2 ^ 16), true, true, 1, 0⟩

theorem test_coast_ends_in_a_step :
    (atFive.valid frameSix).now = BitVec.ofNat 64 (5000060250 * 4096) ∧ (atFive.valid frameSix).locked = true ∧
    (atFive.valid frameSix).coasting = false ∧ (atFive.valid frameSix).trouble = 1 := by decide +kernel

/-- §3.5's three-VF table: its FUNCTIONS bytes and its enclave, and the rings R120 numbers under it. -/
def threeVfs : Option LightTable :=
  (readFunctions [3, 0, 16, 0, 2, 0, 0, 0, 1, 4, 0, 8, 0, 0, 0, 0, 3, 2, 2, 16, 1, 0, 0, 0] {}).map fun t =>
    { t with encl := [⟨1, 3, 1, 64⟩] }

theorem test_three_vf_rings :
    (threeVfs.map fun t => ([0, 4, 8, 10, 12, 14, 16, 17, 33].map t.ident, (List.range 4).map t.vectors)) =
      some ([⟨0, .host, 0⟩, ⟨1, .host, 0⟩, ⟨2, .host, 0⟩, ⟨2, .module, 0⟩, ⟨3, .host, 0⟩, ⟨3, .module, 0⟩, ⟨3, .module, 1⟩,
        ⟨0, .host, 0⟩, ⟨0, .module, 0⟩], [64, 8, 4, 16]) ∧
    (threeVfs.map fun t => [3, 7, 9, 11, 13, 15, 32, 1023].map t.ident) =
      some [⟨0, .host, 0⟩, ⟨1, .host, 0⟩, ⟨2, .host, 0⟩, ⟨2, .module, 0⟩, ⟨3, .host, 0⟩, ⟨3, .module, 0⟩, ⟨0, .host, 0⟩, ⟨0, .module, 0⟩] := by
  decide +kernel

/-- §18.3's example: three registers carried, the line that carries them, and the summary after replay. -/
def carriedFaults : State :=
  { pwr := { trouble := 6, carried := true }
    ln := { tab := [(8, { trouble := 0x10 })] }
    rings := { tab := [(12, { trouble := 2 })] } }

theorem test_carried_trouble :
    troubleSum carriedFaults = 0x80000841#32 ∧ [194, 200, 205].all ((levelSources carriedFaults).contains ·) = true ∧
    (troubleLines 65 [(0x3004, 6), (0x22030, 0x10), (0x40C38, 2)]).map lineBytes =
      [[4, 0x30, 0, 0, 6, 0, 0, 0, 0x30, 0x20, 2, 0, 0x10, 0, 0, 0, 0x38, 0x0C, 4, 0, 2, 0, 0, 0] ++ List.replicate 40 0] := by decide +kernel

/-- Table 11.6, step 2: a doorbell of 1,004 on a ring of 16 slots at 1,000 is honoured; one of 1,017 is not (R508). -/
theorem test_doorbell :
    ((Ring.doorbell { enabled := true, size := 4, acceptSeq := 1000, doneSeq := 1000, prod := 1000 } 1004).prod = 1004#32) ∧
    ((Ring.doorbell { enabled := true, size := 4, acceptSeq := 1000, doneSeq := 1000, prod := 1000 } 1017).prod = 1000#32) := by decide

/-- The A extension (Table 5.1): signed and unsigned minimum of a word, and a sum that wraps. -/
theorem test_amo_values :
    amoBytes .min 4 0xFFFFFFFF 1 = 0xFFFFFFFF ∧ amoBytes .minu 4 0xFFFFFFFF 1 = 1 ∧ amoBytes .add 4 0xFFFFFFFF 1 = 0 := by decide

/-- A load of one byte extends its sign or zeros (RV64I, Table 5.1). -/
theorem test_extension : extend true 1 0x80 = 0xFFFFFFFFFFFFFF80#64 ∧ extend false 1 0x80 = 0x80#64 := by decide

/-- x0 reads zero whatever is written (RV64I, Table 5.1). -/
theorem test_x0 : (({} : Hart).setX 0 5).getX 0 = 0 ∧ (({} : Hart).setX 1 5).getX 1 = 5 := by decide

/-- Worked examples of FIPS 180-4 and FIPS 197, the standards that 00 §0.5 names. -/
theorem test_sha256_abc :
    sha256 (ascii "abc") = bytesBE 32 0xBA7816BF8F01CFEA414140DE5DAE2223B00361A396177A9CB410FF61F20015AD := by decide +kernel

theorem test_sbox : sboxOf 0x53#8 = 0xED#8 ∧ sboxOf 0#8 = 0x63#8 := by decide +kernel

/-- §15's example: 625 samples of 1,200,000 sum to 750,000,000; the last of them, and an empty window's flags (R711, R713). -/
theorem test_window :
    (let w : Window := { ring := 0, seq := 0, openCt := 0, closeCt := 2, sum := 624 * 1200000, count := 624 }
     (w.add 1200000 false 1).sum = 750000000 ∧ (w.add 1200000 false 1).result.result32 = 625) ∧
    (Window.result { ring := 0, seq := 0, openCt := 0, closeCt := 0 }).cflags = 1 := by decide

/-! ### Words, numbers and line code -/

/-- Tables 5.12, 8.2 and 9.3: the words the spec writes out. -/
theorem test_vendor_words :
    [0x0000000B#32, 0x0010000B, 0x0005100B, 0x0010100B, 0x0025100B, 0x0000052B, 0x02B5052B, 0x0400052B, 0x0605052B].map vendorDecode =
      [VendorOp.predFlush, .predBar, .kenter, .kexit, .kresume, .dispNext, .dispEnq, .dispWait, .dispYield].map some := by decide

/-- R229, R349, R410: another imm, rd, rs1, rs2 or funct7 is no instruction. -/
theorem test_vendor_words_refused :
    [0x0020000B#32, 0x0000800B, 0x0000008B, 0x0035100B, 0x0005108B, 0x0010900B, 0x0005052B, 0x0400852B, 0x0615052B, 0x0800052B].map vendorDecode =
      List.replicate 10 none := by decide

/-- RV64I and M (Table 5.1): the words of `addi a0, a0, -1`, `add a0, a0, a1` and `mul a0, a0, a1`. -/
theorem test_alu_words :
    aluResult 0xFFF50513#32 0 0 0 = some 0xFFFFFFFFFFFFFFFF#64 ∧ aluResult 0x00B50533#32 0 2 3 = some 5 ∧
    aluResult 0x02B50533#32 0 2 3 = some 6 := by decide

/-- s and M of R224 in both formats. -/
def fp (f : Format) (n : Nat) : Fp := f.decode n
def s64 : Fp := fp binary64 1
def m64 : Fp := fp binary64 0x7FEFFFFFFFFFFFFF
def s32 : Fp := fp binary32 1
def m32 : Fp := fp binary32 0x7F7FFFFF

/-- Table 5.11, binary64. -/
theorem test_float_limits_double :
    [fpAdd binary64 .rne s64 s64, fpAdd binary64 .rne s64 s64.negate, fpMul binary64 .rne s64 s64,
      fpMul binary64 .rne s64 (fp binary64 0x3FE0000000000000), fpMul binary64 .rup s64 (fp binary64 0x3FE0000000000000),
      fpAdd binary64 .rne m64 m64, fpAdd binary64 .rtz m64 m64, fpMul binary64 .rne m64 s64, fpDiv binary64 .rne m64 s64,
      fpDiv binary64 .rne s64 m64, fpSqrt binary64 .rne s64, fpSqrt binary64 .rne m64,
      fpFma binary64 .rne m64 (fp binary64 0x4000000000000000) m64.negate,
      fpFma binary64 .rne s64 (fp binary64 0x3FE0000000000000) (fp binary64 0)] =
    [(2, 0), (0, 0), (0, flagUF), (0, flagUF), (1, flagUF), (0x7FF0000000000000, flagOF), (0x7FEFFFFFFFFFFFFF, flagOF),
      (0x3CCFFFFFFFFFFFFF, 0), (0x7FF0000000000000, flagOF), (0, flagUF), (0x1E60000000000000, 0), (0x5FEFFFFFFFFFFFFF, flagNX),
      (0x7FEFFFFFFFFFFFFF, 0), (0, flagUF)] := by decide +kernel

/-- Table 5.11, binary32 and the conversions. -/
theorem test_float_limits_single :
    [fpAdd binary32 .rne s32 s32, fpMul binary32 .rne m32 (fp binary32 0x40000000), fpMul binary32 .rtz m32 (fp binary32 0x40000000),
      fpMul binary32 .rne m32 s32, fpSqrt binary32 .rne s32, fpSqrt binary32 .rne m32, fpConvert .rne binary32 s64,
      fpConvert .rne binary64 s32] =
    [(2, 0), (0x7F800000, flagOF), (0x7F7FFFFF, flagOF), (0x34FFFFFF, 0), (0x1A3504F3, flagNX), (0x5F7FFFFF, flagNX), (0, flagUF),
      (0x36A0000000000000, 0)] ∧
    fpToInt .rne 0 m64 = (0x7FFFFFFF, flagNV) ∧ fpToInt .rne 0 m32 = (0x7FFFFFFF, flagNV) ∧
    binary64.nan = 0x7FF8000000000000 ∧ binary32.nan = 0x7FC00000 := by decide +kernel

/-- R749: a 7-byte frame is a start block and a terminate block of type 0x87; of 9 bytes, the last two lie in one of type 0xAA; an idle block follows. -/
theorem test_line_blocks :
    frameBlocks [1, 2, 3, 4, 5, 6, 7] = [⟨true, 0x0706050403020178#64⟩, ⟨true, 0x87#64⟩, idleBlock] ∧
    frameBlocks [1, 2, 3, 4, 5, 6, 7, 8, 9] = [⟨true, 0x0706050403020178#64⟩, ⟨true, 0x00000000000908AA#64⟩, idleBlock] := by decide +kernel


end Sys2Proof.Tests
end

section
/-!
PROOFS. Register accesses with nothing before them, and the alarms (02 §2.9; R88-R91, R99, R101).
-/

namespace Sys2Proof.Machine

/-! ### Register accesses in program order -/

/-- With no older store of the requester to wait for, an access happens at once (R244, R250). -/
theorem programOrder_of_nothingBefore {s : State} {w : Requester} (b : Bool) (f : State → State)
    (h : nothingBefore s w) : programOrder w b f s = f s := by
  cases w with
  | fn _ => rfl
  | hart _ => exact if_pos (.inr h)

/-! ### Alarms -/

section
variable {s : State} {w : Requester} {f : Nat} {a : Fin 4}

theorem alarmDue_iff : alarmDue s f a = true ↔ (s.alarm f a).enable = true ∧ (s.alarm f a).cmp ≤ s.ct.now := by
  simp [alarmDue]

theorem execAlarmFire_of_due {f : FnId} (h : alarmDue s f.val a = true) :
    execAlarmFire f a s = .next (fireAlarm f.val a s) := by
  simp [execAlarmFire, h]

theorem execAlarmFire_of_not_due {f : FnId} (h : ¬ alarmDue s f.val a = true) : execAlarmFire f a s = .next s := by
  simp [execAlarmFire, h]

/-- A write of a requester that has a function acts on that function's alarm. -/
theorem onOwnAlarm_of_owner {offset : Nat} {g : Alarm → Alarm} (hv : visible s w = true) (hf : alarmFn s w = some f) :
    onOwnAlarm w a offset g s = s.onAlarm f a g := by
  simp [onOwnAlarm, hv, hf]

/-- R99: a write of a hart bound to no function changes no alarm and is a violation. -/
theorem onOwnAlarm_of_no_owner {offset : Nat} {g : Alarm → Alarm} (hv : visible s w = true) (hf : alarmFn s w = none) :
    onOwnAlarm w a offset g s = violateBy s w true .functionOwner (offset + 0x10 * a.val) := by
  simp [onOwnAlarm, hv, hf]

/-- A compare write with nothing before it is the write of its part. -/
theorem exec_ctAlarmCmpWrite_of_nothingBefore (p : Part) (v : W64) (hb : nothingBefore s w) :
    exec (.ctAlarmCmpWrite w a p v) s
      = ok s (onOwnAlarm w a 0x2040 (fun x => { x with cmp := putPart p x.cmp v }) s) :=
  congrArg (ok s) (programOrder_of_nothingBefore _ _ hb)

/-- A control write with nothing before it clears FIRED where written 1, and sets ENABLE and VECTOR (R101). -/
theorem exec_ctAlarmCtrlWrite_of_nothingBefore (v : W32) (hb : nothingBefore s w) :
    exec (.ctAlarmCtrlWrite w a v) s
      = ok s (onOwnAlarm w a 0x2048 (fun x =>
          { x with fired := x.fired && !v.getLsbD 1, enable := v.getLsbD 0, vector := v.extractLsb' 8 8 }) s) :=
  congrArg (ok s) (programOrder_of_nothingBefore _ _ hb)

end

/-- Settles O11: firing turns on `alarmDue`, a register write on whether the requester has a function. -/
theorem alarms : Obligations.Alarms := by
  unfold Obligations.Alarms
  refine ⟨?fires, ?disabled, ?cmp, ?ctrl, ?unowned⟩
  case fires =>
    intro s f a hen hcmp
    exact execAlarmFire_of_due (alarmDue_iff.mpr ⟨hen, hcmp⟩)
  case disabled =>
    intro s f a hdis
    have hnot : ¬ alarmDue s f.val a = true := by simp [alarmDue_iff, hdis]
    exact execAlarmFire_of_not_due hnot
  case cmp =>
    intro s w f a p v hv hb hf
    rw [exec_ctAlarmCmpWrite_of_nothingBefore p v hb, onOwnAlarm_of_owner hv hf, ok]
  case ctrl =>
    intro s w f a v hv hb hf
    rw [exec_ctAlarmCtrlWrite_of_nothingBefore v hb, onOwnAlarm_of_owner hv hf, ok]
  case unowned =>
    intro s w a p v u hv hb hf
    constructor
    · rw [exec_ctAlarmCmpWrite_of_nothingBefore p v hb, onOwnAlarm_of_no_owner hv hf, ok]
    · rw [exec_ctAlarmCtrlWrite_of_nothingBefore u hb, onOwnAlarm_of_no_owner hv hf, ok]

end Sys2Proof.Machine
end

section
/-!
PROOFS. The PCIe endpoint reset and its three sources (04 §4.4.1; R159-R164, R179).
-/

namespace Sys2Proof.Machine

variable {s : State}

/-! ### What the endpoint reset and the link's fall leave -/

@[simp] theorem endpointReset_vfEnable : (endpointReset s).host.vfEnable = false := rfl
@[simp] theorem endpointReset_numVfs : (endpointReset s).host.numVfs = 0 := rfl
@[simp] theorem endpointReset_ariHierarchy : (endpointReset s).host.ariHierarchy = false := rfl
@[simp] theorem endpointReset_mbxSel : (endpointReset s).host.mbxSel = 0 := rfl
@[simp] theorem endpointReset_mbxVector : (endpointReset s).host.mbxVector = 0 := rfl
@[simp] theorem endpointReset_alarms : (endpointReset s).ct.alarms = [] := rfl

@[simp] theorem linkDown_linkUp : (linkDown s).host.linkUp = false := rfl

/-- Of the latches, exactly those of harts outlast the link. -/
theorem mem_latches_linkDown {w : Requester} {l : Nat × W64} :
    (w, l) ∈ (linkDown s).host.latches ↔ (w, l) ∈ s.host.latches ∧ ∃ h, w = .hart h := by
  cases w with
  | fn f => simp [linkDown]
  | hart h => simp [linkDown]

/-! ### The sources -/

/-- R159: with power and outside a MODULE reset, an endpoint event is the endpoint reset with the link down. -/
theorem endpointEvent_of_running (hs : s.pwr.supply = .on) (hm : s.pwr.moduleReset = false) :
    endpointEvent s = endpointReset (linkDown s) := by
  simp [endpointEvent, hs, hm]

/-- R179: during a MODULE reset an endpoint event only drops the link. -/
theorem endpointEvent_of_moduleReset (hm : s.pwr.moduleReset = true) : endpointEvent s = linkDown s :=
  if_pos (.inr hm)

theorem exec_perstAssertion :
    exec .perstAssertion s = .next (endpointEvent (s.onPwr fun p => { p with perst := true })) := rfl

theorem exec_hotReset_of_linkUp (hl : s.host.linkUp = true) : exec .hotReset s = .next (endpointReset s) :=
  congrArg Host.Outcome.next (if_pos hl)

theorem exec_linkLoss_of_linkUp (hl : s.host.linkUp = true) : exec .linkLoss s = .next (endpointEvent s) :=
  congrArg Host.Outcome.next (if_pos hl)

/-- R164: training starts once the ROM has started, with power and outside a MODULE reset. -/
theorem exec_perstDeassertion :
    exec .perstDeassertion s = .next ((s.onPwr fun p => { p with perst := false }).onHost fun h =>
      { h with training :=
          decide (s.pwr.stage ≠ .none ∧ s.pwr.stage ≠ .rails) && decide (s.pwr.supply = .on) && !s.pwr.moduleReset }) := rfl

/-- Settles O7: each source is the endpoint event or the endpoint reset itself, and whether the event resets turns on power and
the MODULE reset, which PERST# does not change. -/
theorem endpointResets : Obligations.EndpointResets := by
  unfold Obligations.EndpointResets
  refine ⟨?perst, ?perstInReset, ?hotReset, ?linkLoss, ?cleared, ?training⟩
  case perst =>
    intro s hs hm
    exact exec_perstAssertion.trans (congrArg Host.Outcome.next (endpointEvent_of_running hs hm))
  case perstInReset =>
    intro s hm
    exact exec_perstAssertion.trans (congrArg Host.Outcome.next (endpointEvent_of_moduleReset hm))
  case hotReset =>
    intro s hl
    exact exec_hotReset_of_linkUp hl
  case linkLoss =>
    intro s hl hs hm
    rw [exec_linkLoss_of_linkUp hl, endpointEvent_of_running hs hm]
  case cleared =>
    intro s
    simp [mem_latches_linkDown]
  case training =>
    intro s hs hm hnone hrails
    rw [exec_perstDeassertion]
    simp [hs, hm, hnone, hrails]

end Sys2Proof.Machine
end

section
/-!
PROOFS. What mesh traffic and the stop phase of a reset leave of the power subsystem (04 §4.2, §4.5; 07 §7.3, §7.4).
-/

namespace Sys2Proof.Machine

/-- The power subsystem, and the note that a MODULE reset started in the present clock, are the same in both states. -/
structure PowerKept (r s : State) : Prop where
  pwr : s.pwr = r.pwr
  started : s.clock.reset = r.clock.reset

variable {r s : State}

theorem powerKept_refl (s : State) : PowerKept s s := ⟨rfl, rfl⟩

theorem PowerKept.trans {t : State} (h : PowerKept r s) (g : PowerKept s t) : PowerKept r t :=
  ⟨g.pwr.trans h.pwr, g.started.trans h.started⟩

/-! ### Changes of other blocks, choices and repetitions -/

theorem powerKept_onMesh {f : Mesh → Mesh} (h : PowerKept r s) : PowerKept r (s.onMesh f) := ⟨h.pwr, h.started⟩
theorem powerKept_onLine {l : Nat} {f : LineState → LineState} (h : PowerKept r s) : PowerKept r (s.onLine l f) :=
  powerKept_onMesh h
theorem powerKept_onSlice {i : Nat} {f : Slice → Slice} (h : PowerKept r s) : PowerKept r (s.onSlice i f) := powerKept_onMesh h
theorem powerKept_onHart {i : HartId} {f : Hart → Hart} (h : PowerKept r s) : PowerKept r (s.onHart i f) := ⟨h.pwr, h.started⟩
theorem powerKept_onKp {f : Keeper → Keeper} (h : PowerKept r s) : PowerKept r (s.onKp f) := ⟨h.pwr, h.started⟩
theorem powerKept_onHost {f : HostIf → HostIf} (h : PowerKept r s) : PowerKept r (s.onHost f) := ⟨h.pwr, h.started⟩
theorem powerKept_onFn {n : Nat} {f : Fn → Fn} (h : PowerKept r s) : PowerKept r (s.onFn n f) := powerKept_onHost h
theorem powerKept_onRings {f : Rings → Rings} (h : PowerKept r s) : PowerKept r (s.onRings f) := ⟨h.pwr, h.started⟩
theorem powerKept_onRing {n : Nat} {f : Ring → Ring} (h : PowerKept r s) : PowerKept r (s.onRing n f) := powerKept_onRings h
theorem powerKept_onMu {f : Units → Units} (h : PowerKept r s) : PowerKept r (s.onMu f) := ⟨h.pwr, h.started⟩
theorem powerKept_onSd {f : Measure → Measure} (h : PowerKept r s) : PowerKept r (s.onSd f) := ⟨h.pwr, h.started⟩
theorem powerKept_onChan {n : Nat} {f : Channel → Channel} (h : PowerKept r s) : PowerKept r (s.onChan n f) := powerKept_onSd h
theorem powerKept_onSite {n : Nat} {f : TripSite → TripSite} (h : PowerKept r s) : PowerKept r (s.onSite n f) := powerKept_onSd h
theorem powerKept_onLn {f : Lanes → Lanes} (h : PowerKept r s) : PowerKept r (s.onLn f) := ⟨h.pwr, h.started⟩
theorem powerKept_onUp {f : Update → Update} (h : PowerKept r s) : PowerKept r (s.onUp f) := ⟨h.pwr, h.started⟩
theorem powerKept_emit {e : OutEvent} (h : PowerKept r s) : PowerKept r (s.emit e) := ⟨h.pwr, h.started⟩

theorem powerKept_ite {c : Prop} [Decidable c] {a b : State} (p : PowerKept r a) (q : PowerKept r b) :
    PowerKept r (if c then a else b) := by
  split
  · exact p
  · exact q

theorem powerKept_foldl {α : Type} {f : State → α → State} {l : List α} (p : ∀ t a, PowerKept t (f t a)) (h : PowerKept r s) :
    PowerKept r (l.foldl f s) := by
  induction l generalizing s with
  | nil => exact h
  | cons a l ih => exact ih (h.trans (p s a))

/-- Lines that only move between caches leave both alone. -/
theorem powerKept_of_carries {t : State} (g : Carries s t) (h : PowerKept r s) : PowerKept r t := by
  refine h.trans ⟨?_, ?_⟩ <;> rw [g.rest]

/-! ### Mesh traffic -/

theorem powerKept_violate (fn encl : Nat) (k w : Bool) (kind : ViolKind) (q a : Nat) (h : PowerKept r s) :
    PowerKept r (violate s fn encl k w kind q a) := by
  unfold violate
  exact powerKept_ite ⟨h.pwr, h.started⟩ ⟨h.pwr, h.started⟩

theorem powerKept_rangeViolation (g : Agent) (w : Bool) (a : Nat) (h : PowerKept r s) : PowerKept r (rangeViolation s g w a) :=
  powerKept_violate _ _ _ _ _ _ _ h

theorem powerKept_pmc (l : Nat) (k : Bool) (f : Slice → Slice) (h : PowerKept r s) : PowerKept r (pmc s l k f) :=
  powerKept_ite h (powerKept_onSlice h)

theorem powerKept_dramCheck (l : Nat) (chk : DramCheck) (scrub : Bool) (h : PowerKept r s) :
    PowerKept r (dramCheck l chk scrub s) := by
  unfold dramCheck
  dsimp only
  split
  · exact h
  · exact powerKept_onMesh h
  · exact powerKept_onMesh h

theorem powerKept_allocL3 (l : Nat) (v : L3) (k : Bool) (h : PowerKept r s) : PowerKept r (allocL3 l v k s) :=
  powerKept_of_carries (carries_allocL3 l v k (carries_refl s)) h

theorem powerKept_dropCopy (c l : Nat) (h : PowerKept r s) : PowerKept r (dropCopy c l s) :=
  powerKept_of_carries (carries_dropCopy c l (carries_refl s)) h

theorem powerKept_filterError (l : Nat) (k : Bool) (h : PowerKept r s) : PowerKept r (filterError l k s) :=
  powerKept_of_carries (carries_evictEntry l (carries_refl _)) (powerKept_onMesh (powerKept_pmc _ _ _ h))

theorem powerKept_fetchHome (l : Nat) (chk : HomeCheck) (k : Bool) (h : PowerKept r s) : PowerKept r (fetchHome l chk k s) := by
  have supplied : ∀ t, PowerKept r t → PowerKept r
      (if (t.lineAt l).l3 ≠ .none then pmc t l k fun x => { x with l3Hit := x.l3Hit + 1 }
       else
         let t := dramCheck l chk.dram false (pmc t l k fun x => { x with l3Miss := x.l3Miss + 1 })
         markLine l (t.mesh.poison.contains l) (allocL3 l .clean k t)) := fun t g =>
    powerKept_ite (powerKept_pmc _ _ _ g) (powerKept_onLine (powerKept_allocL3 _ _ _ (powerKept_dramCheck _ _ _ (powerKept_pmc _ _ _ g))))
  refine supplied _ (powerKept_ite h ?_)
  split
  · exact h
  · exact powerKept_onMesh h
  · exact powerKept_ite (powerKept_onLine (powerKept_onMesh h))
      (powerKept_of_carries (carries_dropL3 l (carries_refl _)) (powerKept_onMesh h))

theorem powerKept_startTxn (kind : ReqKind) (c l : Nat) (tr : Tracker) (chk : HomeCheck) (h : PowerKept r s) :
    PowerKept r (startTxn kind c l tr chk s) := by
  have entry : PowerKept r (makeFilterEntry l (if chk.filterUe then filterError l (tagOf s c).1 s else s)) :=
    powerKept_of_carries (carries_makeFilterEntry l (carries_refl _)) (powerKept_ite (powerKept_filterError _ _ h) h)
  exact powerKept_onLine (powerKept_pmc _ _ _
    (powerKept_ite entry (powerKept_ite (powerKept_fetchHome _ _ _ entry) (powerKept_ite (powerKept_pmc _ _ _ entry) entry))))

theorem powerKept_deviceFetch (who l : Nat) (chk : HomeCheck) (k : Bool) (h : PowerKept r s) :
    PowerKept r (deviceFetch who l chk k s) := by
  have checked : PowerKept r (if chk.filterUe then filterError l k s else s) := powerKept_ite (powerKept_filterError _ _ h) h
  exact powerKept_ite (powerKept_fetchHome _ _ _ checked) (powerKept_ite (powerKept_pmc _ _ _ checked) (powerKept_pmc _ _ _ checked))

theorem powerKept_putLine (l : Nat) (d : Line) (m : BitVec 64) (h : PowerKept r s) : PowerKept r (putLine l d m s) :=
  powerKept_onLine (powerKept_onMesh (powerKept_ite h (powerKept_onMesh h)))

theorem powerKept_mergeAtHome (l : Nat) (d : Line) (m : BitVec 64) (k : Bool) (h : PowerKept r s) :
    PowerKept r (mergeAtHome l d m k s) := by
  have unreserved := powerKept_of_carries (carries_clearReservations l none (carries_refl s)) h
  exact powerKept_ite h (powerKept_allocL3 _ _ _
    (powerKept_of_carries (carries_dropCopies l (carries_refl _)) (powerKept_putLine l d m unreserved)))

theorem powerKept_writeDirty (c l : Nat) (h : PowerKept r s) : PowerKept r (writeDirty c l s) := by
  unfold writeDirty
  split
  · exact h
  · exact powerKept_onLine (powerKept_ite (powerKept_of_carries (carries_copyToL3 c l (carries_refl s)) h)
      (powerKept_dropCopy _ _ (powerKept_rangeViolation _ _ _ h)))

theorem powerKept_evictClean (c l : Nat) (h : PowerKept r s) : PowerKept r (evictClean c l s) :=
  powerKept_ite (powerKept_dropCopy _ _ h) h

theorem powerKept_serveRead (who l : Nat) (chk : HomeCheck) (h : PowerKept r s) : PowerKept r (serveRead who l chk s) := by
  have fetched := powerKept_deviceFetch who l chk false h
  exact powerKept_ite (powerKept_emit (powerKept_rangeViolation _ _ _ h))
    (powerKept_ite (powerKept_emit (powerKept_onMesh fetched)) (powerKept_emit fetched))

theorem powerKept_serveWrite (who l : Nat) (d : Line) (m : BitVec 64) (h : PowerKept r s) :
    PowerKept r (serveWrite who l d m s) :=
  powerKept_ite (powerKept_mergeAtHome _ _ _ _ h) (powerKept_rangeViolation _ _ _ h)

theorem powerKept_serve (q : MeshRequest) (h : PowerKept r s) : PowerKept r (serve q s) := by
  unfold serve
  dsimp only
  split
  case h_1 | h_2 | h_3 =>
    exact powerKept_ite (powerKept_startTxn _ _ _ _ _ h) (powerKept_onLine (powerKept_rangeViolation _ _ _ h))
  case h_4 => exact powerKept_onLine (powerKept_writeDirty _ _ h)
  case h_5 => exact powerKept_onLine (powerKept_evictClean _ _ h)
  case h_6 => exact powerKept_onLine (powerKept_serveRead _ _ _ h)
  case h_7 =>
    refine powerKept_onLine ?_
    split
    · exact powerKept_mergeAtHome _ _ _ _ h
    · exact powerKept_serveWrite _ _ _ _ h

theorem powerKept_beginOrQueue (q : MeshRequest) (h : PowerKept r s) : PowerKept r (beginOrQueue q s) :=
  powerKept_ite (powerKept_onSlice h) (powerKept_serve q h)

theorem powerKept_noteUse (i : Nat) (h : PowerKept r s) : PowerKept r (noteUse i s) := powerKept_ite h (powerKept_onSlice h)

theorem powerKept_takeTracker (q : MeshRequest) (h : PowerKept r s) : PowerKept r (takeTracker q s) :=
  powerKept_ite (powerKept_beginOrQueue _ (powerKept_noteUse _ (powerKept_onSlice h)))
    (powerKept_ite (powerKept_beginOrQueue _ (powerKept_noteUse _ (powerKept_onSlice h)))
      (powerKept_emit (powerKept_ite (powerKept_onSlice h) (powerKept_onSlice (powerKept_onSlice h)))))

theorem powerKept_sendBehind (who : Nat) (h : PowerKept r s) : PowerKept r (sendBehind who s) := by
  unfold sendBehind
  split
  · exact h
  · exact powerKept_ite h (powerKept_takeTracker _ (powerKept_onMesh h))

theorem powerKept_serveQueued (l : Nat) (h : PowerKept r s) : PowerKept r (serveQueued l s) := by
  unfold serveQueued
  split
  · exact h
  · exact powerKept_ite h (powerKept_sendBehind _ (powerKept_serve _ (powerKept_onSlice h)))

theorem powerKept_releaseTracker (i l : Nat) (h : PowerKept r s) : PowerKept r (releaseTracker i l s) := by
  unfold releaseTracker
  split
  · exact h
  · exact powerKept_ite h (powerKept_serveQueued _
      (powerKept_of_carries (carries_freeTracker i _ l (carries_refl _)) (powerKept_onLine h)))

theorem powerKept_endTxn (l : Nat) (h : PowerKept r s) : PowerKept r (endTxn l s) := by
  unfold endTxn
  split
  · exact h
  · next t _ =>
    have answered : PowerKept r (t.snoops.foldl (fun u e => answerSnoop e.1 l e.2 u) s) :=
      powerKept_foldl (fun u e => powerKept_of_carries (carries_answerSnoop e.1 l e.2 (carries_refl u)) (powerKept_refl u)) h
    exact powerKept_releaseTracker _ _ (powerKept_of_carries (carries_acknowledge t.core l (carries_refl _))
      (powerKept_ite answered (powerKept_of_carries (carries_deliver t.core l t.dirtyData (carries_refl _)) answered)))

theorem powerKept_finishTxn (l : Nat) (h : PowerKept r s) : PowerKept r (finishTxn l s) := by
  unfold finishTxn
  generalize ((s.slice (homeOf l)).queued.filter (·.line == l)).length + 1 = n
  induction n generalizing s with
  | zero => exact h
  | succ n ih => exact ih (powerKept_endTxn l h)

theorem powerKept_agentWriteLine (g : Agent) (l : Nat) (d : Line) (m : BitVec 64) (h : PowerKept r s) :
    PowerKept r (agentWriteLine g l d m s) :=
  powerKept_ite (powerKept_ite (powerKept_onMesh h) (powerKept_mergeAtHome _ _ _ _ (powerKept_finishTxn _ h))) h

theorem powerKept_agentWriteBytes (g : Agent) (fuel a : Nat) (bs : List Byte) (h : PowerKept r s) :
    PowerKept r (agentWriteBytes g fuel a bs s) := by
  induction fuel generalizing a bs s with
  | zero => exact h
  | succ fuel ih =>
    cases bs with
    | nil => exact h
    | cons b bs => exact ih _ _ (powerKept_agentWriteLine _ _ _ _ h)

theorem powerKept_agentWrite (g : Agent) (fuel a : Nat) (bs : List Byte) (h : PowerKept r s) :
    PowerKept r (agentWrite g fuel a bs s) := by
  have written := powerKept_agentWriteBytes g fuel a bs h
  unfold agentWrite checkRange
  split
  · exact powerKept_rangeViolation _ _ _ written
  · exact written

/-! ### Writes of a ring's output -/

theorem powerKept_logPage (f p : Nat) (h : PowerKept r s) : PowerKept r (logPage f p s) :=
  powerKept_ite (powerKept_onFn h) (powerKept_onHost h)

theorem powerKept_hostRequests (f : Nat) (w : Bool) (a n : Nat) (h : PowerKept r s) : PowerKept r (hostRequests f w a n s) :=
  powerKept_foldl (fun t _ => powerKept_emit (powerKept_refl t)) h

theorem powerKept_hostWriteNow (f a : Nat) (bs : List Byte) (h : PowerKept r s) : PowerKept r (hostWriteNow f a bs s) := by
  unfold hostWriteNow
  exact powerKept_onHost (powerKept_hostRequests _ _ _ _
    (powerKept_ite (powerKept_foldl (fun t p => powerKept_logPage f p (powerKept_refl t)) h) h))

theorem powerKept_hostWrite (f a : Nat) (bs : List Byte) (h : PowerKept r s) : PowerKept r (hostWrite f a bs s) :=
  powerKept_ite (powerKept_hostWriteNow f a bs h) (powerKept_onFn h)

theorem powerKept_ringWrite (i : RingIdent) (a : Nat) (bs : List Byte) (h : PowerKept r s) : PowerKept r (ringWrite i a bs s) := by
  unfold ringWrite ringWriteBy
  split
  · exact powerKept_hostWrite _ _ _ h
  · exact powerKept_agentWrite _ _ _ _ h

theorem powerKept_siteFinish (ring seq : Nat) (bs : List Byte) (res : Result) (h : PowerKept r s) :
    PowerKept r (siteFinish ring seq bs res s) := by
  unfold siteFinish
  dsimp only
  split
  · exact h
  · exact powerKept_ite (powerKept_onRing (powerKept_onMesh h)) (powerKept_onRing (powerKept_ringWrite _ _ _ h))

/-! ### The stop phase of a MODULE reset -/

theorem powerKept_waitDone (n ring seq : Nat) (h : PowerKept r s) : PowerKept r (waitDone n ring seq s) :=
  powerKept_siteFinish _ _ _ _ (powerKept_onSite h)

theorem powerKept_assertTrip (n cause channel : Nat) (h : PowerKept r s) : PowerKept r (assertTrip n cause channel s) :=
  powerKept_ite h (powerKept_foldl (fun t w => powerKept_waitDone n w.ring w.seq (powerKept_refl t))
    (powerKept_onSd (powerKept_onChan (powerKept_onSite (powerKept_onSd h)))))

theorem powerKept_failsafeTrips (cause : Nat) (h : PowerKept r s) : PowerKept r (failsafeTrips cause s) :=
  powerKept_foldl (fun t _ => powerKept_ite (powerKept_assertTrip _ _ _ (powerKept_refl t)) (powerKept_refl t)) h

theorem powerKept_endSession (u : Nat) (h : PowerKept r s) : PowerKept r (endSession u s) := by
  unfold endSession
  split
  · exact powerKept_onMu (powerKept_onRing h)
  · exact h

theorem powerKept_resetChannel (c : Nat) (h : PowerKept r s) : PowerKept r (resetChannel c s) :=
  powerKept_onChan (powerKept_foldl (fun t _ => powerKept_onRing (powerKept_refl t)) h)

theorem powerKept_resetUnit (u : Nat) (h : PowerKept r s) : PowerKept r (resetUnit u s) := by
  unfold resetUnit
  split
  · exact powerKept_onMu h
  · exact h

theorem powerKept_blockReset (b : Nat) (h : PowerKept r s) : PowerKept r (blockReset b s) :=
  powerKept_ite (powerKept_resetUnit b h) (powerKept_foldl (fun t _ => powerKept_resetChannel _ (powerKept_refl t)) h)

theorem powerKept_endHandovers (h : PowerKept r s) : PowerKept r (endHandovers s) := by
  unfold endHandovers
  refine powerKept_onKp (powerKept_foldl (fun t b => ?_) h)
  refine powerKept_ite ?_ (powerKept_blockReset b (powerKept_refl t))
  split
  · exact powerKept_endSession _ (powerKept_refl t)
  · exact powerKept_refl t

theorem powerKept_dropChainTransfer (h : PowerKept r s) : PowerKept r (dropChainTransfer s) := by
  refine powerKept_ite ?_ h
  unfold abandon
  split
  · exact h
  · exact powerKept_onUp h

theorem powerKept_haltWork (h : PowerKept r s) : PowerKept r (haltWork s) :=
  powerKept_foldl (fun t _ => powerKept_onHart (powerKept_refl t))
    (powerKept_onUp (powerKept_dropChainTransfer (powerKept_onLn (powerKept_onSd (powerKept_onMu (powerKept_onRings h))))))

theorem powerKept_linkDown (h : PowerKept r s) : PowerKept r (linkDown s) := powerKept_onHost h

end Sys2Proof.Machine
end

section
/-!
PROOFS. The sources of a MODULE reset, its start and its release (04 §4.5; R147, R150, R158, R165, R175, R177, R292, R378).
-/

namespace Sys2Proof.Machine

variable {s : State} {w : Requester}

/-! ### Writes of the PF's registers with nothing before them -/

theorem pfWrite_of_seesPf (f : State → State) (hv : seesPf s w = true) (hb : nothingBefore s w) : pfWrite w f s = f s := by
  rw [pfWrite, programOrder_of_nothingBefore _ _ hb, if_pos hv]

/-- A write that leaves the state alone does so whoever makes it. -/
theorem pfWrite_of_unchanged {f : State → State} (hf : f s = s) (hb : nothingBefore s w) : pfWrite w f s = s := by
  rw [pfWrite, programOrder_of_nothingBefore _ _ hb, hf, ite_self]

/-! ### The start -/

/-- Where `beginModuleReset` stands at the end of its stop phase. -/
def stopPhase (cause : Nat) (s : State) : State :=
  linkDown (haltWork (endHandovers (failsafeTrips 5 { s with clock := { s.clock with reset := some cause } })))

/-- What `beginModuleReset` then marks. -/
def markReset (cause : Nat) (s : State) : State :=
  ((s.onPwr fun p => { p with moduleReset := true, stage := .rails, thermalHold := false, slow := false
                              cause := cause, modResets := min 0xFFFF (p.modResets + 1) }).onCt Ct.moduleReset).onHost fun h =>
    { h with training := false }

theorem beginModuleReset_of_mayReset (cause : Nat) (h : mayReset s = true) :
    beginModuleReset cause s = markReset cause (stopPhase cause s) :=
  if_neg (by simp [h])

theorem powerKept_stopPhase (cause : Nat) :
    PowerKept { s with clock := { s.clock with reset := some cause } } (stopPhase cause s) :=
  powerKept_linkDown (powerKept_haltWork (powerKept_endHandovers (powerKept_failsafeTrips 5 (powerKept_refl _))))

theorem stopPhase_pwr (cause : Nat) : (stopPhase cause s).pwr = s.pwr := (powerKept_stopPhase cause).pwr
theorem stopPhase_started (cause : Nat) : (stopPhase cause s).clock.reset = some cause := (powerKept_stopPhase cause).started

theorem markReset_pwr (cause : Nat) : (markReset cause s).pwr =
    { s.pwr with moduleReset := true, stage := .rails, thermalHold := false, slow := false
                 cause := cause, modResets := min 0xFFFF (s.pwr.modResets + 1) } := rfl
theorem markReset_clock (cause : Nat) : (markReset cause s).clock = s.clock := rfl
theorem markReset_training (cause : Nat) : (markReset cause s).host.training = false := rfl

/-- R177: of the power subsystem the start changes what it marks alone. -/
theorem beginModuleReset_pwr (cause : Nat) (h : mayReset s = true) : (beginModuleReset cause s).pwr =
    { s.pwr with moduleReset := true, stage := .rails, thermalHold := false, slow := false
                 cause := cause, modResets := min 0xFFFF (s.pwr.modResets + 1) } := by
  rw [beginModuleReset_of_mayReset cause h, markReset_pwr, stopPhase_pwr]

theorem beginModuleReset_started (cause : Nat) (h : mayReset s = true) : (beginModuleReset cause s).clock.reset = some cause := by
  rw [beginModuleReset_of_mayReset cause h, markReset_clock, stopPhase_started]

theorem beginModuleReset_training (cause : Nat) (h : mayReset s = true) : (beginModuleReset cause s).host.training = false := by
  rw [beginModuleReset_of_mayReset cause h, markReset_training]

/-- Where no reset may start, a source only counts against the one that started the reset of the present clock (R175). -/
theorem beginModuleReset_of_not_mayReset (cause : Nat) (h : mayReset s = false) : beginModuleReset cause s = resetCause cause s :=
  if_pos (by simp [h])

/-- R292: a source from outside the registers' own order drains the harts' buffers first. -/
theorem resetModule_of_mayReset (cause : Nat) (h : mayReset s = true) :
    resetModule cause s = beginModuleReset cause (drainHarts allHarts s) := by
  rw [resetModule, if_pos h]

theorem resetModule_of_not_mayReset (cause : Nat) (h : mayReset s = false) : resetModule cause s = resetCause cause s := by
  rw [resetModule, if_neg (by simp [h]), beginModuleReset_of_not_mayReset cause h]

theorem resetCause_of_before {cause first : Nat} (hf : s.clock.reset = some first) (hr : resetRank cause < resetRank first) :
    (resetCause cause s).pwr.cause = cause := by
  simp [resetCause, hf, hr]

theorem resetCause_of_not_before {cause first : Nat} (hf : s.clock.reset = some first) (hr : ¬ resetRank cause < resetRank first) :
    resetCause cause s = s := by
  simp [resetCause, hf, hr]

/-! ### The sources and the release -/

theorem exec_psModuleReset_of_magic (hv : seesPf s w = true) (hb : nothingBefore s w) (hr : resetsHeld s = false) :
    exec (.psModuleReset w 0x4D525354#32) s = ok s (resetModule 5 s) :=
  congrArg (ok s) ((pfWrite_of_seesPf _ hv hb).trans (if_pos ⟨rfl, hr⟩))

theorem exec_psModuleReset_of_other {v : W32} (hb : nothingBefore s w) (hv : v ≠ 0x4D525354#32) :
    exec (.psModuleReset w v) s = ok s s :=
  congrArg (ok s) (pfWrite_of_unchanged (if_neg fun hm => hv hm.1) hb)

theorem exec_watchdogExpiryHard_of_hard (he : watchdogExpires s = true) (hh : s.lt.wdHard = true) :
    exec .watchdogExpiryHard s = ok s (resetModule 6 s) :=
  congrArg (ok s) (if_pos (by simp [he, hh]))

theorem exec_moduleResetRelease (id : BitVec 6) (high : Bool) :
    exec (.moduleResetRelease id high) s = ok s (if s.pwr.moduleReset then moduleRelease id high s else releasePin s) := rfl

theorem moduleRelease_pwr (id : BitVec 6) (high : Bool) :
    (moduleRelease id high s).pwr = { (moduleReset s).pwr with
      moduleReset := false, stage := .rails, commitArmed := false, modId := id, daymarkPin := high } := rfl
theorem moduleRelease_modResetLow (id : BitVec 6) (high : Bool) : (moduleRelease id high s).port.modResetLow = false := rfl
theorem moduleRelease_harts (id : BitVec 6) (high : Bool) : (moduleRelease id high s).harts = [] := rfl

end Sys2Proof.Machine

namespace Sys2Proof

open Machine

/-- Settles O8: the start turns on `mayReset`, and the stop phase leaves the power subsystem alone (`powerKept_stopPhase`). -/
theorem moduleReset : Obligations.ModuleReset := by
  unfold Obligations.ModuleReset
  refine ⟨?start, ?order, ?pin, ?magic, ?other, ?watchdog, ?release, ?level⟩
  case start =>
    intro s cause hmay
    refine ⟨resetModule_of_mayReset cause hmay, ?_⟩
    simp [beginModuleReset_pwr cause hmay, beginModuleReset_started cause hmay, beginModuleReset_training cause hmay]
  case order =>
    intro s cause first hmay hfirst
    rw [resetModule_of_not_mayReset cause hmay]
    exact ⟨resetCause_of_before hfirst, resetCause_of_not_before hfirst⟩
  case pin =>
    intro s
    rfl
  case magic =>
    intro s w hv hb hr
    exact exec_psModuleReset_of_magic hv hb hr
  case other =>
    intro s w v hb hv
    rw [exec_psModuleReset_of_other hb hv, ok, troubleEdges_self]
  case watchdog =>
    intro s he hh
    exact exec_watchdogExpiryHard_of_hard he hh
  case release =>
    intro s id high hm
    simp [exec_moduleResetRelease, ok, hm, moduleRelease_pwr, moduleRelease_modResetLow, moduleRelease_harts]
  case level =>
    intro s id high hm
    simp [exec_moduleResetRelease, ok, hm]

end Sys2Proof
end

section
/-!
PROOFS. The Keeper node's registers: enclave commands, the range table, hand-over, the watchdog's kick, gates and idle hints, and the
violation log (08; R344-R349, R366-R376, R382, R395, R885).
-/

namespace Sys2Proof.Machine

variable {s : State} {h : HartId}

/-! ### Writes of Keeper-only registers -/

theorem keeperRow_of_keeper {offset : Nat} {f : State → State} (hr : (s.hart h).inReset = false) (hk : (s.hart h).keeper = true)
    (hb : nothingBefore s (.hart h)) : programOrder (.hart h) true (keeperWrite h offset f) s = f s := by
  rw [programOrder_of_nothingBefore _ _ hb, keeperWrite, if_neg (by simp [hr]), if_pos hk]

/-- R885: from the Open world the write is one violation of KIND WORLD_ATTR. -/
theorem keeperRow_of_open {offset : Nat} {f : State → State} (hr : (s.hart h).inReset = false) (hk : (s.hart h).keeper = false)
    (hb : nothingBefore s (.hart h)) : programOrder (.hart h) true (keeperWrite h offset f) s =
      violate s (actingFn s (.hart h)) (s.hart h).kenc.toNat false true .worldAttr h.val (0x5000000000 + offset) := by
  rw [programOrder_of_nothingBefore _ _ hb, keeperWrite, if_neg (by simp [hr]), if_neg (by simp [hk]), violateBy]
  simp [actingEncl, actingKeeper, hk, meshNumber, coreAddr]

section
variable {i : Instr} {offset : Nat} {f : State → State}
  (hi : exec i s = ok s (programOrder (.hart h) true (keeperWrite h offset f) s))
include hi

/-- What a row that writes a Keeper-only register leaves. -/
theorem exec_keeperRow_of_keeper {t : State} (hr : (s.hart h).inReset = false) (hk : (s.hart h).keeper = true)
    (hb : nothingBefore s (.hart h)) (hf : f s = t) : exec i s = .next (troubleEdges s t) := by
  rw [hi, keeperRow_of_keeper hr hk hb, hf, ok]

theorem exec_keeperRow_of_unchanged (hr : (s.hart h).inReset = false) (hk : (s.hart h).keeper = true)
    (hb : nothingBefore s (.hart h)) (hf : f s = s) : exec i s = .next s := by
  rw [exec_keeperRow_of_keeper hi hr hk hb hf, troubleEdges_self]

theorem exec_keeperRow_of_open (hr : (s.hart h).inReset = false) (hk : (s.hart h).keeper = false) (hb : nothingBefore s (.hart h)) :
    exec i s = .next (troubleEdges s (violate s (actingFn s (.hart h)) (s.hart h).kenc.toNat false true .worldAttr h.val
      (0x5000000000 + offset))) := by
  rw [hi, keeperRow_of_open hr hk hb, ok]

end

/-! ### Enclave commands -/

theorem buildEnclave_of_free {e : Nat} (hd : (s.lt.enclave e).isSome = true) (hs : (s.encl e).st = .free) :
    buildEnclave e s = makeKey e (s.onEncl e fun x =>
      { x with st := .building, owner := ((s.lt.enclave e).map (·.owner)).getD 0 }) := if_pos ⟨hd, hs⟩

theorem sealEnclave_of_building {e : Nat} (hd : (s.lt.enclave e).isSome = true) (hs : (s.encl e).st = .building) :
    sealEnclave e s =
      if ownsBytes s e (s.encl e).entry.toNat 1 && ownsBytes s e (atpRoot (s.encl e).satp) 4096
          && ownsBytes s e (s.encl e).save.toNat 576 then s.onEncl e fun x => { x with st := .ready }
      else s.onKp fun k => { k with trouble := setBit k.trouble 1 } := if_pos ⟨hd, hs⟩

theorem destroyCommand_of_stopped {e : Nat} (hd : (s.lt.enclave e).isSome = true)
    (hs : (s.encl e).st = .building ∨ (s.encl e).st = .ready ∨ (s.encl e).st = .suspended) :
    destroyCommand e s = destroyEnclave e s := by
  have declared : ¬ (s.lt.enclave e).isNone = true := by simpa [Option.isSome_iff_ne_none] using hd
  rw [destroyCommand, if_neg declared]
  obtain hs | hs | hs := hs <;> rw [hs]

/-- R395. -/
theorem destroyCommand_of_running {e : Nat} (hs : (s.encl e).st = .running) : destroyCommand e s = s := by
  rw [destroyCommand, hs, ite_self]

/-! ### The range table -/

/-- The entry that a range-table write brings. -/
def rangeEntry (base word1 : W64) : RangeEntry := ⟨base.toNat / 4096 * 4096, bits word1 0 26, word1.extractLsb' 32 8, word1.getLsbD 63⟩

/-- The range table with entry `i` written, what the pages of a valid old entry held released. -/
def putRange (i : Nat) (r : RangeEntry) (s : State) : State :=
  (if (tget {} s.kp.ranges i).valid then releaseRange (tget {} s.kp.ranges i) s else s).onKp fun k =>
    { k with ranges := tset {} k.ranges i r }

section
variable {i : Nat} {b w : W64} (hn : (s.encl (rangeEntry b w).encl.toNat).st = .building)
  (ho : (tget {} s.kp.ranges i).valid = true → (s.encl (tget {} s.kp.ranges i).encl.toNat).st = .building)
include hn ho

/-- R345: a write counts while the enclaves of the entry and of the valid one that it replaces are in BUILDING. -/
theorem rangeWrite_of_building : rangeWrite i b w s =
    if (rangeEntry b w).valid && rangeRefused s i (rangeEntry b w) then s.onKp fun k => { k with trouble := setBit k.trouble 0 }
    else if (rangeEntry b w).valid then acquireRange (rangeEntry b w) (putRange i (rangeEntry b w) s)
    else putRange i (rangeEntry b w) s :=
  if_neg fun hne => hne.elim (fun h => h hn) fun h => h.2 (ho h.1)

theorem rangeWrite_of_accepted (hv : (rangeEntry b w).valid = true) (hf : rangeRefused s i (rangeEntry b w) = false) :
    rangeWrite i b w s = acquireRange (rangeEntry b w) (putRange i (rangeEntry b w) s) := by
  rw [rangeWrite_of_building hn ho, if_neg (by simp [hf]), if_pos hv]

theorem rangeWrite_of_refused (hv : (rangeEntry b w).valid = true) (hf : rangeRefused s i (rangeEntry b w) = true) :
    rangeWrite i b w s = s.onKp fun k => { k with trouble := setBit k.trouble 0 } := by
  rw [rangeWrite_of_building hn ho, if_pos (by simp [hv, hf])]

theorem rangeWrite_of_invalid (hv : (rangeEntry b w).valid = false) :
    rangeWrite i b w s = putRange i (rangeEntry b w) s := by
  rw [rangeWrite_of_building hn ho, if_neg (by simp [hv]), if_neg (by simp [hv])]

end

/-! ### Hand-over -/

theorem requestHandover_of_movable {v : W32} (hm : bits v 0 5 ∈ movableBlocks) (hn : s.kp.handover.any (·.1 == bits v 0 5) = false)
    (hw : s.kp.world.getLsbD (bits v 0 5) ≠ v.getLsbD 8) :
    requestHandover v s = s.onKp fun k => { k with handover := k.handover ++ [(bits v 0 5, v.getLsbD 8)] } :=
  if_pos (by rw [List.contains_iff_mem.mpr hm, hn, beq_eq_false_iff_ne.mpr hw]; rfl)

/-- A block number whose unit, if it is a unit, runs no command. -/
theorem unit_idle {b : Nat} (hi : b < 8 → runOn s b = none) : (decide (b < 8) && (runOn s b).isSome) = false := by
  by_cases hb : b < 8
  · simp [hi hb]
  · simp [hb]

theorem handoverBlock_of_idle {b : Nat} {target : Bool} (hf : s.kp.handover.find? (·.1 == b) = some (b, target))
    (hi : b < 8 → runOn s b = none) :
    handoverBlock b s = (blockReset b s).onKp fun k =>
      { k with handover := k.handover.filter fun e => decide (e.1 ≠ b), world := putBit k.world b target
               gate := clearBit k.gate b, gated := clearBit k.gated b, hoDone := true, hoBlock := BitVec.ofNat 5 b } := by
  rw [handoverBlock, hf]
  exact if_neg (by simp [unit_idle hi])

/-! ### The watchdog's kick -/

/-- R376, R394: the count starts again, and no expiry of the present clock stands against it. -/
theorem wdKick_magic : wdKick 0x4B49434B#32 s =
    { s.onKp fun k => { k with preExpiry := false, wdCount := 0 } with clock := { s.clock with kicked := true } } := if_pos rfl

theorem wdKick_of_other {v : W32} (hv : v ≠ 0x4B49434B#32) : wdKick v s = s := if_neg hv

/-! ### Gates -/

/-- What a write of PS_GATE does to one block. -/
def takeGate (v : W32) (t : State) (b : Nat) : State :=
  if gateBarred t b then t
  else t.onKp fun k => { k with gate := putBit k.gate b (v.getLsbD b), gated := if v.getLsbD b then k.gated else clearBit k.gated b }

theorem violateBy_gate (w : Requester) (wr : Bool) (k : ViolKind) (o : Nat) : (violateBy s w wr k o).kp.gate = s.kp.gate := by
  unfold violateBy violate
  dsimp only
  split <;> rfl

/-- A violation leaves the gates to what the blocks took. -/
theorem gateWrite_gate (w : Requester) (v : W32) : (gateWrite w v s).kp.gate = (movableBlocks.foldl (takeGate v) s).kp.gate := by
  unfold gateWrite
  dsimp only
  split
  · rfl
  · exact violateBy_gate _ _ _ _

@[simp] theorem gateBarred_takeGate (v : W32) (a b : Nat) : gateBarred (takeGate v s a) b = gateBarred s b := by
  unfold takeGate
  split <;> rfl

theorem getLsbD_putBit {n : Nat} (x : BitVec n) (i j : Nat) (c : Bool) (hj : j < n) :
    (putBit x i c).getLsbD j = if j = i then c else x.getLsbD j := by
  unfold putBit setBit clearBit
  by_cases e : j = i
  · subst e
    cases c <;> simp [hj]
  · cases c <;> simp [hj, e]

theorem takeGate_gate (v : W32) (a : Nat) {b : Nat} (hb : b < 16) :
    (takeGate v s a).kp.gate.getLsbD b = if b = a ∧ gateBarred s a = false then v.getLsbD b else s.kp.gate.getLsbD b := by
  unfold takeGate
  by_cases hg : gateBarred s a = true
  · simp [hg]
  · rw [if_neg hg, onKp_kp, getLsbD_putBit _ _ _ _ hb]
    by_cases e : b = a
    · simp [e, hg]
    · simp [e]

/-- R371: a block takes its bit where it is not barred, and no other block's bit changes with it. -/
theorem foldl_takeGate_gate (v : W32) (bs : List Nat) {b : Nat} (hb : b < 16) :
    (bs.foldl (takeGate v) s).kp.gate.getLsbD b =
      if b ∈ bs ∧ gateBarred s b = false then v.getLsbD b else s.kp.gate.getLsbD b := by
  induction bs generalizing s with
  | nil => simp
  | cons a bs ih =>
    rw [List.foldl_cons, ih, gateBarred_takeGate, takeGate_gate v a hb]
    by_cases e : b = a
    · subst e
      by_cases hg : gateBarred s b = false <;> simp [hg]
    · simp [e]

theorem gateNow_of_idle {b : Nat} (hg : s.kp.gate.getLsbD b = true) (hn : s.kp.gated.getLsbD b = false)
    (hi : b < 8 → runOn s b = none) : gateNow b s = noteWindows 0 (s.onKp fun k => { k with gated := setBit k.gated b }) :=
  if_pos (by simp [hg, hn, unit_idle hi])

/-! ### Idle hints -/

/-- R373, R374: a write gates units among the hinted ones alone. -/
theorem hintWrite_gates_hinted (v : W32) : ∃ idle : BitVec 22, hintWrite v s = s.onKp fun k =>
    { k with hint := v.extractLsb' 0 22, selfGated := v.extractLsb' 0 22 &&& idle } := ⟨_, rfl⟩

theorem and_and_not_self {n : Nat} (x y : BitVec n) : x &&& y &&& ~~~x = 0 := by
  ext i hi
  cases hx : x[i] <;> simp [hx]

/-! ### The violation log's registers -/

theorem reg64_keeperOnly {w : Requester} {o : Nat} (h8 : o % 8 = 0) (hlo : 0x400000 ≤ o) (hhi : o < 0x410000) :
    reg64 s w o = koReg64 s (o - 0x400000) := by
  simp (disch := omega) only [reg64, if_neg, if_pos]

/-- R885: the Keeper world is denied nothing of its own block. -/
theorem denied_keeperOnly {w : Requester} {o : Nat} {v : W64} (hk : actingKeeper s w = true) (hlo : 0x400000 ≤ o)
    (hhi : o < 0x410000) : denied s w false o v = none := by
  simp (disch := omega) only [denied, if_neg, if_pos, hk]
  rfl

theorem readEffect_keeperOnly {w : Requester} {o : Nat} (hlo : 0x400000 ≤ o) : readEffect w o s = s := by
  simp (disch := omega) only [readEffect, if_neg]

/-- A whole 64-bit register of the Keeper-only block, read from the Keeper world. -/
theorem regRead_keeperOnly {o v : Nat} (hr : (s.hart h).inReset = false) (hk : (s.hart h).keeper = true)
    (h8 : o % 8 = 0) (hlo : 0x400000 ≤ o) (hhi : o < 0x410000) (hv : koReg64 s (o - 0x400000) = some v) :
    regRead (.hart h) o .full s = (s, BitVec.ofNat 64 v) := by
  have seen : ¬ (!visible s (.hart h)) = true := by simp [visible, hr]
  have mapped : canonical s (.hart h) o = some o := if_pos (by omega)
  have unit : o / 8 * 8 = o := by omega
  have outside : ¬ (0x100000 ≤ o ∧ o < 0x200000) := by omega
  rw [regRead, if_neg seen]
  simp only [mapped, unit, if_neg outside, reg64_keeperOnly h8 hlo hhi, hv, denied_keeperOnly (w := .hart h) hk hlo hhi, read64,
    readEffect_keeperOnly hlo]

/-- R382: the registers show the oldest entry. -/
theorem vlogHead_of_cons {e : VlogEntry} {rest : List VlogEntry} (f : VlogEntry → W64) (hl : s.kp.vlog = e :: rest) :
    vlogHead s f = (f e).toNat := by
  rw [vlogHead, hl]
  rfl

theorem regRead_vlog {o : Nat} {e : VlogEntry} {rest : List VlogEntry} (f : VlogEntry → W64) (hr : (s.hart h).inReset = false)
    (hk : (s.hart h).keeper = true) (hl : s.kp.vlog = e :: rest) (h8 : o % 8 = 0) (hlo : 0x400000 ≤ o) (hhi : o < 0x410000)
    (hf : koReg64 s (o - 0x400000) = some (vlogHead s f)) : regRead (.hart h) o .full s = (s, f e) := by
  rw [regRead_keeperOnly hr hk h8 hlo hhi hf, vlogHead_of_cons f hl, BitVec.ofNat_toNat, BitVec.setWidth_eq]

theorem vlogPop_of_cons {e : VlogEntry} {rest : List VlogEntry} (hl : s.kp.vlog = e :: rest) :
    vlogPop 1 s = s.onKp fun k => { k with vlog := rest } := by
  simp [vlogPop, State.onKp, hl]

theorem vlogPop_of_other {v : W32} (hv : v ≠ 1) : vlogPop v s = s := if_neg hv

/-- Settles O39: each of the three is a register of the Keeper-only block that reads a field of the log's head. -/
theorem violationLogRegisters : Obligations.ViolationLogRegisters := by
  unfold Obligations.ViolationLogRegisters
  intro s h hr hk hb
  refine ⟨?shown, ?other⟩
  case shown =>
    intro e rest hl
    refine ⟨?ct, ?addr, ?info, ?pop⟩
    case ct => exact regRead_vlog (·.ct) hr hk hl rfl (by decide) (by decide) rfl
    case addr => exact regRead_vlog (·.addr) hr hk hl rfl (by decide) (by decide) rfl
    case info => exact regRead_vlog (·.info) hr hk hl rfl (by decide) (by decide) rfl
    case pop => exact exec_keeperRow_of_keeper rfl hr hk hb (vlogPop_of_cons hl)
  case other =>
    intro v hv
    exact exec_keeperRow_of_unchanged rfl hr hk hb (vlogPop_of_other hv)

/-! ### Every row -/

/-- Settles O38: from the Keeper world each write is its own command (`keeperRow_of_keeper`), from the Open world a violation. -/
theorem keeperRegisters : Obligations.KeeperRegisters := by
  unfold Obligations.KeeperRegisters
  refine ⟨?keeper, ?openWorld, ?blockReset, ?gate, ?takesEffect, ?hint, ?ungate⟩
  case keeper =>
    intro s h hr hk hb
    refine ⟨?build, ?sealing, ?destroy, ?running, ?range, ?handover, ?kick, ?noKick⟩
    case build => exact fun e hd hs => exec_keeperRow_of_keeper rfl hr hk hb (buildEnclave_of_free hd hs)
    case sealing =>
      intro e hd hs sound
      have sealed := sealEnclave_of_building hd hs
      exact ⟨fun hsound => exec_keeperRow_of_keeper rfl hr hk hb (sealed.trans (if_pos hsound)),
        fun hsound => exec_keeperRow_of_keeper rfl hr hk hb (sealed.trans (if_neg (ne_true_of_eq_false hsound)))⟩
    case destroy => exact fun e hd hs => exec_keeperRow_of_keeper rfl hr hk hb (destroyCommand_of_stopped hd hs)
    case running => exact fun e hs => exec_keeperRow_of_unchanged rfl hr hk hb (destroyCommand_of_running hs)
    case range =>
      intro i b w r old free put hn ho
      have row {t : State} : rangeWrite i.val b w s = t → exec (.kpRangeWrite h i b w) s = .next (troubleEdges s t) :=
        exec_keeperRow_of_keeper rfl hr hk hb
      exact ⟨fun hv hf => row (rangeWrite_of_accepted (b := b) (w := w) hn ho hv hf),
        fun hv hf => row (rangeWrite_of_refused (b := b) (w := w) hn ho hv hf),
        fun hv => row (rangeWrite_of_invalid (b := b) (w := w) hn ho hv)⟩
    case handover => exact fun v hm hn hw => exec_keeperRow_of_keeper rfl hr hk hb (requestHandover_of_movable hm hn hw)
    case kick => exact exec_keeperRow_of_keeper rfl hr hk hb wdKick_magic
    case noKick => exact fun v hv => exec_keeperRow_of_unchanged rfl hr hk hb (wdKick_of_other hv)
  case openWorld =>
    intro s h i a hr hk hb hi
    obtain ⟨e, rfl | rfl | rfl, rfl⟩ | ⟨n, b, w, rfl, rfl⟩ | ⟨v, rfl, rfl⟩ | ⟨v, rfl, rfl⟩ | ⟨v, rfl, rfl⟩ := hi <;>
      exact exec_keeperRow_of_open rfl hr hk hb
  case blockReset => exact fun s b w hf hi => congrArg (ok s) (handoverBlock_of_idle hf hi)
  case gate =>
    intro s w v hv hb
    refine ⟨congrArg (ok s) (pfWrite_of_seesPf _ hv hb), fun b hm => ?_⟩
    have hlt : b < 16 := by
      revert b
      decide
    rw [gateWrite_gate, foldl_takeGate_gate v movableBlocks hlt]
    by_cases hg : gateBarred s b = true <;> simp [hg, hm]
  case takesEffect => exact fun s b hg hn hi => congrArg (ok s) (gateNow_of_idle hg hn hi)
  case hint =>
    intro s w v hv hb
    obtain ⟨idle, hw⟩ := hintWrite_gates_hinted (s := s) v
    exact ⟨_, and_and_not_self _ idle, congrArg (ok s) ((pfWrite_of_seesPf _ hv hb).trans hw)⟩
  case ungate => exact fun s u => rfl

end Sys2Proof.Machine
end

section
/-!
PROOFS. A KEEPER-level unlock that meets a full violation log (08 §8.11; R304, R308, R383, R390).
-/

namespace Sys2Proof.Machine

/-- A device agent's read of DRAM line 0, as the home slice holds it. -/
def readOfLine0 : MeshRequest := { who := 25, line := 0, kind := .devRead }

/-- Enclave 1 owns line 0, and the violation log is full. Two Open-world reads of the line hold their trackers: the first is served but
not yet released, the second waits behind it (R308). -/
def readBehindRead : State :=
  { kp := { encl := [(1, { st := .ready })], ranges := [(0, { base := 0, pages := 1, encl := 1, valid := true })]
            vlog := List.replicate 64 ⟨0, 0, 0⟩ }
    mesh := { lines := [(0, { txn := some (doneTxn readOfLine0 .general) })]
              slices := [(0, { general := [readOfLine0, readOfLine0], queued := [readOfLine0] })] } }

/-- Dropping the enclave's cached line serves the read that waits, which the range table still forbids: its violation finds the log
full and sets the overflow's trouble bit 4 (R383). -/
theorem destroyEnclave_sets_overflow : (destroyEnclave 1 readBehindRead).kp.trouble = setBit 0 4 := by decide +kernel

/-- Table 8.1: the enclaves that KEEPER level destroys. -/
def builtEnclaves (s : State) : List Nat := (s.kp.encl.map (·.1)).filter fun e => decide ((s.encl e).st ≠ .free)

/-- Bit 3 is set upon what the enclaves' destruction leaves. -/
theorem grantKeeper_trouble (s : State) : (grantKeeper s).kp.trouble =
    setBit ((builtEnclaves s).foldl (fun t e => destroyEnclave e t) s).kp.trouble 3 := rfl

theorem builtEnclaves_readBehindRead : builtEnclaves readBehindRead = [1] := by decide

/-- Refutes O40: KEEPER level destroys the enclaves as DESTROY does, and the reads that this lets go on can set trouble bits beside
bit 3, as in `readBehindRead`. -/
theorem not_debugUnlock : ¬ Obligations.DebugUnlock := by
  unfold Obligations.DebugUnlock
  rintro ⟨-, -, -, hgrant, -, -⟩
  obtain ⟨-, htrouble, -⟩ := hgrant readBehindRead
  rw [grantKeeper_trouble, builtEnclaves_readBehindRead, List.foldl_cons, List.foldl_nil, destroyEnclave_sets_overflow] at htrouble
  exact absurd htrouble (by decide)

end Sys2Proof.Machine
end

section
/-!
PROOFS. The dispatch unit's rows that are not instructions: tick boundaries, device posts, held events, decisions and the trace
(09; R402, R404-R410, R423-R439).
-/

namespace Sys2Proof.Machine

variable {s : State} {d : Nat} {w : Requester}

/-! ### Due entries -/

theorem delayError_none : delayError d .none s = s := by
  unfold delayError
  split <;> rfl

theorem moveDue_of_free {e : TaskEntry} (he : dueHead s d = some e) (hf : readyFree s d = true) :
    moveDue d s = makeReady d { e with cyc := ctCycles s } 31 0x03 (s.onDom d fun x => { x with delay := x.delay.tail }) := by
  rw [moveDue, he]
  exact if_pos hf

/-- R408: without a place the entry stays, and its domain shows WAKE_HELD. -/
theorem moveDue_of_full {e : TaskEntry} (he : dueHead s d = some e) (hf : readyFree s d = false) :
    moveDue d s = s.onDom d fun x => { x with flags := setBit x.flags 2 } := by
  rw [moveDue, he]
  exact if_neg (ne_true_of_eq_false hf)

/-- The search for the next entry to move passes over the domains without a place. -/
theorem readyFree_of_nextDue (h : nextDue s = some d) : readyFree s d = true := by
  obtain ⟨found, hfound, rfl⟩ := Option.map_eq_some_iff.mp h
  refine List.foldlRecOn (motive := fun best : Option (Nat × Nat) => ∀ p, best = some p → readyFree s p.2 = true)
    _ _ (by simp) (fun best kept e _ p hp => ?_) found hfound
  split at hp
  case h_1 => exact kept p hp
  case h_2 =>
    split at hp
    case isTrue => exact kept p hp
    case isFalse hfree =>
      have free : readyFree s e.1 = true := by simpa using hfree
      split at hp
      case h_1 => cases hp; exact free
      case h_2 =>
        split at hp
        · cases hp; exact free
        · exact kept p hp

/-- What a table reads as beside its default stands in it. -/
theorem mem_of_tget_ne {α : Type} {v : α} {t : Tab α} {k : Nat} (h : tget v t k ≠ v) : (k, tget v t k) ∈ t := by
  induction t with
  | nil => exact absurd rfl h
  | cons e t ih =>
    obtain ⟨j, a⟩ := e
    by_cases hj : j = k
    · simp [tget, hj]
    · simp only [tget, if_neg hj] at h ⊢
      exact List.mem_cons_of_mem _ (ih h)

theorem delay_ne_nil_of_dueHead {e : TaskEntry} (he : dueHead s d = some e) : (s.dom d).delay ≠ [] := by
  intro hnil
  simp [dueHead, hnil] at he

/-- A tick boundary has a move to make while an entry is due. -/
theorem delayed_pos_of_dueHead {e : TaskEntry} (he : dueHead s d = some e) :
    0 < (s.disp.doms.map fun e => e.2.delay.length).sum := by
  have waits := delay_ne_nil_of_dueHead he
  have listed : (d, s.dom d) ∈ s.disp.doms := mem_of_tget_ne fun hdom => waits (congrArg Domain.delay hdom)
  exact List.sum_pos_iff_exists_pos_nat.mpr ⟨_, List.mem_map_of_mem listed, List.length_pos_iff.mpr waits⟩

theorem moveAllDue_of_nextDue {n : Nat} (hn : 0 < n) (h : nextDue s = some d) :
    moveAllDue n s = moveAllDue (n - 1) (moveDue d s) := by
  obtain ⟨m, rfl⟩ := Nat.exists_eq_add_one.mpr hn
  rw [moveAllDue, h]
  rfl

theorem tickBoundary_none :
    tickBoundary .none s = flagHeldWakes (moveAllDue ((s.disp.doms.map fun e => e.2.delay.length).sum) s) := by
  unfold tickBoundary
  cases nextDue s with
  | none => rfl
  | some d => simp only [delayError_none]

/-- R407, R409: the first entry that moves is the one that the search finds. -/
theorem tickBoundary_of_nextDue {e : TaskEntry} (h : nextDue s = some d) (he : dueHead s d = some e) :
    tickBoundary .none s = flagHeldWakes (moveAllDue ((s.disp.doms.map fun e => e.2.delay.length).sum - 1)
      (makeReady d { e with cyc := ctCycles s } 31 0x03 (s.onDom d fun x => { x with delay := x.delay.tail }))) := by
  rw [tickBoundary_none, moveAllDue_of_nextDue (delayed_pos_of_dueHead he) h, moveDue_of_free he (readyFree_of_nextDue h)]

/-! ### Errors of the stores -/

theorem traceLost_trouble : (traceLost d s).disp.trouble = setBit s.disp.trouble 4 := rfl

/-- A trace event clears no trouble bit: at most it sets bit 4, for a record lost. -/
theorem traceEvent_trouble (d hart ev prio : Nat) (payload : W64) (s : State) :
    (traceEvent d hart ev prio payload s).disp.trouble = s.disp.trouble ∨
      (traceEvent d hart ev prio payload s).disp.trouble = setBit s.disp.trouble 4 := by
  unfold traceEvent
  dsimp only
  split
  case isTrue => exact .inl rfl
  case isFalse =>
    split
    case isTrue => exact .inr traceLost_trouble
    case isFalse =>
      split
      case isTrue => exact .inl rfl
      case isFalse =>
        split
        case h_1 => exact .inl rfl
        case h_2 =>
          split
          · exact .inl rfl
          · exact .inr traceLost_trouble

theorem traceEvent_keeps_trouble {hart ev prio b : Nat} {payload : W64} (h : s.disp.trouble.getLsbD b = true) :
    (traceEvent d hart ev prio payload s).disp.trouble.getLsbD b = true := by
  obtain same | lost := traceEvent_trouble d hart ev prio payload s
  · rw [same, h]
  · rw [lost, setBit_getLsbD (BitVec.lt_of_getLsbD h), h, Bool.true_or]

theorem entryLost_trouble (p : Nat) : (entryLost d p s).disp.trouble.getLsbD 1 = true := by
  refine traceEvent_keeps_trouble (?_ : (setBit s.disp.trouble 1).getLsbD 1 = true)
  rw [setBit_getLsbD (by decide), decide_eq_true rfl, Bool.or_true]

/-! ### Device posts and held events -/

theorem post_null (n d k : Nat) (s : State) : post n d 0 k s = s := if_pos rfl

section
variable {n k : Nat} {p : W64} (hp : p ≠ 0) (hk : k < 16)
include hp hk

/-- R424: behind a held event of its source a post is held. -/
theorem post_of_behind (hh : ((settleDomain d s).dom d).held.any (·.source == n) = true) :
    post n d p k s = holdEvent n d p k (settleDomain d s) := by
  rw [post, if_neg hp, Nat.mod_eq_of_lt hk]
  exact if_pos hh

theorem post_of_free (hh : ((settleDomain d s).dom d).held.any (·.source == n) = false)
    (hf : readyFree (settleDomain d s) d = true) : post n d p k s =
      makeReady d ⟨p, ctCycles (settleDomain d s), k, BitVec.ofNat 8 n⟩ 31 0x01 (settleDomain d s) := by
  rw [post, if_neg hp, Nat.mod_eq_of_lt hk]
  exact (if_neg (ne_true_of_eq_false hh)).trans (if_pos hf)

theorem post_of_full (hh : ((settleDomain d s).dom d).held.any (·.source == n) = false)
    (hf : readyFree (settleDomain d s) d = false) : post n d p k s =
      busyRefused d 31 p k (holdEvent n d p k (settleDomain d s)) := by
  rw [post, if_neg hp, Nat.mod_eq_of_lt hk]
  exact (if_neg (ne_true_of_eq_false hh)).trans (if_neg (ne_true_of_eq_false hf))

end

theorem exec_devicePost {n : Fin 255} {f : FnId} {p : W64} {k : Fin 16} {t : State} (h : post n.val f.val p k.val s = t) :
    exec (.devicePost n f p k) s = .next (troubleEdges s t) :=
  congrArg (ok s) h

theorem postHeld_of_free {e : HeldEvent} (hf : readyFree s d = true) (he : firstHeld (s.dom d).held = some e) :
    postHeld d s = makeReady d ⟨e.payload, ctCycles s, e.prio, BitVec.ofNat 8 e.source⟩ 31 0x0A
      (s.onDom d fun x => { x with held := x.held.erase e }) := by
  rw [postHeld, if_neg (by simp [hf]), he]
  rfl

/-! ### The decision -/

/-- R427: a hart that waits in DISP.WAIT takes the entry. -/
theorem decideOn_of_waiting {e : TaskEntry} {h : HartId}
    (hh : (allHarts.filter (eligible s d)).find? (fun h => (s.hart h).waiting.isSome) = some h) :
    decideOn d e s = traceEvent d h.val 0x04 e.prio e.payload
      ((s.onDom d fun x => { x with ready := tset [] x.ready e.prio (x.list e.prio).dropLast }).onHart h fun x =>
        { (x.setX ((s.hart h).waiting.getD 0) e.payload) with stall := .none, bind := { x.bind with runprio := e.prio } }) := by
  rw [decideOn, hh]

/-! ### The trace's registers -/

theorem onDsDomain_of_domain {wr : Bool} {offset : Nat} {f : Nat → State → State} (hv : visible s w = true)
    (hd : dsDomain s w = some d) : onDsDomain w wr offset f s = f d s := by
  simp [onDsDomain, hv, hd]

/-- What a row that accesses a per-domain register leaves, with nothing before it. -/
theorem exec_dsRow {i : Instr} {wr : Bool} {offset : Nat} {f : Nat → State → State} {t : State}
    (hi : exec i s = ok s (programOrder w wr (onDsDomain w wr offset f) s)) (hv : visible s w = true) (hb : nothingBefore s w)
    (hd : dsDomain s w = some d) (hf : f d s = t) : exec i s = .next (troubleEdges s t) := by
  rw [hi, programOrder_of_nothingBefore _ _ hb, onDsDomain_of_domain hv hd, hf, ok]

/-- The state in which a trace record is read, its single-bit error corrected. -/
def correctedFor (c : Bool) (s : State) : State := if c then correctSram s else s

theorem readTrace_eq (c : Bool) (f : State → State) : readTrace c f s = f (correctedFor c s) := rfl

theorem oldestUnread_correctedFor (c : Bool) : oldestUnread (correctedFor c s) d = oldestUnread s d := by
  cases c <;> rfl

theorem latched_correctedFor (c : Bool) : (correctedFor c s).disp.latched = s.disp.latched := by
  cases c <;> rfl

theorem readRecLo_of_unread {r : TraceRec} (hr : oldestUnread s d = some r) : readRecLo w d s =
    (s.onDisp fun u => { u with latched := (w, r.ct, r.word) :: u.latched.filter (·.1 ≠ w) }).emit (.readData r.ct) := by
  rw [readRecLo, hr]

theorem readRecHi_of_latched {a b : W64} (hl : s.disp.latched.find? (·.1 == w) = some (w, a, b)) : readRecHi w s =
    (s.onDisp fun u => { u with latched := u.latched.filter (·.1 ≠ w), trace := markRead a b u.trace }).emit (.readData b) := by
  rw [readRecHi, hl]

/-- Settles O42: a due entry's move turns on its domain's places (`moveDue_of_free`, `moveDue_of_full`), a post on what is held and
free once the places have settled, a register access on the reader's domain. -/
theorem dispatchUnit : Obligations.DispatchUnit := by
  unfold Obligations.DispatchUnit
  refine ⟨?tick, ?firstMove, ?storeError, ?wakeMoves, ?wakeHeld, ?wakeError, ?devicePost, ?holds, ?nullPost, ?heldEvent, ?waiting,
    ?traceRegisters, ?restart⟩
  case tick => exact fun s e => rfl
  case firstMove => exact fun s d e hn he => tickBoundary_of_nextDue hn he
  case storeError => exact fun s d p f => ⟨rfl, entryLost_trouble p⟩
  case wakeMoves =>
    intro s d e he hf
    exact congrArg (ok s) ((congrArg (moveDue d.val) delayError_none).trans (moveDue_of_free he hf))
  case wakeHeld =>
    intro s d e he hf
    exact congrArg (ok s) ((congrArg (moveDue d.val) delayError_none).trans (moveDue_of_full he hf))
  case wakeError => exact fun s d b => rfl
  case devicePost =>
    intro s n d p k hp
    exact ⟨fun hh => exec_devicePost (post_of_behind hp k.isLt hh), fun hh =>
      ⟨fun hf => exec_devicePost (post_of_free hp k.isLt hh hf), fun hf => exec_devicePost (post_of_full hp k.isLt hh hf)⟩⟩
  case holds => exact fun s n d p k => rfl
  case nullPost =>
    intro s n d k
    rw [exec_devicePost (post_null n.val d.val _ s), troubleEdges_self]
  case heldEvent => exact fun s d e hf he => congrArg (ok s) (postHeld_of_free hf he)
  case waiting => exact fun s d e h hh => decideOn_of_waiting hh
  case traceRegisters =>
    intro s w d c hv hb hd
    refine ⟨fun r hr => ?low, fun a b hl => ?high, ?clear⟩
    case low =>
      have unread : oldestUnread (correctedFor c s) d = some r := by rw [oldestUnread_correctedFor, hr]
      exact exec_dsRow rfl hv hb hd ((readTrace_eq c _).trans (readRecLo_of_unread unread))
    case high =>
      have latched : (correctedFor c s).disp.latched.find? (·.1 == w) = some (w, a, b) := by rw [latched_correctedFor, hl]
      exact exec_dsRow rfl hv hb hd ((readTrace_eq c _).trans (readRecHi_of_latched latched))
    case clear => exact exec_dsRow rfl hv hb hd rfl
  case restart =>
    intro s w hv hb
    exact congrArg (ok s) (pfWrite_of_seesPf restartTrace hv hb)

end Sys2Proof.Machine
end

section
/-!
PROOFS. Mailboxes: sends, acknowledgements and message writes, both ways (10 §10.4; R454-R458).
-/

namespace Sys2Proof.Machine

variable {s : State} {f : Nat} {w : Requester}

/-! ### The three operations, in each direction -/

theorem mbxSend_toPf_of_idle (hm : hasMailbox s f = true) (hp : (s.fn f).mbx.outPending = false) :
    mbxSend f true s = notifyPf (s.onFn f fun g => { g with mbx := { g.mbx with outPending := true } }) := by
  simp [mbxSend, hm, hp]

theorem mbxSend_toVf_of_idle (hm : hasMailbox s f = true) (hp : (s.fn f).mbx.inPending = false) :
    mbxSend f false s = notifyVf f (s.onFn f fun g => { g with mbx := { g.mbx with inPending := true } }) := by
  simp [mbxSend, hm, hp]

/-- R455: a further SEND has no effect. -/
theorem mbxSend_toPf_of_pending (hp : (s.fn f).mbx.outPending = true) : mbxSend f true s = s := by
  simp [mbxSend, hp]

theorem mbxSend_toVf_of_pending (hp : (s.fn f).mbx.inPending = true) : mbxSend f false s = s := by
  simp [mbxSend, hp]

theorem mbxAck_ofPf_of_pending (hm : hasMailbox s f = true) (hp : (s.fn f).mbx.inPending = true) :
    mbxAck f true s = notifyPf (s.onFn f fun g => { g with mbx := { g.mbx with inPending := false } }) := by
  simp [mbxAck, hm, hp]

theorem mbxAck_ofVf_of_pending (hm : hasMailbox s f = true) (hp : (s.fn f).mbx.outPending = true) :
    mbxAck f false s = notifyVf f (s.onFn f fun g => { g with mbx := { g.mbx with outPending := false } }) := by
  simp [mbxAck, hm, hp]

theorem mbxWrite_toPf (n : Fin 16) (p : Part) (v : W64) (hm : hasMailbox s f = true) : mbxWrite f true n p v s =
    s.onFn f fun g => { g with mbx := if g.mbx.outPending then g.mbx
                                      else { g.mbx with out := tmod 0 g.mbx.out n.val fun o => putPart p o v } } := by
  simp [mbxWrite, hm]

theorem mbxWrite_toVf (n : Fin 16) (p : Part) (v : W64) (hm : hasMailbox s f = true) : mbxWrite f false n p v s =
    s.onFn f fun g => { g with mbx := if g.mbx.inPending then g.mbx
                                      else { g.mbx with inn := tmod 0 g.mbx.inn n.val fun o => putPart p o v } } := by
  simp [mbxWrite, hm]

/-! ### The rows -/

theorem exec_mbxVfSend_of_visible {f : FnId} (hv : visible s (.fn f) = true) : exec (.mbxVfSend f) s = .next (mbxSend f.val true s) :=
  congrArg Host.Outcome.next (if_pos hv)

theorem exec_mbxVfSend_of_pending {f : FnId} (hp : (s.fn f.val).mbx.outPending = true) : exec (.mbxVfSend f) s = .next s :=
  congrArg Host.Outcome.next (by rw [mbxSend_toPf_of_pending hp, ite_self])

theorem exec_mbxVfAck_of_visible {f : FnId} (hv : visible s (.fn f) = true) : exec (.mbxVfAck f) s = .next (mbxAck f.val true s) :=
  congrArg Host.Outcome.next (if_pos hv)

theorem exec_mbxPfSend_of_seesPf (hv : seesPf s w = true) (hb : nothingBefore s w) :
    exec (.mbxPfSend w) s = ok s (mbxSend s.host.mbxSel.toNat false s) :=
  congrArg (ok s) (pfWrite_of_seesPf _ hv hb)

theorem exec_mbxPfSend_of_pending (hb : nothingBefore s w) (hp : (s.fn s.host.mbxSel.toNat).mbx.inPending = true) :
    exec (.mbxPfSend w) s = ok s s :=
  congrArg (ok s) (pfWrite_of_unchanged (mbxSend_toVf_of_pending hp) hb)

theorem exec_mbxPfAck_of_seesPf (hv : seesPf s w = true) (hb : nothingBefore s w) :
    exec (.mbxPfAck w) s = ok s (mbxAck s.host.mbxSel.toNat false s) :=
  congrArg (ok s) (pfWrite_of_seesPf _ hv hb)

section
variable {n : Fin 16} {p : Part} {v : W64}

/-- A VF writes its own mailbox. -/
theorem exec_mbxMessageWrite_of_vf {f : FnId} (hf : f.val ≠ 0) (hv : visible s (.fn f) = true) :
    exec (.mbxMessageWrite (.fn f) n p v) s = ok s (mbxWrite f.val true n p v s) :=
  congrArg (ok s) ((if_neg (by simp [hv])).trans (if_neg hf))

/-- The PF and the harts write the mailbox that MBX_SEL shows. -/
theorem exec_mbxMessageWrite_of_pf (hw : ∀ f : FnId, w = .fn f → f.val = 0) (hv : visible s w = true) (hb : nothingBefore s w) :
    exec (.mbxMessageWrite w n p v) s = ok s (mbxWrite s.host.mbxSel.toNat false n p v s) := by
  refine congrArg (ok s) ((programOrder_of_nothingBefore _ _ hb).trans ((if_neg (by simp [hv])).trans ?_))
  cases w with
  | fn f => exact if_pos (hw f rfl)
  | hart h => rfl

end

/-- Settles O13: each row is its operation where its writer reaches the mailbox, and the operation turns on PENDING of its
direction. -/
theorem mailboxes : Obligations.Mailboxes := by
  unfold Obligations.Mailboxes
  refine ⟨?vfSend, ?vfSendAgain, ?pfSendAgain, ?vfAck, ?pfSend, ?pfAck, ?vfWrite, ?pfWrite⟩
  case vfSend =>
    intro s f hv hm hp
    rw [exec_mbxVfSend_of_visible hv, mbxSend_toPf_of_idle hm hp]
  case vfSendAgain => exact fun s f hp => exec_mbxVfSend_of_pending hp
  case pfSendAgain =>
    intro s w hb hp
    rw [exec_mbxPfSend_of_pending hb hp, ok, troubleEdges_self]
  case vfAck =>
    intro s f hv hm hp
    rw [exec_mbxVfAck_of_visible hv, mbxAck_ofPf_of_pending hm hp]
  case pfSend =>
    intro s w f hv hb hm hp
    rw [exec_mbxPfSend_of_seesPf hv hb, mbxSend_toVf_of_idle hm hp, ok]
  case pfAck =>
    intro s w f hv hb hm hp
    rw [exec_mbxPfAck_of_seesPf hv hb, mbxAck_ofVf_of_pending hm hp, ok]
  case vfWrite =>
    intro s f n p v hf hv hm
    rw [exec_mbxMessageWrite_of_vf hf hv, mbxWrite_toPf n p v hm, ok]
  case pfWrite =>
    intro s w n p v hw hv hb hm
    rw [exec_mbxMessageWrite_of_pf hw hv hb, mbxWrite_toVf n p v hm, ok]

end Sys2Proof.Machine
end

section
/-!
PROOFS. The VF lifecycle: VF Enable, NumVFs, function resets and the end of mooring (10 §10.5; R156, R448, R460-R471).
-/

namespace Sys2Proof.Machine

variable {s : State}

/-! ### Configuration writes -/

theorem configWrite_of_tableUp (f : Nat) (g : State → State) (ht : tableUp s = true) : configWrite f g s = g s :=
  if_neg (by simp [ht])

/-- R156: before the light table is applied the answer is CRS. -/
theorem configWrite_of_crs (f : Nat) (g : State → State) (ht : tableUp s = false) (hd : s.pwr.stage ≠ .daymark) :
    configWrite f g s = s.emit (.config f true) :=
  if_pos (by simp [ht, hd])

/-! ### VF Enable and NumVFs -/

theorem vfEnableWrite_of_set (ht : tableUp s = true) (he : s.host.vfEnable = false) : vfEnableWrite true s =
    (vfsUpTo s.host.numVfs).foldl (fun t f => if (t.fn f).vf = .disabled then t.onFn f fun g => { g with vf := .active } else t)
      (s.onHost fun h => { h with vfEnable := true }) := by
  simp [vfEnableWrite, configOpen, ht, he]

theorem vfEnableWrite_of_clear (ht : tableUp s = true) (he : s.host.vfEnable = true) : vfEnableWrite false s =
    (vfsUpTo s.lt.vfCount).foldl (fun t f => leaveActive f .vfDisable t) (s.onHost fun h => { h with vfEnable := false }) := by
  simp [vfEnableWrite, configOpen, ht, he]

theorem numVfsWrite_of_taken {n : Nat} (ht : tableUp s = true) (he : s.host.vfEnable = false) (hn : n ≤ s.lt.vfCount) :
    numVfsWrite n s = (vfsUpTo s.lt.vfCount).foldl (fun t f => if n < f then leaveActive f .vfDisable t else t)
      (s.onHost fun h => { h with numVfs := n }) :=
  if_neg (by simp [configOpen, ht, he, hn])

/-- R448: above TotalVFs, or while VF Enable is 1, NumVFs keeps its value. -/
theorem numVfsWrite_of_barred {n : Nat} (h : s.lt.vfCount < n ∨ s.host.vfEnable = true) : numVfsWrite n s = s :=
  if_pos (by simpa only [Bool.or_eq_true, decide_eq_true_eq] using h.elim .inr fun he => .inl (.inr he))

/-! ### Function resets and the end of mooring -/

theorem vfFlr_of_exists {f : Nat} (hf : f ≠ 0) (hx : s.lt.exists f = true) :
    vfFlr f s = (leaveActive f .flr (functionReset f s)).onFn f fun g => { g with flrBusy := true } :=
  if_neg (by simp [hf, hx])

/-- R466: an enabled VF that the FLR finds DISABLED becomes ACTIVE unless an offer for it is outstanding. -/
theorem vfFlrComplete_of_enabled {f : Nat} (hb : (s.fn f).flrBusy = true) (he : s.host.vfEnable = true) (hf : f ≤ s.host.numVfs) :
    vfFlrComplete f s = s.onFn f fun g =>
      { g with flrBusy := false, vf := if g.vf = .disabled ∧ g.offer = none then .active else g.vf } := by
  simp [vfFlrComplete, hb, he, hf]

theorem forAll_lt {α : Type} {l : List α} {f : α → State → State} (h : ∀ a t, (f a t).lt = t.lt) : (forAll l f s).lt = s.lt :=
  List.foldlRecOn (motive := fun t => t.lt = s.lt) l _ rfl fun t kept a _ => (h a t).trans kept

/-- A FUNCTION reset changes nothing of the light table, so TotalVFs stays. -/
theorem functionReset_lt (f : Nat) : (functionReset f s).lt = s.lt := by
  refine forAll_lt fun h t => ?_
  split
  · exact onHart_lt _ _ _
  · rfl

theorem pfFlr_eq : pfFlr s = (vfsUpTo s.lt.vfCount).foldl (fun t f => leaveActive f .pfFlr t)
    ((functionReset 0 s).onHost fun h => { h with vfEnable := false, numVfs := 0, ariHierarchy := false }) := by
  rw [pfFlr, onHost_lt, functionReset_lt]

theorem vfMoored_of_done {f : Nat} (hv : (s.fn f).vf = .mooring) (hd : moorDone s f = true) :
    vfMoored f s = enterMoored f (s.fn f).cause (s.lt.ringsOf f) s :=
  if_pos ⟨hv, hd⟩

/-! ### The rows -/

section
variable (ht : tableUp s = true)
include ht

theorem exec_vfEnableWrite_of_tableUp (b : Bool) : exec (.vfEnableWrite b) s = ok s (vfEnableWrite b s) :=
  congrArg (ok s) (configWrite_of_tableUp _ _ ht)

theorem exec_numvfsWrite_of_tableUp (n : BitVec 16) : exec (.numvfsWrite n) s = ok s (numVfsWrite n.toNat s) :=
  congrArg (ok s) (configWrite_of_tableUp _ _ ht)

theorem exec_vfFlr_of_tableUp (f : FnId) : exec (.vfFlr f) s = ok s (vfFlr f.val s) :=
  congrArg (ok s) (configWrite_of_tableUp _ _ ht)

theorem exec_pfFlr_of_tableUp : exec .pfFlr s = ok s (pfFlr s) :=
  congrArg (ok s) (configWrite_of_tableUp _ _ ht)

end

/-- Settles O14: the rows of the configuration space turn on the light table (`configWrite_of_tableUp`, `configWrite_of_crs`), and
each transition on its own guard. -/
theorem vfLifecycle : Obligations.VfLifecycle := by
  unfold Obligations.VfLifecycle
  refine ⟨?set, ?clear, ?numVfs, ?barred, ?crs, ?flr, ?flrComplete, ?pfFlr, ?moored⟩
  case set =>
    intro s ht he
    rw [exec_vfEnableWrite_of_tableUp ht, vfEnableWrite_of_set ht he, ok]
  case clear =>
    intro s ht he
    rw [exec_vfEnableWrite_of_tableUp ht, vfEnableWrite_of_clear ht he, ok]
  case numVfs =>
    intro s n ht he hn
    rw [exec_numvfsWrite_of_tableUp ht, numVfsWrite_of_taken ht he hn, ok]
  case barred =>
    intro s n ht h
    rw [exec_numvfsWrite_of_tableUp ht, numVfsWrite_of_barred h, ok, troubleEdges_self]
  case crs =>
    intro s b n f ht hd
    have crs (k : Nat) (g : State → State) : ok s (configWrite k g s) = ok s (s.emit (.config k true)) :=
      congrArg (ok s) (configWrite_of_crs k g ht hd)
    exact ⟨crs 0 (vfEnableWrite b), crs 0 (numVfsWrite n.toNat), crs f.val (vfFlr f.val), crs 0 pfFlr⟩
  case flr =>
    intro s f ht hf hx
    rw [exec_vfFlr_of_tableUp ht, vfFlr_of_exists hf hx, ok]
  case flrComplete => exact fun s f hb he hf => congrArg Host.Outcome.next (vfFlrComplete_of_enabled hb he hf)
  case pfFlr =>
    intro s ht
    rw [exec_pfFlr_of_tableUp ht, pfFlr_eq, ok]
  case moored => exact fun s f hv hd => congrArg Host.Outcome.next (vfMoored_of_done hv hd)

end Sys2Proof.Machine
end

section
/-!
PROOFS. The dirty-page log: the switch, the base registers, a page's bit and the overflow (10 §10.7; R476-R481).
-/

namespace Sys2Proof.Machine

variable {s : State} {f page : Nat} {w : Requester} {p : Part} {v : W64}

/-! ### A logged page -/

theorem logPage_of_below (hl : page * 4096 < (s.fn f).dirty.limit.toNat) : logPage f page s = s.onHost fun h =>
    { h with hostMem := bset h.hostMem ((s.fn f).dirty.base + page / 8)
                          (setBit (bget h.hostMem ((s.fn f).dirty.base + page / 8)) (page % 8)) } :=
  if_neg (by omega)

/-- R479: at or above FN_DIRTY_LIMIT no bit is set. -/
theorem logPage_of_above (hl : (s.fn f).dirty.limit.toNat ≤ page * 4096) :
    logPage f page s = s.onFn f fun g => { g with dirty := { g.dirty with overflow := true } } :=
  if_pos (by omega)

/-! ### The registers -/

/-- R481: of the two bases only the inactive bitmap's takes the write. -/
theorem dirtyBase_false : dirtyBase f false p v s = s.onFn f fun g =>
    if g.dirty.active then { g with dirty := { g.dirty with base0 := putPart p g.dirty.base0 v &&& ~~~0xFFF#64 } } else g := by
  refine congrArg (s.onFn f) (funext fun g => ?_)
  cases g.dirty.active <;> rfl

theorem dirtyBase_true : dirtyBase f true p v s = s.onFn f fun g =>
    if g.dirty.active then g else { g with dirty := { g.dirty with base1 := putPart p g.dirty.base1 v &&& ~~~0xFFF#64 } } := by
  refine congrArg (s.onFn f) (funext fun g => ?_)
  cases g.dirty.active <;> rfl

theorem exec_dirtySwitch_of_seesPf (hv : seesPf s w = true) (hb : nothingBefore s w) :
    exec (.dirtySwitch w) s = ok s (dirtySwitch s.host.dirtySel.toNat s) :=
  congrArg (ok s) (pfWrite_of_seesPf _ hv hb)

theorem exec_fnDirtyBaseWrite_of_seesPf (b : Bool) (hv : seesPf s w = true) (hb : nothingBefore s w) :
    exec (.fnDirtyBaseWrite w b p v) s = ok s (dirtyBase s.host.dirtySel.toNat b p v s) :=
  congrArg (ok s) (pfWrite_of_seesPf _ hv hb)

/-- Settles O17: a base write turns on which bitmap is active, a logged page on FN_DIRTY_LIMIT, and its bit is one byte's write. -/
theorem dirtyLogging : Obligations.DirtyLogging := by
  unfold Obligations.DirtyLogging
  refine ⟨?switch, ?base0, ?base1, ?below, ?above⟩
  case switch => exact fun s w hv hb => exec_dirtySwitch_of_seesPf hv hb
  case base0 =>
    intro s w p v hv hb
    rw [exec_fnDirtyBaseWrite_of_seesPf false hv hb, dirtyBase_false, ok]
  case base1 =>
    intro s w p v hv hb
    rw [exec_fnDirtyBaseWrite_of_seesPf true hv hb, dirtyBase_true, ok]
  case below =>
    intro s f page hl hwf
    rw [logPage_of_below hl]
    exact ⟨bget_bset_same hwf, fun b hb => bget_bset_other hb⟩
  case above => exact fun s f page hl => logPage_of_above hl

end Sys2Proof.Machine
end

section
/-!
PROOFS. The seed CSR: its two states, and its read in M-mode and below (05 §5.2, 13 §13.5; R191, R609).
-/

namespace Sys2Proof.Machine

variable {s : State} {h : HartId}

/-! ### An instruction of a hart that executes -/

theorem instr_of_runs {f : State → State} (hr : (s.hart h).runs = true) : instr h f s = f (breakLoop h s) := if_pos hr

theorem breakLoop_priv (w : TablesInv s) (i : HartId) : ((breakLoop h s).hart i).priv = (s.hart i).priv := by
  obtain ⟨_, _, _, e⟩ := breakLoop_hart (h := h) w.1 i
  rw [e]

theorem breakLoop_cx : (breakLoop h s).cx = s.cx := by rw [breakLoop_rest]

/-! ### The value read -/

theorem seedValue_of_drbgDown (hd : s.cx.drbgOk = false) : seedValue s = 0xC0000000#64 := by
  rw [seedValue, hd, if_neg Bool.false_ne_true]

theorem seedValue_of_drbgOk (hd : s.cx.drbgOk = true) :
    seedValue s = 0x80000000#64 ||| (Config.freeBits s.free 16).zeroExtend 64 := if_pos hd

/-! ### The read -/

/-- R191: in M-mode the read retires with the seed in `rd`, and takes one free value. -/
theorem exec_seedCsrRead_of_machine {rd : Fin 32} {insn : W32} (w : TablesInv s) (hr : (s.hart h).runs = true)
    (hm : (s.hart h).priv = .m) :
    exec (.seedCsrRead h rd insn) s = .next (retire h ({ breakLoop h s with free := (breakLoop h s).free + 1 }.onHart h
      fun x => x.setX rd.val (seedValue (breakLoop h s)))) :=
  congrArg Host.Outcome.next ((instr_of_runs hr).trans (if_pos ((breakLoop_priv w h).trans hm)))

theorem exec_seedCsrRead_of_lower {rd : Fin 32} {insn : W32} (w : TablesInv s) (hr : (s.hart h).runs = true)
    (hm : (s.hart h).priv ≠ .m) : exec (.seedCsrRead h rd insn) s = .next (illegal h insn (breakLoop h s)) :=
  congrArg Host.Outcome.next ((instr_of_runs hr).trans (if_neg (by rwa [breakLoop_priv w])))

/-- Settles O26: the loop that the read breaks leaves the mode and DRBG_OK, so the mode splits the read and DRBG_OK its value. -/
theorem seedCsr : Obligations.SeedCsr := by
  unfold Obligations.SeedCsr
  intro s h rd insn w hr
  refine ⟨?dead, ?es16, ?lower⟩
  case dead =>
    intro hm hd
    have hv : seedValue (breakLoop h s) = 0xC0000000#64 := seedValue_of_drbgDown (by rwa [breakLoop_cx])
    rw [exec_seedCsrRead_of_machine w hr hm, hv]
  case es16 =>
    intro hm hd
    have hv := seedValue_of_drbgOk (s := breakLoop h s) (by rwa [breakLoop_cx])
    exact ⟨_, by rw [exec_seedCsrRead_of_machine w hr hm, hv]⟩
  case lower => exact exec_seedCsrRead_of_lower w hr

end Sys2Proof.Machine
end

section
/-!
PROOFS. Lane frames out of order: a frame beyond the next in sequence, and one of another epoch (16 §16.4; R756, R902).
-/

namespace Sys2Proof.Machine

variable {s t : State} {f : Frame} {bs : List Block}

/-! ### What a sent frame changes -/

/-- A command that leaves the trouble words and the interrupt levels as they were raises nothing new. -/
theorem troubleEdges_of_sameTrouble (hw : troubleWords t = troubleWords s) (hl : levelSources t = levelSources s) :
    troubleEdges s t = t := by
  have note : noteRaised s t = noteRaised t t := by rw [noteRaised, if_pos hw, noteRaised_self]
  rw [troubleEdges, ← hl, note]
  exact troubleEdges_self t

theorem troubleEdges_sendFrame (n epoch seq type flags : Nat) (payload : List Byte) :
    troubleEdges s (sendFrame n epoch seq type flags payload s) = sendFrame n epoch seq type flags payload s :=
  troubleEdges_of_sameTrouble rfl rfl

/-- R757: the ACK's payload is CREDIT, NAK and zeros. -/
theorem sendAck_nak {n : Nat} (hu : (s.lane n).st = .up) (hc : (s.lane n).rxCurrent = true) : sendAck n true s =
    sendFrame n (s.lane n).rxEpoch (s.lane n).rxSeq.toNat 0x10 0 (bytesBE 1 (s.lane n).room ++ [1, 0, 0, 0, 0, 0, 0]) s := by
  have up_current : ((s.lane n).rxCurrent && decide ((s.lane n).st = .up)) = true := by simp [hu, hc]
  have nak_and_zeros : bytesBE 1 (bit true) ++ [0, 0] ++ bytesBE 4 0 = [1, 0, 0, 0, 0, 0, 0] := by decide
  rw [sendAck, if_pos up_current, ← nak_and_zeros]
  simp only [List.append_assoc]

/-! ### A sequenced frame that is not the next -/

/-- A frame beyond the next in sequence is neither the next one nor one that was delivered before. -/
theorem receiveSequenced_of_beyond {n : Nat} (hc : (s.lane n).rxCurrent = true) (he : f.epoch = (s.lane n).rxEpoch)
    (hlo : 1 < seqDist (s.lane n).rxSeq f.seq) (hhi : seqDist (s.lane n).rxSeq f.seq < 2 ^ 31) :
    receiveSequenced n f s = sendAck n true s := by
  have current : ¬ (!(s.lane n).rxCurrent || decide (f.epoch ≠ (s.lane n).rxEpoch)) = true := by simp [hc, he]
  have not_next : seqDist (s.lane n).rxSeq f.seq ≠ 1 := by omega
  have not_repeated : ¬ (seqDist (s.lane n).rxSeq f.seq = 0 ∨ 2 ^ 31 ≤ seqDist (s.lane n).rxSeq f.seq) := by omega
  exact (if_neg current).trans ((if_neg not_next).trans (if_neg not_repeated))

theorem receiveSequenced_of_otherEpoch {n : Nat} (he : (s.lane n).rxCurrent = true → f.epoch ≠ (s.lane n).rxEpoch) :
    receiveSequenced n f s = s := by
  have other : (!(s.lane n).rxCurrent || decide (f.epoch ≠ (s.lane n).rxEpoch)) = true := by
    cases hc : (s.lane n).rxCurrent with
    | false => rfl
    | true => exact decide_eq_true (he hc)
  exact if_pos other

/-! ### The commands that receive one -/

theorem onFrame_of_taken {n : Nat} {p : Nat → Bool} (g : Frame → State → State) (hu : (s.lane n).st = .up)
    (hf : parseFrame bs = .good f) (hp : p f.type = true) : onFrame n bs p g s = g f s := by
  rw [onFrame, if_neg (not_not_intro hu), hf]
  exact if_pos hp

theorem exec_dataFrameReceived_of_good {n : SiteId} (hu : (s.lane n.val).st = .up) (hf : parseFrame bs = .good f)
    (ht : 0x40 ≤ f.type) : exec (.dataFrameReceived n bs) s = .next (troubleEdges s (receiveSequenced n.val f s)) :=
  congrArg (ok s) (onFrame_of_taken _ hu hf (decide_eq_true ht))

theorem exec_voidFrameReceived_of_good {n : SiteId} (hu : (s.lane n.val).st = .up) (hf : parseFrame bs = .good f)
    (ht : f.type = 0x01) :
    exec (.voidFrameReceived (.site n) bs) s = .next (troubleEdges s (receiveSequenced n.val f s)) :=
  congrArg (ok s) (onFrame_of_taken _ hu hf (beq_iff_eq.mpr ht))

/-- Settles O48: a DATA and a VOID frame are received alike, the frame's place turns on its epoch and its distance, and an ACK
raises no trouble. -/
theorem framesOutOfOrder : Obligations.FramesOutOfOrder := by
  unfold Obligations.FramesOutOfOrder
  intro s n bs f i hu hf hi
  have received : exec i s = .next (troubleEdges s (receiveSequenced n.val f s)) := by
    obtain ⟨rfl, ht⟩ | ⟨rfl, ht⟩ := hi
    · exact exec_dataFrameReceived_of_good hu hf ht
    · exact exec_voidFrameReceived_of_good hu hf ht
  constructor
  case left =>
    intro hc he hlo hhi
    rw [received, receiveSequenced_of_beyond hc he hlo hhi, sendAck_nak hu hc, troubleEdges_sendFrame]
  case right =>
    intro he
    rw [received, receiveSequenced_of_otherEpoch he, troubleEdges_self]

end Sys2Proof.Machine
end

section
/-!
PROOFS. UPD_ABORT with and without an open transfer (17 §17.6; R818).
-/

namespace Sys2Proof.Machine

variable {s : State} {c : CmdRef} {k : Cmd}

/-! ### What an abort does -/

/-- A transfer that is given up leaves its target EMPTY. -/
theorem abandon_of_open {x : Transfer} (hx : s.up.xfer = some x) :
    abandon s = s.onUp fun p => { (p.onSlot x.target fun r => { r with st := .empty }) with xfer := none } := by
  rw [abandon, hx]

theorem abortTransfer_of_open {x : Transfer} (hx : s.up.xfer = some x) : abortTransfer s =
    (s.onUp fun p => { (p.onSlot x.target fun r => { r with st := .empty }) with xfer := none }, statusOf 0) := by
  have isOpen : s.up.xfer.isSome = true := by rw [hx, Option.isSome_some]
  rw [abortTransfer, if_pos isOpen, abandon_of_open hx]

theorem abortTransfer_of_none (hx : s.up.xfer = none) : abortTransfer s = (s, statusOf 0x111) := by
  have notOpen : ¬ s.up.xfer.isSome = true := by simp [hx]
  rw [abortTransfer, if_neg notOpen]

/-! ### The command -/

/-- The transfer that is open when a command starts is still open when the command acts. -/
@[simp] theorem startCmd_up {r e n : Nat} : (startCmd r k e n s).up = s.up := by
  obtain ⟨g, l, h⟩ := startCmd_eq (s := s) (k := k) (e := e) (n := n) (r := r)
  rw [h]

/-- An update command that starts with its fields in order has its effect in one step, on engine 5. -/
theorem updCommand_starts {op : Nat} {f : Cmd → RingIdent → State → State × Result} (h : Starts c (isOpcode 1 op) k s)
    (hf : updFieldsOk k.first = true) :
    updCommand c op f s = ended c k (f k (s.lt.ident c.ring) (startCmd c.ring k 5 0 s)) := by
  rw [updCommand, runAtOnce_starts h, if_pos hf]

theorem exec_updAbort_starts (h : Starts c (isOpcode 1 0x34) k s) (hf : updFieldsOk k.first = true) :
    exec (.updAbort c) s = .next (troubleEdges s (ended c k (abortTransfer (startCmd c.ring k 5 0 s)))) :=
  congrArg (ok s) (updCommand_starts h hf)

/-- Settles O50: the start leaves the transfer as it is (`startCmd_up`), and the abort turns on whether one is open. -/
theorem updateAbort : Obligations.UpdateAbort := by
  unfold Obligations.UpdateAbort
  intro s c k hs hf u
  have transfer_kept : u.up.xfer = s.up.xfer := congrArg Update.xfer startCmd_up
  rw [exec_updAbort_starts hs hf]
  constructor
  case left =>
    intro x hx
    rw [abortTransfer_of_open (transfer_kept.trans hx)]
  case right =>
    intro hx
    rw [abortTransfer_of_none (transfer_kept.trans hx)]

end Sys2Proof.Machine
end

section
/-!
PROOFS. What every command and every step keep: the queue, the canonical form of the memories and the order of the tables, and what
only grows (07 §7.5, 12 §12.1, 17 §17.1, §17.5; R544, R806, R810, R811, R855).
-/

namespace Sys2Proof.Machine

/-- Every command keeps what `Goes` says, by the law of its row. -/
theorem goes_exec {s t : State} : ∀ i : Instr, exec i s = .next t → Goes s t
  | .feedBecomesValid f v, q => goes_execFeedBecomesValid f v q
  | .feedBecomesInvalid f v, q => goes_execFeedBecomesInvalid f v q
  | .feedOvervoltage f v, q => goes_execFeedOvervoltage f v q
  | .feedReversed f v, q => goes_execFeedReversed f v q
  | .feedShorted f, q => goes_execFeedShorted f q
  | .powerCapInterval deciWatts, q => goes_execPowerCapInterval deciWatts q
  | .holdupCharged, q => goes_execHoldupCharged q
  | .powerFailCommit, q => goes_execPowerFailCommit q
  | .powerOnReset holdupLow, q => goes_execPowerOnReset holdupLow q
  | .polRailsGood modId daymarkHigh, q => goes_execPolRailsGood modId daymarkHigh q
  | .thermalHoldRelease temp, q => goes_execThermalHoldRelease temp q
  | .romStart entropyOk, q => goes_execRomStart entropyOk q
  | .lightTableCheck slot readError, q => goes_execLightTableCheck slot readError q
  | .dramTrained, q => goes_execDramTrained q
  | .pcieLinkTrained, q => goes_execPcieLinkTrained q
  | .logbookReplay, q => goes_execLogbookReplay q
  | .ringService, q => goes_execRingService q
  | .bootSlowTimeout, q => goes_execBootSlowTimeout q
  | .polFault, q => goes_execPolFault q
  | .polLockoutEnd, q => goes_execPolLockoutEnd q
  | .modResetPin, q => goes_execModResetPin q
  | .psModuleReset who value, q => goes_execPsModuleReset who value q
  | .moduleResetRelease modId daymarkHigh, q => goes_execModuleResetRelease modId daymarkHigh q
  | .perstAssertion, q => goes_execPerstAssertion q
  | .hotReset, q => goes_execHotReset q
  | .linkLoss, q => goes_execLinkLoss q
  | .perstDeassertion, q => goes_execPerstDeassertion q
  | .configRequest f op, q => goes_execConfigRequest f op q
  | .psHartReset who mask, q => goes_execPsHartReset who mask q
  | .debugHartreset h, q => goes_execDebugHartreset h q
  | .debugNdmreset, q => goes_execDebugNdmreset q
  | .hartResetComplete h, q => goes_execHartResetComplete h q
  | .thermWarnAssert temp, q => goes_execThermWarnAssert temp q
  | .thermWarnRelease temp, q => goes_execThermWarnRelease temp q
  | .throttleStep temp, q => goes_execThrottleStep temp q
  | .dieTempShutdown temp, q => goes_execDieTempShutdown temp q
  | .tcbFrame fr, q => goes_execTcbFrame fr q
  | .tcbCoastLimit, q => goes_execTcbCoastLimit q
  | .tcbAlignmentChange aligned inverted, q => goes_execTcbAlignmentChange aligned inverted q
  | .tcbRefToleranceChange within, q => goes_execTcbRefToleranceChange within q
  | .alarmFire f a, q => goes_execAlarmFire f a q
  | .ctAlarmCmpWrite who a part value, q => goes_execCtAlarmCmpWrite who a part value q
  | .ctAlarmCtrlWrite who a value, q => goes_execCtAlarmCtrlWrite who a value q
  | .reg64LowHalfRead who offset, q => goes_execReg64LowHalfRead who offset q
  | .load h rd signed acc, q => goes_execLoad h rd signed acc q
  | .store h acc value, q => goes_execStore h acc value q
  | .storeBufferDrain h, q => goes_execStoreBufferDrain h q
  | .combiningBufferDrain h line, q => goes_execCombiningBufferDrain h line q
  | .amo h rd op acc value aq rl, q => goes_execAmo h rd op acc value aq rl q
  | .lr h rd acc aq rl constrained, q => goes_execLr h rd acc aq rl constrained q
  | .sc h rd acc value aq rl, q => goes_execSc h rd acc value aq rl q
  | .lrDeferralTimeout h, q => goes_execLrDeferralTimeout h q
  | .fence h pred succ, q => goes_execFence h pred succ q
  | .fenceTso h, q => goes_execFenceTso h q
  | .fenceI h, q => goes_execFenceI h q
  | .cboClean h acc, q => goes_execCboClean h acc q
  | .cboFlush h acc, q => goes_execCboFlush h acc q
  | .cboInval h acc, q => goes_execCboInval h acc q
  | .cboZero h acc, q => goes_execCboZero h acc q
  | .prefetch h kind acc, q => goes_execPrefetch h kind acc q
  | .predFlush h word, q => goes_execPredFlush h word q
  | .predBar h word, q => goes_execPredBar h word q
  | .pause h, q => goes_execPause h q
  | .wfi h, q => goes_execWfi h q
  | .misaWrite h value insn, q => goes_execMisaWrite h value insn q
  | .trapVectorWrite h reg value insn, q => goes_execTrapVectorWrite h reg value insn q
  | .satpWrite h reg value insn, q => goes_execSatpWrite h reg value insn q
  | .pmpcfgWrite h entry value insn, q => goes_execPmpcfgWrite h entry value insn q
  | .mhpmeventWrite h n value insn, q => goes_execMhpmeventWrite h n value insn q
  | .counterWrite h c value insn, q => goes_execCounterWrite h c value insn q
  | .skulctlWrite h value insn, q => goes_execSkulctlWrite h value insn q
  | .hkulctlWrite h value insn, q => goes_execHkulctlWrite h value insn q
  | .seedCsrRead h rd insn, q => goes_execSeedCsrRead h rd insn q
  | .rdShared core line chk, q => goes_execRdShared core line chk q
  | .rdUnique core line chk, q => goes_execRdUnique core line chk q
  | .upgrade core line, q => goes_execUpgrade core line q
  | .wbDirty core line, q => goes_execWbDirty core line q
  | .evictClean core line, q => goes_execEvictClean core line q
  | .devRead who line chk, q => goes_execDevRead who line chk q
  | .devWrite who line data mask, q => goes_execDevWrite who line data mask q
  | .snpShared core line, q => goes_execSnpShared core line q
  | .snpUnique core line, q => goes_execSnpUnique core line q
  | .snpInv core line, q => goes_execSnpInv core line q
  | .data core line, q => goes_execData core line q
  | .dataDirty core line, q => goes_execDataDirty core line q
  | .ack core line, q => goes_execAck core line q
  | .retry who slice, q => goes_execRetry who slice q
  | .trackerRelease slice line, q => goes_execTrackerRelease slice line q
  | .creditGrant who slice, q => goes_execCreditGrant who slice q
  | .patrolScrub channel chk, q => goes_execPatrolScrub channel chk q
  | .dramZeroing, q => goes_execDramZeroing q
  | .pmcClear h, q => goes_execPmcClear h q
  | .pmcFreeze h freeze, q => goes_execPmcFreeze h freeze q
  | .kenter h word, q => goes_execKenter h word q
  | .kexit h word, q => goes_execKexit h word q
  | .kresume h word, q => goes_execKresume h word q
  | .asyncExit h cause, q => goes_execAsyncExit h cause q
  | .enclaveBuild h e, q => goes_execEnclaveBuild h e q
  | .enclaveSeal h e, q => goes_execEnclaveSeal h e q
  | .enclaveDestroy h e, q => goes_execEnclaveDestroy h e q
  | .kpRangeWrite h n base word1, q => goes_execKpRangeWrite h n base word1 q
  | .handoverRequest h value, q => goes_execHandoverRequest h value q
  | .handoverBlockReset block, q => goes_execHandoverBlockReset block q
  | .kpWdKick h value, q => goes_execKpWdKick h value q
  | .watchdogPreExpiry, q => goes_execWatchdogPreExpiry q
  | .watchdogExpiryHard, q => goes_execWatchdogExpiryHard q
  | .watchdogExpirySoft, q => goes_execWatchdogExpirySoft q
  | .kpVlogPop h value, q => goes_execKpVlogPop h value q
  | .psGateWrite who value, q => goes_execPsGateWrite who value q
  | .gateTakesEffect block, q => goes_execGateTakesEffect block q
  | .psIdleHintWrite who value, q => goes_execPsIdleHintWrite who value q
  | .idleHintUngate unit, q => goes_execIdleHintUngate unit q
  | .kdbgChal, q => goes_execKdbgChal q
  | .kdbgResp resp, q => goes_execKdbgResp resp q
  | .kdbgStat shiftIn, q => goes_execKdbgStat shiftIn q
  | .dmiAccess op, q => goes_execDmiAccess op q
  | .dispNext h word sram, q => goes_execDispNext h word sram q
  | .dispEnq h word, q => goes_execDispEnq h word q
  | .dispWait h word sram, q => goes_execDispWait h word sram q
  | .dispYield h word sram, q => goes_execDispYield h word sram q
  | .hkuldispWrite h value insn, q => goes_execHkuldispWrite h value insn q
  | .tickBoundary sram, q => goes_execTickBoundary sram q
  | .wakeHeldMove d sram, q => goes_execWakeHeldMove d sram q
  | .devicePost source d payload prio, q => goes_execDevicePost source d payload prio q
  | .heldEventPost d, q => goes_execHeldEventPost d q
  | .dsTraceRecLoRead who corrected, q => goes_execDsTraceRecLoRead who corrected q
  | .dsTraceRecHiRead who corrected, q => goes_execDsTraceRecHiRead who corrected q
  | .traceClrOvf who, q => goes_execTraceClrOvf who q
  | .traceRestart who, q => goes_execTraceRestart who q
  | .msixDeliverPending f v, q => goes_execMsixDeliverPending f v q
  | .mbxVfSend f, q => goes_execMbxVfSend f q
  | .mbxVfAck f, q => goes_execMbxVfAck f q
  | .mbxPfSend who, q => goes_execMbxPfSend who q
  | .mbxPfAck who, q => goes_execMbxPfAck who q
  | .mbxMessageWrite who n part value, q => goes_execMbxMessageWrite who n part value q
  | .vfEnableWrite enable, q => goes_execVfEnableWrite enable q
  | .numvfsWrite n, q => goes_execNumvfsWrite n q
  | .vfFlr f, q => goes_execVfFlr f q
  | .vfFlrComplete f, q => goes_execVfFlrComplete f q
  | .pfFlr, q => goes_execPfFlr q
  | .vfMoored f, q => goes_execVfMoored f q
  | .custodyWait c, q => goes_execCustodyWait c q
  | .vfQuiesce c, q => goes_execVfQuiesce c q
  | .vfDisposeRelease c, q => goes_execVfDisposeRelease c q
  | .vfDisposeReset c, q => goes_execVfDisposeReset c q
  | .vfImportOffer c, q => goes_execVfImportOffer c q
  | .vfExport c, q => goes_execVfExport c q
  | .vfImport c, q => goes_execVfImport c q
  | .vfExportCommit c, q => goes_execVfExportCommit c q
  | .vfImportCommit c, q => goes_execVfImportCommit c q
  | .vfExportAbort c, q => goes_execVfExportAbort c q
  | .vfImportDiscard c, q => goes_execVfImportDiscard c q
  | .dirtySwitch who, q => goes_execDirtySwitch who q
  | .fnDirtyBaseWrite who bitmap part value, q => goes_execFnDirtyBaseWrite who bitmap part value q
  | .hostReadCompletion r, q => goes_execHostReadCompletion r q
  | .hostAccessResume f, q => goes_execHostAccessResume f q
  | .ringEnable who r value, q => goes_execRingEnable who r value q
  | .ringDisable who r value, q => goes_execRingDisable who r value q
  | .rgNotifyWrite who r value, q => goes_execRgNotifyWrite who r value q
  | .ringConfigWrite who r reg part value, q => goes_execRingConfigWrite who r reg part value q
  | .rgProdWrite who r value, q => goes_execRgProdWrite who r value q
  | .commandAccept r, q => goes_execCommandAccept r q
  | .commandComplete r, q => goes_execCommandComplete r q
  | .nop c, q => goes_execNop c q
  | .qRing c, q => goes_execQRing c q
  | .qCommand c, q => goes_execQCommand c q
  | .qRecords c, q => goes_execQRecords c q
  | .recordCommitted a b, q => goes_execRecordCommitted a b q
  | .bankSuspend b, q => goes_execBankSuspend b q
  | .bankResume b, q => goes_execBankResume b q
  | .bankFail b, q => goes_execBankFail b q
  | .carriedCopy lsn, q => goes_execCarriedCopy lsn q
  | .hash c, q => goes_execHash c q
  | .aesCbc c, q => goes_execAesCbc c q
  | .aesCtr c, q => goes_execAesCtr c q
  | .aesGcm c, q => goes_execAesGcm c q
  | .aesXts c, q => goes_execAesXts c q
  | .aesCmac c, q => goes_execAesCmac c q
  | .aesKw c, q => goes_execAesKw c q
  | .aesKwp c, q => goes_execAesKwp c q
  | .chachaPoly c, q => goes_execChachaPoly c q
  | .hmac c, q => goes_execHmac c q
  | .kmac c, q => goes_execKmac c q
  | .random c, q => goes_execRandom c q
  | .keyImport c, q => goes_execKeyImport c q
  | .keyGenerate c, q => goes_execKeyGenerate c q
  | .keyDerive c, q => goes_execKeyDerive c q
  | .keyExport c, q => goes_execKeyExport c q
  | .keyDestroy c, q => goes_execKeyDestroy c q
  | .keyInfo c, q => goes_execKeyInfo c q
  | .kekRelease c, q => goes_execKekRelease c q
  | .entropyHealthFail, q => goes_execEntropyHealthFail q
  | .entropyRestartDone, q => goes_execEntropyRestartDone q
  | .drbgReseed, q => goes_execDrbgReseed q
  | .cryptoLaneSelfTest lane passed, q => goes_execCryptoLaneSelfTest lane passed q
  | .cryptoLaneFail lane chain, q => goes_execCryptoLaneFail lane chain q
  | .mopen c, q => goes_execMopen c q
  | .mclose c, q => goes_execMclose c q
  | .mabort c, q => goes_execMabort c q
  | .mload c, q => goes_execMload c q
  | .mstore c, q => goes_execMstore c q
  | .mldkey c, q => goes_execMldkey c q
  | .madd c, q => goes_execMadd c q
  | .msub c, q => goes_execMsub c q
  | .mmul c, q => goes_execMmul c q
  | .msqr c, q => goes_execMsqr c q
  | .minv c, q => goes_execMinv c q
  | .mexp c, q => goes_execMexp c q
  | .p384Sign c, q => goes_execP384Sign c q
  | .p384Verify c, q => goes_execP384Verify c q
  | .p384Agree c, q => goes_execP384Agree c q
  | .mlkemEncaps c, q => goes_execMlkemEncaps c q
  | .mlkemDecaps c, q => goes_execMlkemDecaps c q
  | .mldsaSign c, q => goes_execMldsaSign c q
  | .mldsaVerify c, q => goes_execMldsaVerify c q
  | .luNtt c, q => goes_execLuNtt c q
  | .luIntt c, q => goes_execLuIntt c q
  | .luPwmul c, q => goes_execLuPwmul c q
  | .luSample c, q => goes_execLuSample c q
  | .luCompress c, q => goes_execLuCompress c q
  | .unitCommandEnd unit how, q => goes_execUnitCommandEnd unit how q
  | .muAbortWrite who value, q => goes_execMuAbortWrite who value q
  | .muSelfTest unit passed memory, q => goes_execMuSelfTest unit passed memory q
  | .muUnitFail unit memory, q => goes_execMuUnitFail unit memory q
  | .luUnitFail unit memory, q => goes_execLuUnitFail unit memory q
  | .measWindow c, q => goes_execMeasWindow c q
  | .windowClose c, q => goes_execWindowClose c q
  | .tripArm c, q => goes_execTripArm c q
  | .tripRelease c, q => goes_execTripRelease c q
  | .tripAssert c, q => goes_execTripAssert c q
  | .tripWait c, q => goes_execTripWait c q
  | .sampleOutput c bits, q => goes_execSampleOutput c bits q
  | .fastPathOutput c bits, q => goes_execFastPathOutput c bits q
  | .noclkDeclared c, q => goes_execNoclkDeclared c q
  | .noclkCleared c, q => goes_execNoclkCleared c q
  | .clkRangeMeasurement c tenKHz, q => goes_execClkRangeMeasurement c tenKHz q
  | .stuckDeclared c, q => goes_execStuckDeclared c q
  | .stuckCleared c, q => goes_execStuckCleared c q
  | .tripShortDetect n high, q => goes_execTripShortDetect n high q
  | .tripOpenDetect n land, q => goes_execTripOpenDetect n land q
  | .sdHistRead who c k, q => goes_execSdHistRead who c k q
  | .laneDetectProbe l far, q => goes_execLaneDetectProbe l far q
  | .laneSwapDetect l, q => goes_execLaneSwapDetect l q
  | .laneBlockLock l inverted crossed, q => goes_execLaneBlockLock l inverted crossed q
  | .laneBlockLockLoss l, q => goes_execLaneBlockLockLoss l q
  | .laneHelloTimer l, q => goes_execLaneHelloTimer l q
  | .laneHelloReceived n blocks, q => goes_execLaneHelloReceived n blocks q
  | .laneDownTimeout l, q => goes_execLaneDownTimeout l q
  | .dataFrameReceived n blocks, q => goes_execDataFrameReceived n blocks q
  | .voidFrameReceived l blocks, q => goes_execVoidFrameReceived l blocks q
  | .ackFrameReceived l blocks, q => goes_execAckFrameReceived l blocks q
  | .epochStartReceived n blocks, q => goes_execEpochStartReceived n blocks q
  | .badFrameReceived l blocks codeError, q => goes_execBadFrameReceived l blocks codeError q
  | .laneAckTimeout l, q => goes_execLaneAckTimeout l q
  | .laneSend c, q => goes_execLaneSend c q
  | .laneRecv c, q => goes_execLaneRecv c q
  | .updOpen c worn, q => goes_execUpdOpen c worn q
  | .updBlock c worn, q => goes_execUpdBlock c worn q
  | .updClose c worn, q => goes_execUpdClose c worn q
  | .updActivate c, q => goes_execUpdActivate c q
  | .updAbort c, q => goes_execUpdAbort c q
  | .chainReport c, q => goes_execChainReport c q
  | .upConfirm who value cutAfter, q => goes_execUpConfirm who value cutAfter q
  | .healthWindowExpiry, q => goes_execHealthWindowExpiry q
  | .norCommandTimeout, q => goes_execNorCommandTimeout q
  | .bcHello p blocks, q => goes_execBcHello p blocks q
  | .bcOffer blocks worn, q => goes_execBcOffer blocks worn q
  | .bcAnswer blocks, q => goes_execBcAnswer blocks q
  | .bcBlockHdr blocks, q => goes_execBcBlockHdr blocks q
  | .bcBlockData blocks worn, q => goes_execBcBlockData blocks worn q
  | .bcResult blocks, q => goes_execBcResult blocks q
  | .bcReport blocks, q => goes_execBcReport blocks q
  | .bcPortLeavesUp p, q => goes_execBcPortLeavesUp p q
  | .bcReofferTimer, q => goes_execBcReofferTimer q
  | .dmOpen who arg worn, q => goes_execDmOpen who arg worn q
  | .dmBlock who worn, q => goes_execDmBlock who worn q
  | .dmClose who arg worn, q => goes_execDmClose who arg worn q
  | .dmActivate who arg, q => goes_execDmActivate who arg q
  | .dmAbort who, q => goes_execDmAbort who q
  | .dmStatus who, q => goes_execDmStatus who q
  | .uartRequest bytes worn, q => goes_execUartRequest bytes worn q
  | .troubleW1cWrite w, q => goes_execTroubleW1cWrite w q
  | .psViolClr who value, q => goes_execPsViolClr who value q
  | .registerWrite w, q => goes_execRegisterWrite w q
  | .smbPsStatus pec, q => goes_execSmbPsStatus pec q
  | .smbTroubleSum pec, q => goes_execSmbTroubleSum pec q
  | .smbFeedAVoltage pec, q => goes_execSmbFeedAVoltage pec q
  | .smbFeedBVoltage pec, q => goes_execSmbFeedBVoltage pec q
  | .smbInputPower pec, q => goes_execSmbInputPower pec q
  | .smbDieTemperature pec, q => goes_execSmbDieTemperature pec q
  | .smbModId pec, q => goes_execSmbModId pec q
  | .smbPartId pec, q => goes_execSmbPartId pec q
  | .smbDeviceSerial pec, q => goes_execSmbDeviceSerial pec q
  | .smbUpStatus pec, q => goes_execSmbUpStatus pec q
  | .smbWrite code bytes, q => goes_execSmbWrite code bytes q
  | .smbAlertResponse pec, q => goes_execSmbAlertResponse pec q
  | .extest cells, q => goes_execExtest cells q
  | .idcode, q => goes_execIdcode q
  | .samplePreload cells, q => goes_execSamplePreload cells q
  | .clamp, q => goes_execClamp q
  | .highz, q => goes_execHighz q
  | .bypass code tdi, q => goes_execBypass code tdi q
  | .dtmcs shiftIn, q => goes_execDtmcs shiftIn q
  | .jtagTrst, q => goes_execJtagTrst q
  | .timerInterrupt h k, q => goes_execTimerInterrupt h k q
  | .polRailNotGood, q => goes_execPolRailNotGood q
  | .holdupExhausted, q => goes_execHoldupExhausted q
  | .gpioInputChange levels, q => goes_execGpioInputChange levels q
  | .internalDmaAccess channel addr op, q => goes_execInternalDmaAccess channel addr op q

/-- A step keeps what `Goes` says, but for the queue that it takes its command from. -/
theorem goes_step {s t : State} (h : step s = .next t) : Goes { s with pending := t.pending } t := by
  unfold step at h
  split at h
  next hp =>
    cases h
    have g : Goes s (idle s) := goes_idle (goes_refl s)
    exact { g with queue := rfl }
  next c rest hp =>
    have g : Goes { s with pending := rest } t := goes_exec c h
    exact { g with queue := rfl }

/-- What goes on keeps every memory in its canonical form and every table rising. -/
theorem memoryInv_of_goes {s t : State} (g : Goes s t) (w : MemoryInv s) : MemoryInv t := by
  obtain ⟨dram, sram, host, buf, nor, tables⟩ := w
  exact ⟨g.dram dram, g.sram sram, g.host host, g.buf buf, g.nor nor, tables_of_goes g tables⟩

/-- Settles O57: a step goes on (`goes_step`), and what goes on keeps the canonical forms. -/
theorem memoryFormHolds : Obligations.MemoryFormHolds := by
  unfold Obligations.MemoryFormHolds
  intro s t w h
  exact memoryInv_of_goes (goes_step h) w

/-- Settles O58: commands (`goes_exec`) and steps (`goes_step`) only go on. -/
theorem nothingGoesBack : Obligations.NothingGoesBack := by
  unfold Obligations.NothingGoesBack
  constructor
  case left =>
    intro s t i h
    have g := goes_exec i h
    exact ⟨g.queue, g.out, g.free⟩
  case right =>
    intro s t h
    have g := goes_step h
    exact ⟨g.head, g.fuses, g.floor⟩

/-- Settles O54: the step is the command's meaning, by definition. -/
theorem stepRunsFrontCommand : Obligations.StepRunsFrontCommand := by
  unfold Obligations.StepRunsFrontCommand
  intro s c rest hp
  rw [step, hp]

/-- Settles O56: the four feed rows that bring a voltage stop on it alone, and every other row's meaning is a next state. -/
theorem onlyAbsoluteMaximumStops : Obligations.OnlyAbsoluteMaximumStops := by
  unfold Obligations.OnlyAbsoluteMaximumStops
  intro s i
  cases i with
  | feedBecomesValid f v => exact ⟨fun h => if_pos (of_decide_eq_true h), fun h => ⟨_, if_neg (of_decide_eq_false h)⟩⟩
  | feedBecomesInvalid f v => exact ⟨fun h => if_pos (of_decide_eq_true h), fun h => ⟨_, if_neg (of_decide_eq_false h)⟩⟩
  | feedOvervoltage f v => exact ⟨fun h => if_pos (of_decide_eq_true h), fun h => ⟨_, if_neg (of_decide_eq_false h)⟩⟩
  | feedReversed f v => exact ⟨fun h => if_pos (of_decide_eq_true h), fun h => ⟨_, if_neg (of_decide_eq_false h)⟩⟩
  | _ => exact ⟨fun h => absurd h Bool.false_ne_true, fun _ => ⟨_, rfl⟩⟩

end Sys2Proof.Machine
end

section
/-!
PROOFS. What entering a command changes of the rings (11 §11.4; R37, R502, R512).
-/

namespace Sys2Proof.Machine

variable {s : State}

/-- The allowance and the turn are no part of a ring. -/
theorem ring_onRings {f : Rings → Rings} (h : (f s.rings).tab = s.rings.tab) (q : Nat) : (s.onRings f).ring q = s.ring q := by
  rw [State.ring, onRings_rings, h]
  rfl

/-- Settles O20: the command is entered in its own ring alone, and the allowance and the turn are no ring's. -/
theorem acceptCounts : Obligations.AcceptCounts := by
  unfold Obligations.AcceptCounts
  intro s r k p w t
  have own : t.ring r = { s.ring r with
      acceptSeq := (s.ring r).acceptSeq + k.descs.length, lastAcceptCt := s.ct.now, descError := none
      trouble := setBitIf k.tooLong (setBitIf (k.unreadable && !p) (setBitIf p (s.ring r).trouble 1) 2) 3
      cmds := (s.ring r).cmds ++ [k] } := (ring_onRings rfl r).trans (ring_onRing_same s w)
  have others (q : Nat) (n : q ≠ r) : t.ring q = s.ring q := (ring_onRings rfl q).trans (ring_onRing_other s n)
  refine ⟨?_, ?_, ?_, ?_, others, rfl, rfl, rfl, rfl⟩ <;> rw [own]

end Sys2Proof.Machine
end

section
/-!
PROOFS. TRIP outputs, the 24-bit clip, the window sum and the qualification count (15 §15.3, §15.6, §15.7; R698, R703, R709-R712,
R717, R722).
-/

namespace Sys2Proof.Machine

variable {s : State} {n cause ch : Nat}

/-! ### A TRIP output -/

@[simp] theorem noteWindows_sites (b : BitVec 16) : (noteWindows b s).sd.sites = s.sd.sites := rfl

/-- An asserted TRIP output stays as it is (R724). -/
theorem assertTrip_of_asserted (h : (s.site n).asserted = true) : assertTrip n cause ch s = s := if_pos h

/-- An output asserted anew, with its record. -/
def tripTaken (cause ch : Nat) (ct : W64) (t : TripSite) : TripSite :=
  { t with asserted := true, cause := cause, channel := ch, ct := ct }

/-- A site's TRIP output as its assertion leaves it, before the waiting TRIP_WAITs complete. -/
def tripState (n cause ch : Nat) (s : State) : State :=
  noteWindows 0 (((noteWindows 0 s).onSite n (tripTaken cause ch s.ct.now)).onChan n fun h => { h with trouble := setBit h.trouble 4 })

theorem tripState_site (w : rises s.sd.sites = true) :
    (tripState n cause ch s).site n = tripTaken cause ch s.ct.now (s.site n) := by
  simp only [State.site, tripState, noteWindows_sites, onChan_sd, onSite_sd]
  exact tget_tmod_same w

/-- With no TRIP_WAIT waiting, an output that is asserted anew takes its record and nothing else (R721). -/
theorem assertTrip_of_not_asserted (h : (s.site n).asserted = false) (hw : (s.site n).waits = []) (w : rises s.sd.sites = true) :
    assertTrip n cause ch s = tripState n cause ch s := by
  have noWaits : ((tripState n cause ch s).site n).waits = [] := by rw [tripState_site w, tripTaken, hw]
  have unfolded : assertTrip n cause ch s = (((tripState n cause ch s).site n).waits.filter fun w => w.bytes.isEmpty).foldl
      (fun t w => waitDone n w.ring w.seq t) (tripState n cause ch s) := if_neg (by simp [h])
  rw [unfolded, noWaits, List.filter_nil, List.foldl_nil]

/-! ### Samples -/

theorem clip24_le (v : Int) : clip24 v ≤ 8388607 := by unfold clip24; omega
theorem le_clip24 (v : Int) : -8388608 ≤ clip24 v := by unfold clip24; omega
theorem clip24_of_inside {v : Int} (lo : -8388608 ≤ v) (hi : v ≤ 8388607) : clip24 v = v := by unfold clip24; omega

/-- An open, unsaturated window whose sum stays within its 56 bits takes the sample. -/
theorem window_add_of_open {w : Window} {v : Int} {b : Bool} {ct : W64} (hc : w.closed = false) (ho : w.openCt ≤ ct)
    (hl : ct < w.closeCt) (hf : w.flags.getLsbD 1 = false) (lo : -(2 ^ 55 - 1) ≤ w.sum + v) (hi : w.sum + v ≤ 2 ^ 55 - 1) :
    w.add v b ct = { w with
      sum := w.sum + v, flags := setBitIf b w.flags 7, count := w.count + 1
      firstCt := if w.count = 0 then ct else w.firstCt, lastCt := ct } := by
  have inside : ¬ (w.closed || decide (ct < w.openCt) || decide (w.closeCt ≤ ct)) = true := by simp [hc, ho, hl]
  have unsaturated : ¬ ((2 ^ 55 - 1 : Int) < w.sum + v ∨ w.sum + v < -(2 ^ 55 - 1)) := by omega
  have clipped : max (-(2 ^ 55 - 1)) (min (2 ^ 55 - 1) (w.sum + v)) = w.sum + v := by omega
  rw [Window.add, if_neg inside]
  simp only [hf, Bool.false_or, decide_eq_false unsaturated, Bool.false_eq_true, if_false, clipped]
  rfl

/-- A closed window, and one before its opening or after its close, takes no sample. -/
theorem window_add_of_outside {w : Window} {v : Int} {b : Bool} {ct : W64} (h : w.closed = true ∨ ct < w.openCt ∨ w.closeCt ≤ ct) :
    w.add v b ct = w := if_pos (by simpa [or_assoc] using h)

/-- Setting bit 7 leaves bit 1, and sets bit 7 where asked. -/
theorem setBitIf_seven (c : Bool) (x : BitVec 16) :
    (setBitIf c x 7).getLsbD 1 = x.getLsbD 1 ∧ (setBitIf c x 7).getLsbD 7 = (c || x.getLsbD 7) := by
  cases c
  · simp [setBitIf]
  · rw [setBitIf, if_pos rfl, setBit_getLsbD (by decide), setBit_getLsbD (by decide)]
    simp

/-! ### The fast path -/

/-- Against taps that are not negative, a stream of plus and minus ones weighs at most their sum, either way. -/
theorem dotInt_bitValue_bound (taps : List Int) (bs : List Bool) (nonneg : ∀ t ∈ taps, 0 ≤ t) :
    -taps.sum ≤ dotInt taps (bs.map bitValue) ∧ dotInt taps (bs.map bitValue) ≤ taps.sum := by
  unfold dotInt
  rw [← List.sum_eq_foldl]
  induction taps generalizing bs with
  | nil => simp
  | cons t taps ih =>
    have ht : 0 ≤ t := nonneg t (List.mem_cons_self ..)
    have rest : ∀ u ∈ taps, 0 ≤ u := fun u m => nonneg u (List.mem_cons_of_mem _ m)
    cases bs with
    | nil =>
      have := ih [] rest
      simp only [List.map_nil, List.zipWith_nil_right, List.sum_nil, List.sum_cons] at this ⊢
      omega
    | cons b bs =>
      have := ih bs rest
      simp only [List.map_cons, List.zipWith_cons_cons, List.sum_cons]
      cases b <;> simp only [bitValue, Bool.false_eq_true, if_true, if_false] <;> omega

/-- The fast path's taps are not negative and sum to 4096. -/
theorem fastTaps_nonneg : ∀ t ∈ cicTaps 16 3, 0 ≤ t := by decide
theorem fastTaps_sum : (cicTaps 16 3).sum = 4096 := by decide

theorem fastValue_bound (bs : List Bool) : -8388608 ≤ fastValue bs ∧ fastValue bs ≤ 8388607 := by
  have h := dotInt_bitValue_bound (cicTaps 16 3) bs fastTaps_nonneg
  rw [fastTaps_sum] at h
  unfold fastValue
  omega

/-- Settles O44: a TRIP's first record stands, an open window adds within its bounds, and the fast path's taps sum to 4096. -/
theorem tripsAndSamples : Obligations.TripsAndSamples := by
  unfold Obligations.TripsAndSamples
  refine ⟨fun s n cause ch => assertTrip_of_asserted, ?anew, fun v => ⟨le_clip24 v, clip24_le v, clip24_of_inside⟩, ?added,
    fun w v b ct => window_add_of_outside, ?qualified, fun bs => fastValue_bound _⟩
  case anew =>
    intro s n cause ch h hw w
    rw [assertTrip_of_not_asserted h hw w, tripState_site w, tripTaken, hw]
    exact ⟨rfl, rfl, rfl⟩
  case added =>
    intro w v b ct hc ho hl hf lo hi
    obtain ⟨bit1, bit7⟩ := setBitIf_seven b w.flags
    rw [window_add_of_open hc ho hl hf lo hi]
    exact ⟨rfl, rfl, rfl, bit1.trans hf, bit7⟩
  case qualified =>
    intro h ha hq
    rw [Channel.qualify, if_pos ha, Nat.min_eq_right hq]

end Sys2Proof.Machine
end

section
/-!
PROOFS. The interrupt sources that a command's newly set trouble bits assert (05 §5.6, 18 §18.1; R54, R210, R211).
-/

namespace Sys2Proof.Machine

variable {s t : State}

/-! ### One source -/

@[simp] theorem rootSource_aplic (k n : Nat) : rootSource (aplic t k) n = rootSource t n := by
  rw [aplic_eq]
  rfl

/-- Asserting a source changes the pending bits of the two domains alone. -/
theorem aplic_domains (k : Nat) : (aplic t k).aplic = { t.aplic with
    root := { t.aplic.root with pend := (aplic t k).aplic.root.pend }
    child := { t.aplic.child with pend := (aplic t k).aplic.child.pend } } := by
  unfold aplic
  split
  · rfl
  · split <;> rfl

/-- A source that is asserted pends in its own domain, and no other pending bit changes. -/
theorem aplic_pend (k : Nat) {n : Nat} (lo : 1 ≤ n) (hi : n < 512) :
    ((aplic t k).aplic.root.pend.getLsbD n = true ↔ t.aplic.root.pend.getLsbD n = true ∨ (n = k ∧ rootSource t n = true)) ∧
    ((aplic t k).aplic.child.pend.getLsbD n = true ↔ t.aplic.child.pend.getLsbD n = true ∨ (n = k ∧ rootSource t n = false)) := by
  unfold aplic
  split
  case isTrue h =>
    have other : n ≠ k := by omega
    simp [other]
  case isFalse =>
    split
    case isTrue h =>
      simp only [emit_aplic, setBit_getLsbD hi, Bool.or_eq_true, decide_eq_true_eq]
      grind
    case isFalse h =>
      simp only [emit_aplic, setBit_getLsbD hi, Bool.or_eq_true, decide_eq_true_eq]
      grind

/-! ### A list of sources -/

theorem aplics_domains (l : List Nat) : (l.foldl aplic t).aplic = { t.aplic with
    root := { t.aplic.root with pend := (l.foldl aplic t).aplic.root.pend }
    child := { t.aplic.child with pend := (l.foldl aplic t).aplic.child.pend } } := by
  induction l generalizing t with
  | nil => rfl
  | cons k l ih =>
    have rest := ih (t := aplic t k)
    rw [aplic_domains k] at rest
    exact rest

theorem aplics_pend (l : List Nat) {n : Nat} (lo : 1 ≤ n) (hi : n < 512) :
    ((l.foldl aplic t).aplic.root.pend.getLsbD n = true ↔
      t.aplic.root.pend.getLsbD n = true ∨ (n ∈ l ∧ rootSource t n = true)) ∧
    ((l.foldl aplic t).aplic.child.pend.getLsbD n = true ↔
      t.aplic.child.pend.getLsbD n = true ∨ (n ∈ l ∧ rootSource t n = false)) := by
  induction l generalizing t with
  | nil => simp
  | cons k l ih =>
    obtain ⟨root, child⟩ := ih (t := aplic t k)
    obtain ⟨first_root, first_child⟩ := aplic_pend (t := t) k lo hi
    rw [rootSource_aplic, first_root] at root
    rw [rootSource_aplic, first_child] at child
    simp only [List.foldl_cons, List.mem_cons, root, child]
    grind

/-! ### The edges of a command -/

/-- The sources whose level begins between two states. -/
def newSources (s t : State) : List Nat := (levelSources t).filter fun n => !(levelSources s).contains n

theorem mem_newSources {n : Nat} : n ∈ newSources s t ↔ n ∈ levelSources t ∧ n ∉ levelSources s := by simp [newSources]

/-- Noting new trouble writes the notes of raised bits, and nothing where no trouble register changed (R54). -/
theorem noteRaised_raised : noteRaised s t = { t with clock := { t.clock with raised := (noteRaised s t).clock.raised } } := by
  unfold noteRaised
  split
  · rfl
  · split <;> rfl

theorem noteRaised_of_sameTrouble (h : troubleWords t = troubleWords s) : noteRaised s t = t := if_pos h

theorem troubleEdges_foldl : troubleEdges s t = (newSources s t).foldl aplic (noteRaised s t) := rfl

theorem troubleEdges_clock : (troubleEdges s t).clock = (noteRaised s t).clock := by rw [troubleEdges_foldl, aplics_eq]

theorem troubleEdges_out : (troubleEdges s t).out = ((newSources s t).map OutEvent.aplic).reverse ++ t.out := by
  rw [troubleEdges_foldl, aplics_eq, noteRaised_eq]

theorem troubleEdges_frame : troubleEdges s t = { t with
    out := (troubleEdges s t).out
    clock := { t.clock with raised := (troubleEdges s t).clock.raised }
    aplic := { t.aplic with
      root := { t.aplic.root with pend := (troubleEdges s t).aplic.root.pend }
      child := { t.aplic.child with pend := (troubleEdges s t).aplic.child.pend } } } := by
  have noted : (troubleEdges s t).clock = { t.clock with raised := (troubleEdges s t).clock.raised } := by
    rw [troubleEdges_clock, noteRaised_raised]
  have domains := aplics_domains (t := noteRaised s t) (newSources s t)
  rw [← troubleEdges_foldl, show (noteRaised s t).aplic = t.aplic by rw [noteRaised_eq]] at domains
  rw [← noted, ← domains]
  exact troubleEdges_eq s t

/-- Settles O59: the edges assert `newSources`, each in its own domain, after the notes of the raised bits. -/
theorem troubleAssertsSources : Obligations.TroubleAssertsSources := by
  unfold Obligations.TroubleAssertsSources
  intro s t u rose
  refine ⟨troubleEdges_frame, ?kept, ?asserted, ?only, ?pends, ?quiet⟩
  case kept =>
    rw [troubleEdges_out]
    exact List.suffix_append ..
  case asserted =>
    intro n h
    rw [troubleEdges_out]
    simpa [mem_newSources] using Or.inl h
  case only =>
    intro e h
    rw [troubleEdges_out] at h
    simp only [List.mem_append, List.mem_reverse, List.mem_map, mem_newSources] at h
    obtain ⟨n, r, rfl⟩ | old := h
    · exact .inr ⟨n, rfl, r⟩
    · exact .inl old
  case pends =>
    intro n lo hi
    have h := aplics_pend (t := noteRaised s t) (newSources s t) lo hi
    rw [← troubleEdges_foldl, noteRaised_eq] at h
    simp only [mem_newSources] at h
    exact h
  case quiet =>
    intro h
    exact troubleEdges_clock.trans (congrArg State.clock (noteRaised_of_sameTrouble h))

end Sys2Proof.Machine
end

section
/-!
PROOFS. Loads of the harts: what a load returns where nothing stops it.
-/

namespace Sys2Proof.Machine

section
variable {s : State} {h : HartId} {c : Access}

/-! ### An instruction that may wait for a line -/

theorem memInstr_of_runs {op : Instr} {f : State → State} (hr : (s.hart h).runs = true) :
    memInstr h op f s = if waits s h op then s.onHart h fun x => { x with stall := .line op } else f s := by
  simp [memInstr, hr]

theorem memInstr_of_proceeds {op : Instr} {f : State → State} {k : AccessKind} {n : Nat} (p : proceeds s h op k n c) :
    memInstr h op f s = f s := by
  obtain ⟨hr, hw, _, _⟩ := p
  simp [memInstr_of_runs hr, hw]

/-- An access that proceeds reaches its range after the break of the hart's constrained loop. -/
theorem access_of_proceeds {op : Instr} {f : Access → State → State} {k : AccessKind} {n : Nat} (w : TablesInv s)
    (p : proceeds s h op k n c) : access h k n c f (breakLoop h s) = f c (breakLoop h s) := by
  obtain ⟨_, _, hw, hs⟩ := p
  exact access_untranslated hw ((accessStop_breakLoop w.1).trans hs)

theorem breakLoop_storeBuf (w : TablesInv s) : ((breakLoop h s).hart h).storeBuf = (s.hart h).storeBuf := by
  obtain ⟨_, _, _, e⟩ := breakLoop_hart (h := h) w.1 h
  rw [e]

theorem breakLoop_combining (w : TablesInv s) : ((breakLoop h s).hart h).combining = (s.hart h).combining := by
  obtain ⟨_, _, _, e⟩ := breakLoop_hart (h := h) w.1 h
  rw [e]

theorem forwarded_breakLoop {a n : Nat} (w : TablesInv s) : forwarded ((breakLoop h s).hart h) a n = forwarded (s.hart h) a n := by
  rw [forwarded, forwarded, breakLoop_storeBuf w]

theorem breakLoop_mesh : (breakLoop h s).mesh = s.mesh := by rw [breakLoop_rest]

/-! ### The value of a load on its range -/

theorem regionAt_of_regionOf {a n : Nat} {r : Region} (e : regionOf a n = r) (ne : r ≠ .vacant) : regionAt a = r := by
  rw [regionOf] at e
  split at e
  · exact e
  · exact absurd e.symm ne

theorem width_le (w : Width) : w.bytes ≤ 8 := by cases w <;> decide

/-- A value of at most 8 bytes is its own 64-bit word. -/
theorem word_readBytes {m : List (Nat × Byte)} {a : Nat} {w : Width} :
    (BitVec.ofNat 64 (ofBytesLE (readBytes m a w.bytes))).toNat = ofBytesLE (readBytes m a w.bytes) := by
  have b := ofBytesLE_lt (readBytes m a w.bytes)
  rw [readBytes_length] at b
  exact (BitVec.toNat_ofNat ..).trans
    (Nat.mod_eq_of_lt (Nat.lt_of_lt_of_le b (Nat.pow_le_pow_right (by decide : 0 < 256) (width_le w))))

/-- A load of SRAM beyond the dispatch lists, with the store buffer empty, puts those bytes into its register. -/
theorem loadInto_sram {g : Nat → Hart → Hart} (hr : regionOf c.pa.toNat c.width.bytes = .sram) (al : c.aligned = true)
    (hw : 4 ≤ c.width.bytes) (lo : 0x4000180000 ≤ c.pa.toNat) (e : (s.hart h).storeBuf = []) :
    loadInto h g c s = retireLen h c.length (s.onHart h (g (ofBytesLE (readBytes s.mesh.sram c.pa.toNat c.width.bytes)))) := by
  have ha : regionAt c.pa.toNat = .sram := regionAt_of_regionOf hr (by decide)
  have hl : ¬ c.pa.toNat < 0x4000180000 := Nat.not_lt.mpr lo
  have hi : ioLoad h c.pa.toNat c.width.bytes s =
      (s, BitVec.ofNat 64 (ofBytesLE (readBytes s.mesh.sram c.pa.toNat c.width.bytes))) := by
    simp only [ioLoad, drainThrough_empty e, ha, if_neg hl]
  simp only [loadInto, hr, hi, widthAllowed, al, hw, word_readBytes]
  rfl

/-- A load whose bytes all stand in the youngest store-buffer entry that overlaps it is given them. -/
theorem loadInto_forwarded {g : Nat → Hart → Hart} {bs : List Byte} (hr : regionOf c.pa.toNat c.width.bytes = .dram)
    (e : (s.hart h).combining = []) (hf : forwarded (s.hart h) c.pa.toNat c.width.bytes = some bs) :
    loadInto h g c s = retireLen h c.length (s.onHart h (g (ofBytesLE bs))) := by
  simp only [loadInto, hr, widthAllowed, drainLines_empty _ e, hf]
  rfl

/-- A load of DRAM that its hart may read, with both buffers empty, moves lines and puts memory's bytes into its register. -/
theorem loadInto_dram {g : Nat → Hart → Hart} (w : TablesInv s) (e : unbuffered s h) (q : readable s h c c.width.bytes) :
    ∃ u, linesMoved s u ∧ loadInto h g c s =
      retireLen h c.length (u.onHart h (g (ofBytesLE (readBytes s.mesh.mem c.pa.toNat c.width.bytes)))) := by
  obtain ⟨moves, reads⟩ := dramRead_readable (un := false) (al := !(streaming (s.hart h) c) && decide (c.hint ≠ .all)) w q
  refine ⟨_, moves.moved w.1, ?_⟩
  simp only [loadInto, q.1, widthAllowed, drainLines_empty _ e.2, forwarded_empty e.1, drainThrough_empty e.1, reads]
  rfl

theorem load_of_proceeds {op : Instr} {rd : Nat} {sg : Bool} (w : TablesInv s) (p : proceeds s h op .load c.width.bytes c) :
    load h rd sg c s = loadAt h rd sg c (breakLoop h s) := access_of_proceeds w p

end

/-- Settles O30: an access that nothing stops reaches its range, where the three ways to a value are the lemmas
`loadInto_sram`, `loadInto_forwarded` and `loadInto_dram`. -/
theorem hartLoads : Obligations.HartLoads := by
  refine ⟨fun s h rd sg c hr => ?_, fun s h rd sg c w p => ?_⟩
  · have e : exec (.load h rd sg c) s = ok s (memInstr h (.load h rd sg c) (load h rd.val sg c) s) := rfl
    rw [e, memInstr_of_runs hr]
    exact ⟨fun hw => by rw [hw]; rfl, fun hw => by rw [hw]; rfl⟩
  · have e : exec (.load h rd sg c) s = ok s (loadAt h rd.val sg c (breakLoop h s)) :=
      congrArg (ok s) ((memInstr_of_proceeds p).trans (load_of_proceeds w p))
    refine ⟨fun hr al hw lo hb => ?_, fun bs hr hc hf => ?_, fun hu q => ?_⟩
    · rw [e, loadAt, loadInto_sram hr al hw lo ((breakLoop_storeBuf w).trans hb), breakLoop_mesh]
      rfl
    · rw [e, loadAt, loadInto_forwarded hr ((breakLoop_combining w).trans hc) ((forwarded_breakLoop w).trans hf)]
      rfl
    · obtain ⟨u, moved, l⟩ := loadInto_dram (g := fun v x => x.setX rd.val (extend sg c.width.bytes v)) (tables_breakLoop w)
        (unbuffered_breakLoop w.1 hu) (readable_breakLoop w q)
      exact ⟨u, moved, by rw [e, loadAt, l, breakLoop_mesh]; rfl⟩

end Sys2Proof.Machine
end

section
/-!
PROOFS. Stores of the harts: what enters the store buffer, and what the two drains write.
-/

namespace Sys2Proof.Machine

section
variable {s : State} {h : HartId} {c : Access} {v : W64}

/-- An untranslated access has no mapping that could give it streaming order. -/
theorem streaming_untranslated {x : Hart} (e : c.walk = none) : streaming x c = false := by
  simp [streaming, e]

theorem store_of_proceeds {op : Instr} (w : TablesInv s) (p : proceeds s h op .store c.width.bytes c) :
    store h c v s = storeAt h v c (breakLoop h s) := access_of_proceeds w p

/-- A DRAM store that is not non-temporal, no line of the combining buffer in its way, enters the store buffer and retires. -/
theorem storeAt_dram (hr : regionOf c.pa.toNat c.width.bytes = .dram) (hh : c.hint ≠ .all) (hw : c.walk = none)
    (e : (s.hart h).combining = []) : storeAt h v c s = retireLen h c.length (bufferStore h false c v s) := by
  simp [storeAt, hr, widthAllowed, hh, streaming_untranslated hw, drainLines_empty _ e]

theorem storeAt_io (hd : regionOf c.pa.toNat c.width.bytes ≠ .dram) (hm : regionOf c.pa.toNat c.width.bytes ≠ .rom)
    (ha : widthAllowed (regionOf c.pa.toNat c.width.bytes) c = true) :
    storeAt h v c s = retireLen h c.length (bufferStore h true c v s) := by
  simp [storeAt, ha, hd, hm]

theorem bufferStore_empty (e : (s.hart h).storeBuf = []) :
    bufferStore h false c v s = s.onHart h fun x => { x with storeBuf := x.storeBuf ++
      [⟨storeBytes c.pa.toNat c.width.bytes v, false, x.keeper, x.kenc, c.fetchedInside, c.va.toNat, Ntl.low c.hint, c.cache⟩] } := by
  simp [bufferStore, e]

/-- A store in the 8-byte word of the youngest entry, of the same world and enclave, merges into it. -/
theorem bufferStore_merges {older : List SbEntry} {e : SbEntry} (hb : (s.hart h).storeBuf = older ++ [e]) (io : e.io = false)
    (hw : sameWord e c.pa.toNat c.width.bytes = true) (hk : e.kenc = (s.hart h).kenc) (hp : e.keeper = (s.hart h).keeper)
    (hi : e.inside = c.fetchedInside) :
    bufferStore h false c v s = s.onHart h fun x => { x with storeBuf := older ++
      [{ e with bytes := (storeBytes c.pa.toNat c.width.bytes v).foldl (fun t b => tput b.2 t b.1) e.bytes }] } := by
  have hl : (s.hart h).storeBuf.getLast? = some e := by simp [hb]
  simp only [bufferStore, hl]
  rw [if_pos (by simp [io, hw, hk, hp, hi])]
  apply onHart_congr (s := s) (h := h)
  simp [hb]

/-! ### Drains -/

/-- The youngest-but-first of the store buffer leaves it: what the entry's performance then works on. -/
def popped (h : HartId) (rest : List SbEntry) (s : State) : State := s.onHart h fun x => { x with storeBuf := rest }

theorem tables_popped {rest : List SbEntry} (w : TablesInv s) : TablesInv (popped h rest s) :=
  tables_of_goes (goes_onHart (goes_refl s)) w

theorem entryAgent_popped {rest : List SbEntry} {k i : Bool} {e : Byte} (w : TablesInv s) :
    entryAgent (popped h rest s) h k e i = entryAgent s h k e i := by
  simp only [popped, entryAgent, actingFn, hart_onHart_same s w.1]

/-- The oldest entry, of DRAM bytes inside one line, changes exactly its bytes as it drains. -/
theorem drainOne_bytes {e : SbEntry} {rest : List SbEntry} {l : Nat} (hb : (s.hart h).storeBuf = e :: rest) (w : MemoryInv s)
    (io : e.io = false) (ne : e.bytes ≠ []) (al : ∀ b ∈ e.bytes, b.1 / 64 = l) (ca : e.cache = {})
    (mr : mayReach s (entryAgent s h e.keeper e.kenc e.inside) (64 * l) = true) (q : quiet s h.val l) :
    (drainOne h s = { s with
        harts := (drainOne h s).harts, mesh := (drainOne h s).mesh, out := (drainOne h s).out, free := (drainOne h s).free }) ∧
      (drainOne h s).mesh.sram = s.mesh.sram ∧ (∀ i, ((drainOne h s).hart i).bare = ((popped h rest s).hart i).bare) ∧
      ∀ a, bget (drainOne h s).mesh.mem a = if e.bytes.any (fun b => b.1 == a) then tget 0 e.bytes a else bget s.mesh.mem a := by
  obtain ⟨wm, _, _, _, _, wt⟩ := w
  have d : drainOne h s = performEntry h e (popped h rest s) := by rw [drainOne, hb]; rfl
  have p := performEntry_bytes (tables_popped (h := h) (rest := rest) wt) wm io ne al ca ((entryAgent_popped wt).symm ▸ mr) q
  rw [← d] at p
  obtain ⟨r, p⟩ := p
  refine ⟨?_, p⟩
  rw [popped, State.onHart] at r
  exact r

theorem execStoreBufferDrain_drains {e : SbEntry} {rest : List SbEntry} (hb : (s.hart h).storeBuf = e :: rest)
    (k : e.io = true ∨ ∀ l ∈ linesIn e.bytes, deferredBy s l h.val = false) :
    execStoreBufferDrain h s = ok s (drainOne h s) := by
  have n : (!e.io && (linesIn e.bytes).any fun l => deferredBy s l h.val) = false := by
    rcases k with io | nobody
    · rw [io]; rfl
    · rw [Bool.and_eq_false_iff]
      exact .inr (List.any_eq_false.mpr fun l m => by simp [nobody l m])
  simp only [execStoreBufferDrain, hb, n]
  rfl

theorem execCombiningBufferDrain_drains {l : LineNo} {e : NtEntry} (hf : (s.hart h).combining.find? (·.line == l.toNat) = some e) :
    execCombiningBufferDrain h l s = ok s (drainEntry h e s) := by
  rw [execCombiningBufferDrain, drainLine, hf]

end

/-- Settles O31: an access that nothing stops is `storeAt`, which buffers the store in one of three ways, and each drain is its
lemma on the bytes. -/
theorem hartStores : Obligations.HartStores := by
  refine ⟨fun s h c v hr => ?_, fun s h c v w p => ?_, fun s h e rest hb k => ⟨?_, ?_⟩, fun s h l e hf => ⟨?_, ?_⟩⟩
  · have e : exec (.store h c v) s = ok s (memInstr h (.store h c v) (store h c v) s) := rfl
    rw [e, memInstr_of_runs hr]
    exact ⟨fun hw => by rw [hw]; rfl, fun hw => by rw [hw]; rfl⟩
  · have e : exec (.store h c v) s = ok s (storeAt h v c (breakLoop h s)) :=
      congrArg (ok s) ((memInstr_of_proceeds p).trans (store_of_proceeds w p))
    have hw : c.walk = none := p.2.2.1
    rw [e]
    refine ⟨fun hh hr hu => ?_, fun hd hm ha hl => ?_, fun older e hh hr hc hb io hs hk hp hi => ?_⟩
    · rw [storeAt_dram hr hh hw ((breakLoop_combining w).trans hu.2), bufferStore_empty ((breakLoop_storeBuf w).trans hu.1)]
      rfl
    · rw [storeAt_io hd hm ha, bufferStore_io (by rw [breakLoop_storeBuf w]; exact hl)]
      rfl
    · obtain ⟨_, _, _, b⟩ := breakLoop_hart (h := h) w.1 h
      rw [storeAt_dram hr hh hw ((breakLoop_combining w).trans hc), bufferStore_merges ((breakLoop_storeBuf w).trans hb) io hs
        (by rw [b]; exact hk) (by rw [b]; exact hp) hi]
      rfl
  · exact execStoreBufferDrain_drains hb k
  · intro l io ne _ al ca w mr q
    exact ⟨_, execStoreBufferDrain_drains hb k, drainOne_bytes hb w io ne al ca mr q⟩
  · exact execCombiningBufferDrain_drains hf
  · intro ll ⟨wm, _, _, _, _, wt⟩ mr q df bh
    have el : e.line = l.toNat := by simpa using List.find?_some hf
    rw [← el] at ll mr q df ⊢
    exact ⟨_, execCombiningBufferDrain_drains hf, drainEntry_bytes wt wm ll mr q df bh⟩

end Sys2Proof.Machine
end

section
/-!
PROOFS. Atomic instructions of the harts, with both buffers empty: the value they return and the bytes they store.
-/

namespace Sys2Proof.Machine

section
variable {s : State} {h : HartId} {c : Access} {v : W64} {rd : Nat}

/-! ### A write of a line that is held Modified -/

/-- The line of `n` bytes at an address of an atomic instruction takes those of `v`, the hart's caches holding it Modified and every
reservation of it ended. -/
def atomicWrite (h : HartId) (c : Access) (v : Nat) (s : State) : State :=
  putLine (c.pa.toNat / 64) (lineOf (List.replicate (c.pa.toNat % 64) 0 ++ bytesLE c.width.bytes v))
    (maskOf (c.pa.toNat % 64) c.width.bytes) (clearReservations (c.pa.toNat / 64) none (touchLines h true true c c.width.bytes s))

/-- An atomic's bytes lie inside one line. -/
theorem atomicPlace_inLine (p : atomicPlace c) : c.pa.toNat % 64 + c.width.bytes ≤ 64 := by
  obtain ⟨_, al, wide, _⟩ := p
  cases hw : c.width <;> simp only [hw, Width.bytes] at al wide ⊢ <;> omega

theorem atomicPlace_line (p : atomicPlace c) : c.pa.toNat / 64 ∈ linesOf c.pa.toNat c.width.bytes := by
  have fits := atomicPlace_inLine p
  obtain ⟨_, _, wide, _⟩ := p
  rw [linesOf_one (by omega) (by omega)]
  exact List.mem_singleton.mpr rfl

theorem mayReach_of_readable (p : atomicPlace c) (q : readable s h c c.width.bytes) :
    mayReach s (hartAgent s h c.fetchedInside) c.pa.toNat = true := by
  obtain ⟨_, _, wide, _⟩ := p
  exact q.2.2.2 0 (by omega)

theorem carries_touchLines_of_readable {un al : Bool} {n : Nat} (w : TablesInv s) (q : readable s h c n) :
    Carries s (touchLines h un al c n s) := (dramRead_readable w q).1

theorem poisoned_touchLines {un al : Bool} (w : TablesInv s) (p : atomicPlace c) (q : readable s h c c.width.bytes) :
    poisoned (touchLines h un al c c.width.bytes s) (c.pa.toNat / 64) = false := by
  obtain ⟨_, _, _, _, _, wl, _⟩ := id w
  exact poisoned_of_sound ((carries_touchLines_of_readable w q).sound wl _ (q.2.2.1 _ (atomicPlace_line p)).2.1)

theorem carries_atomicWrite_before (w : TablesInv s) (q : readable s h c c.width.bytes) :
    Carries s (clearReservations (c.pa.toNat / 64) none (touchLines h true true c c.width.bytes s)) :=
  carries_clearReservations _ _ (carries_touchLines_of_readable w q)

theorem stored_atomicWrite {x : Nat} (w : TablesInv s) (wm : Memory.wf s.mesh.mem = true) (p : atomicPlace c)
    (q : readable s h c c.width.bytes) : stored s (atomicWrite h c x s) c.pa.toNat c.width.bytes x :=
  stored_of_putLine w wm (carries_atomicWrite_before w q) (atomicPlace_inLine p)

theorem rises_atomicWrite {x : Nat} (w : TablesInv s) (q : readable s h c c.width.bytes) :
    rises (atomicWrite h c x s).harts = true := by
  rw [atomicWrite, putLine_harts]
  exact (carries_atomicWrite_before w q).harts w.1

/-! ### AMO -/

theorem amo_of_proceeds {op : Instr} {o : AmoOp} {aq rl : Bool} (w : TablesInv s) (p : proceeds s h op .store c.width.bytes c) :
    amo h rd o c v aq rl s = amoAt h rd o v aq rl c (breakLoop h s) := access_of_proceeds w p

theorem amoDram_readable {o : AmoOp} (w : TablesInv s) (e : unbuffered s h) (p : atomicPlace c) (q : readable s h c c.width.bytes) :
    amoDram h rd o v c s =
      let old := ofBytesLE (readBytes s.mesh.mem c.pa.toNat c.width.bytes)
      retire h ((atomicWrite h c (amoBytes o c.width.bytes old v) s).onHart h fun x => x.setX rd (extend true c.width.bytes old)) := by
  simp only [amoDram, settleHart_empty e, mayReach_of_readable p q, poisoned_touchLines w p q,
    (carries_touchLines_of_readable w q).mem, atomicWrite]
  rfl

theorem amoSram_beyond {o : AmoOp} (e : unbuffered s h) (lo : 0x4000180000 ≤ c.pa.toNat) :
    amoSram h rd o v c s =
      let old := ofBytesLE (readBytes s.mesh.sram c.pa.toNat c.width.bytes)
      retire h ((s.onMesh fun m =>
          { m with sram := writeBytes m.sram c.pa.toNat (bytesLE c.width.bytes (amoBytes o c.width.bytes old v)) }).onHart h
        fun x => x.setX rd (extend true c.width.bytes old)) := by
  simp only [amoSram, drainThrough_empty e.1, if_neg (Nat.not_lt.mpr lo)]

theorem setX_buffers (x : Hart) (i : Nat) (z : W64) : (x.setX i z).storeBuf = x.storeBuf ∧ (x.setX i z).combining = x.combining := by
  unfold Hart.setX
  split <;> exact ⟨rfl, rfl⟩

/-- Where the hart's buffers are empty, an instruction that ends with its own register alone leaves them so. -/
theorem ordered_of_retire {aq rl : Bool} {f : State → State} {g : Hart → Hart} {u : State} (e : unbuffered s h)
    (k : f s = retire h (u.onHart h g)) (wu : rises u.harts = true) (b : (u.hart h).bare = (s.hart h).bare)
    (p : ∀ x, (g x).storeBuf = x.storeBuf ∧ (g x).combining = x.combining) : ordered h aq rl f s = retire h (u.onHart h g) := by
  rw [ordered_empty e (k ▸ unbuffered_retire wu (unbuffered_of_bare e b) p), k]

theorem amoAt_dram {o : AmoOp} {aq rl : Bool} (w : TablesInv s) (wm : Memory.wf s.mesh.mem = true) (e : unbuffered s h)
    (p : atomicPlace c) (q : readable s h c c.width.bytes) :
    let old := ofBytesLE (readBytes s.mesh.mem c.pa.toNat c.width.bytes)
    amoAt h rd o v aq rl c s =
      retire h ((atomicWrite h c (amoBytes o c.width.bytes old v) s).onHart h fun x => x.setX rd (extend true c.width.bytes old)) := by
  intro old
  obtain ⟨al, _, wide, hr⟩ := id p
  have here : ¬(c.width.bytes < 4 ∨ ¬(regionOf c.pa.toNat c.width.bytes = .dram ∨ regionOf c.pa.toNat c.width.bytes = .sram)) := by
    simp [hr, wide]
  simp only [amoAt, al, Bool.not_true, Bool.false_eq_true, if_false, if_neg here, if_pos hr]
  exact ordered_of_retire e (amoDram_readable w e p q) (rises_atomicWrite w q) ((stored_atomicWrite w wm p q).2.2.1 h)
    fun x => setX_buffers x _ _

theorem amoAt_sram {o : AmoOp} {aq rl : Bool} (w : TablesInv s) (e : unbuffered s h) (al : c.aligned = true) (wide : 4 ≤ c.width.bytes)
    (hr : regionOf c.pa.toNat c.width.bytes = .sram) (lo : 0x4000180000 ≤ c.pa.toNat) :
    let old := ofBytesLE (readBytes s.mesh.sram c.pa.toNat c.width.bytes)
    amoAt h rd o v aq rl c s = retire h ((s.onMesh fun m =>
        { m with sram := writeBytes m.sram c.pa.toNat (bytesLE c.width.bytes (amoBytes o c.width.bytes old v)) }).onHart h
      fun x => x.setX rd (extend true c.width.bytes old)) := by
  intro old
  have here : ¬(c.width.bytes < 4 ∨ ¬(regionOf c.pa.toNat c.width.bytes = .dram ∨ regionOf c.pa.toNat c.width.bytes = .sram)) := by
    simp [hr, wide]
  have nd : regionOf c.pa.toNat c.width.bytes ≠ .dram := by simp [hr]
  simp only [amoAt, al, Bool.not_true, Bool.false_eq_true, if_false, if_neg here, if_neg nd]
  exact ordered_of_retire e (amoSram_beyond e lo) w.1 rfl fun x => setX_buffers x _ _

/-! ### LR and SC -/

/-- What LR leaves of its hart. -/
def Hart.afterLr (x : Hart) (rd : Nat) (k : Bool) (a n value : Nat) : Hart :=
  { (x.setX rd (extend true n value)) with
    reserved := some (a / 64), resAddr := a, deferring := k, looping := k
    scFails := if k = true ∧ x.resAddr = a then x.scFails else 0 }

theorem lrDram_readable {k : Bool} (w : TablesInv s) (e : unbuffered s h) (q : readable s h c c.width.bytes) :
    lrDram h rd k c s = retire h ((touchLines h k true c c.width.bytes s).onHart h fun x =>
      x.afterLr rd k c.pa.toNat c.width.bytes (ofBytesLE (readBytes s.mesh.mem c.pa.toNat c.width.bytes))) := by
  simp only [lrDram, settleHart_empty e, (dramRead_readable w q).2]
  rfl

theorem loadReserved_readable {op : Instr} {aq rl k : Bool} (w : TablesInv s) (pr : proceeds s h op .load c.width.bytes c)
    (e : unbuffered s h) (p : atomicPlace c) (q : readable s h c c.width.bytes) :
    loadReserved h rd c aq rl k s = retire h ((touchLines h k true c c.width.bytes s).onHart h fun x =>
      x.afterLr rd k c.pa.toNat c.width.bytes (ofBytesLE (readBytes s.mesh.mem c.pa.toNat c.width.bytes))) := by
  obtain ⟨_, _, hw, hs⟩ := pr
  obtain ⟨al, _, wide, hr⟩ := id p
  have here : ¬(c.width.bytes < 4 ∨ regionOf c.pa.toNat c.width.bytes ≠ .dram) := by simp [hr, wide]
  have moves := carries_touchLines_of_readable (un := k) (al := true) w q
  rw [loadReserved, access_untranslated hw hs]
  simp only [al, Bool.not_true, Bool.false_eq_true, if_false, if_neg here]
  refine ordered_of_retire e (lrDram_readable w e q) (moves.harts w.1) (moves.bare w.1 h) fun x => ?_
  exact setX_buffers x _ _

theorem storeConditional_of_proceeds {op : Instr} {aq rl : Bool} (pr : proceeds s h op .store c.width.bytes c) (p : atomicPlace c) :
    storeConditional h rd c v aq rl s = ordered h aq rl (scDram h rd v c) s := by
  obtain ⟨_, _, hw, hs⟩ := pr
  obtain ⟨al, _, wide, hr⟩ := p
  have here : ¬(c.width.bytes < 4 ∨ regionOf c.pa.toNat c.width.bytes ≠ .dram) := by simp [hr, wide]
  rw [storeConditional, access_untranslated hw hs]
  simp only [al, Bool.not_true, Bool.false_eq_true, if_false, if_neg here]

/-- The hart's reservation is the SC's own. -/
def Hart.holds (x : Hart) (a : Nat) : Prop := x.reserved = some (a / 64) ∧ x.resAddr = a

theorem scDram_fails (e : unbuffered s h) (sound : soundLine s (c.pa.toNat / 64))
    (f : (s.hart h).holds c.pa.toNat → spurious s h = true) :
    scDram h rd v c s = retire h ((countEvent h 0x0D 1 { s with free := s.free + 1 }).onHart h fun x => (x.setX rd 1).afterSc false) := by
  have fails : (!(decide ((s.hart h).reserved = some (c.pa.toNat / 64)) && decide ((s.hart h).resAddr = c.pa.toNat) &&
      mayReach s (hartAgent s h c.fetchedInside) c.pa.toNat) || spurious s h) = true := by
    by_cases held : (s.hart h).holds c.pa.toNat
    · rw [f held, Bool.or_true]
    · rw [Hart.holds, not_and] at held
      simp only [Bool.or_eq_true, Bool.not_eq_true', Bool.and_eq_false_iff, decide_eq_false_iff_not]
      by_cases r : (s.hart h).reserved = some (c.pa.toNat / 64)
      · exact .inl (.inl (.inr (held r)))
      · exact .inl (.inl (.inl r))
  simp only [scDram, settleHart_empty e, poisoned_of_sound sound, Bool.and_false, Bool.false_eq_true, if_false, fails]
  rfl

theorem scDram_succeeds (w : TablesInv s) (e : unbuffered s h) (p : atomicPlace c) (q : readable s h c c.width.bytes)
    (held : (s.hart h).holds c.pa.toNat) (ns : spurious s h = false) :
    scDram h rd v c s = retire h ((atomicWrite h c v.toNat { s with free := s.free + 1 }).onHart h fun x =>
      (x.setX rd 0).afterSc true) := by
  have here := poisoned_of_sound (q.2.2.1 _ (atomicPlace_line p)).2.1
  have after : poisoned (touchLines h true true c c.width.bytes { s with free := s.free + 1 }) (c.pa.toNat / 64) = false :=
    poisoned_touchLines (s := { s with free := s.free + 1 }) w p q
  simp only [scDram, settleHart_empty e, here, held.1, held.2, mayReach_of_readable p q, ns, after, atomicWrite]
  rfl

theorem stored_of_free {n : Nat} {t : State} {a k x : Nat} (p : stored { s with free := n } t a k x) : stored s t a k x := by
  obtain ⟨r, rest⟩ := p
  exact ⟨r, rest⟩

end

/-- Settles O32: an AMO, LR or SC that nothing stops is its operation on the range, the ordering bits asking for nothing with the
buffers empty. -/
theorem hartAtomics : Obligations.HartAtomics := by
  refine ⟨fun s h rd op c v aq rl k hr => ⟨?_, ?_, ?_⟩, fun s h rd op c v aq rl w p e => ⟨fun pl q wm => ?_, fun al wide hr lo => ?_⟩,
    fun s h rd c aq rl k w p e pl q => ?_, fun s h rd c v aq rl w p e pl sound => ⟨fun f => ?_, fun held ns q wm => ?_, fun hl hf => ?_⟩,
    fun s h => rfl⟩
  · exact congrArg (ok s) (memInstr_of_runs hr)
  · exact congrArg (ok s) (memInstr_of_runs hr)
  · exact congrArg (ok s) (memInstr_of_runs hr)
  · have wb := tables_breakLoop (h := h) w
    have qb := readable_breakLoop w q
    refine ⟨_, stored_atomicWrite wb (breakLoop_mesh (s := s) ▸ wm) pl qb, congrArg (ok s) ?_⟩
    rw [memInstr_of_proceeds p, amo_of_proceeds w p, amoAt_dram wb (breakLoop_mesh (s := s) ▸ wm) (unbuffered_breakLoop w.1 e) pl qb,
      breakLoop_mesh]
  · refine congrArg (ok s) ?_
    rw [memInstr_of_proceeds p, amo_of_proceeds w p, amoAt_sram (tables_breakLoop w) (unbuffered_breakLoop w.1 e) al wide hr lo,
      breakLoop_mesh]
  · exact ⟨_, (carries_touchLines_of_readable w q).moved w.1,
      congrArg (ok s) ((memInstr_of_proceeds p).trans (loadReserved_readable w p e pl q))⟩
  · refine congrArg (ok s) ((memInstr_of_proceeds p).trans (congrArg wakeAll ((storeConditional_of_proceeds p pl).trans ?_)))
    have counts : Carries s (countEvent h 0x0D 1 { s with free := s.free + 1 }) := carries_countEvent _ _ _ (carries_free (carries_refl s))
    exact ordered_of_retire e (scDram_fails e sound f) (counts.harts w.1) (counts.bare w.1 h) fun x => setX_buffers x _ _
  · have written : stored s (atomicWrite h c v.toNat { s with free := s.free + 1 }) c.pa.toNat c.width.bytes v.toNat :=
      stored_of_free (stored_atomicWrite (s := { s with free := s.free + 1 }) w wm pl q)
    refine ⟨_, written, congrArg (ok s) ((memInstr_of_proceeds p).trans
      (congrArg wakeAll ((storeConditional_of_proceeds p pl).trans ?_)))⟩
    exact ordered_of_retire e (scDram_succeeds w e pl q held ns) (rises_atomicWrite (s := { s with free := s.free + 1 }) w q)
      (written.2.2.1 h) fun x => setX_buffers x _ _
  · simp [spurious, hl, hf]

end Sys2Proof.Machine
end

section
/-!
PROOFS. Fences, cache-block and prefetch instructions of the harts, with both buffers empty.
-/

namespace Sys2Proof.Machine

section
variable {s : State} {h : HartId} {c : Access}

/-! ### What a broken loop leaves -/

theorem breakLoop_lineAt {l : Nat} : (breakLoop h s).lineAt l = s.lineAt l := by rw [State.lineAt, breakLoop_mesh]; rfl

theorem idle_breakLoop {l : Nat} (idle : (s.lineAt l).txn = none) : ((breakLoop h s).lineAt l).txn = none := by
  rw [breakLoop_lineAt]; exact idle

theorem breakLoop_frame : breakLoop h s = { s with
    harts := (breakLoop h s).harts, mesh := (breakLoop h s).mesh, out := (breakLoop h s).out, free := (breakLoop h s).free } := by
  unfold breakLoop
  split <;> rfl

theorem mayReach_breakLoop {g : Agent} {a : Nat} : mayReach (breakLoop h s) g a = mayReach s g a := by
  rw [breakLoop_rest]; rfl

theorem quiet_breakLoop {core l : Nat} (q : quiet s core l) : quiet (breakLoop h s) core l := by
  have e (i : Nat) : (breakLoop h s).slice i = s.slice i := by rw [State.slice, breakLoop_mesh]; rfl
  simp only [quiet, e]
  exact q

theorem envAllows_breakLoop {fld : W64 → Bool} (w : TablesInv s) :
    envAllows ((breakLoop h s).hart h) fld = envAllows (s.hart h) fld := by
  obtain ⟨_, _, _, e⟩ := breakLoop_hart (h := h) w.1 h
  rw [e]
  rfl

theorem invalFlushes_breakLoop (w : TablesInv s) : invalFlushes ((breakLoop h s).hart h) = invalFlushes (s.hart h) := by
  obtain ⟨_, _, _, e⟩ := breakLoop_hart (h := h) w.1 h
  rw [e]
  rfl

/-! ### What a cache-block instruction comes to -/

/-- CBO.CLEAN on a range. -/
def cleanOn (h : HartId) (r : Region) (c : Access) (t : State) : State :=
  cboRetire h (if r = .dram then cleanLine (c.pa.toNat / 64) t else t)

/-- CBO.ZERO on a range. -/
def zeroOn (h : HartId) (r : Region) (c : Access) (t : State) : State :=
  if r = .dram then
    cboRetire h (putLine (c.pa.toNat / 64) 0 (BitVec.allOnes 64) (clearReservations (c.pa.toNat / 64) none
      (touch h true (Ntl.low c.hint) c.va.toNat (c.pa.toNat / 64) c.cache t)))
  else raise h 7 c.va t

theorem exec_cboClean : exec (.cboClean h c) s = ok s (memInstr h (.cboClean h c) (cbo h .cbo c (·.getLsbD 6) (cleanOn h)) s) := rfl

theorem exec_cboZero : exec (.cboZero h c) s = ok s (memInstr h (.cboZero h c) (cbo h .store c (·.getLsbD 7) (zeroOn h)) s) := rfl

theorem exec_cboFlush : exec (.cboFlush h c) s = ok s (memInstr h (.cboFlush h c) (cbo h .cbo c (·.getLsbD 6) (flushOn h)) s) := rfl

/-- CBO.INVAL on a range. -/
def invalOn (h : HartId) (r : Region) (c : Access) (t : State) : State :=
  if invalFlushes (t.hart h) then flushOn h r c t
  else cboRetire h (match r with | .dram => dropLine (c.pa.toNat / 64) t | .rom => dropRom (c.pa.toNat / 64) t | _ => t)

theorem exec_cboInval : exec (.cboInval h c) s =
    ok s (memInstr h (.cboInval h c) (cbo h .cbo c (fun w => decide (bits w 4 2 ≠ 0)) (invalOn h)) s) := rfl

/-- An address of one of the I/O ranges. -/
def onDevice (c : Access) : Prop :=
  regionAt c.pa.toNat = .regs ∨ regionAt c.pa.toNat = .sram ∨ regionAt c.pa.toNat = .outbound

/-- What stands before a cache-block instruction's effect is passed: its enables, its walk and whatever stops an access. -/
theorem cbo_reaches {op : Instr} {k : AccessKind} {fld : W64 → Bool} {f : Region → Access → State → State} (w : TablesInv s)
    (e : unbuffered s h) (d : proceeds s h op k 1 c ∧ envAllows (s.hart h) fld = 2) :
    cbo h k c fld f s = match regionAt c.pa.toNat with
      | .vacant => raise h 7 c.va (breakLoop h s)
      | .dram => if mayReach s (hartAgent s h c.fetchedInside) (64 * (c.pa.toNat / 64)) then f .dram c (breakLoop h s)
          else cboRetire h (rangeViolation (breakLoop h s) (hartAgent s h c.fetchedInside) true (64 * (c.pa.toNat / 64)))
      | .rom => if ((breakLoop h s).hart h).keeper then f .rom c (breakLoop h s)
          else cboRetire h (romDenied h true c.pa.toNat (breakLoop h s))
      | r => f r c (breakLoop h s) := by
  simp only [cbo, envAllows_breakLoop w, d.2, access_of_proceeds w d.1, settleHart_empty (unbuffered_breakLoop w.1 e),
    hartAgent_breakLoop w, mayReach_breakLoop] <;> rfl

theorem cbo_dram {op : Instr} {k : AccessKind} {fld : W64 → Bool} {f : Region → Access → State → State} (w : TablesInv s)
    (e : unbuffered s h) (d : proceeds s h op k 1 c ∧ envAllows (s.hart h) fld = 2) (hr : regionAt c.pa.toNat = .dram)
    (mr : mayReach s (hartAgent s h c.fetchedInside) (64 * (c.pa.toNat / 64)) = true) :
    cbo h k c fld f s = f .dram c (breakLoop h s) := by
  rw [cbo_reaches w e d, hr]
  exact if_pos mr

/-- On an I/O range an effect that no such range tells from another comes to one state. -/
theorem cbo_device {op : Instr} {k : AccessKind} {fld : W64 → Bool} {f : Region → Access → State → State} {t : State} (w : TablesInv s)
    (e : unbuffered s h) (d : proceeds s h op k 1 c ∧ envAllows (s.hart h) fld = 2) (hd : onDevice c)
    (ef : ∀ r, r = .regs ∨ r = .sram ∨ r = .outbound → f r c (breakLoop h s) = t) : cbo h k c fld f s = t := by
  rw [cbo_reaches w e d]
  rcases hd with r | r | r
  · rw [r]; exact ef _ (.inl rfl)
  · rw [r]; exact ef _ (.inr (.inl rfl))
  · rw [r]; exact ef _ (.inr (.inr rfl))

theorem cbo_illegal {k : AccessKind} {fld : W64 → Bool} {f : Region → Access → State → State} (w : TablesInv s)
    (nm : (s.hart h).priv ≠ .m) (off : fld (s.hart h).menvcfg = false) : cbo h k c fld f s = illegal h c.insn (breakLoop h s) := by
  have d : envAllows (s.hart h) fld = 0 := by simp [envAllows, nm, off]
  simp only [cbo, envAllows_breakLoop w, d]

theorem cbo_virtual {k : AccessKind} {fld : W64 → Bool} {f : Region → Access → State → State} (w : TablesInv s)
    (nm : (s.hart h).priv ≠ .m) (on : fld (s.hart h).menvcfg = true) (hv : (s.hart h).v = true)
    (off : fld (s.hart h).henvcfg = false) : cbo h k c fld f s = virtualInstr h (breakLoop h s) := by
  have d : envAllows (s.hart h) fld = 1 := by simp [envAllows, nm, on, hv, off]
  simp only [cbo, envAllows_breakLoop w, d]

/-! ### The line after a clean, a flush, an invalidation and a zeroing -/

theorem carries_cleanLine {l : Nat} (idle : (s.lineAt l).txn = none) : Carries s (cleanLine l s) := by
  rw [cleanLine, finishTxn_idle idle]
  have k : Carries s (writeBack l (clearReservations l none s)) := carries_writeBack _ (carries_clearReservations _ _ (carries_refl s))
  generalize writeBack l (clearReservations l none s) = t at k
  exact carries_onLine k fun sound => sound.1

theorem cleanLine_notDirty {l : Nat} (w : TablesInv s) (idle : (s.lineAt l).txn = none) : ((cleanLine l s).lineAt l).dirty = false := by
  obtain ⟨_, _, _, _, _, wl, _⟩ := w
  rw [cleanLine, finishTxn_idle idle, line_onLine_same _
    ((carries_writeBack l (carries_clearReservations l none (carries_refl s))).lines wl)]
  generalize (writeBack l (clearReservations l none s)).lineAt l = ls
  simp only [LineState.dirty, List.any_map, Bool.or_eq_false_iff, decide_eq_false_iff_not, List.any_eq_false]
  refine ⟨by split <;> simp_all, fun x _ => ?_⟩
  cases hx : x.st <;> simp [hx]

theorem carries_flushLine {l : Nat} (idle : (s.lineAt l).txn = none) : Carries s (flushLine l s) := by
  rw [flushLine, finishTxn_idle idle]
  exact carries_onLine (carries_dropCopies _ (carries_writeBack _ (carries_clearReservations _ _ (carries_refl s)))) fun _ => rfl

theorem flushLine_lineAt {l : Nat} (w : TablesInv s) (idle : (s.lineAt l).txn = none) : (flushLine l s).lineAt l = {} := by
  obtain ⟨_, _, _, _, _, wl, _⟩ := w
  rw [flushLine, finishTxn_idle idle, line_onLine_same _
    ((carries_dropCopies l (carries_writeBack l (carries_clearReservations l none (carries_refl s)))).lines wl)]

/-- DRAM's own value of a line comes back where it is recorded as stale. -/
def restoreStale (l : Nat) (s : State) : State :=
  match s.mesh.stale.find? (·.1 == l) with
  | some e => s.onMesh fun m => { m with mem := writeBytes m.mem (64 * l) (lineBytes e.2), stale := tdel m.stale l }
  | none => s

theorem dropLine_of_idle {l : Nat} (idle : (s.lineAt l).txn = none) :
    dropLine l s = (dropCopies l (restoreStale l (clearReservations l none s))).onLine l fun _ => {} := by
  rw [dropLine, finishTxn_idle idle]
  generalize clearReservations l none s = t
  cases e : t.mesh.stale.find? (·.1 == l) <;> simp only [restoreStale, e]

theorem restoreStale_lines {l : Nat} : (restoreStale l s).mesh.lines = s.mesh.lines := by
  unfold restoreStale
  split <;> rfl

theorem restoreStale_mem {l : Nat} : (restoreStale l s).mesh.mem = match s.mesh.stale.find? (·.1 == l) with
    | some e => writeBytes s.mesh.mem (64 * l) (lineBytes e.2)
    | none => s.mesh.mem := by
  unfold restoreStale
  split <;> rfl

theorem dropLine_lineAt {l : Nat} (w : TablesInv s) (idle : (s.lineAt l).txn = none) : (dropLine l s).lineAt l = {} := by
  obtain ⟨_, _, _, _, _, wl, _⟩ := w
  rw [dropLine_of_idle idle, line_onLine_same _ ((carries_dropCopies l (carries_refl _)).lines _)]
  rw [restoreStale_lines, clearReservations_mesh]
  exact wl

theorem dropLine_mem {l : Nat} (idle : (s.lineAt l).txn = none) :
    (dropLine l s).mesh.mem = match s.mesh.stale.find? (·.1 == l) with
      | some e => writeBytes s.mesh.mem (64 * l) (lineBytes e.2)
      | none => s.mesh.mem := by
  have m : (dropLine l s).mesh.mem = (restoreStale l (clearReservations l none s)).mesh.mem := by
    rw [dropLine_of_idle idle]
    generalize restoreStale l (clearReservations l none s) = t
    exact (carries_onLine (f := fun _ => {}) (carries_dropCopies l (carries_refl t)) fun _ => rfl).mem
  rw [m, restoreStale_mem, clearReservations_mesh]

theorem putLine_frame {l : Nat} {d : Line} {m : BitVec 64} : putLine l d m s =
    { s with harts := (putLine l d m s).harts, mesh := (putLine l d m s).mesh, out := (putLine l d m s).out, free := (putLine l d m s).free } := by
  obtain ⟨r, _⟩ := putLine_rest (s := s) (l := l) (d := d) (m := m)
  generalize putLine l d m s = u at r
  rw [r]

/-- A write of all 64 bytes leaves no mark of poison. -/
theorem putLine_whole_bad {l : Nat} {d : Line} (wl : rises s.mesh.lines = true) :
    ((putLine l d (BitVec.allOnes 64) s).lineAt l).bad = false := by
  have wk : rises (keepStale l s).mesh.lines = true := by
    unfold keepStale
    split <;> exact wl
  rw [putLine, markLine, line_onLine_same _ (by simpa only [onMesh_mesh] using wk)]
  simp

theorem lineBytes_zero : lineBytes 0 = List.replicate 64 0 := by
  rw [lineBytes, show BitVec.toNat (0 : Line) = 0 from BitVec.toNat_zero, bytesLE_zero]

/-- A whole line of zeros written over a line that only moved. -/
theorem zeroed_of_carries {t : State} {l : Nat} (w : TablesInv s) (wm : Memory.wf s.mesh.mem = true) (k : Carries s t) :
    let u := putLine l 0 (BitVec.allOnes 64) t
    u = { s with harts := u.harts, mesh := u.mesh, out := u.out, free := u.free } ∧ u.mesh.sram = s.mesh.sram ∧
      (∀ i, (u.hart i).bare = (s.hart i).bare) ∧ (u.lineAt l).bad = false ∧
      ∀ a, bget u.mesh.mem a = if a / 64 = l then 0 else bget s.mesh.mem a := by
  refine ⟨rest_trans k.rest putLine_frame, putLine_rest.2.trans k.sram, fun i => ?_, putLine_whole_bad (k.lines ?_), fun a => ?_⟩
  · simpa only [State.hart, putLine_harts] using k.bare w.1 i
  · obtain ⟨_, _, _, _, _, wl, _⟩ := w
    exact wl
  · have len : (lineBytes 0).length = 64 := bytesLE_length ..
    rw [putLine_mem, bget_writeMasked (by rw [k.mem]; exact wm), k.mem, len]
    by_cases z : a / 64 = l
    · have inside : a - 64 * l < 64 := by omega
      have bit : (BitVec.allOnes 64).getLsbD (0 + (a - 64 * l)) = true := by
        rw [Nat.zero_add, BitVec.getLsbD_allOnes]
        exact decide_eq_true inside
      rw [if_pos ⟨by omega, by omega, bit⟩, if_pos z, lineBytes_zero, List.getD_eq_getElem?_getD,
        List.getElem?_replicate_of_lt inside]
      rfl
    · rw [if_neg (by omega), if_neg z]

/-! ### Prefetches -/

theorem carries_fillL1i {r : State} {va l : Nat} (k : Carries r s) : Carries r (fillL1i h va l s) :=
  carries_onHart (fun _ => rfl) (carries_free k)

/-- A prefetch that something stops does nothing, untranslated. -/
theorem prefetchLine_stopped {k : PrefetchKind} (hw : c.walk = none) (st : (accessStop (s.hart h) (prefetchKind k) 1 c).isSome = true) :
    prefetchLine h k c s = s := by
  have m : mapped c (s.hart h) = c := by simp [mapped, hw]
  have t : walkNow h (prefetchKind k) c s = s := by simp [walkNow, hw]
  simp only [prefetchLine, m, t, st, if_true]

theorem carries_prefetchLine {k : PrefetchKind} (w : TablesInv s) (hw : c.walk = none)
    (st : accessStop (s.hart h) (prefetchKind k) 1 c = none) (hr : regionAt c.pa.toNat = .dram) (ec : c.cache = {})
    (mr : mayReach s (hartAgent s h c.fetchedInside) (64 * (c.pa.toNat / 64)) = true) (q : quiet s h.val (c.pa.toNat / 64)) :
    Carries s (prefetchLine h k c s) := by
  obtain ⟨_, _, _, _, _, _, ws, _⟩ := w
  have m : mapped c (s.hart h) = c := by simp [mapped, hw]
  have t : walkNow h (prefetchKind k) c s = s := by simp [walkNow, hw]
  simp only [prefetchLine, m, t, st, hr, mr, ec, Option.isSome_none, Bool.not_true, Bool.false_eq_true, if_false]
  refine carries_ite (fun _ => carries_refl s) fun _ => ?_
  have a := carries_dropForeign h (c.pa.toNat / 64) (carries_finishTxn _ ws q.1)
  cases k with
  | i => exact carries_fillL1i (a.trans (carries_obtain _ _ _ (a.slices ws) (quiet_of_carries a ws q)))
  | r => exact carries_touch _ _ _ _ _ ws q
  | w => exact carries_touch _ _ _ _ _ ws q

/-! ### Fences -/

theorem waits_of_needsNothing {op : Instr} (e : opNeeds (s.hart h) op = []) : waits s h op = false := by
  rw [waits, e]
  rfl

theorem fences_needNothing (e : unbuffered s h) (p q : FenceSet) :
    opNeeds (s.hart h) (.fence h p q) = [] ∧ opNeeds (s.hart h) (.fenceTso h) = [] ∧ opNeeds (s.hart h) (.fenceI h) = [] := by
  obtain ⟨eb, ec⟩ := e
  simp [opNeeds, Hart.storeLines, Hart.combiningLines, eb, ec]

theorem fenceI_empty (e : unbuffered s h) : fenceI h s = s.onHart h fun x => { x with l1i := [], prefetched := false } := by
  rw [fenceI, drainBoth, drainAll_empty e.1, drainCombining_empty e.2]

end

/-- Settles O33: with both buffers empty a fence has nothing to drain, and a cache-block instruction that nothing stops comes to
its effect on the line (`cbo_dram`), to nothing on a device (`cbo_device`), or to the exception of its enables. -/
theorem fencesAndBlocks : Obligations.FencesAndBlocks := by
  refine ⟨fun s h p q hr => ⟨congrArg (ok s) (memInstr_of_runs hr), congrArg (ok s) (memInstr_of_runs hr),
      congrArg (ok s) (memInstr_of_runs hr), fun w e => ⟨?_, ?_, ?_⟩⟩,
    fun s h c w e => ⟨fun d => ⟨fun ⟨hr, mr⟩ => ⟨?_, fun idle => ⟨?_, ?_⟩⟩, fun hd => ?_⟩,
      fun d => ⟨fun ⟨hr, mr⟩ => ⟨?_, fun idle => ⟨?_, ?_⟩⟩, fun hd => ?_⟩,
      fun d => ⟨fun ⟨hr, mr⟩ => ⟨?_, fun idle => ⟨?_, ?_⟩⟩, fun hd => ?_⟩,
      fun d => ⟨fun ⟨hr, mr⟩ q ec wm => ?_, fun hd => ?_⟩⟩,
    fun s h c i fld w hr hw nm m => ?_, fun s h k c w hr => ⟨?_, fun hw st => ?_, fun hw st hr ec mr q => ?_⟩⟩
  -- the fences, with both buffers empty
  · refine congrArg (ok s) ((memInstr_of_runs hr).trans ?_)
    rw [waits_of_needsNothing (fences_needNothing e p q).1, fence_empty (unbuffered_breakLoop w.1 e)]
    rfl
  · refine congrArg (ok s) ((memInstr_of_runs hr).trans ?_)
    rw [waits_of_needsNothing (fences_needNothing e p q).2.1, fenceTso, fence_empty (unbuffered_breakLoop w.1 e)]
    rfl
  · refine congrArg (ok s) ((memInstr_of_runs hr).trans ?_)
    rw [waits_of_needsNothing (fences_needNothing e p q).2.2, fenceI_empty (unbuffered_breakLoop w.1 e)]
    rfl
  -- CBO.CLEAN
  · exact congrArg (ok s) ((memInstr_of_proceeds d.1).trans ((cbo_dram w e d hr mr).trans rfl))
  · exact (carries_cleanLine (idle_breakLoop idle)).moved (tables_breakLoop w).1
  · exact cleanLine_notDirty (tables_breakLoop w) (idle_breakLoop idle)
  · refine congrArg (ok s) ((memInstr_of_proceeds d.1).trans (cbo_device w e d hd fun r hr => ?_))
    rcases hr with rfl | rfl | rfl <;> rfl
  -- CBO.FLUSH
  · exact congrArg (ok s) ((memInstr_of_proceeds d.1).trans ((cbo_dram w e d hr mr).trans rfl))
  · exact (carries_flushLine (idle_breakLoop idle)).moved (tables_breakLoop w).1
  · exact flushLine_lineAt (tables_breakLoop w) (idle_breakLoop idle)
  · refine congrArg (ok s) ((memInstr_of_proceeds d.1).trans (cbo_device w e d hd fun r hr => ?_))
    rcases hr with rfl | rfl | rfl <;> rfl
  -- CBO.INVAL
  · refine congrArg (ok s) ((memInstr_of_proceeds d.1).trans ((cbo_dram w e d hr mr).trans ?_))
    rw [invalFlushes_breakLoop w]
    split <;> rfl
  · exact dropLine_lineAt (tables_breakLoop w) (idle_breakLoop idle)
  · rw [dropLine_mem (idle_breakLoop idle), breakLoop_mesh] <;> rfl
  · refine congrArg (ok s) ((memInstr_of_proceeds d.1).trans (cbo_device w e d hd fun r hr => ?_))
    rw [invalFlushes_breakLoop w]
    rcases hr with rfl | rfl | rfl <;> (split <;> rfl)
  -- CBO.ZERO
  · have wb := tables_breakLoop (h := h) w
    obtain ⟨_, _, _, _, _, _, ws, _⟩ := id wb
    obtain ⟨rest, sram, bare, sound, bytes⟩ := zeroed_of_carries (l := c.pa.toNat / 64) wb (breakLoop_mesh (s := s) ▸ wm)
      (carries_clearReservations (c.pa.toNat / 64) none
        (carries_touch h true (Ntl.low c.hint) c.va.toNat (c.pa.toNat / 64) ws (quiet_breakLoop q)))
    refine ⟨_, congrArg (ok s) ((memInstr_of_proceeds d.1).trans ((cbo_dram w e d hr mr).trans ?_)), ?_, ?_, bare, sound, ?_⟩
    · simp only [if_true, ec]
    · exact rest_trans breakLoop_frame rest
    · exact sram.trans (congrArg Mesh.sram breakLoop_mesh)
    · rw [← breakLoop_mesh (s := s) (h := h)]
      exact bytes
  · refine congrArg (ok s) ((memInstr_of_proceeds d.1).trans (cbo_device w e d hd fun r hr => ?_))
    rcases hr with rfl | rfl | rfl <;> rfl
  -- the enables
  · have off (op : Instr) (e : waits s h op = false) (k : AccessKind) (f : Region → Access → State → State) :
        (fld (s.hart h).menvcfg = false → ok s (memInstr h op (cbo h k c fld f) s) = ok s (illegal h c.insn (breakLoop h s))) ∧
        (fld (s.hart h).menvcfg = true → (s.hart h).v = true → fld (s.hart h).henvcfg = false →
          ok s (memInstr h op (cbo h k c fld f) s) = ok s (virtualInstr h (breakLoop h s))) := by
      rw [memInstr_of_runs hr, e]
      exact ⟨fun o => congrArg (ok s) (cbo_illegal w nm o), fun o hv z => congrArg (ok s) (cbo_virtual w nm o hv z)⟩
    simp only [List.mem_cons, Prod.mk.injEq, List.not_mem_nil, or_false] at m
    rcases m with ⟨rfl, rfl⟩ | ⟨rfl, rfl⟩ | ⟨rfl, rfl⟩ | ⟨rfl, rfl⟩
    · rw [exec_cboClean]
      exact off _ hw .cbo (cleanOn h)
    · rw [exec_cboFlush]
      exact off _ hw .cbo (flushOn h)
    · rw [exec_cboInval]
      exact off _ hw .cbo (invalOn h)
    · rw [exec_cboZero]
      exact off _ hw .store (zeroOn h)
  -- the prefetches
  · exact congrArg (ok s) (instr_of_runs hr)
  · obtain ⟨_, _, _, b⟩ := breakLoop_hart (h := h) w.1 h
    exact prefetchLine_stopped hw ((accessStop_breakLoop w.1).symm ▸ st)
  · exact (carries_prefetchLine (tables_breakLoop w) hw ((accessStop_breakLoop w.1).trans st) hr ec
      ((hartAgent_breakLoop w).symm ▸ mayReach_breakLoop.trans mr) (quiet_breakLoop q)).moved (tables_breakLoop w).1

end Sys2Proof.Machine
end

section
/-!
PROOFS. Requests at a home slice and the messages of a transaction: which case each row of the coherence tables comes to.
-/

namespace Sys2Proof.Machine

section
variable {s : State} {q : MeshRequest}

/-! ### A request at its home slice -/

/-- The slice of a request takes it into a general tracker. -/
def takenGeneral (q : MeshRequest) (s : State) : State :=
  noteUse (homeOf q.line) (s.onSlice (homeOf q.line) fun y => { y with general := y.general ++ [q] })

theorem carries_noteUse {r : State} {i : Nat} (k : Carries r s) : Carries r (noteUse i s) :=
  carries_ite (fun _ => k) fun _ => carries_onSlice (fun _ => ⟨rfl, rfl, rfl⟩) k

theorem carries_takenGeneral : Carries s (takenGeneral q s) :=
  carries_noteUse (carries_onSlice (fun _ => ⟨rfl, rfl, rfl⟩) (carries_refl s))

theorem takenGeneral_rest : takenGeneral q s = { s with mesh := { s.mesh with slices := (takenGeneral q s).mesh.slices } } := by
  unfold takenGeneral noteUse
  split <;> rfl

theorem takenGeneral_lineAt {l : Nat} : (takenGeneral q s).lineAt l = s.lineAt l := by
  rw [State.lineAt, takenGeneral_rest]; rfl

theorem noteUse_general {i : Nat} (w : rises s.mesh.slices = true) : ((noteUse i s).slice i).general = (s.slice i).general := by
  unfold noteUse
  split
  · rfl
  · rw [slice_onSlice_same s w]

theorem takenGeneral_tracker (w : rises s.mesh.slices = true) :
    ((takenGeneral q s).slice (homeOf q.line)).trackerOf q = .general := by
  have k : Carries s (s.onSlice (homeOf q.line) fun y => { y with general := y.general ++ [q] }) :=
    carries_onSlice (fun _ => ⟨rfl, rfl, rfl⟩) (carries_refl s)
  have g : ((takenGeneral q s).slice (homeOf q.line)).general = (s.slice (homeOf q.line)).general ++ [q] := by
    rw [takenGeneral, noteUse_general (k.slices w), slice_onSlice_same s w]
  rw [Slice.trackerOf, g, if_pos (by simp)]

theorem request_unsent (n : 2 ^ 31 ≤ q.line ∨ requestLimit q.who ≤ outstanding q.who s) : request q s = s := if_pos n

/-- A request that is no writeback crossing a snoop and no device write goes by the requests that wait there. -/
theorem request_arrives (hl : q.line < 2 ^ 31) (ho : outstanding q.who s < requestLimit q.who)
    (nx : q.kind = .wbDirty → (s.lineAt q.line).txn = none) (nw : ∀ d m, q.kind ≠ .devWrite d m) :
    request q s = if (s.slice (homeOf q.line)).waiting.any (·.who == q.who) then
        s.onSlice (homeOf q.line) fun y => { y with waiting := y.waiting ++ [q] }
      else takeTracker q s := by
  have a : ¬(dramLines ≤ q.line ∨ requestLimit q.who ≤ outstanding q.who s) := by
    rw [not_or, Nat.not_le, Nat.not_le]
    exact ⟨hl, ho⟩
  have b : ¬(q.kind = .wbDirty ∧ ((s.lineAt q.line).txn.map fun t => t.snoops.any (·.1 == q.who)) = some true) := by
    rintro ⟨k, t⟩
    simp [nx k] at t
  rw [request, if_neg a, if_neg b]
  cases hk : q.kind <;> first | rfl | exact absurd hk (nw _ _)

theorem takeTracker_general (g : (s.slice (homeOf q.line)).general.length < 36) :
    takeTracker q s = beginOrQueue q (takenGeneral q s) := if_pos g

theorem takeTracker_reserved (g : 36 ≤ (s.slice (homeOf q.line)).general.length)
    (r : (s.slice (homeOf q.line)).reserved.any (·.who == q.who) = false) (h : (s.slice (homeOf q.line)).held.contains q.who = false) :
    takeTracker q s = beginOrQueue q (noteUse (homeOf q.line) (s.onSlice (homeOf q.line) fun y => { y with reserved := y.reserved ++ [q] })) := by
  simp only [takeTracker, if_neg (Nat.not_lt.mpr g), r, h]
  rfl

theorem takeTracker_refused (g : 36 ≤ (s.slice (homeOf q.line)).general.length)
    (r : (s.slice (homeOf q.line)).reserved.any (·.who == q.who) = true ∨ (s.slice (homeOf q.line)).held.contains q.who = true) :
    takeTracker q s =
      let r := s.onSlice (homeOf q.line) fun y => { y with refused := y.refused ++ [q] }
      (if s.mesh.freeze then r else r.onSlice (homeOf q.line) fun y => { y with retries := y.retries + 1 }).emit (.retry q.who (homeOf q.line)) := by
  have n : (!(s.slice (homeOf q.line)).reserved.any (·.who == q.who) && !(s.slice (homeOf q.line)).held.contains q.who) = false := by
    rcases r with r | r <;> rw [r] <;> simp
  simp only [takeTracker, if_neg (Nat.not_lt.mpr g), n]
  rfl

theorem beginOrQueue_waits (m : mustWait q s = true) :
    beginOrQueue q s = s.onSlice (homeOf q.line) fun y => { y with queued := y.queued ++ [q] } := if_pos m

theorem beginOrQueue_serves (m : mustWait q s = false) : beginOrQueue q s = serve q s := by simp [beginOrQueue, m]

/-! ### A core's request for an idle line, with a general tracker free -/

theorem core_limit (core : HartId) : requestLimit core.val = 32 := if_pos core.isLt

theorem mustWait_core (hw : q.who < 24) (idle : (s.lineAt q.line).txn = none) : mustWait q s = false := by
  rw [mustWait, idle]
  simp [Nat.not_le.mpr hw]

/-- A core's request other than a device's write, nothing before it, is served in a general tracker. -/
theorem request_served (hw : q.who < 24) (hl : q.line < 2 ^ 31) (ho : outstanding q.who s < 32) (nw : ∀ d m, q.kind ≠ .devWrite d m)
    (first : (s.slice (homeOf q.line)).waiting.any (·.who == q.who) = false) (g : (s.slice (homeOf q.line)).general.length < 36)
    (idle : (s.lineAt q.line).txn = none) : request q s = serve q (takenGeneral q s) := by
  have lim : requestLimit q.who = 32 := if_pos hw
  rw [request_arrives hl (lim ▸ ho) (fun _ => idle) nw, first, if_neg Bool.false_ne_true, takeTracker_general g]
  exact beginOrQueue_serves (mustWait_core hw (takenGeneral_lineAt.symm ▸ idle))

/-- A read or an upgrade of a core. -/
def coreReads : ReqKind → Bool
  | .rdShared | .rdUnique | .upgrade => true
  | _ => false

theorem serve_read (k : coreReads q.kind = true) :
    serve q s = if mayReach s (coreAgent s q.who) (64 * q.line) then
        startTxn q.kind q.who q.line ((s.slice (homeOf q.line)).trackerOf q) q.chk s
      else (rangeViolation s (coreAgent s q.who) (decide (q.kind ≠ .rdShared)) (64 * q.line)).onLine q.line fun ls =>
        { ls with txn := some (doneTxn q ((s.slice (homeOf q.line)).trackerOf q)) } := by
  unfold serve
  cases hk : q.kind <;> first | rfl | (rw [hk] at k; cases k)

theorem coreAgent_takenGeneral {core : Nat} : coreAgent (takenGeneral q s) core = coreAgent s core := by
  rw [takenGeneral_rest]; rfl

theorem mayReach_takenGeneral {g : Agent} {a : Nat} : mayReach (takenGeneral q s) g a = mayReach s g a := by
  rw [takenGeneral_rest]; rfl

/-- A read or upgrade that its core may make of a line starts its transaction, lines moving alone. -/
theorem serve_read_reaches (w : TablesInv s) (k : coreReads q.kind = true) (hc : q.chk = {})
    (mr : mayReach s (coreAgent s q.who) (64 * q.line) = true) :
    linesMoved s (serve q (takenGeneral q s)) ∧ ∃ u, ((serve q (takenGeneral q s)).lineAt q.line).txn = some u ∧ u.core = q.who ∧
      u.tracker = .general ∧ u.acked = false := by
  obtain ⟨wh, _, _, _, _, wl, ws, _⟩ := w
  have e : serve q (takenGeneral q s) = startTxn q.kind q.who q.line .general {} (takenGeneral q s) := by
    rw [serve_read k, mayReach_takenGeneral, coreAgent_takenGeneral, if_pos mr, takenGeneral_tracker ws, hc]
  rw [e]
  exact ⟨(carries_startTxn _ _ _ _ carries_takenGeneral).moved wh, startTxn_txn (carries_takenGeneral.lines wl)⟩

theorem serve_read_forbidden (w : TablesInv s) (k : coreReads q.kind = true)
    (mr : mayReach s (coreAgent s q.who) (64 * q.line) = false) :
    serve q (takenGeneral q s) =
      (rangeViolation (takenGeneral q s) (coreAgent s q.who) (decide (q.kind ≠ .rdShared)) (64 * q.line)).onLine q.line fun ls =>
        { ls with txn := some ⟨q.who, q.kind, .general, [], false, true, true, .s⟩ } := by
  obtain ⟨_, _, _, _, _, _, ws, _⟩ := w
  rw [serve_read k, mayReach_takenGeneral, coreAgent_takenGeneral, if_neg (by simp [mr]), takenGeneral_tracker ws]
  rfl

/-- The first copy of a core is the first that is also as `p` says, where it is so. -/
theorem find_and {core : Nat} {cs : List Copy} {c : Copy} {p : Copy → Bool} (f : cs.find? (·.core == core) = some c) (pc : p c = true) :
    cs.find? (fun x => x.core == core && p x) = some c := by
  induction cs with
  | nil => cases f
  | cons x cs ih =>
    rw [List.find?_cons] at f ⊢
    cases e : x.core == core with
    | true =>
      simp only [e] at f
      obtain rfl : x = c := by simpa using f
      simp [pc]
    | false =>
      simp only [e] at f
      simpa using ih f

/-- A writeback answers the snoop of its core that a transaction of the line awaits (R310). -/
def LineState.crossed (core : Nat) (ls : LineState) : LineState :=
  { ls with
    txn := ls.txn.map fun t =>
      if t.snoops.any (·.1 == core) then
        { t with
          snoops := t.snoops.filter (·.1 ≠ core)
          dirtyData := false
          into := if t.kind = .rdShared ∧ (ls.copies.filter (·.core ≠ t.core)).isEmpty then .e else t.into }
      else t }

/-- A dirty copy that its core may write goes into the L3. -/
theorem writeDirty_of_dirty {core l : Nat} {c : Copy} (f : (s.lineAt l).copies.find? (·.core == core) = some c)
    (d : c.st = .m ∨ c.st = .o) (mr : mayReach s (tagAgent (coreFn s core) c.keeper c.kenc core) (64 * l) = true) :
    writeDirty core l s = (dropCopy core l (allocL3 l .dirty c.keeper s)).onLine l (LineState.crossed core) := by
  have f' : (s.lineAt l).copies.find? (fun x => x.core == core && (x.st == .m || x.st == .o)) = some c :=
    find_and f (by rcases d with d | d <;> rw [d] <;> rfl)
  simp only [writeDirty, f', mr, if_true, copyToL3, f, if_pos d]
  rfl

theorem evictClean_of_clean {core l : Nat} {c : Copy} (f : (s.lineAt l).copies.find? (·.core == core) = some c)
    (d : c.st = .e ∨ c.st = .s) : evictClean core l s = dropCopy core l s := by
  have hc : (c.core == core) = true := by simpa using List.find?_some f
  have a : ((s.lineAt l).copies.any fun x => x.core == core && (x.st == .e || x.st == .s)) = true :=
    List.any_eq_true.mpr ⟨c, List.mem_of_find?_eq_some f, by rcases d with d | d <;> rw [d, hc] <;> rfl⟩
  rw [evictClean, if_pos a]

/-- A writeback that is served leaves the line in the L3, dirty, and out of its core's L2. -/
theorem serve_wbDirty {c : Copy} (w : TablesInv s) (k : q.kind = .wbDirty)
    (f : (s.lineAt q.line).copies.find? (·.core == q.who) = some c) (d : c.st = .m ∨ c.st = .o)
    (mr : mayReach s (tagAgent (coreFn s q.who) c.keeper c.kenc q.who) (64 * q.line) = true) :
    let t := serve q (takenGeneral q s)
    linesMoved s t ∧ (t.lineAt q.line).l3 = .dirty ∧ (t.lineAt q.line).copies = (s.lineAt q.line).copies.filter (·.core ≠ q.who) := by
  obtain ⟨wh, _, _, _, _, wl, ws, _⟩ := w
  have e : serve q (takenGeneral q s) = ((dropCopy q.who q.line (allocL3 q.line .dirty c.keeper (takenGeneral q s))).onLine q.line
      (LineState.crossed q.who)).onLine q.line fun ls => { ls with txn := some (doneTxn q .general) } := by
    have fn : coreFn (takenGeneral q s) q.who = coreFn s q.who := by rw [takenGeneral_rest]; rfl
    have wd := writeDirty_of_dirty (s := takenGeneral q s) (takenGeneral_lineAt.symm ▸ f) d (by rw [mayReach_takenGeneral, fn]; exact mr)
    rw [serve, k, takenGeneral_tracker ws]
    exact congrArg (·.onLine q.line fun ls => { ls with txn := some (doneTxn q .general) }) wd
  have a : Carries s (allocL3 q.line .dirty c.keeper (takenGeneral q s)) := carries_allocL3 _ _ _ carries_takenGeneral
  have b : Carries s (dropCopy q.who q.line (allocL3 q.line .dirty c.keeper (takenGeneral q s))) := carries_dropCopy _ _ a
  have d := carries_onLine (k := q.line) (f := LineState.crossed q.who) b fun sound => sound.1
  intro t
  refine ⟨?_, ?_⟩
  · rw [show t = _ from e]
    exact (carries_onLine d fun sound => sound.1).moved wh
  · have at' : t.lineAt q.line = { LineState.crossed q.who { s.lineAt q.line with
        l3 := .dirty, l3Keeper := c.keeper, copies := (s.lineAt q.line).copies.filter (·.core ≠ q.who) } with
          txn := some (doneTxn q .general) } := by
      rw [show t = _ from e, line_onLine_same _ (d.lines wl), line_onLine_same _ (b.lines wl), dropCopy_line (a.lines wl),
        allocL3_line (carries_takenGeneral.lines wl), takenGeneral_lineAt]
    rw [at']
    exact ⟨rfl, rfl⟩

/-- A clean eviction that is served takes the core's copy away and leaves the L3's. -/
theorem serve_evictClean {c : Copy} (w : TablesInv s) (k : q.kind = .evictClean)
    (f : (s.lineAt q.line).copies.find? (·.core == q.who) = some c) (d : c.st = .e ∨ c.st = .s) :
    let t := serve q (takenGeneral q s)
    linesMoved s t ∧ (t.lineAt q.line).l3 = (s.lineAt q.line).l3 ∧
      (t.lineAt q.line).copies = (s.lineAt q.line).copies.filter (·.core ≠ q.who) := by
  obtain ⟨wh, _, _, _, _, wl, ws, _⟩ := w
  have e : serve q (takenGeneral q s) = (dropCopy q.who q.line (takenGeneral q s)).onLine q.line fun ls =>
      { ls with txn := some (doneTxn q .general) } := by
    have ec := evictClean_of_clean (s := takenGeneral q s) (takenGeneral_lineAt.symm ▸ f) d
    rw [serve, k, takenGeneral_tracker ws]
    exact congrArg (·.onLine q.line fun ls => { ls with txn := some (doneTxn q .general) }) ec
  have b : Carries s (dropCopy q.who q.line (takenGeneral q s)) := carries_dropCopy _ _ carries_takenGeneral
  intro t
  refine ⟨?_, ?_⟩
  · rw [show t = _ from e]
    exact (carries_onLine b fun sound => sound.1).moved wh
  · rw [show t = _ from e, line_onLine_same _ (b.lines wl), dropCopy_line (carries_takenGeneral.lines wl), takenGeneral_lineAt]
    exact ⟨rfl, rfl⟩

/-! ### The messages of a transaction -/

variable {core l : Nat} {t : Txn}

theorem snoopArrives_eq {k : SnoopKind} (ht : (s.lineAt l).txn = some t) :
    snoopArrives core l k s = if t.snoops.contains (core, k) && !deferredBy s l t.core then answerSnoop core l k s else s := by
  rw [snoopArrives, ht]

theorem deliver_ready (ht : (s.lineAt l).txn = some t) (hc : t.core = core) (hs : t.snoops = []) (hd : t.delivered = false) :
    deliver core l t.dirtyData s = (install core l t.into s).onLine l fun ls => { ls with txn := some { t with delivered := true } } := by
  rw [deliver, ht]
  exact if_pos ⟨hc, by rw [hs]; rfl, hd, rfl⟩

theorem acknowledge_ready (ht : (s.lineAt l).txn = some t) (hc : t.core = core) (hs : t.snoops = []) (hd : t.delivered = true) :
    acknowledge core l s = (if t.kind = .upgrade then install core l .m s else s).onLine l fun ls =>
      { ls with txn := some { t with acked := true } } := by
  rw [acknowledge, ht]
  exact if_pos ⟨hc, by rw [hs]; rfl, hd⟩

theorem releaseTracker_incomplete {i : Nat} (ht : (s.lineAt l).txn = some t) (n : t.acked = false ∨ homeOf l ≠ i) :
    releaseTracker i l s = s := by
  rw [releaseTracker, ht]
  refine if_pos ?_
  rcases n with a | h
  · exact .inl (by simp [a])
  · exact .inr h

theorem serveQueued_none (nq : ∀ q ∈ (s.slice (homeOf l)).queued, q.line ≠ l) : serveQueued l s = s := by
  have e : (s.slice (homeOf l)).queued.find? (·.line == l) = none := List.find?_eq_none.mpr fun q m => by simpa using nq q m
  rw [serveQueued, e]

/-- A complete transaction with a general tracker, nothing waiting for its line, gives the tracker back. -/
theorem releaseTracker_general (w : rises s.mesh.slices = true) (ht : (s.lineAt l).txn = some t) (ha : t.acked = true)
    (hg : t.tracker = .general) (nq : ∀ q ∈ (s.slice (homeOf l)).queued, q.line ≠ l) :
    releaseTracker (homeOf l) l s = (s.onLine l fun ls => { ls with txn := none }).onSlice (homeOf l)
      fun y => { y with general := y.general.eraseP fun q => q.line == l && q.who == t.core } := by
  have r : releaseTracker (homeOf l) l s =
      serveQueued l (freeTracker (homeOf l) t l (s.onLine l fun ls => { ls with txn := none })) := by
    rw [releaseTracker, ht]
    exact if_neg (by simp [ha])
  rw [r, freeTracker, hg]
  refine serveQueued_none fun q m => nq q ?_
  rwa [slice_onSlice_same (s.onLine l fun ls => { ls with txn := none }) w] at m

theorem takeRetry_refused {who i : Nat} (f : (s.slice i).refused.find? (·.who == who) = some q) :
    takeRetry who i s =
      let t := s.onSlice i fun x => { x with refused := x.refused.erase q, waiting := x.waiting ++ [q] }
      match hartOf who with | some h => countEvent h 0x0C 1 t | none => t := by
  rw [takeRetry, f] <;> rfl

theorem takeGrant_unheld {who i : Nat} (h : (s.slice i).held.contains who = false) : takeGrant who i s = s := by
  rw [takeGrant]
  exact if_pos (by rw [h]; rfl)

theorem takeGrant_held {who i : Nat} (h : (s.slice i).held.contains who = true) (f : (s.slice i).waiting.find? (·.who == who) = some q) :
    takeGrant who i s = sendBehind who (beginOrQueue q (s.onSlice i fun y =>
      { y with waiting := y.waiting.erase q, held := y.held.erase who, reserved := y.reserved ++ [q] })) := by
  simp only [takeGrant, h, f]
  rfl

end

/-- Settles O35: each request comes to its case at the home slice, and each message of a transaction to its own update. -/
theorem coherenceRows : Obligations.CoherenceRows := by
  refine ⟨fun s core line chk => ⟨rfl, rfl, rfl, rfl, rfl⟩, fun s q hk => ⟨request_unsent, fun hl ho => ?_, beginOrQueue_waits⟩,
    fun s core line k i m w hl ho first g idle => ?_, fun s core line c w hl ho first g idle f => ⟨fun d mr => ?_, fun d => ?_⟩,
    fun s core line t i k ht m => ?_,
    fun s core line t ht hc hs => ⟨fun hd hdd => ?_, fun hd hdd => ?_, fun hd => ?_⟩,
    fun s i line t ht w => ⟨fun n => ?_, fun ha hi hg nq => ?_⟩, fun s who i q f => congrArg Host.Outcome.next (takeRetry_refused f),
    fun s who i => ⟨fun h => congrArg (ok s) (takeGrant_unheld h), fun q h f => congrArg (ok s) (takeGrant_held h f)⟩⟩
  -- a request at its home slice
  · have arrives := request_arrives hl ho (fun k => by simp [k] at hk) fun d m k => by simp [k] at hk
    refine ⟨fun waits => ?_, fun first => ⟨fun g => ?_, fun g r h => ?_, fun g r => ?_⟩⟩
    · rw [arrives, if_pos waits]
    all_goals rw [arrives, first, if_neg Bool.false_ne_true]
    · exact takeTracker_general g
    · exact takeTracker_reserved g r h
    · exact takeTracker_refused g r
  -- the reads and the upgrade of a core
  · obtain ⟨e, reads, nw⟩ : exec i s = ok s (request ⟨core.val, line.toNat, k, {}, none⟩ s) ∧ coreReads k = true ∧
        ∀ d m, k ≠ .devWrite d m := by
      simp only [List.mem_cons, Prod.mk.injEq, List.not_mem_nil, or_false] at m
      rcases m with ⟨rfl, rfl⟩ | ⟨rfl, rfl⟩ | ⟨rfl, rfl⟩ <;> exact ⟨rfl, rfl, fun _ _ c => by cases c⟩
    have served := request_served (q := ⟨core.val, line.toNat, k, {}, none⟩) core.isLt hl ho nw first g idle
    refine ⟨fun mr => ?_, fun mr => ?_⟩
    · obtain ⟨moved, u, started⟩ := serve_read_reaches (q := ⟨core.val, line.toNat, k, {}, none⟩) w reads rfl mr
      exact ⟨_, u, e.trans (congrArg (ok s) served), moved, started⟩
    · exact e.trans (congrArg (ok s) (served.trans (serve_read_forbidden (q := ⟨core.val, line.toNat, k, {}, none⟩) w reads mr)))
  -- the writeback and the clean eviction
  · have served := request_served (q := ⟨core.val, line.toNat, .wbDirty, {}, none⟩) core.isLt hl ho (fun _ _ c => by cases c) first g idle
    exact ⟨_, congrArg (ok s) served, serve_wbDirty (q := ⟨core.val, line.toNat, .wbDirty, {}, none⟩) w rfl f d mr⟩
  · have served := request_served (q := ⟨core.val, line.toNat, .evictClean, {}, none⟩) core.isLt hl ho (fun _ _ c => by cases c) first g idle
    exact ⟨_, congrArg (ok s) served, serve_evictClean (q := ⟨core.val, line.toNat, .evictClean, {}, none⟩) w rfl f d⟩
  -- the snoops
  · have e : exec i s = .next (snoopArrives core.val line.toNat k s) := by
      simp only [List.mem_cons, Prod.mk.injEq, List.not_mem_nil, or_false] at m
      rcases m with ⟨rfl, rfl⟩ | ⟨rfl, rfl⟩ | ⟨rfl, rfl⟩ <;> rfl
    rw [e, snoopArrives_eq ht]
    refine ⟨fun sent free => ⟨?_, fun w => (carries_answerSnoop _ _ _ (carries_refl s)).moved w.1⟩, fun stays => ?_⟩
    · rw [sent, free]
      rfl
    · have n : (t.snoops.contains (core.val, k) && !deferredBy s line.toNat t.core) = false := by
        rcases stays with a | a <;> rw [a] <;> simp
      rw [n]
      rfl
  -- data and the ACK
  · exact congrArg Host.Outcome.next (hdd ▸ deliver_ready ht hc hs hd)
  · exact congrArg Host.Outcome.next (hdd ▸ deliver_ready ht hc hs hd)
  · exact congrArg Host.Outcome.next (acknowledge_ready ht hc hs hd)
  -- the release
  · exact congrArg (ok s) (releaseTracker_incomplete ht n)
  · obtain ⟨_, _, _, _, _, _, ws, _⟩ := w
    rw [← hi] at nq ⊢
    have r := releaseTracker_general ws ht ha hg nq
    refine congrArg (ok s) ?_
    rw [← hi]
    exact r

end Sys2Proof.Machine
end

section
/-!
PROOFS. A device's reads and writes at the home slice, the patrol scrub, and the zeroing of DRAM.
-/

namespace Sys2Proof.Machine

section
variable {s : State} {q : MeshRequest} {l : Nat}

/-! ### A device's request for an idle line, with a general tracker free -/

theorem deferredBy_takenGeneral {a b : Nat} : deferredBy (takenGeneral q s) a b = deferredBy s a b := by
  rw [takenGeneral_rest]; rfl

/-- A request for an idle line that nobody defers is served once it has a tracker. -/
theorem begins_served (idle : (s.lineAt q.line).txn = none) (nd : deferredBy s q.line q.who = false) :
    beginOrQueue q (takenGeneral q s) = serve q (takenGeneral q s) := by
  refine beginOrQueue_serves ?_
  rw [mustWait, takenGeneral_lineAt, idle, deferredBy_takenGeneral, nd]
  simp

/-- A device read of a sound line that its function may reach delivers the line's bytes, lines moving alone. -/
theorem serve_devRead (w : TablesInv s) (k : q.kind = .devRead) (hc : q.chk = {})
    (mr : mayReach s (openAgent q.who) (64 * q.line) = true) (sound : soundLine s q.line) :
    ∃ u, linesMoved s u ∧ serve q (takenGeneral q s) = (u.emit (.devData q.who q.line (lineValue s q.line))).onLine q.line fun ls =>
      { ls with txn := some ⟨q.who, .devRead, .general, [], false, true, true, .s⟩ } := by
  obtain ⟨wh, _, _, _, _, wl, ws, _⟩ := w
  have a : Carries s (deviceFetch q.who q.line {} false (takenGeneral q s)) := carries_deviceFetch _ _ _ carries_takenGeneral
  have v : lineValue (deviceFetch q.who q.line {} false (takenGeneral q s)) q.line = lineValue s q.line := by
    rw [lineValue, a.mem, lineValue]
  refine ⟨_, a.moved wh, ?_⟩
  rw [serve, k, takenGeneral_tracker ws]
  simp only [serveRead, mayReach_takenGeneral, mr, hc, poisoned_of_sound (a.sound wl _ sound), v, doneTxn, k]
  rfl

/-- A masked write merged into a line that only moved changes exactly the bytes of its mask. -/
theorem mergeAtHome_bytes {t : State} {d : Line} {m : BitVec 64} {b : Bool} (w : TablesInv s) (wm : Memory.wf s.mesh.mem = true)
    (k : Carries s t) :
    let u := mergeAtHome l d m b t
    u = { s with harts := u.harts, mesh := u.mesh, out := u.out, free := u.free } ∧ u.mesh.sram = s.mesh.sram ∧
      (∀ i, (u.hart i).bare = (s.hart i).bare) ∧
      ∀ a, bget u.mesh.mem a = if a / 64 = l ∧ m.getLsbD (a % 64) = true then (lineBytes d).getD (a % 64) 0 else bget s.mesh.mem a := by
  intro u
  by_cases z : m = 0
  · have e : u = t := by simp [u, mergeAtHome, z]
    rw [e]
    refine ⟨k.rest, k.sram, k.bare w.1, fun a => ?_⟩
    rw [k.mem, z, if_neg (by simp)]
  · have fin : Carries s (clearReservations l none t) := carries_clearReservations _ _ k
    have c : Carries (putLine l d m (clearReservations l none t)) u := by
      simp only [u, mergeAtHome, if_neg z]
      exact carries_allocL3 _ _ _ (carries_dropCopies _ (carries_refl _))
    have ph : rises (putLine l d m (clearReservations l none t)).harts = true := by
      rw [putLine_harts]
      exact fin.harts w.1
    refine ⟨rest_trans (rest_trans fin.rest putLine_frame) c.rest, c.sram.trans (putLine_rest.2.trans fin.sram), fun i => ?_, fun a => ?_⟩
    · rw [c.bare ph i]
      simpa only [State.hart, putLine_harts] using fin.bare w.1 i
    · have len : (lineBytes d).length = 64 := bytesLE_length ..
      rw [c.mem, putLine_mem, fin.mem, bget_writeMasked wm, len]
      by_cases y : a / 64 = l
      · have x : a - 64 * l = a % 64 := by omega
        have inside : 64 * l ≤ a ∧ a < 64 * l + 64 := by omega
        simp only [Nat.zero_add, x, y, inside, true_and]
      · rw [if_neg (by omega), if_neg fun n => y n.1]

theorem request_devWrite {d : Line} {m : BitVec 64} (k : q.kind = .devWrite d m) (hl : q.line < 2 ^ 31)
    (ho : outstanding q.who s < requestLimit q.who) :
    request q s = if writesBehind q.who s then s.onMesh fun x => { x with behind := x.behind ++ [q] } else takeTracker q s := by
  have a : ¬(dramLines ≤ q.line ∨ requestLimit q.who ≤ outstanding q.who s) := by
    rw [not_or, Nat.not_le, Nat.not_le]
    exact ⟨hl, ho⟩
  rw [request, if_neg a, if_neg (by simp [k]), k]

/-- A device write that its function may make is served in its line's home slice. -/
theorem serve_devWrite {d : Line} {m : BitVec 64} (w : TablesInv s) (wm : Memory.wf s.mesh.mem = true) (k : q.kind = .devWrite d m)
    (hp : q.passed = none) (mr : mayReach s (openAgent q.who) (64 * q.line) = true) :
    let u := serve q (takenGeneral q s)
    u = { s with harts := u.harts, mesh := u.mesh, out := u.out, free := u.free } ∧ u.mesh.sram = s.mesh.sram ∧
      (∀ i, (u.hart i).bare = (s.hart i).bare) ∧
      ∀ a, bget u.mesh.mem a = if a / 64 = q.line ∧ m.getLsbD (a % 64) = true then (lineBytes d).getD (a % 64) 0
        else bget s.mesh.mem a := by
  intro u
  have e : u = (mergeAtHome q.line d m false (takenGeneral q s)).onLine q.line fun ls =>
      { ls with txn := some (doneTxn q (((takenGeneral q s).slice (homeOf q.line)).trackerOf q)) } := by
    simp only [u, serve, k, hp, serveWrite, mayReach_takenGeneral, mr, if_true]
  obtain ⟨rest, more⟩ := mergeAtHome_bytes (l := q.line) (d := d) (m := m) (b := false) w wm (carries_takenGeneral (q := q))
  rw [e]
  exact ⟨rest_trans rest rfl, more⟩

/-! ### The patrol scrub -/

/-- The line that the scrub of a channel checks next is a line of that channel. -/
theorem channelOf_scrubbed {c : Nat} (hc : c < 4) (n : Nat) : channelOf (n / 4 * 16 + 4 * c + n % 4) = c := by
  unfold channelOf
  omega

/-- The scrub of a channel steps to its next line. -/
def scrubStep (c n : Nat) (s : State) : State := s.onMesh fun m => { m with scrubNext := tset 0 m.scrubNext c n }

/-- The scrub of a channel ends its pass. -/
def scrubPassEnd (c : Nat) (s : State) : State := s.onMesh fun m =>
  { m with scrubNext := tset 0 m.scrubNext c 0, scrubPass := tmod 0 m.scrubPass c (· + 1)
           devErrors := m.devErrors.filter fun e => decide (e.1 / 40 ≠ c) }

theorem patrolScrub_inPass {c : Nat} {chk : DramCheck} (n : tget 0 s.mesh.scrubNext c + 1 < 2 ^ 29) :
    patrolScrub c chk s = scrubStep c (tget 0 s.mesh.scrubNext c + 1)
      (dramCheck (tget 0 s.mesh.scrubNext c / 4 * 16 + 4 * c + tget 0 s.mesh.scrubNext c % 4) chk true s) := if_pos n

/-- An uncorrectable line is poisoned in DRAM, and its address recorded. -/
theorem scrubbed_uncorrectable {c n : Nat} (hl : channelOf l = c) :
    let u := scrubStep c n (dramCheck l .uncorrectable true s)
    u.mesh.poison = addSorted l s.mesh.poison ∧ u.mesh.errAddr = BitVec.ofNat 64 (64 * l) ∧
      u.mesh.trouble = setBit s.mesh.trouble 3 ∧ u.mesh.mem = s.mesh.mem ∧ u.mesh.ueCount = tmod 0 s.mesh.ueCount c satInc ∧
      u = { s with mesh := u.mesh } := by
  subst hl
  exact ⟨rfl, rfl, rfl, rfl, rfl, rfl⟩

/-- A corrected error is counted for its device, which the 64th of a pass marks failing. -/
theorem scrubbed_corrected {c n : Nat} {d : Fin 10} {sub rank : Bool} (hl : channelOf l = c) :
    let u := scrubStep c n (dramCheck l (.corrected d sub rank) true s)
    let k := 40 * c + 20 * bit sub + 10 * bit rank + d.val
    u = { s with mesh := u.mesh } ∧ u.mesh.mem = s.mesh.mem ∧ u.mesh.poison = s.mesh.poison ∧
      u.mesh.ceCount = tmod 0 s.mesh.ceCount c satInc ∧
      u.mesh.devErrors = tset 0 s.mesh.devErrors k (tget 0 s.mesh.devErrors k + 1) ∧
      (tget 0 s.mesh.devErrors k + 1 < 64 → u.mesh.trouble = setBit s.mesh.trouble 0 ∧ u.mesh.devFail = s.mesh.devFail) ∧
      (64 ≤ tget 0 s.mesh.devErrors k + 1 → u.mesh.trouble = setBit (setBit s.mesh.trouble 0) 1 ∧
        u.mesh.devFail = tset 0 s.mesh.devFail c (devFailWord d sub rank) ∧ u.mesh.devFailing = setBit s.mesh.devFailing c) := by
  subst hl
  intro u k
  by_cases f : 64 ≤ tget 0 s.mesh.devErrors k + 1
  · simp only [u, k, dramCheck, scrubStep, if_pos f]
    exact ⟨rfl, rfl, rfl, rfl, rfl, fun n => absurd f (Nat.not_le.mpr n), fun _ => by simp only [onMesh_mesh, and_self]⟩
  · simp only [u, k, dramCheck, scrubStep, if_neg f]
    exact ⟨rfl, rfl, rfl, rfl, rfl, fun _ => ⟨rfl, rfl⟩, fun n => absurd n f⟩

theorem patrolScrub_passEnd {c : Nat} {chk : DramCheck} (n : 2 ^ 29 ≤ tget 0 s.mesh.scrubNext c + 1) :
    patrolScrub c chk s = scrubPassEnd c
      (dramCheck (tget 0 s.mesh.scrubNext c / 4 * 16 + 4 * c + tget 0 s.mesh.scrubNext c % 4) chk true s) := if_neg (Nat.not_lt.mpr n)

end

/-- Settles O36: a device's request for an idle line is served as `serve_devRead` and `serve_devWrite` say, and the scrub checks the
next line of its channel. -/
theorem memoryRows : Obligations.MemoryRows := by
  refine ⟨fun s who line chk d m => ⟨rfl, rfl, fun hl ho b => ?_⟩,
    fun s who line d m w hl ho g idle nd mr => ⟨fun first sound => ?_, fun nb wm => ?_⟩,
    fun s c => ⟨fun n => ?_, fun n => ?_⟩, fun s c d sub rank n => ⟨?_, ?_⟩, fun s => ⟨fun nz st => ?_, fun z => ?_⟩,
    fun s h on hr nb => ⟨?_, ?_⟩⟩
  -- a device's requests
  · have r := request_devWrite (q := ⟨who.val, line.toNat, .devWrite d m, {}, none⟩) rfl hl ho
    rw [if_pos b] at r
    exact congrArg (ok s) r
  · have r := request_arrives (q := ⟨who.val, line.toNat, .devRead, {}, none⟩) hl ho (fun c => by cases c) (fun _ _ c => by cases c)
    rw [first, if_neg Bool.false_ne_true, takeTracker_general g, begins_served idle nd] at r
    obtain ⟨u, moved, e⟩ := serve_devRead (q := ⟨who.val, line.toNat, .devRead, {}, none⟩) w rfl rfl mr sound
    exact ⟨u, moved, congrArg (ok s) (r.trans e)⟩
  · have r := request_devWrite (q := ⟨who.val, line.toNat, .devWrite d m, {}, none⟩) rfl hl ho
    rw [nb, if_neg Bool.false_ne_true, takeTracker_general g, begins_served idle nd] at r
    exact ⟨_, congrArg (ok s) r, serve_devWrite w wm rfl rfl mr⟩
  -- the patrol scrub
  · exact congrArg (ok s) (patrolScrub_inPass n)
  · exact congrArg (ok s) (patrolScrub_passEnd n)
  · exact ⟨_, congrArg (ok s) (patrolScrub_inPass n), scrubbed_uncorrectable (channelOf_scrubbed c.isLt _)⟩
  · exact ⟨_, congrArg (ok s) (patrolScrub_inPass n), scrubbed_corrected (channelOf_scrubbed c.isLt _)⟩
  -- the zeroing
  · refine congrArg Host.Outcome.next (if_neg ?_)
    rw [nz]
    rintro (z | ⟨a, b, c⟩)
    · cases z
    · rcases st with st | st | st <;> contradiction
  · exact congrArg Host.Outcome.next (if_pos (.inl z))
  -- the PMC counters
  · exact congrArg (ok s) ((programOrder_of_nothingBefore _ _ nb).trans (if_neg (by simp [hr])))
  · exact congrArg (ok s) ((programOrder_of_nothingBefore _ _ nb).trans (if_neg (by simp [hr])))

end Sys2Proof.Machine
end

section
/-!
PROOFS. KENTER, KRESUME, KEXIT and the asynchronous exit: which case of Table 8.3 each comes to.
-/

namespace Sys2Proof.Machine

section
variable {s : State} {h : HartId} {w : W32}

/-! ### A vendor instruction after the break of the hart's loop -/

theorem vendor_of_none {op : VendorOp} {f : State → State} (d : vendorDecode w = none) : vendor h op w f s = illegal h w s := by
  rw [vendor, d]

theorem vendor_of_op {op : VendorOp} {f : State → State} (d : vendorDecode w = some op) : vendor h op w f s = f s := by
  rw [vendor, d]
  exact if_pos rfl

theorem breakLoop_v (t : TablesInv s) (i : HartId) : ((breakLoop h s).hart i).v = (s.hart i).v := by
  obtain ⟨_, _, _, e⟩ := breakLoop_hart (h := h) t.1 i
  rw [e]

theorem breakLoop_kenc (t : TablesInv s) (i : HartId) : ((breakLoop h s).hart i).kenc = (s.hart i).kenc := by
  obtain ⟨_, _, _, e⟩ := breakLoop_hart (h := h) t.1 i
  rw [e]

theorem breakLoop_getX (t : TablesInv s) (i : HartId) (r : Nat) : ((breakLoop h s).hart i).getX r = (s.hart i).getX r := by
  obtain ⟨_, _, _, e⟩ := breakLoop_hart (h := h) t.1 i
  rw [e]
  rfl

theorem breakLoop_encl {e : Nat} : (breakLoop h s).encl e = s.encl e := by rw [breakLoop_rest]; rfl

theorem enterStatus_breakLoop {v : W64} {r : Bool} : enterStatus (breakLoop h s) v r = enterStatus s v r := by
  rw [breakLoop_rest]; rfl

theorem poisoned_breakLoop {l : Nat} : poisoned (breakLoop h s) l = poisoned s l := by rw [breakLoop_rest]; rfl

/-! ### The status of an entry (Table 8.3) -/

variable {v : W64} {r : Bool}

theorem enterStatus_down (d : s.kp.down = true) : enterStatus s v r = some 3 := by simp [enterStatus, d]

theorem enterStatus_undeclared (d : s.kp.down = false)
    (n : v.toNat = 0 ∨ 256 ≤ v.toNat ∨ (s.lt.enclave v.toNat).isNone = true) : enterStatus s v r = some 1 := by
  have n' : 256 ≤ v.toNat ∨ v.toNat = 0 ∨ (s.lt.enclave v.toNat).isNone = true := by
    rcases n with n | n | n
    · exact .inr (.inl n)
    · exact .inl n
    · exact .inr (.inr n)
  simp only [enterStatus, d, Bool.false_eq_true, if_false, if_pos n']

/-- The status of a declared enclave follows its state. -/
theorem enterStatus_declared (d : s.kp.down = false) (lo : 0 < v.toNat) (hi : v.toNat < 256)
    (dc : (s.lt.enclave v.toNat).isSome = true) :
    enterStatus s v r = match (s.encl v.toNat).st with
      | .free | .building => some 1
      | .running => some 2
      | .suspended => if r then none else some 5
      | .ready => if r then some 6 else none := by
  have n : ¬(256 ≤ v.toNat ∨ v.toNat = 0 ∨ (s.lt.enclave v.toNat).isNone = true) := by
    rintro (n | n | n)
    · omega
    · omega
    · cases e : s.lt.enclave v.toNat <;> simp [e] at dc n
  cases st : (s.encl v.toNat).st <;> simp only [enterStatus, d, Bool.false_eq_true, if_false, if_neg n, st]

/-! ### The instructions, in S-mode -/

/-- The enclave that the word's rs1 names. -/
abbrev enclaveNamed (s : State) (h : HartId) (w : W32) : W64 := (s.hart h).getX (wRs1 w).toNat

section
variable (t : TablesInv s) (hr : (s.hart h).runs = true) (hp : (s.hart h).priv = .s)
include t hr hp

theorem exec_kenter_status {n : Nat} (d : vendorDecode w = some .kenter) (e : enterStatus s (enclaveNamed s h w) false = some n) :
    exec (.kenter h w) s = .next (troubleEdges s (keeperStatus h n (breakLoop h s))) := by
  refine congrArg (ok s) ((instr_of_runs hr).trans ((vendor_of_op d).trans ?_))
  rw [keeperMode, if_pos ((breakLoop_priv t h).trans hp)]
  simp only [breakLoop_getX t, enterStatus_breakLoop, e]

theorem exec_kenter_enters (d : vendorDecode w = some .kenter) (e : enterStatus s (enclaveNamed s h w) false = none) :
    exec (.kenter h w) s = .next (troubleEdges s (enterEnclave h (enclaveNamed s h w).toNat (breakLoop h s))) := by
  refine congrArg (ok s) ((instr_of_runs hr).trans ((vendor_of_op d).trans ?_))
  rw [keeperMode, if_pos ((breakLoop_priv t h).trans hp)]
  simp only [breakLoop_getX t, enterStatus_breakLoop, e]

theorem exec_kresume_status {n : Nat} (d : vendorDecode w = some .kresume) (e : enterStatus s (enclaveNamed s h w) true = some n) :
    exec (.kresume h w) s = .next (troubleEdges s (keeperStatus h n (breakLoop h s))) := by
  refine congrArg (ok s) ((instr_of_runs hr).trans ((vendor_of_op d).trans ?_))
  rw [keeperMode, if_pos ((breakLoop_priv t h).trans hp)]
  simp only [breakLoop_getX t, enterStatus_breakLoop, e]

theorem exec_kresume_enters (d : vendorDecode w = some .kresume) (e : enterStatus s (enclaveNamed s h w) true = none) :
    exec (.kresume h w) s = .next (troubleEdges s (resumeEnclave h (enclaveNamed s h w).toNat (breakLoop h s))) := by
  refine congrArg (ok s) ((instr_of_runs hr).trans ((vendor_of_op d).trans ?_))
  rw [keeperMode, if_pos ((breakLoop_priv t h).trans hp)]
  simp only [breakLoop_getX t, enterStatus_breakLoop, e]

end

theorem keeperMode_elsewhere {f : State → State} (t : TablesInv s) (hp : (s.hart h).priv ≠ .s) :
    keeperMode h w f (breakLoop h s) =
      if (s.hart h).priv = .u ∧ (s.hart h).v = true then virtualInstr h (breakLoop h s) else illegal h w (breakLoop h s) := by
  simp only [keeperMode, breakLoop_priv t, breakLoop_v t, if_neg hp, Bool.and_eq_true, decide_eq_true_eq]

theorem resumeEnclave_sound {e : Nat} (p : (linesOf (s.encl e).save.toNat 576).any (poisoned s) = false) :
    resumeEnclave h e (breakLoop h s) = restoreSaved h (s.encl e).save.toNat (enterEnclave h e (breakLoop h s)) := by
  simp only [resumeEnclave, breakLoop_encl, poisoned_breakLoop]
  rw [if_neg (by simpa using p)]

theorem resumeEnclave_poisoned {e : Nat} (p : (linesOf (s.encl e).save.toNat 576).any (poisoned s) = true) :
    resumeEnclave h e (breakLoop h s) =
      keeperStatus h 8 ((poisonConsumed (breakLoop h s)).onEncl e fun x => { x with st := .ready }) := by
  simp only [resumeEnclave, breakLoop_encl, poisoned_breakLoop]
  rw [if_pos p]

/-! ### The scrub of an exit -/

theorem tget_filter {α : Type} {d : α} {t : Tab α} {p : Nat → Bool} {i : Nat} :
    tget d (t.filter fun e => p e.1) i = if p i then tget d t i else d := by
  induction t with
  | nil => simp [tget]
  | cons e t ih =>
    obtain ⟨j, v⟩ := e
    by_cases pj : p j = true
    · rw [List.filter_cons_of_pos (by exact pj), tget, tget, ih]
      by_cases ji : j = i
      · subst ji; simp [pj]
      · simp [ji]
    · rw [List.filter_cons_of_neg (by exact pj), ih, tget]
      by_cases ji : j = i
      · subst ji; simp [pj]
      · simp [ji]

theorem scrub_getX (x : Hart) (i : Nat) : x.scrub.getX i = if i = 10 ∨ i = 11 then x.getX i else 0 := by
  simp only [Hart.getX, Hart.scrub, tget_filter (p := fun i => decide (i = 10 ∨ i = 11)), decide_eq_true_eq]
  by_cases z : i = 0
  · simp [z]
  · simp [z]

theorem exitValue_eq (a0 : W64) : exitValue a0 = if 0xFFFFFFFFFFFFFF00#64 ≤ a0 then 0xFFFFFFFFFFFFFF07#64 else a0 := by
  rw [exitValue, show ksValue 7 = 0xFFFFFFFFFFFFFF07#64 from by decide]

theorem kexit_inside (u : (s.hart h).priv = .u) (k : (s.hart h).kenc ≠ 0) :
    kexit h w s = leaveEnclave h .ready (s.onHart h fun y => y.setX 10 (exitValue (y.getX 10))) := if_pos ⟨u, k⟩

theorem kexit_outside (o : (s.hart h).priv ≠ .u ∨ (s.hart h).kenc = 0) : kexit h w s = illegal h w s := by
  refine if_neg fun ⟨u, k⟩ => ?_
  rcases o with o | o
  · exact o u
  · exact k o

end

/-- Settles O37: `enterStatus` names the case of Table 8.3, by which KENTER and KRESUME return a status or enter. -/
theorem enclaveEntryAndExit : Obligations.EnclaveEntryAndExit := by
  refine ⟨fun s h w hr d => ?_, by decide, by decide, by decide, by decide, by decide, by decide,
    fun s h w t hr hp => ⟨fun d => ⟨fun dn => ?_, fun up n => ?_, fun up lo hi dc => ⟨fun st => ?_, fun st => ?_, fun st => ?_, fun st => ?_⟩⟩,
      fun d => ⟨fun dn => ?_, fun up n => ?_, fun up lo hi dc =>
        ⟨fun st sound => ?_, fun st bad => ?_, fun st => ?_, fun st => ?_, fun st => ?_⟩⟩⟩,
    fun s h w t hr hp => ⟨fun d => ?_, fun d => ?_⟩, fun s h w t hr d => ⟨fun u k => ?_, fun o => ?_⟩,
    fun s h c k nr p => ?_, fun s h c o => ?_, fun x => ⟨fun i a b => ?_, ?_, ?_, rfl, rfl⟩, exitValue_eq⟩
  · exact ⟨congrArg (ok s) ((instr_of_runs hr).trans (vendor_of_none d)), congrArg (ok s) ((instr_of_runs hr).trans (vendor_of_none d)),
      congrArg (ok s) ((instr_of_runs hr).trans (vendor_of_none d))⟩
  -- KENTER in S-mode
  · exact exec_kenter_status t hr hp d (enterStatus_down dn)
  · exact exec_kenter_status t hr hp d (enterStatus_undeclared up n)
  · exact exec_kenter_enters t hr hp d ((enterStatus_declared up lo hi dc).trans (by rw [st]; rfl))
  · exact exec_kenter_status t hr hp d ((enterStatus_declared up lo hi dc).trans (by rcases st with st | st <;> rw [st]))
  · exact exec_kenter_status t hr hp d ((enterStatus_declared up lo hi dc).trans (by rw [st]))
  · exact exec_kenter_status t hr hp d ((enterStatus_declared up lo hi dc).trans (by rw [st]; rfl))
  -- KRESUME in S-mode
  · exact exec_kresume_status t hr hp d (enterStatus_down dn)
  · exact exec_kresume_status t hr hp d (enterStatus_undeclared up n)
  · rw [exec_kresume_enters t hr hp d ((enterStatus_declared up lo hi dc).trans (by rw [st]; rfl)), resumeEnclave_sound sound]
  · rw [exec_kresume_enters t hr hp d ((enterStatus_declared up lo hi dc).trans (by rw [st]; rfl)), resumeEnclave_poisoned bad]
  · exact exec_kresume_status t hr hp d ((enterStatus_declared up lo hi dc).trans (by rcases st with st | st <;> rw [st]))
  · exact exec_kresume_status t hr hp d ((enterStatus_declared up lo hi dc).trans (by rw [st]))
  · exact exec_kresume_status t hr hp d ((enterStatus_declared up lo hi dc).trans (by rw [st]; rfl))
  -- outside S-mode
  · exact congrArg (ok s) ((instr_of_runs hr).trans ((vendor_of_op d).trans (keeperMode_elsewhere t hp)))
  · exact congrArg (ok s) ((instr_of_runs hr).trans ((vendor_of_op d).trans (keeperMode_elsewhere t hp)))
  -- KEXIT
  · exact congrArg (ok s) ((instr_of_runs hr).trans ((vendor_of_op d).trans
      (kexit_inside ((breakLoop_priv t h).trans u) (by rw [breakLoop_kenc t]; exact k))))
  · exact congrArg (ok s) ((instr_of_runs hr).trans ((vendor_of_op d).trans
      (kexit_outside (by rw [breakLoop_priv t, breakLoop_kenc t]; exact o))))
  -- the asynchronous exit
  · exact congrArg (ok s) (if_pos (by simpa [nr, p] using k))
  · refine (congrArg (ok s) (if_neg ?_)).trans (congrArg Host.Outcome.next (troubleEdges_self s))
    rcases o with o | o <;> simp [o]
  -- the scrub
  · rw [scrub_getX, if_neg (by omega)]
  · rw [scrub_getX, if_pos (.inl rfl)]
  · rw [scrub_getX, if_pos (.inr rfl)]

end Sys2Proof.Machine
end

section
/-!
PROOFS. Feeds, hold-up and the power-fail commit, POL faults, the die temperature, and the start of a POWER-ON reset.
-/

namespace Sys2Proof.Machine

section
variable {s : State} {f g : Feed} {v : Int}

/-! ### Feeds -/

theorem exec_feed_inRange {t : State} (lo : -8000 ≤ v) (hi : v ≤ 10000) :
    (if v < -8000 ∨ 10000 < v then .fault .absoluteMaximum else ok s t : Host.Outcome State Fault Refusal) = ok s t :=
  if_neg (by omega)

theorem feed_onFeed_other {k : FeedState → FeedState} (ne : g ≠ f) : (s.onFeed f k).feed g = s.feed g := by
  cases f with
  | a => cases g with
    | a => exact absurd rfl ne
    | b => rfl
  | b => cases g with
    | a => rfl
    | b => exact absurd rfl ne

theorem feed_onFeed_same {k : FeedState → FeedState} : (s.onFeed f k).feed f = k (s.feed f) := by
  cases f with
  | a => rfl
  | b => rfl

/-- A feed is present as long as another than the one that changes is valid. -/
theorem feedPresent_onFeed {k : FeedState → FeedState} (ne : g ≠ f) (h : (s.feed g).ok = true) : feedPresent (s.onFeed f k) = true := by
  have valid : ((s.onFeed f k).feed g).ok = true := by rwa [feed_onFeed_other ne]
  cases g with
  | a => exact (congrArg (· || _) valid).trans (Bool.true_or _)
  | b => exact (congrArg (_ || ·) valid).trans (Bool.or_true _)

theorem feedPresent_psEvent {b : Nat} : feedPresent (psEvent b s) = feedPresent s := by
  unfold psEvent
  split <;> rfl

theorem feedPresent_feedLost : feedPresent (feedLost f s) = feedPresent s := by
  unfold feedLost
  split
  · exact feedPresent_psEvent
  · rfl

theorem bothLost_of_present (h : feedPresent s = true) : bothLost s = s := by
  rw [bothLost, h]
  exact if_pos rfl

end

/-- Settles O1: while the other feed is valid, `bothLost` has nothing to do. -/
theorem feedChanges : Obligations.FeedChanges := by
  refine ⟨fun f v s lo hi o => ?_, fun f g v s lo hi ne hg hf => ?_, fun f g v s lo hi ne hg => ?_, fun f g v s lo hi ne hg => ?_,
    fun f g s ne hg => ?_⟩
  · have e : exec (.feedBecomesValid f v) s = .next (feedValid f v s) := if_neg (by omega)
    rw [e, feedValid, if_pos ⟨lo, hi, o⟩]
  · have present := feedPresent_onFeed (k := fun x => { x with ok := false, volts := v }) ne hg
    refine (exec_feed_inRange (by omega) (by omega)).trans (congrArg (ok s) ?_)
    rw [feedInvalid, if_pos ⟨hi, lo⟩, hf]
    exact bothLost_of_present (feedPresent_feedLost.trans present)
  · refine (exec_feed_inRange (by omega) (by omega)).trans (congrArg (ok s) ?_)
    rw [if_pos lo]
    exact bothLost_of_present (feedPresent_psEvent.trans (feedPresent_onFeed ne hg))
  · refine (exec_feed_inRange lo (by omega)).trans (congrArg (ok s) ?_)
    rw [if_pos hi]
    exact bothLost_of_present (feedPresent_psEvent.trans (feedPresent_onFeed ne hg))
  · exact congrArg (ok s) (bothLost_of_present (feedPresent_psEvent.trans (feedPresent_onFeed ne hg)))

section
variable {s : State} {f g : Feed} {v : Int}

/-! ### Switching off -/

/-- Nothing but the feeds, the commit's mark and its cause, and the lands outlast the power of the module. -/
theorem switchOff_pwr : (switchOff s).pwr =
    { feedA := s.pwr.feedA, feedB := s.pwr.feedB, commitMark := s.pwr.commitMark, nextCause := s.pwr.nextCause
      holdupReady := s.pwr.holdupReady, perst := s.pwr.perst, dieTemp := s.pwr.dieTemp } := by
  have k (us : List Nat) : PowerKept s (us.foldl (fun t u => endSession u t) (haltWork s)) :=
    powerKept_foldl (fun t u => powerKept_endSession u (powerKept_refl t)) (powerKept_haltWork (powerKept_refl s))
  simp only [switchOff, (k _).pwr]

theorem switchOff_harts : (switchOff s).harts = [] := by
  simp only [switchOff]

/-- The other feed gone too, the module switches off without a commit. -/
theorem bothLost_of_gone (p : feedPresent s = false) (c : s.pwr.commitArmed = false) (o : s.pwr.supply = .on) :
    bothLost s = switchOff s := by
  rw [bothLost, p, c, o]
  exact if_neg (by decide)

/-- A feed that is lost after the other, with the commit not armed, leaves the module off. -/
theorem bothLost_onFeed {k : FeedState → FeedState} {t : State} (ne : g ≠ f) (hg : (s.feed g).ok = false)
    (on : s.pwr.supply = .on) (c : s.pwr.commitArmed = false) (lost : ∀ x, (k x).ok = false)
    (kept : t.pwr.feedA = (s.onFeed f k).pwr.feedA ∧ t.pwr.feedB = (s.onFeed f k).pwr.feedB ∧
      t.pwr.commitArmed = s.pwr.commitArmed ∧ t.pwr.supply = s.pwr.supply) :
    (bothLost t).pwr.supply = .off ∧ (bothLost t).harts = [] := by
  obtain ⟨ka, kb, kc, ks⟩ := kept
  have p : feedPresent t = false := by
    have gone : ((s.onFeed f k).feed f).ok = false ∧ ((s.onFeed f k).feed g).ok = false := by
      rw [feed_onFeed_same, feed_onFeed_other ne]
      exact ⟨lost _, hg⟩
    rw [feedPresent, ka, kb]
    cases f with
    | a => cases g with
      | a => exact absurd rfl ne
      | b => exact Bool.or_eq_false_iff.mpr gone
    | b => cases g with
      | a => exact Bool.or_eq_false_iff.mpr gone.symm
      | b => exact absurd rfl ne
  rw [bothLost_of_gone p (kc.trans c) (ks.trans on)]
  exact ⟨by rw [switchOff_pwr], switchOff_harts⟩

/-- What a record of trouble leaves of the power subsystem. -/
theorem psEvent_keeps {b : Nat} : (psEvent b s).pwr.feedA = s.pwr.feedA ∧ (psEvent b s).pwr.feedB = s.pwr.feedB ∧
    (psEvent b s).pwr.commitArmed = s.pwr.commitArmed ∧ (psEvent b s).pwr.supply = s.pwr.supply := by
  unfold psEvent
  split <;> exact ⟨rfl, rfl, rfl, rfl⟩

theorem feedLost_keeps : (feedLost f s).pwr.feedA = s.pwr.feedA ∧ (feedLost f s).pwr.feedB = s.pwr.feedB ∧
    (feedLost f s).pwr.commitArmed = s.pwr.commitArmed ∧ (feedLost f s).pwr.supply = s.pwr.supply := by
  unfold feedLost
  split
  · exact psEvent_keeps
  · exact ⟨rfl, rfl, rfl, rfl⟩

theorem onFeed_armed {k : FeedState → FeedState} : (s.onFeed f k).pwr.commitArmed = s.pwr.commitArmed ∧
    (s.onFeed f k).pwr.supply = s.pwr.supply := by cases f <;> exact ⟨rfl, rfl⟩

/-- A step that leaves the supply off and no hart state is seen so after its edges. -/
theorem switchedOff_ok {t : State} (h : t.pwr.supply = .off ∧ t.harts = []) :
    ∃ u, ok s t = .next u ∧ u.pwr.supply = .off ∧ u.harts = [] :=
  ⟨_, rfl, by rw [troubleEdges_pwr]; exact h.1, by rw [troubleEdges_harts]; exact h.2⟩

end

/-- Settles O2: each of the four rows ends in `bothLost` with no feed left. -/
theorem bothFeedsGone : Obligations.BothFeedsGone := by
  intro f g s ne hg on c
  have event {k : FeedState → FeedState} {b : Nat} (lost : ∀ x, (k x).ok = false) :
      (bothLost (psEvent b (s.onFeed f k))).pwr.supply = .off ∧ (bothLost (psEvent b (s.onFeed f k))).harts = [] :=
    bothLost_onFeed ne hg on c lost
      ⟨psEvent_keeps.1, psEvent_keeps.2.1, psEvent_keeps.2.2.1.trans onFeed_armed.1, psEvent_keeps.2.2.2.trans onFeed_armed.2⟩
  refine ⟨fun v lo hi => ?_, fun v lo hi => ?_, fun v lo hi => ?_, switchedOff_ok (event fun _ => rfl)⟩
  · rw [show exec (.feedBecomesInvalid f v) s = ok s (feedInvalid f v s) from exec_feed_inRange (by omega) (by omega)]
    refine switchedOff_ok ?_
    rw [feedInvalid, if_pos ⟨hi, lo⟩]
    refine bothLost_onFeed (k := fun x => { x with ok := false, volts := v }) ne hg on c (fun _ => rfl) ?_
    split
    · exact ⟨feedLost_keeps.1, feedLost_keeps.2.1, feedLost_keeps.2.2.1.trans onFeed_armed.1,
        feedLost_keeps.2.2.2.trans onFeed_armed.2⟩
    · exact ⟨rfl, rfl, onFeed_armed⟩
  · rw [show exec (.feedReversed f v) s = ok s _ from exec_feed_inRange lo (by omega), if_pos hi]
    exact switchedOff_ok (event fun _ => rfl)
  · rw [show exec (.feedOvervoltage f v) s = ok s _ from exec_feed_inRange (by omega) hi, if_pos lo]
    exact switchedOff_ok (event fun _ => rfl)

section
variable {s : State}

/-! ### The commit -/

theorem powerFailCommit_pwr {cause : Nat} : (powerFailCommit cause s).pwr.supply = .off ∧ (powerFailCommit cause s).pwr.stage = .none ∧
    (powerFailCommit cause s).pwr.commitMark = false ∧ (powerFailCommit cause s).pwr.nextCause = cause ∧
    (powerFailCommit cause s).harts = [] := by
  simp only [powerFailCommit, switchOff_pwr, switchOff_harts, onPwr_pwr, and_self]

theorem commitDue_of_armed (p : feedPresent s = false) (a : s.pwr.commitArmed = true) (o : s.pwr.supply = .on) : commitDue s = true := by
  simp [commitDue, p, a, o]

theorem tornCommit_pwr : (tornCommit s).pwr.supply = .off ∧ (tornCommit s).pwr.holdupReady = false := by
  simp only [tornCommit, onPwr_pwr, switchOff_pwr, and_self]

end

/-- Settles O3: with the commit armed and no feed left `commitDue` picks the commit, or the torn one; the rails are off after
either. -/
theorem holdupAndCommit : Obligations.HoldupAndCommit := by
  refine ⟨fun s p => congrArg Host.Outcome.next (if_pos p), fun s p a o => ⟨congrArg (ok s) (if_pos (commitDue_of_armed p a o)), powerFailCommit_pwr⟩,
    fun s p a o => ⟨congrArg (ok s) (if_pos (commitDue_of_armed p a o)), tornCommit_pwr⟩, fun s p a => congrArg (ok s) ?_⟩
  rw [if_neg (by simp [commitDue, a]), if_neg (by simp [p])]

end Sys2Proof.Machine
end

section
/-!
PROOFS. POL faults, the die temperature and the power cap, and the start of a POWER-ON reset.
-/

namespace Sys2Proof.Machine

section
variable {s : State} {v : Int} {w : Nat}

/-! ### POL faults -/

theorem polFault_starting (h : s.pwr.supply = .starting) : polFault s = lockOut s := by simp only [polFault, h]

theorem polFault_unarmed (h : s.pwr.supply = .on) (a : s.pwr.commitArmed = false) :
    polFault s = switchOff ((psSet 9 s).onPwr fun p => { p with nextCause := 3 }) := by
  have a' : (psSet 9 s).pwr.commitArmed = false := a
  simp only [polFault, h, a', Bool.false_eq_true, if_false]

theorem polFault_armed (h : s.pwr.supply = .on) (a : s.pwr.commitArmed = true) : polFault s = powerFailCommit 3 (psSet 9 s) := by
  have a' : (psSet 9 s).pwr.commitArmed = true := a
  simp only [polFault, h, a', if_true]

/-! ### The throttle and the power cap -/

/-- Throttling goes on: a bit of the trouble record is set at its start alone. -/
theorem throttleStep_hot (hv : s.lt.throttleC ≤ v) (hc : 1000 < s.pwr.coreMHz) (ht : s.pwr.throttling = true) :
    throttleStep v s = s.onPwr fun p => { p with dieTemp := v, coreMHz := max 1000 (p.coreMHz - 100) } := by
  have m : min s.pwr.coreMHz 1000 = 1000 := Nat.min_eq_right (Nat.le_of_lt hc)
  simp only [throttleStep, hv, ht, State.onPwr, m, decide_true, Bool.not_true, Bool.and_false, setBitIf, Bool.false_eq_true, if_false, if_true]

theorem throttleStep_cool (hv : v < s.lt.throttleC - 3) :
    throttleStep v s = s.onPwr fun p =>
      { p with dieTemp := v, throttling := false, coreMHz := min (min 3000 p.capMHz) (p.coreMHz + 100) } := by
  have n : ¬ s.lt.throttleC ≤ v := by omega
  simp only [throttleStep, n, hv, decide_false, Bool.false_and, setBitIf, Bool.false_eq_true, if_false, if_true]

/-- Over the cap its limit falls by 100 MHz, and the core clock with it. -/
theorem powerCapInterval_over (hw : 10 * s.lt.powerCapW < w) (lo : 200 ≤ s.pwr.capMHz) (hi : s.pwr.capMHz ≤ 3000) :
    (powerCapInterval w s).pwr.capMHz = s.pwr.capMHz - 100 ∧ (powerCapInterval w s).pwr.coreMHz ≤ (powerCapInterval w s).pwr.capMHz ∧
      (powerCapInterval w s).pwr.capping = true ∧ (powerCapInterval w s).pwr.inputDeciW = w := by
  have cap : max 100 (s.pwr.capMHz - 100) = s.pwr.capMHz - 100 := by omega
  have falls : s.pwr.capMHz - 100 < s.pwr.capMHz := by omega
  simp only [powerCapInterval, if_pos hw, cap, onPwr_pwr, if_pos falls, decide_eq_true_eq, true_and, and_true]
  exact ⟨Nat.min_le_right _ _, by omega⟩

theorem powerCapInterval_under (hw : w ≤ 10 * s.lt.powerCapW) :
    (powerCapInterval w s).pwr.capMHz = min 3000 (s.pwr.capMHz + 100) ∧ (powerCapInterval w s).pwr.inputDeciW = w := by
  simp only [powerCapInterval, if_neg (Nat.not_lt.mpr hw), onPwr_pwr, and_self]

end

/-- Settles O4: a POL fault by the supply's state, and each row of the temperature and the cap by its thresholds. -/
theorem polFaultsAndTemperature : Obligations.PolFaultsAndTemperature := by
  refine ⟨fun s h => ⟨congrArg (ok s) (if_pos h), congrArg (ok s) (polFault_starting h), rfl, switchOff_harts (s := s)⟩,
    fun s h a => congrArg (ok s) (polFault_unarmed h a), fun s h a => congrArg (ok s) (polFault_armed h a),
    fun s h p => congrArg Host.Outcome.next (if_pos ⟨h, p⟩), fun s v h hv => congrArg (ok s) (if_pos ⟨hv, h⟩),
    fun s v => rfl, fun s v => rfl, fun s v => rfl, fun s v h hv hc ht => ?_, fun s v h hv _ => ?_, fun s w h hw lo hi => ?_, fun s w h hw => ?_⟩
  · exact congrArg (ok s) ((if_pos h).trans (throttleStep_hot hv hc ht))
  · exact congrArg (ok s) ((if_pos h).trans (throttleStep_cool hv))
  · refine ⟨_, congrArg (ok s) (if_pos h), ?_⟩
    rw [troubleEdges_pwr]
    exact powerCapInterval_over hw lo hi
  · refine ⟨_, congrArg (ok s) (if_pos h), ?_⟩
    rw [troubleEdges_pwr]
    exact powerCapInterval_under hw

section
variable {s : State}

/-! ### The start of a POWER-ON reset -/

/-- Trouble that stands on a feed is all that the present conditions record. -/
theorem presentConditions_eq (f : Feed) : ∃ x, presentConditions f s = s.onPwr fun p => { p with trouble := x } := by
  unfold presentConditions psSet
  dsimp only
  split <;> split <;> split <;> exact ⟨_, rfl⟩

/-- The record of a POWER-ON reset, but for the trouble bits. -/
theorem powerOn_eq (low : Bool) : ∃ x, powerOn low s = s.onPwr fun p =>
    { p with supply := .starting, stage := .none, cause := p.nextCause, nextCause := 1, modResets := 0, owesReplay := true, trouble := x } := by
  obtain ⟨a, ea⟩ := presentConditions_eq (s := s.onPwr fun p =>
    { p with supply := .starting, stage := .none, cause := p.nextCause, nextCause := 1, modResets := 0, owesReplay := true
             trouble := setBitIf low p.trouble 8 }) .a
  obtain ⟨b, eb⟩ := presentConditions_eq (s := (s.onPwr fun p =>
    { p with supply := .starting, stage := .none, cause := p.nextCause, nextCause := 1, modResets := 0, owesReplay := true
             trouble := setBitIf low p.trouble 8 }).onPwr fun p => { p with trouble := a }) .b
  refine ⟨b, ?_⟩
  rw [powerOn, ea, eb]
  rfl

/-- A TRIP site as the rails' start leaves it. -/
def TripSite.poweredOn (x : TripSite) : TripSite := { x with asserted := true, cause := 4, channel := 0xFF, ct := 0 }

theorem rises_foldl_tmod {α : Type} [DecidableEq α] {d : α} {f : α → α} {t : Tab α} {ns : List Nat} (w : rises t = true) :
    rises (ns.foldl (fun t n => tmod d t n f) t) = true := by
  induction ns generalizing t with
  | nil => exact w
  | cons n ns ih => exact ih (rises_tmod w)

theorem tget_foldl_tmod_other {α : Type} [DecidableEq α] {d : α} {f : α → α} {t : Tab α} {ns : List Nat} {n : Nat} (m : n ∉ ns) :
    tget d (ns.foldl (fun t n => tmod d t n f) t) n = tget d t n := by
  induction ns generalizing t with
  | nil => rfl
  | cons k ns ih =>
    rw [List.mem_cons, not_or] at m
    rw [List.foldl_cons, ih m.2, tget_tmod_other m.1]

/-- An idempotent change of each of some numbers leaves every one of them changed. -/
theorem tget_foldl_tmod {α : Type} [DecidableEq α] {d : α} {f : α → α} (id : ∀ x, f (f x) = f x) {t : Tab α} {ns : List Nat} {n : Nat}
    (w : rises t = true) (m : n ∈ ns) : tget d (ns.foldl (fun t n => tmod d t n f) t) n = f (tget d t n) := by
  induction ns generalizing t with
  | nil => cases m
  | cons k ns ih =>
    rw [List.foldl_cons]
    by_cases later : n ∈ ns
    · rw [ih (rises_tmod w) later]
      by_cases e : n = k
      · subst e; rw [tget_tmod_same w, id]
      · rw [tget_tmod_other e]
    · obtain rfl : n = k := (List.mem_cons.mp m).resolve_right later
      rw [tget_foldl_tmod_other later, tget_tmod_same w]

theorem railsGood_sites {id : BitVec 6} {high : Bool} :
    (railsGood id high s).sd.sites = (List.range 64).foldl (fun t n => tmod {} t n TripSite.poweredOn) s.sd.sites := by
  have e : TripSite.poweredOn = fun x => { x with asserted := true, cause := 4, channel := 0xFF, ct := 0 } := rfl
  rw [railsGood, onPwr_sd, onSd_sd, e]

theorem railsGood_site {id : BitVec 6} {high : Bool} {n : Nat} (w : TablesInv s) (hn : n < 64) :
    (railsGood id high s).site n = (s.site n).poweredOn := by
  obtain ⟨_, _, _, _, _, _, _, _, ws, _⟩ := w
  rw [State.site, railsGood_sites, tget_foldl_tmod (f := TripSite.poweredOn) (fun _ => rfl) ws (List.mem_range.mpr hn), State.site]

end

end Sys2Proof.Machine

namespace Sys2Proof
open Machine

/-- Settles O5: the start keeps all but the power subsystem's record, and the good rails change every TRIP site alike. -/
theorem powerOn : Obligations.PowerOn := by
  refine ⟨fun s low h p => ?_, fun s id high h w => ?_⟩
  · obtain ⟨x, e⟩ := powerOn_eq (s := s) low
    refine ⟨_, congrArg (ok s) ((if_pos ⟨h, p⟩).trans e), ?_⟩
    simp only [troubleEdges_pwr, troubleEdges_sd, troubleEdges_rings, troubleEdges_up, troubleEdges_lb, onPwr_pwr, onPwr_sd, onPwr_rings,
      onPwr_up, onPwr_lb, and_self]
  · refine ⟨_, congrArg (ok s) (if_pos h), ?_⟩
    have site (n : Nat) (hn : n < 64) : (troubleEdges s (railsGood id high s)).site n = (s.site n).poweredOn := by
      rw [← railsGood_site w hn, State.site, State.site, troubleEdges_sd]
    refine ⟨?_, ?_, ?_, ?_, fun n hn => by rw [site n hn]; exact ⟨rfl, rfl⟩, ?_, ?_⟩ <;>
      simp only [troubleEdges_pwr, troubleEdges_up, troubleEdges_rings, railsGood, onPwr_pwr, onPwr_up, onPwr_rings, onSd_up, onSd_rings]

end Sys2Proof
end

section
/-!
PROOFS. The boot from ROM start to ring service: the case each row comes to, and the stage it leaves.
-/

namespace Sys2Proof.Machine

section
variable {s : State}

/-- What each step of a fold keeps, the fold keeps. -/
theorem foldl_keeps {α β : Type} {f : State → α → State} {p : State → β} (h : ∀ t a, p (f t a) = p t) (l : List α) :
    p (l.foldl f s) = p s :=
  List.foldlRecOn (motive := fun t => p t = p s) l _ rfl fun t kept a _ => (h t a).trans kept

theorem forAll_keeps {α β : Type} {f : α → State → State} {p : State → β} (h : ∀ a t, p (f a t) = p t) (l : List α) :
    p (forAll l f s) = p s := foldl_keeps (fun t a => h a t) l

/-! ### Daymark mode -/

theorem feedLost_stage {f : Feed} : (feedLost f s).pwr.stage = s.pwr.stage := by
  unfold feedLost psEvent
  split <;> (try split) <;> rfl

theorem feedLost_up {f : Feed} : (feedLost f s).up = s.up := by
  unfold feedLost psEvent
  split <;> (try split) <;> rfl

theorem judgeFeeds_stage : (judgeFeeds s).pwr.stage = s.pwr.stage := by
  refine foldl_keeps (p := fun t => t.pwr.stage) (fun t f => ?_) _
  split
  · rfl
  · exact feedLost_stage

theorem judgeFeeds_up : (judgeFeeds s).up = s.up := by
  refine foldl_keeps (p := State.up) (fun t f => ?_) _
  split
  · rfl
  · exact feedLost_up

theorem enterDaymark_mode {cause : Nat} : (enterDaymark cause s).pwr.stage = .daymark ∧ (enterDaymark cause s).up.daymark = true ∧
    (enterDaymark cause s).up.daymarkCause = cause := by
  simp only [enterDaymark, judgeFeeds_stage, judgeFeeds_up, startPorts, onUp_pwr, onPwr_pwr, onUp_up, onPwr_up, and_self]

/-- ROM start with DAYMARK# low enters Daymark mode, whatever slots there are. -/
theorem romStart_daymark {e : Bool} (low : s.pwr.daymarkPin = false) : ∃ t, romStart e s = enterDaymark 1 t := by
  have pin {t : State} (k : t.pwr.daymarkPin = s.pwr.daymarkPin) (a b : State) : (if !t.pwr.daymarkPin then a else b) = a := by
    rw [k, low]
    rfl
  unfold romStart psSet
  dsimp only
  split <;> exact ⟨_, pin rfl _ _⟩

/-! ### The light table, the NOR and DRAM -/

/-- The slot being booted takes its marks. -/
def marked (k : Slot) (s : State) : State :=
  s.onUp fun u => u.onSlot k fun r => { r with booting := true, attempts := if r.st = .trial then r.attempts + 1 else r.attempts }

/-- A slot's table is taken or refused, as its check says. -/
def takeTable (k : Slot) (m : State) : LightCheck → State
  | .good lt => applyTable k lt (setResult k 0 m)
  | .code n => slotFails k true (setResult k n m)

theorem lightTableCheck_read {k : Slot} : lightTableCheck k false s =
    if firmwareVerifies (marked k s) k then takeTable k (marked k s) (slotLight (marked k s) k) else slotFails k false (marked k s) := by
  unfold lightTableCheck
  rw [← marked]
  generalize marked k s = m
  dsimp only
  cases slotLight m k <;> cases firmwareVerifies m k <;>
    simp only [takeTable, Bool.not_true, Bool.not_false, Bool.false_eq_true, if_false, if_true]

/-- A change of harts alone keeps the other parts. -/
theorem forAll_onHart_pwr {g : HartId → Hart → Hart} : (forAll allHarts (fun h t => t.onHart h (g h)) s).pwr = s.pwr :=
  forAll_keeps (p := State.pwr) (f := fun h t => t.onHart h (g h)) (fun _ _ => rfl) allHarts
theorem forAll_onHart_lb {g : HartId → Hart → Hart} : (forAll allHarts (fun h t => t.onHart h (g h)) s).lb = s.lb :=
  forAll_keeps (p := State.lb) (f := fun h t => t.onHart h (g h)) (fun _ _ => rfl) allHarts
theorem forAll_onHart_kp {g : HartId → Hart → Hart} : (forAll allHarts (fun h t => t.onHart h (g h)) s).kp = s.kp :=
  forAll_keeps (p := State.kp) (f := fun h t => t.onHart h (g h)) (fun _ _ => rfl) allHarts
theorem forAll_onHart_rings {g : HartId → Hart → Hart} : (forAll allHarts (fun h t => t.onHart h (g h)) s).rings = s.rings :=
  forAll_keeps (p := State.rings) (f := fun h t => t.onHart h (g h)) (fun _ _ => rfl) allHarts
theorem forAll_onHart_up {g : HartId → Hart → Hart} : (forAll allHarts (fun h t => t.onHart h (g h)) s).up = s.up :=
  forAll_keeps (p := State.up) (f := fun h t => t.onHart h (g h)) (fun _ _ => rfl) allHarts

theorem dramTrained_stage : (dramTrained s).pwr.stage = .dram ∧ (dramTrained s).pwr.commitArmed = true ∧
    (dramTrained s).kp.started = true ∧ (dramTrained s).lb.opened = true ∧ (dramTrained s).rings = s.rings ∧
    (dramTrained s).up = s.up := by
  simp only [dramTrained, forAll_onHart_pwr, forAll_onHart_kp, forAll_onHart_lb, forAll_onHart_rings, forAll_onHart_up, startMonitor, makeKey,
    onPwr_pwr, onPwr_kp, onPwr_lb, onPwr_rings, onPwr_up, onLb_lb, onLb_kp, onLb_rings, onLb_up, onMesh_kp, onMesh_rings, onMesh_up,
    onKp_kp, onKp_rings, onKp_up, and_self]

/-! ### Replay and ring service -/

theorem logbookReplay_stage : (logbookReplay s).pwr.stage = .replayed ∧ (logbookReplay s).mesh.zeroed = true ∧
    (logbookReplay s).lb.replaying = false := by
  simp only [logbookReplay, onPwr_pwr, onPwr_mesh, onPwr_lb, onRings_mesh, onRings_lb, onMesh_mesh, onMesh_lb, onLb_lb, and_self]

theorem ringService_stage : (ringService s).pwr.stage = .service ∧ (ringService s).pwr.slow = false ∧ (ringService s).lb = s.lb := by
  have lanes (ns : List Nat) (t : State) : (ns.foldl (fun t n => t.onLane n fun l => { l with st := .detect }) t).lb = t.lb :=
    foldl_keeps (f := fun t n => t.onLane n fun l => { l with st := .detect }) (p := State.lb) (fun _ _ => rfl) ns
  simp only [ringService, forAll_onHart_pwr, forAll_onHart_lb, onRings_pwr, onPwr_pwr, onRings_lb, onPwr_lb, lanes, startPorts, settleSlot,
    onUp_lb, and_self]

end

/-- Settles O6: each row of the boot in its stage comes to its effect, whose frame gives the stage that it leaves. -/
theorem bootSequence : Obligations.BootSequence := by
  refine ⟨fun s e r => congrArg (ok s) (if_pos r), fun s e r low => ?_, fun s k st hd => ⟨?_, ?_⟩, fun s on few => ?_,
    fun s st => ⟨congrArg (ok s) (if_pos st), dramTrained_stage⟩, fun s st => ⟨congrArg (ok s) (if_pos st), logbookReplay_stage⟩,
    fun s st => ⟨congrArg (ok s) (if_pos st), ringService_stage⟩, fun s on st => ?_, fun s tr p => ?_⟩
  · obtain ⟨t, d⟩ := romStart_daymark (e := e) low
    refine ⟨_, congrArg (ok s) ((if_pos r).trans d), ?_⟩
    rw [troubleEdges_pwr, troubleEdges_up]
    exact enterDaymark_mode
  · refine congrArg (ok s) ((if_pos ⟨st, hd⟩).trans (lightTableCheck_read.trans ?_))
    rw [← marked]
    generalize marked k s = m
    cases slotLight m k <;> simp only [takeTable]
  · exact congrArg (ok s) (if_pos ⟨st, hd⟩)
  · exact congrArg (ok s) ((if_pos on).trans (if_pos few))
  · refine congrArg (ok s) (if_neg ?_)
    simp [inService, st, on]
  · exact congrArg Host.Outcome.next (if_pos (by simp [tr, p]))

end Sys2Proof.Machine
end

section
/-!
PROOFS. HART resets and the watchdog (04 §4.5, 08 §8.9), and cycle time (02).
-/

namespace Sys2Proof.Machine

section
variable {s : State} {w : Requester}

/-! ### HART resets -/

theorem resetHarts_held (hr : resetsHeld s = true) (hs : List HartId) : resetHarts hs s = s := if_pos hr

theorem resetHarts_free (hr : resetsHeld s = false) (hs : List HartId) :
    resetHarts hs s = forAll hs startHartReset (drainHarts hs s) :=
  if_neg (by simp [hr])

/-- A row that leaves the state alone is no step. -/
theorem ok_of_unchanged {t : State} (h : t = s) : ok s t = .next s := by
  rw [h, ok, troubleEdges_self]

theorem rises_hartRestart_before (h : HartId) (k : rises s.harts = true) (t : State)
    (ht : t = drainBoth h s ∨ t = suspendEnclave h 0 (drainBoth h s)) : rises (emptyHartCaches h t).harts = true := by
  rcases ht with rfl | rfl
  · exact (goes_emptyHartCaches h (goes_drainBoth h (goes_refl s))).harts k
  · exact (goes_emptyHartCaches h (goes_suspendEnclave h 0 (goes_drainBoth h (goes_refl s)))).harts k

/-- A restarted hart holds nothing but the monitor's entry. -/
theorem hartRestart_hart {h : HartId} (k : rises s.harts = true) :
    (hartRestart h s).hart h = { inReset := false, pc := Config.monitorEntry } := by
  unfold hartRestart
  refine hart_onHart_same _ (rises_hartRestart_before h k _ ?_)
  by_cases e : ((drainBoth h s).hart h).kenc ≠ 0
  · exact .inr (if_pos e)
  · exact .inl (if_neg e)

/-- R178: while resets are held none of the four rows has an effect. -/
theorem resets_without_effect {mask v : W32} {h : HartId} (hr : resetsHeld s = true) (hb : nothingBefore s w) :
    exec (.psModuleReset w v) s = .next s ∧ exec (.psHartReset w mask) s = .next s ∧ exec (.debugHartreset h) s = .next s ∧
      exec .debugNdmreset s = .next s := by
  refine ⟨ok_of_unchanged (pfWrite_of_unchanged (if_neg (by simp [hr])) hb),
    ok_of_unchanged (pfWrite_of_unchanged (resetHarts_held hr _) hb),
    ok_of_unchanged ?_, ok_of_unchanged ?_⟩
  · rw [resetHarts_held hr, ite_self]
  · rw [resetHarts_held hr, ite_self]

end

/-- Settles O9: each row is its reset behind the guard of R178, and a restarted hart is what the restart sets. -/
theorem hartResets : Obligations.HartResets := by
  refine ⟨fun s h hr => if_neg (by simp [hr]), fun s w mask v h hr hb => resets_without_effect hr hb,
    fun s w mask hr hv hb => ?psHartReset, fun s h hr hg => ?debugHart, fun s hr hg => ?debugAll,
    fun s h hx hk hm => ⟨?restart, fun inv => hartRestart_hart inv.1⟩, fun s hx hd => ?soft, fun s hr => ?warn⟩
  case psHartReset =>
    exact congrArg (ok s) ((pfWrite_of_seesPf _ hv hb).trans (resetHarts_free hr _))
  case debugHart =>
    exact congrArg (ok s) ((if_pos hg).trans (resetHarts_free hr [h]))
  case debugAll =>
    exact congrArg (ok s) ((if_pos hg).trans (resetHarts_free hr allHarts))
  case restart => exact congrArg (ok s) (if_pos (by simp [hx, hk, hm]))
  case soft => exact congrArg (ok s) (if_pos (by simp [hx, hd]))
  case warn => exact congrArg Host.Outcome.next (if_pos hr)

section
variable {s t : State}

/-! ### Cycle time -/

/-- What noting windows changes: the channels. -/
theorem noteWindows_frame (m : BitVec 16) : noteWindows m s = { s with sd := (noteWindows m s).sd } := rfl

/-- What a frame changes beside CT: the flags of windows. -/
theorem stepWindows_frame : tcbFrame.stepWindows s t = { t with sd := (tcbFrame.stepWindows s t).sd } := rfl

/-- A sound frame: CT takes it, the windows note it. -/
theorem tcbFrame_of_sound {fr : TcbFrame} (ha : s.ct.aligned = true) (hp : s.pwr.supply = .on) (hr : s.ct.refOk = true)
    (hf : fr.sound s.ct.offGrid = true) :
    tcbFrame fr s = { s with ct := (s.ct.judge fr).valid fr, sd := (tcbFrame fr s).sd } := by
  unfold tcbFrame
  rw [if_neg (by simp [ha, hp]), if_pos (by simp [hr, hf])]
  dsimp only
  split <;> rfl

theorem tcbFrame_of_unsound {fr : TcbFrame} (ha : s.ct.aligned = true) (hp : s.pwr.supply = .on)
    (hf : (s.ct.refOk && fr.sound s.ct.offGrid) = false) :
    tcbFrame fr s = s.onCt fun c => { c.discard with fresh := false } := by
  unfold tcbFrame
  rw [if_neg (by simp [ha, hp]), if_neg (by simp [hf])]

theorem coast_of_running {c : Ct} (hr : c.running = true) (hc : c.coasting = false) :
    c.coast = { c with coasting := true, locked := false, coastPeriod := c.period, trouble := setBit c.trouble 2
                       coastAge := 0, beforeCoast := some (c.locked, c.trouble) } :=
  if_pos (by simp [hr, hc])

/-- R78: a slew's part of one clock stays in the band. -/
theorem slewPart_within (err : Int) (left nominal pick : Nat) :
    -(nominal / 10 : Int) ≤ slewPart err left nominal pick ∧ slewPart err left nominal pick ≤ (nominal / 10 : Int) := by
  have band : (0 : Int) ≤ (nominal : Int) / 10 := by omega
  unfold slewPart
  dsimp only
  generalize (nominal : Int) / 10 = b at band ⊢
  generalize ((left - 1 : Nat) : Int) * b = rest
  generalize hlo : max (-b) (err - rest) = lo
  generalize hhi : min b (err + rest) = hi
  split
  · omega
  · next order =>
    have low := Int.emod_nonneg (pick : Int) (b := hi - lo + 1) (by omega)
    have high := Int.emod_lt_of_pos (pick : Int) (b := hi - lo + 1) (by omega)
    omega

end

/-- Settles O10: each row's branch, whose frame is that of the windows it notes and of the sources it asserts. -/
theorem cycleTime : Obligations.CycleTime := by
  refine ⟨fun s fr ha => ok_of_unchanged (if_pos (by simp [ha])),
    fun s fr ha hp hf => congrArg (ok s) (tcbFrame_of_unsound ha hp hf), fun s fr ha hp hr hf => ⟨_, rfl, ?sound⟩,
    fun s hr hc => ⟨_, rfl, ?coasts, ?coastFrame⟩, fun s a i hp => congrArg Host.Outcome.next (if_neg (by simp [hp])),
    fun s w => rfl, slewPart_within⟩
  case sound =>
    rw [troubleEdges_frame]
    generalize tcbFrame fr s = t, tcbFrame_of_sound ha hp hr hf = ht
    rw [ht]
  case coasts =>
    rw [troubleEdges_ct]
    exact coast_of_running hr hc
  case coastFrame =>
    rw [troubleEdges_frame]
    rfl

end Sys2Proof.Machine
end

section
/-!
PROOFS. Configuration requests, pending messages, and what waits for the host or comes from it (10, 11 §11.6).
-/

namespace Sys2Proof.Machine

section
variable {s : State}

theorem configRequest_of_crs {f : Nat} (op : ConfigOp) (ht : tableUp s = false) (hd : s.pwr.stage ≠ .daymark) :
    configRequest f op s = s.emit (.config f true) :=
  if_pos (by simp [ht, hd])

theorem deliverPending_of_free {f v : Nat} (hp : (tget {} (s.fn f).msix v).pba = true)
    (hm : (tget {} (s.fn f).msix v).masked = false) (hf : (s.fn f).fnMask = false) (he : (s.fn f).msixEnable = true)
    (hr : hostReachable s f = true) : deliverPending f v s
      = (s.onFn f fun g => { g with msix := tmod {} g.msix v fun e => { e with pba := false } }).emit (.msix f v) :=
  if_pos (by rw [hp, hm, hf, he, hr]; rfl)

/-- A word that the spec gives whole. -/
theorem configWord_of_known {f d : Nat} {v : W32} (h : knownWord s f d = (0xFFFFFFFF#32, v)) : configWord s f d = v := by
  unfold configWord
  rw [h]
  dsimp only
  generalize Config.configWord f d = own
  rw [show (0xFFFFFFFF#32 : W32) = BitVec.allOnes 32 from rfl, BitVec.and_allOnes, BitVec.not_allOnes, BitVec.and_zero,
    BitVec.or_zero]

theorem hostReadCompletion_of_open {r : RingId} {q : Nat} {k : Cmd} (hk : (s.ring r.val).find q = some k) (hf : k.isFinished = false)
    (ho : (s.lt.ident r.val).origin = .host) : hostReadCompletion (.commandError r q) s
      = (finishCmd r.val q (statusOf 0x70) s).onRing r.val fun g => { g with trouble := setBit g.trouble 2 } := by
  unfold hostReadCompletion
  simp [hk, hf, ho]

end

/-- Settles O12: each row at the branch that its premises choose. -/
theorem configMessagesAndHostReads : Obligations.ConfigMessagesAndHostReads := by
  refine ⟨fun s f op ht hd => congrArg Host.Outcome.next (configRequest_of_crs op ht hd), fun s f ht => ?served,
    fun s f => ⟨configWord_of_known rfl, fun hf => configWord_of_known (by simp [knownWord, hf]), configWord_of_known rfl,
      configWord_of_known rfl⟩,
    fun s f v hp hm hf he hr => congrArg Host.Outcome.next (deliverPending_of_free hp hm hf he hr),
    fun s f hr => congrArg Host.Outcome.next (if_pos hr), fun s f hr => if_pos hr, fun s a bs => rfl,
    fun s r q k hk hf ho => congrArg (ok s) (hostReadCompletion_of_open hk hf ho),
    fun s r q hq ho => congrArg (ok s) (if_pos ⟨hq, ho⟩)⟩
  have served : ¬(!tableUp s && decide (s.pwr.stage ≠ .daymark)) = true := by simp [ht]
  refine ⟨fun d => congrArg Host.Outcome.next (if_neg served), fun on => congrArg Host.Outcome.next (if_neg served),
    fun p r hp hr => congrArg Host.Outcome.next ((if_neg served).trans ?control),
    fun e m => congrArg Host.Outcome.next (if_neg served),
    fun b hf => ⟨congrArg Host.Outcome.next ((if_neg served).trans (if_pos hf)),
      congrArg Host.Outcome.next ((if_neg served).trans (if_pos hf))⟩,
    fun hf b => ⟨congrArg Host.Outcome.next ((if_neg served).trans (if_neg hf)),
      congrArg Host.Outcome.next ((if_neg served).trans (if_neg hf))⟩⟩
  dsimp only
  rw [if_neg (by omega), if_neg (by omega)]

end Sys2Proof.Machine
end

section
/-!
PROOFS. The lifecycle, migration and ring commands, the ring registers, and the ring engine's turns (10 §10.6, §10.8, 11).
-/

namespace Sys2Proof.Machine

section
variable {s : State} {c : CmdRef} {isOp : Line → Bool} {k : Cmd} {e n : Nat}

/-! ### Commands that wait -/

/-- What starts was accepted, and not started before. -/
theorem Starts.accepted (h : Starts c isOp k s) : k.st = .accepted := by
  obtain ⟨_, _, _, may, _⟩ := h
  simp only [mayStart, Bool.and_eq_true, decide_eq_true_eq] at may
  exact may.1.1.1.1.1.2

theorem startCmd_host {r : Nat} : (startCmd r k e n s).host = s.host := by
  obtain ⟨g, l, h⟩ := startCmd_eq (s := s) (k := k) (e := e) (n := n) (r := r)
  rw [h]

theorem startCmd_fn {r : Nat} (f : Nat) : (startCmd r k e n s).fn f = s.fn f := by
  rw [State.fn, State.fn, startCmd_host]

section
variable {check : Cmd → State → Option Result} {begin : Cmd → State → State} {end_ : Cmd → RingIdent → State → Option (State × Result)}

/-- A waiting command that starts and finds nothing to end it waits. -/
theorem runWaiting_waits (h : Starts c isOp k s) (hc : check k (startCmd c.ring k e n s) = none)
    (hw : end_ k ((begin k (startCmd c.ring k e n s)).lt.ident c.ring) (begin k (startCmd c.ring k e n s)) = none) :
    runWaiting c isOp e n check begin end_ s = begin k (startCmd c.ring k e n s) := by
  have found := h.1
  unfold runWaiting
  simp [found, h.accepted, runCommand_starts h, hc, hw]

/-- A waiting command that starts and finds what it waits for ends. -/
theorem runWaiting_ends {p : State × Result} (h : Starts c isOp k s) (hc : check k (startCmd c.ring k e n s) = none)
    (hw : end_ k ((begin k (startCmd c.ring k e n s)).lt.ident c.ring) (begin k (startCmd c.ring k e n s)) = some p) :
    runWaiting c isOp e n check begin end_ s = ended c k p := by
  have found := h.1
  unfold runWaiting
  simp [found, h.accepted, runCommand_starts h, hc, hw, ended]

end

/-! ### Writes of ring registers -/

/-- R500: a write that its writer may make acts as the register says. -/
theorem onRingReg_of_full {w : Requester} {r reg level : Nat} (f : State → State) (hv : visible s w = true)
    (hr : ringReach s w r = .full) (hl : level ≤ ringWriteLevel s r) : onRingReg w r reg level f s = f s := by
  unfold onRingReg
  rw [if_neg (by simp [hv]), hr]
  exact if_pos hl

/-- Such a write with no older store before it. -/
theorem ringWrite_in_order {w : Requester} {r reg level : Nat} (f : State → State) (hv : visible s w = true)
    (hb : nothingBefore s w) (hr : ringReach s w r = .full) (hl : level ≤ ringWriteLevel s r) :
    programOrder w true (onRingReg w r reg level f) s = f s :=
  (programOrder_of_nothingBefore _ _ hb).trans (onRingReg_of_full f hv hr hl)

/-! ### Turns of the ring engine -/

theorem commandAccept_of_gathered {r : Nat} {ds : List Line} {u p l : Bool} (hm : mayAccept s = true)
    (ht : turnRing s = some r) (hg : gatherRing s r = .command ds u p l) :
    commandAccept r s = acceptCommand r ds u p l (fetchDescs (s.lt.ident r) (s.ring r) ds.length (s.ring r).acceptSeq s) := by
  unfold commandAccept
  rw [if_pos (by simp [hm, ht]), hg]

theorem commandComplete_of_ready {r : Nat} {x : Result} (hh : headResult s r = some (k, x)) (hc : canComplete s r = true) :
    commandComplete r s = completeHead r k x s := by
  unfold commandComplete
  rw [hh]
  exact if_pos hc

theorem commandComplete_of_none {r : Nat} (hh : headResult s r = none) : commandComplete r s = s := by
  unfold commandComplete
  rw [hh]

end

/-- Settles O15: a command in its turn starts, and what it finds then decides whether it waits or ends. -/
theorem lifecycleCommands : Obligations.LifecycleCommands := by
  refine ⟨fun s c k hr hs hf hl hq => congrArg (ok s) ?waits, fun s c k r rest hr hs hf hl hq => congrArg (ok s) ?ends,
    fun s c k hs ht hf hv hn inv => congrArg (ok s) ?quiesce, fun s c k hs ht hf => congrArg (ok s) ?release,
    fun s c k hs ht hf => congrArg (ok s) ?reset⟩
  case waits =>
    refine runWaiting_waits hs ?_ ?_
    · simp only [hf, hr]
      simp [hl]
    · simp only [startCmd_host, hq]
  case ends =>
    refine runWaiting_ends hs ?_ ?_
    · simp only [hf, hr]
      simp [hl]
    · simp only [startCmd_host, hq, startCmd_lt]
  case quiesce =>
    refine (if_pos ht).trans (runWaiting_waits hs ?_ ?_)
    · simp only [hf, startCmd_fn]
      simp [hv, hn]
    · rw [fn_onFn_same _ (by rw [startCmd_host]; exact inv)]
      exact if_neg nofun
  case release =>
    refine (if_pos ht).trans ((runAtOnce_starts hs).trans ?_)
    rw [if_pos hf]
  case reset =>
    refine (if_pos ht).trans ((runAtOnce_starts hs).trans ?_)
    rw [if_pos hf]

/-- A migration command in its turn that starts ends with what its operation gives. -/
theorem migrate_starts {s : State} {c : CmdRef} {k : Cmd} {op : Nat} (f : RingIdent → Cmd → State → State × Result)
    (ht : lifeTurn c s = true) (h : Starts c (isOpcode 1 op) k s) :
    migrate c op f s = ended c k (f (s.lt.ident c.ring) k (startCmd c.ring k 5 0 s)) :=
  (if_pos ht).trans (runAtOnce_starts h)

/-- Settles O16: each of the seven is `migrate` with its operation. -/
theorem migrationCommands : Obligations.MigrationCommands := fun s _ _ ht =>
  ⟨fun h => congrArg (ok s) (migrate_starts importOffer ht h), fun h => congrArg (ok s) (migrate_starts vfExport ht h),
    fun h => congrArg (ok s) (migrate_starts vfImport ht h), fun h => congrArg (ok s) (migrate_starts exportCommit ht h),
    fun h => congrArg (ok s) (migrate_starts importCommit ht h),
    fun h => congrArg (ok s) (migrate_starts (fun _ => exportAbort) ht h),
    fun h => congrArg (ok s) (migrate_starts (fun _ => importDiscard) ht h)⟩

/-- Settles O18: a write within its level is the register's function; enabling and disabling are branches of theirs. -/
theorem ringRegisters : Obligations.RingRegisters := by
  refine ⟨fun s w r v hv hb hr hl => ?control, fun s w r reg p v hv hb hr hl => ?config, fun s w r v hv hb hr hl => ?doorbell,
    fun g he hd h4 h16 => ?enabled, fun g he hd hx => ?refused, fun g he => if_pos he⟩
  case control =>
    have write (u : W32) := ringWrite_in_order (reg := 0x14) (writeCtrl r.val u) hv hb hr (Nat.le_of_eq hl.symm)
    exact ⟨congrArg (ok s) (write _), congrArg (ok s) (write _), congrArg (ok s) (write _)⟩
  case config => exact congrArg (ok s) (ringWrite_in_order _ hv hb hr (Nat.le_of_eq hl.symm))
  case doorbell => exact congrArg (ok s) (ringWrite_in_order (fun t => t.onRing r.val fun g => g.doorbell v) hv hb hr hl)
  case enabled => exact (if_neg (by simp [he, hd])).trans (if_pos ⟨h4, h16⟩)
  case refused => exact (if_neg (by simp [he, hd])).trans (if_neg (by omega))

/-- Settles O19: acceptance and completion at the engine's own conditions. -/
theorem acceptAndComplete : Obligations.AcceptAndComplete :=
  ⟨fun s _ _ _ _ _ hm ht hg => congrArg (ok s) (commandAccept_of_gathered hm ht hg),
    fun s _ hm => ok_of_unchanged (if_neg (by simp [hm])),
    fun s _ _ _ hh hc => congrArg (ok s) (commandComplete_of_ready hh hc),
    fun s _ hh => ok_of_unchanged (commandComplete_of_none hh)⟩

/-- Settles O21: each of the four is executed in one step. -/
theorem ringCommands : Obligations.RingCommands := fun s c _ =>
  ⟨fun h => congrArg (ok s) (runAtOnce_starts (f := fun k _ t => (t, nopResult k.first)) h),
    fun h => congrArg (ok s) (runAtOnce_starts (f := queryRun c.ring) h),
    fun h => congrArg (ok s) (runAtOnce_starts (f := queryRun c.ring) h),
    fun h => congrArg (ok s) (runAtOnce_starts (f := qRecordsRun c.ring) h)⟩

end Sys2Proof.Machine
end

section
/-!
PROOFS. The crypto lanes and the modular and lattice units (13, 14): the commands that start on them, and how they fail and end.
-/

namespace Sys2Proof.Machine

section
variable {s t : State} {c : CmdRef} {k : Cmd} {n op u : Nat} {x : UnitRun}

/-! ### Lanes -/

/-- A command that starts with a lane free for its world runs there, and the lane's source pulses. -/
theorem onLane_starts (f : Cmd → RingIdent → State → State × Result)
    (hn : freeCryptoLane s (decide ((s.lt.ident c.ring).encl ≠ 0)) = some n) (h : Starts c (isOpcode 2 op) k s) :
    onLane c op f s =
      let i := s.lt.ident c.ring
      let p := f k i (slotErrors c.store k i (startCmd c.ring k 1 n s))
      ended c k (aplic (noKeyViolation 24 k i p.2 p.1) (169 + n), p.2) := by
  unfold onLane
  simp only [hn, runAtOnce_starts h]

/-- R630: a lane in service fails, whatever chain it ran. -/
theorem cryptoLaneFail_of_serving {l : LaneNo} (ho : s.cx.laneOk.getLsbD l.val = true) (chain : Option CmdRef) :
    exec (.cryptoLaneFail l chain) s
      = ok s (match chain with | some c => laneFails l (restartChain c l s) | none => laneFails l s) := by
  cases chain with
  | none => exact congrArg (ok s) (if_pos ho)
  | some c => exact congrArg (ok s) (if_pos ho)

/-! ### Units -/

/-- A unit's command that starts takes its unit, MABORT apart. -/
theorem onUnit_starts (h : UnitStarts c op k s u x t) (ho : op ≠ 0x82) :
    onUnit c op s = occupied u x (startCmd c.ring k (unitEngine u).1 (unitEngine u).2 t) := by
  obtain ⟨⟨found, isOp, _, may, prior⟩, later, run, first⟩ := h
  unfold onUnit
  dsimp only
  rw [found]
  simp only [isOp, may, prior, run, first, ho, Option.isSome_none, Bool.not_true, Bool.or_self, Bool.false_eq_true, if_false]
  exact runCommand_starts later

/-- MABORT stops the session that holds the unit. -/
theorem onUnit_aborts (h : UnitStarts c 0x82 k s u x t) :
    onUnit c 0x82 s = ended c k (stopSession u (startCmd c.ring k 2 u s), statusOf 0) := by
  obtain ⟨starts, _, run, first⟩ := h
  have ⟨found, isOp, _, may, prior⟩ := starts
  unfold onUnit
  dsimp only
  rw [found]
  simp only [isOp, may, prior, run, first, Option.isSome_none, Bool.not_true, Bool.or_self, Bool.false_eq_true, if_false,
    if_true]
  exact runAtOnce_starts starts

/-- The row of such a command. -/
theorem exec_of_onUnit {op' : Instr} (row : exec op' s = ok s (onUnit c op s)) (h : UnitStarts c op k s u x t) (ho : op ≠ 0x82) :
    exec op' s = .next (troubleEdges s (occupied u x (startCmd c.ring k (unitEngine u).1 (unitEngine u).2 t))) :=
  row.trans (congrArg (ok s) (onUnit_starts h ho))

/-! ### A unit that leaves service -/

theorem abandonRun_mu : (abandonRun u s).mu.ok = s.mu.ok ∧ (abandonRun u s).mu.muTrouble = s.mu.muTrouble ∧
    (abandonRun u s).mu.luTrouble = s.mu.luTrouble := by
  unfold abandonRun
  split
  · exact ⟨rfl, rfl, rfl⟩
  · split <;> exact ⟨rfl, rfl, rfl⟩

/-- R664: what leaving changes of the units' registers. -/
theorem unitLeaves_mu (ho : s.mu.ok.getLsbD u = true) : (unitLeaves u s).mu.ok = clearBit s.mu.ok u ∧
    (unitLeaves u s).mu.muTrouble = setBitIf (decide (u < 4)) s.mu.muTrouble 0 ∧
    (unitLeaves u s).mu.luTrouble = setBitIf (decide (4 ≤ u)) s.mu.luTrouble 0 := by
  unfold unitLeaves
  rw [if_neg (by simp [ho])]
  dsimp only
  obtain ⟨serving, mu, lu⟩ := abandonRun_mu (s := s) (u := u)
  generalize abandonRun u s = a at serving mu lu ⊢
  split
  all_goals simp only [onMu_mu, serving, mu, lu, and_self]

theorem memoryError_ok (e : BitError) : (memoryError u e s).mu.ok = s.mu.ok := by
  cases e with
  | none => rfl
  | single =>
    simp only [memoryError, onMu_mu]
    split <;> rfl
  | double =>
    simp only [memoryError, onMu_mu]
    split <;> rfl

theorem memoryError_double_mu (hu : u < 4) : (memoryError u .double s).mu.muTrouble = setBit s.mu.muTrouble 4 := by
  simp only [memoryError, onMu_mu, if_pos hu]

theorem memoryError_double_lu (hu : ¬u < 4) : (memoryError u .double s).mu.luTrouble = setBit s.mu.luTrouble 2 := by
  simp only [memoryError, onMu_mu, if_neg hu]

/-- The kind of memory error that a failing unit's row names. -/
def unitError (memory : Bool) : BitError := if memory then .double else .none

theorem unitFails_of_serving (ho : s.mu.ok.getLsbD u = true) (b : Bool) :
    unitFails u b s = unitLeaves u (memoryError u (unitError b) s) := if_pos ho

theorem unitFails_mu (ho : s.mu.ok.getLsbD u = true) (b : Bool) :
    (unitFails u b s).mu.ok = clearBit s.mu.ok u ∧
    (unitFails u b s).mu.muTrouble = setBitIf (decide (u < 4)) (memoryError u (unitError b) s).mu.muTrouble 0 ∧
    (unitFails u b s).mu.luTrouble = setBitIf (decide (4 ≤ u)) (memoryError u (unitError b) s).mu.luTrouble 0 := by
  rw [unitFails_of_serving ho]
  have kept := memoryError_ok (s := s) (u := u) (unitError b)
  obtain ⟨left, mu, lu⟩ := unitLeaves_mu (s := memoryError u (unitError b) s) (by rw [kept]; exact ho)
  exact ⟨by rw [left, kept], mu, lu⟩

/-! ### Self-tests and aborts -/

theorem unitSelfTest_of_idle (hi : runOn s u = none) (ho : s.mu.ok.getLsbD u = true) (passed : Bool) (e : BitError) :
    unitSelfTest u passed e s
      = if passed && decide (e ≠ .double) then memoryError u e s else unitLeaves u (memoryError u e s) :=
  if_pos (by simp [hi, ho])

/-- R666: with every unit in the Open world, each named unit is aborted and no violation arises. -/
theorem abortWrite_of_open {w : Requester} {v : W32} (hw : s.kp.world = 0) :
    abortWrite w v s = ([0, 1, 2, 3].filter fun u => v.getLsbD u).foldl (fun t u => pfAbort u t) s := by
  unfold abortWrite
  simp [hw]

/-- UNIT_COMMAND_END of a run. -/
theorem unitEnd_of_run {how : UnitEnd} (h : runOn s u = some x) : unitEnd u how s =
    match how with
    | .done =>
      let p := unitWrites (lowerUnit x u) x (unitFree (lowerUnit x u) x s)
      finishCmd x.ring x.seq p.2 p.1
    | .checkMismatch => if x.check then unitMismatch (lowerUnit x u) x 1 s else s
    | .twinMismatch => if x.twin then unitMismatch (lowerUnit x u) x 2 s else s := by
  cases how <;> simp only [unitEnd, h]

end

/-- Settles O23: each of the twelve runs `runChain` on the lane it takes. -/
theorem cryptoChains : Obligations.CryptoChains := fun s c _ _ hn =>
  have row {op : Nat} {k : Cmd} (h : Starts c (isOpcode 2 op) k s) := congrArg (ok s) (onLane_starts runChain hn h)
  ⟨row, row, row, row, row, row, row, row, row, row, row, row⟩

/-- Settles O24: each key command runs its operation on the lane it takes. -/
theorem keyCommands : Obligations.KeyCommands := fun s c _ _ hn =>
  have row {op : Nat} {k : Cmd} (f : Cmd → RingIdent → State → State × Result) (h : Starts c (isOpcode 2 op) k s) :=
    congrArg (ok s) (onLane_starts f hn h)
  ⟨row (keyImport c.ring), row (keyGenerate c.ring), row (keyDerive c.ring), row keyExport, row keyDestroy, row keyInfo,
    row kekRelease⟩

/-- Settles O25: each row is its branch for a lane in service. -/
theorem cryptoUnits : Obligations.CryptoUnits :=
  ⟨fun _ => rfl, fun _ => rfl, fun _ => rfl, fun s _ ho => congrArg (ok s) (if_pos (by simp [ho])),
    fun _ _ => ok_of_unchanged (if_neg (by simp)), fun _ _ ho => cryptoLaneFail_of_serving ho none,
    fun _ _ c ho => cryptoLaneFail_of_serving ho (some c)⟩

/-- Settles O27: eleven of them take their unit, MABORT stops the session. -/
theorem sessionCommands : Obligations.SessionCommands := fun s _ _ _ _ _ =>
  ⟨fun h => exec_of_onUnit rfl h (by decide), fun h => exec_of_onUnit rfl h (by decide),
    fun h => congrArg (ok s) (onUnit_aborts h),
    fun h => exec_of_onUnit rfl h (by decide), fun h => exec_of_onUnit rfl h (by decide),
    fun h => exec_of_onUnit rfl h (by decide), fun h => exec_of_onUnit rfl h (by decide),
    fun h => exec_of_onUnit rfl h (by decide), fun h => exec_of_onUnit rfl h (by decide),
    fun h => exec_of_onUnit rfl h (by decide), fun h => exec_of_onUnit rfl h (by decide),
    fun h => exec_of_onUnit rfl h (by decide)⟩

/-- Settles O28: each of them takes its unit. -/
theorem loneUnitCommands : Obligations.LoneUnitCommands := fun _ _ _ _ _ _ =>
  ⟨fun h => exec_of_onUnit rfl h (by decide), fun h => exec_of_onUnit rfl h (by decide),
    fun h => exec_of_onUnit rfl h (by decide), fun h => exec_of_onUnit rfl h (by decide),
    fun h => exec_of_onUnit rfl h (by decide), fun h => exec_of_onUnit rfl h (by decide),
    fun h => exec_of_onUnit rfl h (by decide), fun h => exec_of_onUnit rfl h (by decide),
    fun h => exec_of_onUnit rfl h (by decide), fun h => exec_of_onUnit rfl h (by decide),
    fun h => exec_of_onUnit rfl h (by decide), fun h => exec_of_onUnit rfl h (by decide)⟩

/-- Settles O29: the end of a run by its kind, and what a unit that leaves service sets. -/
theorem unitEnds : Obligations.UnitEnds := by
  refine ⟨fun s u x h => ⟨congrArg (ok s) (unitEnd_of_run h), fun hc => congrArg (ok s) ?check, fun ht => congrArg (ok s) ?twin⟩,
    fun s u b ho => ⟨_, rfl, ?_⟩, fun s u b ho => ⟨_, rfl, ?_⟩, fun s u b hi ho => ?test,
    fun s w v hv hb hw => congrArg (ok s) ((pfWrite_of_seesPf _ hv hb).trans (abortWrite_of_open hw))⟩
  case check => exact (unitEnd_of_run h).trans (if_pos hc)
  case twin => exact (unitEnd_of_run h).trans (if_pos ht)
  case test =>
    have test (passed : Bool) (e : BitError) := congrArg (ok s) (unitSelfTest_of_idle hi ho passed e)
    exact ⟨test false b, test true .double, test true .single,
      ok_of_unchanged (unitSelfTest_of_idle hi ho true .none)⟩
  · obtain ⟨left, trouble, _⟩ := unitFails_mu ho b
    rw [troubleEdges_mu]
    refine ⟨left, ?_, fun hb => ?_⟩
    · rw [trouble, setBitIf, if_pos (decide_eq_true u.isLt), setBit_getLsbD (by omega)]
      simp
    · rw [trouble, setBitIf, if_pos (decide_eq_true u.isLt), hb, show unitError true = .double from rfl,
        memoryError_double_mu u.isLt, setBit_getLsbD (by omega), setBit_getLsbD (by omega)]
      simp
  · obtain ⟨left, _, trouble⟩ := unitFails_mu ho b
    have lattice : 4 ≤ 4 + u.val := Nat.le_add_right 4 _
    rw [troubleEdges_mu]
    refine ⟨left, ?_, fun hb => ?_⟩
    · rw [trouble, setBitIf, if_pos (decide_eq_true lattice), setBit_getLsbD (by omega)]
      simp
    · rw [trouble, setBitIf, if_pos (decide_eq_true lattice), hb, show unitError true = .double from rfl,
        memoryError_double_lu (by omega), setBit_getLsbD (by omega), setBit_getLsbD (by omega)]
      simp

end Sys2Proof.Machine
end

section
/-!
PROOFS. The logbook's rows: a commit that has been written, banks that suspend, answer again or fail, a carried copy (12).
-/

namespace Sys2Proof.Machine

section
variable {s : State}

theorem recordCommitted_of_formed {a b : BankWrite} {n : Nat × Nat} {rest : List (Nat × Nat)} (h : s.lb.formed = n :: rest) :
    recordCommitted a b s = noteLive (failWorn (noteWear a b (s.onLb fun g => { g with formed := rest }))) := by
  unfold recordCommitted
  rw [h]

/-- R890: a bank that answers again is no longer suspended, has missed nothing, and only the logbook changes. -/
theorem resumeBank_of_suspended {b : Bank} (hf : (s.lb.bank b).failed = false) (hs : (s.lb.bank b).suspended = true) :
    ((resumeBank b s).lb.bank b).suspended = false ∧ ((resumeBank b s).lb.bank b).missed = [] ∧
      (resumeBank b s).lb.head = s.lb.head ∧ resumeBank b s = { s with lb := (resumeBank b s).lb } := by
  unfold resumeBank
  rw [if_neg (by simp [hf, hs])]
  cases b <;> exact ⟨rfl, rfl, rfl, rfl⟩

theorem closed_of_bothFailed {t : State} {c : Bool} :
    (if c then t.onRings fun x => { x with closed := true } else t).rings.closed = (t.rings.closed || c) := by
  cases c with
  | false => exact (Bool.or_false _).symm
  | true => exact (Bool.or_true _).symm

theorem lb_of_bothFailed {t : State} {c : Bool} :
    (if c then t.onRings fun x => { x with closed := true } else t).lb = t.lb := by
  cases c <;> rfl

theorem carryCopy_of_live {n : Nat} {r : Record} (hr : (records s).find? (·.lsn == n) = some r) (hc : canCommit s = true)
    (hl : isLive (records s) s.lb.restored r = true) :
    carryCopy n s = commit { r with flags := (BitVec.ofNat 8 r.flags ||| 2#8).toNat } s := by
  unfold carryCopy
  rw [hr]
  exact if_pos (by simp [hc, hl])

end

/-- Settles O22: each row at its branch; a failed bank closes acceptance exactly where the other has failed too. -/
theorem logbookRows : Obligations.LogbookRows := by
  refine ⟨fun s a b n rest h => congrArg (ok s) (recordCommitted_of_formed h),
    fun s b hf => congrArg Host.Outcome.next (if_neg (by simp [hf])),
    fun s b hf hs => ⟨_, rfl, resumeBank_of_suspended hf hs⟩, fun s => ⟨_, rfl, ?_⟩, fun s => ⟨_, rfl, ?_⟩,
    fun s n r hr hc hl => congrArg (ok s) (carryCopy_of_live hr hc hl)⟩
  · simp only [troubleEdges_lb, troubleEdges_rings, failBank, closed_of_bothFailed, lb_of_bothFailed]
    exact ⟨rfl, rfl, rfl, rfl⟩
  · simp only [troubleEdges_lb, troubleEdges_rings, failBank, closed_of_bothFailed, lb_of_bothFailed]
    refine ⟨rfl, rfl, rfl, congrArg _ (Bool.and_true _)⟩

end Sys2Proof.Machine
end

section
/-!
PROOFS. The dispatch instructions and the write of hkuldisp (09 §9.1, §9.3).
-/

namespace Sys2Proof.Machine

section
variable {s : State} {h : HartId} {w : W32}

/-! ### What reading the head of a list keeps -/

theorem traceLost_harts {d : Nat} : (traceLost d s).harts = s.harts := rfl

theorem traceEvent_harts (d hart ev prio : Nat) (payload : W64) : (traceEvent d hart ev prio payload s).harts = s.harts := by
  unfold traceEvent
  dsimp only
  repeat' split
  all_goals rfl

theorem readHead_harts {e : BitError} : (readHead h e s).harts = s.harts := by
  unfold readHead
  split
  · cases e with
    | none => rfl
    | single => rfl
    | double => exact traceEvent_harts _ _ _ _ _
  · rfl

theorem readHead_none : readHead h .none s = s := by
  unfold readHead
  split <;> rfl

theorem breakLoop_bind (t : TablesInv s) (i : HartId) : ((breakLoop h s).hart i).bind = (s.hart i).bind := by
  obtain ⟨_, _, _, e⟩ := breakLoop_hart (h := h) t.1 i
  rw [e]

theorem breakLoop_unbuffered (t : TablesInv s) (e : unbuffered s h) : unbuffered (breakLoop h s) h :=
  ⟨(breakLoop_storeBuf t).trans e.1, (breakLoop_combining t).trans e.2⟩

theorem boundDomain_onHart {f : Hart → Hart} (k : rises s.harts = true) (hf : ∀ x, (f x).bind.domain = x.bind.domain) :
    boundDomain (s.onHart h f) h = boundDomain s h := by
  rw [boundDomain, hart_onHart_same _ k, hf]
  rfl

/-- Reading the head of its list, a hart stays bound to its domain. -/
theorem boundDomain_readHead (t : TablesInv s) (e : BitError) :
    rises (readHead h e (unclaim h (breakLoop h s))).harts = true ∧
      boundDomain (readHead h e (unclaim h (breakLoop h s))) h = boundDomain s h := by
  have k : rises (breakLoop h s).harts = true := (goes_breakLoop h (goes_refl s)).harts t.1
  constructor
  · rw [readHead_harts]
    exact (goes_onHart (goes_refl _)).harts k
  · rw [boundDomain, State.hart, readHead_harts]
    exact (boundDomain_onHart k (by intro x; rfl)).trans (congrArg (fun b => b.domain.toNat) (breakLoop_bind t h))

/-! ### The instructions of a hart that may execute them (R410) -/

section
variable (t : TablesInv s) (hr : (s.hart h).runs = true) (hp : (s.hart h).priv = .s) (hb : (s.hart h).bind.en = true)
include t hr hp hb

theorem dispInstr_runs {op : VendorOp} (d : vendorDecode w = some op) (f : State → State) :
    dispInstr h op w f s = f (breakLoop h s) := by
  refine (instr_of_runs hr).trans ((vendor_of_op d).trans ?_)
  rw [dispMode, if_pos ((breakLoop_priv t h).trans hp), breakLoop_bind t, if_pos hb]

variable (e : unbuffered s h) {x : BitError}
include e

omit hr hp hb in
theorem drainBoth_breakLoop : drainBoth h (breakLoop h s) = breakLoop h s := by
  have none := breakLoop_unbuffered t e
  rw [drainBoth, drainAll_empty none.1, drainCombining_empty none.2]

theorem exec_dispNext_runs (d : vendorDecode w = some .dispNext) :
    exec (.dispNext h w x) s = .next (troubleEdges s (retire h (dispNext h (wRd w).toNat x (breakLoop h s)))) := by
  refine congrArg (ok s) ((dispInstr_runs t hr hp hb d _).trans ?_)
  rw [drainThrough_empty (breakLoop_unbuffered t e).1]

theorem exec_dispWait_runs (d : vendorDecode w = some .dispWait) :
    exec (.dispWait h w x) s = .next (troubleEdges s (retire h (dispWait h (wRd w).toNat x (breakLoop h s)))) := by
  refine congrArg (ok s) ((dispInstr_runs t hr hp hb d _).trans ?_)
  rw [drainThrough_empty (breakLoop_unbuffered t e).1]

theorem exec_dispEnq_runs (d : vendorDecode w = some .dispEnq) :
    exec (.dispEnq h w) s =
      let p := dispEnq h ((s.hart h).getX (wRs1 w).toNat) ((s.hart h).getX (wRs2 w).toNat) (breakLoop h s)
      .next (troubleEdges s (retire h (p.1.onHart h fun y => y.setX (wRd w).toNat (BitVec.ofNat 64 p.2)))) := by
  refine congrArg (ok s) ((dispInstr_runs t hr hp hb d _).trans ?_)
  dsimp only
  rw [drainBoth_breakLoop t e, breakLoop_getX t, breakLoop_getX t]

theorem exec_dispYield_runs (d : vendorDecode w = some .dispYield) :
    exec (.dispYield h w x) s
      = .next (troubleEdges s (retire h (dispYield h (wRd w).toNat ((s.hart h).getX (wRs1 w).toNat) x (breakLoop h s)))) := by
  refine congrArg (ok s) ((dispInstr_runs t hr hp hb d _).trans ?_)
  dsimp only
  rw [drainBoth_breakLoop t e, breakLoop_getX t]

end

/-! ### What the instructions do -/

theorem dispNext_takes {rd p : Nat} {x : BitError} (n : nextList (readHead h x (unclaim h s)) h = some p) :
    dispNext h rd x s = takeHead h rd p (readHead h x (unclaim h s)) := by
  simp only [dispNext, n]

theorem dispNext_nothing {rd : Nat} {x : BitError} (n : nextList (readHead h x (unclaim h s)) h = none) :
    dispNext h rd x s = takeNothing h rd (readHead h x (unclaim h s)) := by
  simp only [dispNext, n]

theorem dispWait_takes {rd p : Nat} {x : BitError} (n : nextList (readHead h x (unclaim h s)) h = some p) :
    dispWait h rd x s = takeHead h rd p (readHead h x (unclaim h s)) := by
  simp only [dispWait, n]

/-- With nothing to take DISP.WAIT stalls. -/
theorem dispWait_stalls {rd : Nat} {x : BitError} (t : TablesInv s)
    (n : nextList (readHead h x (unclaim h (breakLoop h s))) h = none) :
    dispWait h rd x (breakLoop h s) = (traceEvent (boundDomain s h) h.val 0x08 0 0
      ((readHead h x (unclaim h (breakLoop h s))).onHart h fun y =>
        { y with bind := { y.bind with runprio := 16 }, stall := .dispWait rd })).onHart h Hart.wake := by
  obtain ⟨k, same⟩ := boundDomain_readHead (h := h) t x
  have stays := (boundDomain_onHart (h := h) (f := fun y => { y with bind := { y.bind with runprio := 16 }, stall := .dispWait rd })
    k (by intro y; rfl)).trans same
  simp only [dispWait, n]
  exact congrArg (fun d => (traceEvent d h.val 0x08 0 0 _).onHart h Hart.wake) stays

/-- R416: DISP.YIELD swaps with the head of a list of no lower priority. -/
theorem dispYield_swaps {rd p : Nat} {a : W64} (ha : a ≠ 0) (hr : (s.hart h).bind.runprio < 16)
    (n : nextList (unclaim h s) h = some p) (hp : (s.hart h).bind.runprio ≤ p) : dispYield h rd a .none s
      = makeReady (boundDomain (unclaim h s) h) ⟨a, ctCycles (takeHead h rd p (unclaim h s)), (s.hart h).bind.runprio, 0xFF⟩ h.val 0x07
          (takeHead h rd p (unclaim h s)) := by
  unfold dispYield
  rw [if_neg (not_or.mpr ⟨ha, Nat.not_le_of_lt hr⟩)]
  dsimp only
  rw [readHead_none, n]
  exact if_pos hp

section
variable {p c : W64} (hp : p ≠ 0) (hc : bits c 5 7 = 0)
include hp hc

/-- R413: a sound entry goes to the delay list while its wake lies ahead, else to a ready list. -/
theorem dispEnq_of_sound : dispEnq h p c s =
    let d := boundDomain s h
    let t := settleDomain d s
    if c.getLsbD 4 && decide (ctCycles t < bits c 12 52) then
      if delayFree t d then
        (traceEvent d h.val 0x02 (bits c 0 4) p
          (t.onDom d fun x => { x with delay := insertDelay ⟨p, bits c 12 52, bits c 0 4, 0xFF⟩ x.delay }), 0)
      else (busyRefused d h.val p (bits c 0 4) t, 1)
    else if readyFree t d then (makeReady d ⟨p, ctCycles t, bits c 0 4, 0xFF⟩ h.val 0x01 t, 0)
    else (busyRefused d h.val p (bits c 0 4) t, 1) :=
  if_neg (not_or.mpr ⟨hp, not_not_intro hc⟩)

end

/-! ### Where they may not execute (R411) -/

theorem dispMode_elsewhere {f : State → State} (t : TablesInv s) (hx : ¬((s.hart h).priv = .s ∧ (s.hart h).bind.en = true)) :
    dispMode h w f (breakLoop h s) =
      if (s.hart h).v = true ∧ (s.hart h).priv ≠ .m then virtualInstr h (breakLoop h s) else illegal h w (breakLoop h s) := by
  simp only [dispMode, breakLoop_priv t, breakLoop_v t, breakLoop_bind t]
  cases hp : (s.hart h).priv with
  | m => simp
  | u => simp
  | s =>
    have off : (s.hart h).bind.en = false := by simpa [hp] using hx
    simp [off]

theorem dispInstr_unallocated {op : VendorOp} (hr : (s.hart h).runs = true) (d : vendorDecode w = none) (f : State → State) :
    dispInstr h op w f s = illegal h w (breakLoop h s) :=
  (instr_of_runs hr).trans (vendor_of_none d)

theorem dispInstr_elsewhere {op : VendorOp} (t : TablesInv s) (hr : (s.hart h).runs = true) (d : vendorDecode w = some op)
    (hx : ¬((s.hart h).priv = .s ∧ (s.hart h).bind.en = true)) (f : State → State) :
    ((s.hart h).v = true → (s.hart h).priv ≠ .m → dispInstr h op w f s = virtualInstr h (breakLoop h s)) ∧
      ((s.hart h).v = false ∨ (s.hart h).priv = .m → dispInstr h op w f s = illegal h w (breakLoop h s)) := by
  have runs : dispInstr h op w f s = dispMode h w f (breakLoop h s) := (instr_of_runs hr).trans (vendor_of_op d)
  rw [runs, dispMode_elsewhere t hx]
  refine ⟨fun hv hm => if_pos ⟨hv, hm⟩, fun hn => if_neg ?_⟩
  rintro ⟨hv, hm⟩
  rcases hn with v | m
  · simp [v] at hv
  · exact hm m

/-- A dispatch row, as the statement lists its exceptions. -/
theorem dispRow_exceptions {op : VendorOp} {i : Instr} {f : State → State} (row : exec i s = ok s (dispInstr h op w f s))
    (t : TablesInv s) (hr : (s.hart h).runs = true) :
    (vendorDecode w = none → exec i s = .next (troubleEdges s (illegal h w (breakLoop h s)))) ∧
      (vendorDecode w = some op → ¬((s.hart h).priv = .s ∧ (s.hart h).bind.en = true) →
        ((s.hart h).v = true → (s.hart h).priv ≠ .m → exec i s = .next (troubleEdges s (virtualInstr h (breakLoop h s)))) ∧
        ((s.hart h).v = false ∨ (s.hart h).priv = .m → exec i s = .next (troubleEdges s (illegal h w (breakLoop h s))))) :=
  ⟨fun d => row.trans (congrArg (ok s) (dispInstr_unallocated hr d f)),
    fun d hx => ⟨fun hv hm => row.trans (congrArg (ok s) ((dispInstr_elsewhere t hr d hx f).1 hv hm)),
      fun hn => row.trans (congrArg (ok s) ((dispInstr_elsewhere t hr d hx f).2 hn))⟩⟩

/-! ### hkuldisp (Table 9.1) -/

theorem guestNumber_hkuldisp (x : Hart) : guestNumber x 0x6C1 = 0x6C1 := by
  unfold guestNumber
  split <;> rfl

theorem writeCsr_hkuldisp (x : Hart) (v : W64) : x.writeCsr 0x6C1 v = { x with bind :=
    { domain := v.extractLsb' 0 8, en := v.getLsbD 8, file := v.extractLsb' 9 3, runprio := 16, claimed := none } } := by
  rw [Hart.writeCsr, guestNumber_hkuldisp]
  rfl

theorem csrRead_hkuldisp : (csrRead s h 0x6C1).isNone = false := by
  rw [csrRead, guestNumber_hkuldisp]
  rfl

theorem csrStore_hkuldisp (v : W64) : csrStore h 0x6C1 v s = s.onHart h fun x => { x with bind :=
    { domain := v.extractLsb' 0 8, en := v.getLsbD 8, file := v.extractLsb' 9 3, runprio := 16, claimed := none } } := by
  unfold csrStore
  rw [guestNumber_hkuldisp, if_neg (by decide), if_neg (by decide)]
  exact congrArg (s.onHart h) (funext fun x => writeCsr_hkuldisp x v)

theorem csrFault_hkuldisp {x : Hart} (hx : x.priv = .m ∨ x.priv = .s ∧ x.v = false) : csrFault x 0x6C1 true = none := by
  rcases hx with m | ⟨p, v⟩
  · simp [csrFault, m]
  · simp [csrFault, p, v]

/-- In M-mode and HS-mode the write is made. -/
theorem csrWrite_hkuldisp {v : W64} {n : W32} (t : TablesInv s) (hr : (s.hart h).runs = true)
    (hx : (s.hart h).priv = .m ∨ (s.hart h).priv = .s ∧ (s.hart h).v = false) : csrWrite h 0x6C1 v n s =
      passOn h (((breakLoop h s).onHart h Hart.countRetired).onHart h fun x => { x with bind :=
        { domain := v.extractLsb' 0 8, en := v.getLsbD 8, file := v.extractLsb' 9 3, runprio := 16, claimed := none } }) := by
  refine (instr_of_runs hr).trans ?_
  rw [csrAccess, csrFault_hkuldisp (by rw [breakLoop_priv t, breakLoop_v t]; exact hx), csrRead_hkuldisp, csrStore_hkuldisp]
  rfl

end

/-- Settles O41: what an instruction finds in the lists, or in the hart's mode, decides what it does. -/
theorem dispatchInstructions : Obligations.DispatchInstructions := by
  refine ⟨fun s h w x t hr hp hb e => ?runs, fun s h rd a ha => if_pos ha,
    fun s h rd p a ha hr n hp => dispYield_swaps ha hr n hp, fun s h p c bad => if_pos bad, fun s h p c hp hc => ?enq,
    fun s h w x t hr => ?exceptions, by decide, by decide, by decide, by decide, by decide, by decide,
    fun s h v n t hr hx => congrArg Host.Outcome.next (csrWrite_hkuldisp t hr hx)⟩
  case runs =>
    have next (d) := exec_dispNext_runs (w := w) (x := x) t hr hp hb e d
    have wait (d) := exec_dispWait_runs (w := w) (x := x) t hr hp hb e d
    refine ⟨fun p n => ⟨fun d => ?_, fun d => ?_⟩, fun n => ⟨fun d => ?_, fun d => ?_⟩,
      fun d => exec_dispEnq_runs t hr hp hb e d, fun d => exec_dispYield_runs t hr hp hb e d⟩
    · rw [next d, dispNext_takes n]
    · rw [wait d, dispWait_takes n]
    · rw [next d, dispNext_nothing n]
    · rw [wait d, dispWait_stalls t n]
  case enq =>
    dsimp only
    have later {b : Bool} {a n : Nat} : (b && decide (a < n)) = true ↔ ¬(b = false ∨ n ≤ a) := by
      cases b <;> simp
    rw [dispEnq_of_sound hp hc]
    simp only [later]
    refine ⟨fun now free => ?_, fun now full => ?_, fun wait free => ?_, fun wait full => ?_⟩
    · rw [if_neg (not_not_intro now), if_pos free]
    · rw [if_neg (not_not_intro now), if_neg (by simp [full])]
    · rw [if_pos wait, if_pos free]
    · rw [if_pos wait, if_neg (by simp [full])]
  case exceptions =>
    simp only [List.forall_mem_cons]
    exact ⟨dispRow_exceptions rfl t hr, dispRow_exceptions rfl t hr, dispRow_exceptions rfl t hr, dispRow_exceptions rfl t hr,
      fun _ none => absurd none List.not_mem_nil⟩

end Sys2Proof.Machine
end

section
/-!
PROOFS. The measurement rows and commands (15): declared faults, the fast path, samples, output faults and the SITE-class commands.
-/

namespace Sys2Proof.Machine

section
variable {s t : State} {c : CmdRef} {k : Cmd} {op : Nat}

/-! ### The rows of a channel -/

/-- R695: a clock inside the range leaves no range fault. -/
theorem exec_clkRangeMeasurement_of_good {n : SiteId} {f : BitVec 16} (hc : channelOn s n.val = true)
    (hk : (s.chan n.val).noclk = false) (lo : 450 ≤ f.toNat) (hi : f.toNat ≤ 2750) :
    exec (.clkRangeMeasurement n f) s
      = ok s (((noteWindows 0 s).onChan n.val fun h => { h with fmod := f }).onChan n.val fun h => { h with clkRange := false }) := by
  have good : decide (f.toNat < 450 ∨ 2750 < f.toNat) = false := decide_eq_false (by omega)
  refine congrArg (ok s) ((if_neg (by simp [hc, hk])).trans ?_)
  dsimp only
  rw [good, Bool.false_and]
  rfl

/-- R733: a read of word 0 by a requester that reaches the channel. -/
theorem histRead_of_reach {w : Requester} {n i : Nat} (hv : seesPf s w = true) (hr : channelReach s w n = none) :
    histRead w n i s = (setLatch w (0x10000 + 0x400 * n + 0x100 + 16 * i + 1) (histStamp (s.chan n) i) s).emit
      (.readData (histWord (s.chan n) i)) := by
  unfold histRead
  rw [if_neg (by simp [hv]), hr]

/-! ### The commands -/

/-- A start changes nothing that the checks of a measurement command read. -/
theorem measCheck_startCmd {r e n : Nat} {i : RingIdent} {d : Line} :
    measCheck (startCmd r k e n s) i d = measCheck s i d := by
  obtain ⟨g, l, h⟩ := startCmd_eq (s := s) (k := k) (e := e) (n := n) (r := r)
  rw [h]
  rfl

section
variable (h : Starts c (isOpcode 3 op) k s) (hw : measWaits s c.ring k = false)
include h hw

/-- A command that waits for nothing and passes its checks is served. -/
theorem onChain_serves (f : Cmd → State → State) (hc : measCheck s (s.lt.ident c.ring) k.first = none) :
    onChain c op f s = f k (startCmd c.ring k 7 (sTarget k.first) s) := by
  have found := h.1
  unfold onChain
  simp only [found, hw, Bool.false_eq_true, if_false, runCommand_starts h, startCmd_lt, measCheck_startCmd, hc]

/-- A command that fails a check which is no violation ends with its status. -/
theorem onChain_fails (f : Cmd → State → State) {x : Result} (hc : measCheck s (s.lt.ident c.ring) k.first = some (x, none)) :
    onChain c op f s = ended c k (startCmd c.ring k 7 (sTarget k.first) s, x) := by
  have found := h.1
  unfold onChain
  simp only [found, hw, Bool.false_eq_true, if_false, runCommand_starts h, startCmd_lt, measCheck_startCmd, hc, ended]

end

theorem armTrip_arms {d : Line} (hd : sDisarm d = false) : armTrip d s = s.onChan (sTarget d) fun h =>
    { h with hi := sHi d, lo := sLo d, faultTrip := sFaultTrip d, armed := true, qual := 0 } := by
  simp only [armTrip, hd, Bool.false_eq_true, if_false]

theorem armTrip_disarms {d : Line} (hd : sDisarm d = true) :
    armTrip d s = s.onChan (sTarget d) fun h => { h with armed := false } := by
  simp only [armTrip, hd, if_true]

/-- R97: before the first lock no window is due. -/
theorem closeWindows_before_lock {n : Nat} (hr : s.ct.running = false) :
    closeWindows n s = (noteWindows 0 s).onChan n fun h => h := by
  have none_due (l : List Window) :
      (l.filter fun w => !w.closed && decide (w.closeCt ≤ (noteWindows 0 s).ct.now) && (noteWindows 0 s).ct.running) = [] :=
    List.filter_eq_nil_iff.mpr fun w _ => by simp [noteWindows, hr]
  unfold closeWindows
  simp only [none_due, List.contains_nil, Bool.false_eq_true, if_false, List.foldl_nil, List.map_id']

end

/-- Settles O43: each row at its branch, by what the channel and its site show before. -/
theorem measurementRows : Obligations.MeasurementRows := by
  refine ⟨fun s c hc => ⟨fun hk => ?noclk, fun hk hs => ?stuck, fun f hk lo hi => exec_clkRangeMeasurement_of_good hc hk lo hi,
      fun bs hk => ⟨fun ha => ?disarmed, fun ha hq hn => ?trips⟩⟩,
    fun s c hk => congrArg (ok s) (if_pos hk), fun s c hk => congrArg (ok s) (if_pos hk),
    fun s c bs hr => congrArg (ok s) (if_pos hr), fun s c bs hr => ok_of_unchanged (if_neg (by simp [hr])),
    fun s n high ha => congrArg (ok s) (if_pos ha), fun s n d ha hl => congrArg (ok s) (if_pos ⟨ha, hl⟩),
    fun s w c k hv hb hr => congrArg (ok s) ((programOrder_of_nothingBefore _ _ hb).trans (histRead_of_reach hv hr))⟩
  case noclk => exact congrArg (ok s) (if_pos (by simp [hc, hk]))
  case stuck => exact congrArg (ok s) (if_pos (by simp [hc, hk, hs]))
  case disarmed => exact congrArg (ok s) ((if_pos (by simp [hc, hk])).trans (if_neg (by rw [ha]; exact Bool.false_ne_true)))
  case trips =>
    refine congrArg (ok s) ((if_pos (by simp [hc, hk])).trans (if_pos ?_))
    rw [ha, Bool.true_and]
    exact decide_eq_true ⟨hq, hn⟩

/-- Settles O45: a served command is its operation on the started command, a failed one ends with its status. -/
theorem measurementCommands : Obligations.MeasurementCommands := by
  refine ⟨fun s c k op h hw hc => ⟨?window, ?arm, ?release, ?assert, ?wait⟩,
    fun s c k x h hw hc => congrArg (ok s) (onChain_fails h hw _ hc), fun s d hd => armTrip_arms hd,
    fun s d hd => armTrip_disarms hd, fun s n ha hp => (if_neg (by simp [ha])).trans (if_pos hp), fun s c => rfl,
    fun s c hr => closeWindows_before_lock hr⟩
  all_goals
    rintro rfl
    exact congrArg (ok s) (onChain_serves h hw _ hc)

end Sys2Proof.Machine
end

section
/-!
PROOFS. The site lanes and the ports of the buoy chain: training, frames and time-outs, and the lane commands (16, 17 §17.7).
-/

namespace Sys2Proof.Machine

section
variable {s : State} {n : Nat} {f : Frame} {bs : List Block}

/-! ### Phases -/

theorem Lane.phase_of_training {l : Lane} {p : LaneSt} (h : l.st = p) (hp : p ≠ .down) : l.phase = p :=
  (if_neg (by rw [h]; exact hp)).trans h

theorem ChainPort.phase_of_training {l : ChainPort} {p : LaneSt} (h : l.st = p) (hp : p ≠ .down) : l.phase = p :=
  (if_neg (by rw [h]; exact hp)).trans h

/-! ### Site lanes -/

/-- R746: a lane that has not reached UP in time enters DOWN. -/
theorem laneTimeout_of_detect (h : (s.lane n).st = .detect) : laneTimeout n s = enterDown n s := by
  unfold laneTimeout
  rw [h]

theorem laneBad_of_codeError (h : (s.lane n).st = .up) : laneBad n bs true s = receiveBad n true s :=
  (if_neg (not_not_intro h)).trans (if_pos rfl)

theorem ackTimeout_at_limit (h : (s.lane n).st = .up) (hu : (s.lane n).unacked = true)
    (hl : s.lt.retryLimit ≤ (s.lane n).timeouts + 1) : ackTimeout n s = enterDown n s :=
  (if_neg (by simp [h, hu])).trans (if_pos hl)

/-- R767: while an epoch's start is not acknowledged a time-out sends it again. -/
theorem ackTimeout_of_starting {q : W32} (h : (s.lane n).st = .up) (hq : (s.lane n).starting = some q)
    (hl : (s.lane n).timeouts + 1 < s.lt.retryLimit) : ackTimeout n s
      = sendFrame n (s.lane n).txEpoch q.toNat 0x11 0 [] (s.onLane n fun l => { l with timeouts := l.timeouts + 1 }) := by
  have hu : (s.lane n).unacked = true := by simp [Lane.unacked, hq]
  unfold ackTimeout
  rw [if_neg (by simp [h, hu]), if_neg (by omega)]
  simp only [hq]

/-! ### Ports of the chain -/

theorem chainTimeout_of_detect {p : Port} (h : (s.bc p).st = .detect) : chainTimeout p s = chainDown p s := by
  unfold chainTimeout
  rw [h]

theorem chainBad_of_codeError {p : Port} (h : (s.bc p).st = .up) : chainBad p bs true s = chainAck p true (bcSet 4 s) :=
  (if_neg (not_not_intro h)).trans (if_pos rfl)

theorem chainAckTimeout_at_limit {p : Port} (h : (s.bc p).st = .up) (ho : (s.bc p).outs.any (·.sent) = true)
    (hl : 16 ≤ (s.bc p).timeouts + 1) : chainAckTimeout p s = chainDown p s :=
  (if_neg (by simp only [h, ho, ne_eq, not_true_eq_false, Bool.true_eq_false, or_self, not_false_eq_true])).trans (if_pos hl)

/-- The next frame in sequence of a chain port is acknowledged and acts. -/
theorem onChainFrame_of_next {p : Port} {type : Nat} {g : List Byte → State → State} (h : (s.bc p).st = .up)
    (hf : parseChain bs = .good f) (ht : f.type = type) (he : f.epoch = 1) (hd : seqDist (s.bc p).rxSeq f.seq = 1) :
    onChainFrame p type bs g s = g f.payload (chainAck p false (s.onBc p fun c => { c with rxSeq := f.seq })) := by
  unfold onChainFrame
  rw [if_neg (not_not_intro h), hf]
  dsimp only
  rw [if_neg (by simp [ht, he]), if_pos hd]

/-! ### HELLO and data on a site lane -/

theorem exec_laneHelloReceived_of_good {m : SiteId} (h : (s.lane m.val).st = .hello) (hf : parseFrame bs = .good f)
    (ht : f.type = 0x12) (hr : f.payload.getD 0 0 ≠ 0) (hc : canCommit s = true) :
    exec (.laneHelloReceived m bs) s = ok s (helloUp m.val f.payload s) := by
  have role : ¬(f.payload.getD 0 0).toNat = 0 := fun z => hr (BitVec.eq_of_toNat_eq z)
  refine congrArg (ok s) ((if_neg (not_not_intro (Lane.phase_of_training h nofun))).trans ?_)
  rw [hf]
  dsimp only
  rw [if_neg (not_not_intro ht), if_neg role, if_pos hc]

/-- R754, R904: the next frame of the current epoch enters the inbound store, which nothing waits for. -/
theorem receiveSequenced_of_next (hc : (s.lane n).rxCurrent = true) (he : f.epoch = (s.lane n).rxEpoch) (ht : f.type ≠ 0x01)
    (hd : seqDist (s.lane n).rxSeq f.seq = 1) (hl : (s.lane n).ins.length < 32) (hr : (s.lane n).recvs = [])
    (hp : (s.lane n).postEn = false) (inv : rises s.ln.tab = true) :
    receiveSequenced n f s = sendAck n false (s.onLane n fun l =>
      { l with rxSeq := f.seq, ins := l.ins ++ [⟨f.epoch, f.seq, f.type, f.flags, f.payload, s.ct.now, none⟩] }) := by
  have silent : ∀ t : State, (t.lane n).postEn = false → postInbound n t = t := fun t h => if_neg (by simp [h])
  unfold receiveSequenced
  rw [if_neg (by simp [hc, he])]
  dsimp only
  rw [if_pos hd, if_neg ht, if_neg (by omega), hr, silent _ (by rw [lane_onLane_same _ inv]; exact hp), ite_self]
  rfl

theorem receiveEpochStart_of_new (h0 : f.epoch ≠ 0) (he : f.epoch ≠ (s.lane n).rxEpoch) : receiveEpochStart n f s
    = sendAck n false (s.onLane n fun l => { l with rxCurrent := true, rxEpoch := f.epoch, rxSeq := f.seq - 1 }) :=
  (if_neg h0).trans (if_neg fun h => he h.2)

/-! ### The lane commands -/

section
variable {t : State} {c : CmdRef} {k : Cmd} {data : List Byte}

/-- An entry made on a lane changes nothing that decides a start. -/
theorem starts_makeEntry {isOp : Line → Bool} {r q : Nat} {d : Line} {e : Option Nat} (h : Starts c isOp k t) :
    Starts c isOp k (makeEntry r q d e data t) := h

/-- R763: a LANE_SEND that passes its checks stores an entry, and transmits. -/
theorem laneSend_stores (h : Starts c (isOpcode 3 1) k s) (later : Starts c (isOpcode 3 1) k t)
    (hc : laneCheck s (s.lt.ident c.ring) k.first = none) (own : ownEntry s (sTarget k.first) c.ring k.seq = none)
    (up : (s.lane (sTarget k.first)).out = false) (room : (s.lane (sTarget k.first)).outs.length < 32)
    (used : (s.lane (sTarget k.first)).txUsed < 2 ^ 32)
    (got : (if (sendDecision s k.first).isSome then (s, [], false)
      else ringRead (s.lt.ident c.ring) (nAddr k.first) (nLen k.first) s) = (t, data, false)) :
    laneSend c s = transmit (sTarget k.first) (startCmd c.ring k 4 (sTarget k.first)
      (makeEntry c.ring k.seq k.first (sendDecision s k.first) data t)) := by
  obtain ⟨found, isOp, noResult, may, _⟩ := h
  have full : ¬(32 ≤ (s.lane (sTarget k.first)).outs.length ∨ 2 ^ 32 ≤ (s.lane (sTarget k.first)).txUsed) := by omega
  unfold laneSend
  simp only [found, isOp, noResult, may, hc, own, up, if_neg full, got, Option.isSome_none, Bool.not_true, Bool.or_self,
    Bool.false_eq_true, if_false, runCommand_starts (starts_makeEntry later)]

theorem laneCheck_startCmd {r e m : Nat} {i : RingIdent} {d : Line} : laneCheck (startCmd r k e m s) i d = laneCheck s i d := by
  obtain ⟨g, l, h⟩ := startCmd_eq (s := s) (k := k) (e := e) (n := m) (r := r)
  rw [h]
  rfl

/-- R784: a LANE_RECV that passes its checks is served. -/
theorem exec_laneRecv_serves (h : Starts c (isOpcode 3 2) k s) (hc : laneCheck s (s.lt.ident c.ring) k.first = none) :
    exec (.laneRecv c) s = ok s (laneRecv c.ring k (startCmd c.ring k 4 (sTarget k.first) s)) := by
  have found := h.1
  have target : (((s.ring c.ring).find c.seq).map fun k => sTarget k.first).getD 0 = sTarget k.first := by rw [found]; rfl
  refine congrArg (ok s) ((runCommand_starts h).trans ?_)
  rw [target]
  simp only [startCmd_lt, laneCheck_startCmd, hc]

end

end

/-- Settles O46: each row acts in the phase it names, on a lane and on a port alike. -/
theorem lineRows : Obligations.LineRows := by
  refine ⟨fun s n h => ⟨?probe, ?swap, congrArg (ok s) (laneTimeout_of_detect h)⟩, fun s n inv cr h => ?lock,
    fun s n h => ?hello,
    fun s n h => ⟨congrArg (ok s) (if_pos h), fun bs => congrArg (ok s) (laneBad_of_codeError h),
      fun bs f hf ht => exec_voidFrameReceived_of_good h hf ht,
      fun bs f hf ht => congrArg (ok s) (onFrame_of_taken _ h hf (beq_iff_eq.mpr ht)),
      fun hu hl => congrArg (ok s) (ackTimeout_at_limit h hu hl),
      fun q hq hl => congrArg (ok s) (ackTimeout_of_starting h hq hl)⟩,
    fun s p h => ⟨?chainProbe, ?chainSwap, congrArg (ok s) (chainTimeout_of_detect h)⟩, fun s p inv cr h => ?chainLock,
    fun s p h => ?chainHello,
    fun s p h => ⟨congrArg (ok s) (if_pos h), congrArg (ok s) (if_pos h), fun bs => congrArg (ok s) (chainBad_of_codeError h),
      fun bs f hf ht he hd => congrArg (ok s) (onChainFrame_of_next h hf ht he hd), fun bs => rfl,
      fun ho hl => congrArg (ok s) (chainAckTimeout_at_limit h ho hl)⟩⟩
  case probe => exact congrArg Host.Outcome.next (if_pos ⟨Lane.phase_of_training h nofun, rfl⟩)
  case swap => exact congrArg (ok s) (if_pos (Lane.phase_of_training h nofun))
  case lock => exact congrArg (ok s) (if_pos (Lane.phase_of_training h nofun))
  case hello => exact congrArg Host.Outcome.next (if_pos (Lane.phase_of_training h nofun))
  case chainProbe => exact congrArg Host.Outcome.next (if_pos ⟨ChainPort.phase_of_training h nofun, rfl⟩)
  case chainSwap => exact congrArg (ok s) (if_pos (ChainPort.phase_of_training h nofun))
  case chainLock => exact congrArg (ok s) (if_pos (ChainPort.phase_of_training h nofun))
  case chainHello => exact congrArg Host.Outcome.next (if_pos (ChainPort.phase_of_training h nofun))

/-- Settles O47: frames in sequence and commands that pass their checks. -/
theorem laneFramesAndCommands : Obligations.LaneFramesAndCommands := by
  refine ⟨fun s n bs f h hf ht hr hc => exec_laneHelloReceived_of_good h hf ht hr hc,
    fun s n bs f h hf ht => exec_dataFrameReceived_of_good h hf ht,
    fun s n f hc he ht hd hl hr hp inv => receiveSequenced_of_next hc he ht hd hl hr hp inv,
    fun s n bs f h hf ht h0 he =>
      congrArg (ok s) ((onFrame_of_taken (p := (· == 0x11)) _ h hf (beq_iff_eq.mpr ht)).trans (receiveEpochStart_of_new h0 he)),
    fun s t c k data h later => ?send, fun s c k h hc => exec_laneRecv_serves h hc⟩
  intro n i hc own up room used
  refine ⟨fun st decided => congrArg (ok s) ?_, fun undecided read => congrArg (ok s) ?_⟩
  · rw [← decided]
    exact laneSend_stores h h hc own up room used (if_pos (by rw [decided]; rfl))
  · rw [← undecided]
    exact laneSend_stores h later hc own up room used ((if_neg (by rw [undecided]; exact Bool.false_ne_true)).trans read)

end Sys2Proof.Machine
end

section
/-!
PROOFS. The update commands, confirmation and expiry, the chain's rows and Daymark mode (17).
-/

namespace Sys2Proof.Machine

section
variable {s : State} {c : CmdRef} {k : Cmd} {worn : Bool}

/-! ### The update commands (§17.6) -/

theorem exec_updBlock_programs {v : State} {bs : List Byte} (h : Starts c (isOpcode 1 0x31) k s) (hf : updFieldsOk k.first = true)
    (pos : 0 < (pIn k.first).2) (fits : (pIn k.first).2 ≤ 65536)
    (read : ringRead (s.lt.ident c.ring) (pIn k.first).1 (pIn k.first).2 (startCmd c.ring k 5 0 s) = (v, bs, false)) :
    exec (.updBlock c worn) s = ok s (ended c k (programBlock (pTotal k.first) bs (some (c.ring.val, k.seq)) worn v)) := by
  refine congrArg (ok s) ((updCommand_starts h hf).trans (congrArg (ended c k) ?_))
  dsimp only
  rw [if_neg (by omega), if_neg (by omega), read]
  exact if_neg Bool.false_ne_true

theorem exec_updClose_closes {v : State} {bs : List Byte} (h : Starts c (isOpcode 1 0x32) k s) (hf : updFieldsOk k.first = true)
    (whole : (pIn k.first).2 = 48) (alone : pArg k.first = 0)
    (read : ringRead (s.lt.ident c.ring) (pIn k.first).1 48 (startCmd c.ring k 5 0 s) = (v, bs, false)) :
    exec (.updClose c worn) s = ok s (ended c k (closeTransfer (pTotal k.first) bs worn v)) := by
  refine congrArg (ok s) ((updCommand_starts h hf).trans (congrArg (ended c k) ?_))
  dsimp only
  rw [if_neg (not_not_intro whole), read]
  dsimp only
  rw [if_neg Bool.false_ne_true, alone]
  cases v.up.xfer with
  | none => rfl
  | some x => exact if_neg fun h => absurd h.2 (by decide)

section
variable {k : Slot} (hs : (s.up.slot k).st = .staged) (ht : bootedTrial s = false)
include hs ht

theorem activate_unfit {e : Result} (check : slotCheck s k = some e) : activate k s = (s, e) := by
  simp only [activate, hs, ht, check, ne_eq, not_true_eq_false, Bool.false_eq_true, or_self, if_false]

/-- R817: outside Daymark mode an activation leaves the count of failures. -/
theorem activate_fit (hd : s.up.daymark = false) (check : slotCheck s k = none) :
    activate k s = (s.onUp fun u => u.onSlot k fun r => { r with st := .trial, attempts := 0 }, statusOf 0) := by
  simp only [activate, hs, ht, hd, check, State.onUp, ne_eq, not_true_eq_false, Bool.false_eq_true, or_self, if_false]

end

/-- R815: the first block of a transfer is programmed and noted. -/
theorem programBlock_first {x : Transfer} {off : Nat} {bs : List Byte} {b : Option (Nat × Nat)} (hx : s.up.xfer = some x)
    (aligned : off % 256 = 0) (inside : off + bs.length ≤ x.total) (first : x.blocks = []) : programBlock off bs b false s
      = ((norProgram (regionBase x.target x.lightTable + off) bs s).onUp fun u =>
          { u with xfer := some { x with blocks := [(off, bs.length, b)] } }, statusOf 0) := by
  unfold programBlock
  rw [hx]
  dsimp only
  rw [if_neg (by omega), first]
  rfl

/-! ### Confirmation (§17.5) -/

section
variable {w : Requester} {n : Option Nat}

theorem exec_upConfirm_in_window (hv : seesPf s w = true) (hb : nothingBefore s w) (hw : s.up.health.isSome = true) :
    exec (.upConfirm w 0x434F4E46#32 n) s = ok s (confirm n s) :=
  congrArg (ok s) ((pfWrite_of_seesPf _ hv hb).trans (if_pos ⟨rfl, hw⟩))

theorem exec_upConfirm_without_effect {v : W32} (hb : nothingBefore s w) (h : v ≠ 0x434F4E46#32 ∨ s.up.health = none) :
    exec (.upConfirm w v n) s = .next s := by
  refine ok_of_unchanged (pfWrite_of_unchanged (if_neg ?_) hb)
  rintro ⟨value, window⟩
  rcases h with other | closed
  · exact other value
  · rw [closed] at window
    exact Bool.false_ne_true window

end

theorem expireHealth_in_window (hw : s.up.health.isSome = true) : expireHealth s = s.onUp fun u =>
    { (u.onSlot (booted s) fun r => { r with st := .invalid }) with
      trouble := setBit u.trouble 1, revertPending := true, health := none, trial := false } := by
  have open_ : s.up.health.isNone = false := Option.isNone_eq_false_iff.mpr hw
  rw [expireHealth, open_]
  rfl

/-! ### The chain (§17.7) -/

section
variable {p : Port} {bs : List Block} {f : Frame} (h : (s.bc p).st = .hello) (hf : parseChain bs = .good f) (ht : f.type = 0x12)
include h hf ht

theorem chainHelloReceived_of_hello : chainHelloReceived p bs s =
    if (f.payload.getD 0 0).toNat = p.num then bcSet 3 s
    else s.onBc p fun c =>
      { c with st := .up, train := .detect, peer := BitVec.ofNat 6 (f.payload.getD 1 0).toNat
               peerSerial := BitVec.ofNat 64 (beField f.payload 8 8)
               txNext := 0, txAcked := 0xFFFFFFFF#32, rxSeq := 0xFFFFFFFF#32, credit := 32, timeouts := 0, outs := [] } := by
  unfold chainHelloReceived
  rw [if_neg (not_not_intro (ChainPort.phase_of_training h nofun)), hf]
  exact if_neg (not_not_intro ht)

end

section
variable {f : Forward} (hf : s.up.fwd = some f)
include hf

theorem reoffer_on_port (stage : f.stage = .port) (up : s.up.portDown.st = .up) (few : f.links < 3) :
    reoffer s = offer { f with links := f.links + 1 } s := by
  simp only [reoffer, hf, stage]
  exact if_pos ⟨up, few⟩

theorem reoffer_gives_up_port (stage : f.stage = .port) (many : 3 ≤ f.links) : reoffer s = giveUp f 0x11B s := by
  simp only [reoffer, hf, stage]
  exact if_neg fun h => absurd h.2 (by omega)

theorem reoffer_waits (stage : f.stage = .reoffer) (few : f.waits < 600) : reoffer s = offer { f with waits := f.waits + 1 } s := by
  simp only [reoffer, hf, stage]
  exact if_pos few

theorem reoffer_gives_up_waiting (stage : f.stage = .reoffer) (many : 600 ≤ f.waits) : reoffer s = giveUp f 0x110 s := by
  simp only [reoffer, hf, stage]
  exact if_neg (by omega)

end

/-! ### Daymark mode (§17.8) -/

/-- What an operation leaves: its state, its status and its result. -/
def dmAnswered (p : State × Result) : State :=
  p.1.onUp fun u => { u with dmStatus := p.2.status, dmResult := BitVec.ofNat 32 p.2.result32 }

section
variable {w : Requester} (hv : seesPf s w = true) (hb : nothingBefore s w) (hd : s.up.daymark = true)
include hv hb hd

theorem daymarkWrite_acts {op arg : Nat} (other : op ≠ 2) : programOrder w true (daymarkWrite w op arg worn) s
    = dmAnswered (daymarkOp op (dmOffset s) arg (readBytes s.up.dmBuf 0 48) worn s) := by
  rw [programOrder_of_nothingBefore _ _ hb, daymarkWrite, if_neg (by simp [hv, hd]), if_neg other]
  rfl

theorem daymarkWrite_block : programOrder w true (daymarkWrite w 2 0 worn) s
    = dmAnswered (daymarkOp 2 (dmOffset s) 0 (readBytes s.up.dmBuf 0 (min (dmLen s) 65537)) worn s) := by
  rw [programOrder_of_nothingBefore _ _ hb, daymarkWrite, if_neg (by simp [hv, hd]), if_pos rfl]
  rfl

end

section
variable {bs : List Byte} (hd : s.up.daymark = true) (he : s.up.retained.getLsbD 3 = true) (hs : uartSound bs = true)
include hd he hs

theorem uartRequest_repeats {a : List Byte} (last : s.up.uartLast = some (bs.getD 3 0, a)) :
    uartRequest bs worn s = s.emit (.uart a) := by
  unfold uartRequest
  rw [if_neg (by simp [hd, he, hs])]
  simp only [last, Option.bind_some, if_true]

theorem uartRequest_acts (last : s.up.uartLast = none) : uartRequest bs worn s =
    let data := (bs.drop 10).take (leField bs 8 2)
    let p := daymarkOp (bs.getD 2 0).toNat (leField bs 4 4) (data.getD 0 0).toNat data worn s
    let a := uartAnswer (bs.getD 2 0) (bs.getD 3 0) p.2
    (p.1.onUp fun u => { u with uartLast := some (bs.getD 3 0, a) }).emit (.uart a) := by
  unfold uartRequest
  rw [if_neg (by simp [hd, he, hs])]
  simp only [last, Option.bind_none]

end

end

/-- Settles O49: each command is its operation on the started command, and confirmation turns on the value and the window. -/
theorem updateCommands : Obligations.UpdateCommands := by
  refine ⟨fun s c k op h hf => ⟨?open_, ?block, ?close, ?activate, ?report⟩, fun s k hs ht hd => ?staged,
    fun s k h => if_pos h, fun s x off bs b hx ha hi hb => programBlock_first hx ha hi hb,
    fun s w hv hb hw => ⟨exec_upConfirm_in_window hv hb hw, fun n => exec_upConfirm_in_window hv hb hw⟩,
    fun s w v n hb h => exec_upConfirm_without_effect hb h, fun s hw => congrArg (ok s) (expireHealth_in_window hw)⟩
  case staged =>
    cases check : slotCheck s k with
    | some e => exact activate_unfit hs ht check
    | none => exact activate_fit hs ht hd check
  case open_ =>
    rintro worn rfl fits
    exact congrArg (ok s) ((updCommand_starts h hf).trans (congrArg (ended c k) (if_pos fits)))
  case block =>
    rintro worn v bs rfl pos fits read
    exact exec_updBlock_programs h hf pos fits read
  case close =>
    rintro worn v bs rfl whole alone read
    exact exec_updClose_closes h hf whole alone read
  case activate =>
    rintro rfl
    exact congrArg (ok s) (updCommand_starts h hf)
  case report =>
    rintro rfl
    refine congrArg (ok s) ((updCommand_starts h hf).trans ?_)
    rw [startCmd_up]

/-- Settles O51: a frame in sequence acts, a forwarding ends at its limits, and Daymark's operations answer. -/
theorem chainAndDaymark : Obligations.ChainAndDaymark := by
  refine ⟨fun s p bs f h hf ht => ⟨fun same => ?refused, fun other => ?up⟩, fun s p bs f h hf he hd => ?frames,
    fun s f hf => ⟨fun a b c => congrArg (ok s) (reoffer_on_port hf a b c), fun a b => congrArg (ok s) (reoffer_gives_up_port hf a b),
      fun a b => congrArg (ok s) (reoffer_waits hf a b), fun a b => congrArg (ok s) (reoffer_gives_up_waiting hf a b)⟩,
    fun s p worn off => if_pos (by rw [off]; rfl), fun s w hv hb hd => ?daymark,
    fun s bs worn hd he hs => ⟨fun a last => congrArg (ok s) (uartRequest_repeats hd he hs last),
      fun last => congrArg (ok s) (uartRequest_acts hd he hs last)⟩⟩
  case refused => exact congrArg (ok s) ((chainHelloReceived_of_hello h hf ht).trans (if_pos same))
  case up => exact congrArg (ok s) ((chainHelloReceived_of_hello h hf ht).trans (if_neg other))
  case frames =>
    refine ⟨?_, ?_, ?_, ?_, ?_, ?_⟩
    · rintro worn rfl ht
      exact congrArg (ok s) (onChainFrame_of_next h hf ht he hd)
    · rintro rfl ht
      exact congrArg (ok s) (onChainFrame_of_next h hf ht he hd)
    · rintro rfl ht
      exact congrArg (ok s) (onChainFrame_of_next h hf ht he hd)
    · rintro worn rfl ht
      exact congrArg (ok s) (onChainFrame_of_next h hf ht he hd)
    · rintro rfl ht
      exact congrArg (ok s) (onChainFrame_of_next (g := fun _ t => t.onUp fun u => { u with fwd := none }) h hf ht he hd)
    · rintro rfl ht
      exact congrArg (ok s) (onChainFrame_of_next (g := keepReport) h hf ht he hd)
  case daymark =>
    exact ⟨fun a worn => congrArg (ok s) (daymarkWrite_acts hv hb hd (by decide)),
      fun worn => congrArg (ok s) (daymarkWrite_block hv hb hd),
      fun a worn => congrArg (ok s) (daymarkWrite_acts hv hb hd (by decide)),
      fun a => congrArg (ok s) (daymarkWrite_acts hv hb hd (by decide)),
      congrArg (ok s) (daymarkWrite_acts (arg := 0) (worn := false) hv hb hd (by decide)),
      congrArg (ok s) (daymarkWrite_acts (arg := 0) (worn := false) hv hb hd (by decide))⟩

end Sys2Proof.Machine
end

section
/-!
PROOFS. The lands that no other unit serves (08 §8.6, 19 §19.8, §19.9), and the state before power.
-/

namespace Sys2Proof.Machine

section
variable {s : State}

/-! ### SMBus -/

theorem smbRead_of_powered (h : s.pwr.supply = .on) (code : Byte) (data : List Byte) (pec : Bool) :
    smbRead code data pec s = s.emit (smbAnswer s code data pec) := by
  have serves : smbServes s = true := decide_eq_true h
  exact if_pos serves

theorem exec_of_smbWord {i : Instr} {code : Byte} {v : Nat} {pec : Bool} (row : exec i s = .next (smbWord code v pec s))
    (h : s.pwr.supply = .on) : exec i s = .next (s.emit (smbAnswer s code (bytesLE 2 v) pec)) :=
  row.trans (congrArg Host.Outcome.next (smbRead_of_powered h code _ pec))

theorem exec_of_smbBlock {i : Instr} {code : Byte} {n v : Nat} {pec : Bool} {data : List Byte}
    (row : exec i s = .next (smbBlock code n v pec s)) (h : s.pwr.supply = .on) (hd : bytesLE 1 n ++ bytesLE n v = data) :
    exec i s = .next (s.emit (smbAnswer s code data pec)) := by
  rw [row, smbBlock, smbRead_of_powered h, hd]

/-! ### The TAP -/

theorem scan_of_powered (h : s.pwr.supply = .on) (code : BitVec 5) (f : State → State) :
    scan code f s = f (s.onPort fun p => { p with ir := code }) := if_pos h

/-- One bit through the bypass register: the captured 0 comes out, and the bit stays. -/
theorem bypassScan_one (b : Bool) : bypassScan [b] s = (s.emit (.tdo 1 0)).onPort fun p => { p with bypass := b } := by
  have captured : 2 * ofBits [b] % 2 ^ 1 = 0 := Nat.mul_mod_right 2 _
  unfold bypassScan
  rw [List.length_singleton, captured]
  rfl

theorem boundaryScan_cells (cells : List Bool) : (boundaryScan cells s).port.cells = cells := rfl

/-! ### Internal DMA -/

theorem internalDma_read {ch a : Nat} {n : Fin 65} (h : (agentCheck (dmaAgent s ch) a n.val s).2 = false) :
    internalDma ch a (.read n) s
      = (agentCheck (dmaAgent s ch) a n.val s).1.emit (.dmaData ch a (agentRead s (dmaAgent s ch) a n.val)) := by
  unfold internalDma
  dsimp only
  rw [h]
  exact if_neg Bool.false_ne_true

end

/-- Settles O53: each port serves while the module is powered, as its table says. -/
theorem outsidePorts : Obligations.OutsidePorts := by
  refine ⟨fun s pec h => ?smbus, fun s code bs => rfl, fun s h => congrArg Host.Outcome.next (if_pos (decide_eq_true h)),
    fun s h => ?tap, fun s => rfl, fun s v h => congrArg Host.Outcome.next (if_neg h),
    fun s v h => congrArg Host.Outcome.next (if_pos h), fun s ch a hz hm => ?dma⟩
  case smbus =>
    have four : bytesLE 1 4 = [4] := by decide
    have eight : bytesLE 1 8 = [8] := by decide
    exact ⟨exec_of_smbWord rfl h, exec_of_smbBlock rfl h (by rw [four]), exec_of_smbWord rfl h, exec_of_smbWord rfl h,
      exec_of_smbWord rfl h, exec_of_smbWord rfl h, exec_of_smbWord rfl h, exec_of_smbBlock rfl h (by decide),
      exec_of_smbBlock rfl h (by rw [eight]), exec_of_smbBlock rfl h (by rw [four])⟩
  case tap =>
    have scans (code : BitVec 5) (f : State → State) :=
      congrArg (Host.Outcome.next (φ := Fault) (ρ := Refusal)) (scan_of_powered h code f)
    refine ⟨scans 1 _, scans 3 _, scans 4 _, fun v => scans 0x10 _, fun c b hc => ?_, fun cells => ⟨scans 2 _, fun low => ?_,
      fun high => ?_, boundaryScan_cells cells⟩⟩
    · refine congrArg Host.Outcome.next ((if_neg (by simpa using hc)).trans ((scan_of_powered h c _).trans ?_))
      exact bypassScan_one b
    · exact (scans 0 _).trans (congrArg Host.Outcome.next (if_pos low))
    · exact (scans 0 _).trans (congrArg Host.Outcome.next (if_neg (by rw [onPort_port, high]; exact Bool.false_ne_true)))
  case dma =>
    have open_ : (s.mesh.zeroed && !s.pwr.moduleReset) = true := by rw [hz, hm]; rfl
    refine ⟨fun n hp => congrArg (ok s) ((if_pos open_).trans ?_), fun bs => congrArg (ok s) (if_pos open_)⟩
    rw [internalDma_read hp]

/-- Settles O60: every part of the state before power is its default. -/
theorem resetState : Obligations.ResetState :=
  ⟨⟨rfl, rfl, rfl, rfl, rfl, rfl, rfl, rfl, rfl, rfl, rfl, rfl, rfl, rfl, rfl⟩, rfl, rfl, rfl, rfl, rfl, rfl, rfl, rfl, rfl, rfl,
    rfl, rfl, fun _ => ⟨rfl, rfl, rfl⟩, fun _ => ⟨rfl, rfl, rfl⟩, fun _ => ⟨rfl, rfl, rfl, rfl⟩⟩

end Sys2Proof.Machine
end

section
/-!
PROOFS. Register accesses: their place in program order, the halves of 64-bit registers, W1C writes and writes that are barred
(00 §0.4.3, 01 §1.7, 02 §2.9, 06 §6.2, 18 §18.2, §18.4; R26-R36, R50, R54, R100, R244, R846, R852, R885).
-/

namespace Sys2Proof.Machine

variable {s : State} {h : HartId} {o : Nat} {v : W64}

/-! ### Program order -/

theorem programOrder_of_storesHeld {write : Bool} {f : State → State} (r : (s.hart h).inReset = false)
    (older : (s.hart h).storeBuf ≠ []) (held : storesHeld s h = true) : programOrder (.hart h) write f s = s := by
  simp [programOrder, r, older, held]

theorem programOrder_of_storesFree {write : Bool} {f : State → State} (r : (s.hart h).inReset = false)
    (older : (s.hart h).storeBuf ≠ []) (free : storesHeld s h = false) :
    programOrder (.hart h) write f s = f (if write then drainAll h s else drainThrough h (·.io) s) := by
  simp [programOrder, r, older, free]

/-! ### Accesses by a hart below the windows -/

theorem visible_hart (r : (s.hart h).inReset = false) : visible s (.hart h) = true := by
  rw [visible, r]
  rfl

theorem canonical_hart (small : o < 0x430000) : canonical s (.hart h) o = some o := if_pos small

theorem regWrite_of_invisible {w : Requester} {p : Part} (hidden : visible s w = false) : regWrite w o p v s = s := by
  simp [regWrite, hidden]

/-- R12: a read of a 64-bit register that its hart may make. -/
theorem regRead_hart {n : Nat} {p : Part} (r : (s.hart h).inReset = false) (small : o < 0x100000) (unit : o % 8 = 0)
    (holds : reg64 s (.hart h) o = some n) (allowed : denied s (.hart h) false o 0 = none) :
    regRead (.hart h) o p s = ((read64 (.hart h) o n p s).1, BitVec.ofNat 64 (read64 (.hart h) o n p s).2) := by
  have whole : o / 8 * 8 = o := by omega
  have below : ¬ (0x100000 ≤ o ∧ o < 0x200000) := by omega
  simp only [regRead, visible_hart r, canonical_hart (show o < 0x430000 by omega), whole, if_neg below, holds, allowed]
  rfl

/-- R887: a write of the upper half of a unit that holds two 32-bit registers. -/
theorem regWrite_hart_high (r : (s.hart h).inReset = false) (outside : o < 0x100000) (half : o % 8 = 4)
    (halves : reg64 s (.hart h) (o - 4) = none) :
    regWrite (.hart h) o .high v s = write32At (.hart h) o (v.truncate 32) s := by
  have unit : o / 8 * 8 = o - 4 := by omega
  have upper : o - 4 + 4 = o := by omega
  have below : ¬ (0x100000 ≤ o ∧ o < 0x200000) := by omega
  simp only [regWrite, visible_hart r, canonical_hart (show o < 0x430000 by omega), unit, upper, if_neg below, halves]
  rfl

/-- R885: the Open world is barred from the Keeper world's block. -/
theorem denied_openWorld {write : Bool} (outside : (s.hart h).keeper = false) (lo : 0x400000 ≤ o) (hi : o < 0x410000) :
    denied s (.hart h) write o v = some .worldAttr := by
  simp (disch := omega) only [denied, if_neg, if_pos, actingKeeper, outside]
  rfl

/-- A write of the lower half that a violation bars, whatever the unit holds. -/
theorem regWrite_hart_low_of_denied {k : ViolKind} (r : (s.hart h).inReset = false) (small : o < 0x430000)
    (outside : o < 0x100000 ∨ 0x200000 ≤ o) (other : o / 8 * 8 ≠ 0x3008)
    (site : o < 0x10000 ∨ 0x20000 ≤ o / 8 * 8) (barred : ∀ d, denied s (.hart h) true (o / 8 * 8) d = some k) :
    regWrite (.hart h) o .low v s = violateBy s (.hart h) true k (o / 8 * 8) := by
  have beside : ¬ (0x100000 ≤ o ∧ o < 0x200000) := by omega
  have acts : ¬ (o / 8 * 8 = 0x3008 ∨ 0x10000 ≤ o / 8 * 8 ∧ o / 8 * 8 < 0x20000 ∧ o / 8 * 8 % 0x400 = 0x28 ∧
      actingKeeper s (.hart h) = false) := by
    omega
  simp only [regWrite, visible_hart r, canonical_hart small, if_neg beside, barred, write32At, if_neg acts, ite_self]
  rfl

/-! ### The trouble registers -/

/-- R54: a W1C write of a register narrower than the word. -/
theorem w1c_narrow {n : Nat} (narrow : n ≤ 32) (x : BitVec n) (m : W32) :
    BitVec.ofNat n (w1c (BitVec.ofNat 32 x.toNat) m).toNat = x &&& ~~~m.extractLsb' 0 n := by
  rw [BitVec.ofNat_toNat, BitVec.ofNat_toNat, w1c]
  ext i hi
  have inside : i < 32 := by omega
  simp [BitVec.getLsbD_eq_getElem hi, inside]

/-- R839: a hart's W1C write of the trouble register in the upper half of a unit. -/
theorem troubleW1cWrite_hart {o : BitVec 32} {t : TroubleReg} (r : (s.hart h).inReset = false) (empty : (s.hart h).storeBuf = [])
    (outside : o.toNat < 0x10000 ∨ 0x80000 ≤ o.toNat ∧ o.toNat < 0x100000) (half : o.toNat % 8 = 4)
    (halves : reg64 s (.hart h) (o.toNat - 4) = none) (names : troubleReg o.toNat = some t) (own : o.toNat ≠ 0x2008)
    (free : holdsLt o.toNat = false) (allowed : ∀ d, denied s (.hart h) true o.toNat d = none) :
    exec (.troubleW1cWrite ⟨.hart h, o, .high, v⟩) s = .next (troubleEdges s (t.clear (v.truncate 32) s)) := by
  have upper : o.toNat / 8 * 8 + 4 = o.toNat := by omega
  have named : namesTrouble s ⟨.hart h, o, .high, v⟩ = true := by
    simp only [namesTrouble, canonical_hart (show o.toNat < 0x430000 by omega), upper, names]
    rfl
  have wrote : regWrite (.hart h) o.toNat .high v s = t.clear (v.truncate 32) s := by
    rw [regWrite_hart_high r (by omega) half halves, write32At, allowed]
    have site : ¬ (0x10000 ≤ o.toNat ∧ o.toNat < 0x20000) := by omega
    simp only [write32, free, if_neg site, own, names]
    rfl
  refine congrArg (ok s) ((programOrder_of_nothingBefore (w := .hart h) true _ empty).trans ?_)
  exact (if_pos named).trans wrote

/-- Settles O52: each access comes after the older stores, and the register map says what it does. -/
theorem registerAccess : Obligations.RegisterAccess := by
  unfold Obligations.RegisterAccess
  refine ⟨?order, ?write, ?csr, ?low, ?hart, ?violations⟩
  case order =>
    intro s h f r older
    refine ⟨fun free => ?_, fun b held => programOrder_of_storesHeld r older held⟩
    exact ⟨programOrder_of_storesFree r older free, programOrder_of_storesFree r older free⟩
  case write =>
    intro s w
    refine ⟨rfl, fun first => ?_, fun first hidden => ⟨?_, ?_⟩⟩
    · exact congrArg (ok s) (programOrder_of_nothingBefore true _ first)
    · exact ok_of_unchanged ((programOrder_of_nothingBefore true _ first).trans (regWrite_of_invisible hidden))
    · refine ok_of_unchanged ((programOrder_of_nothingBefore true _ first).trans ?_)
      rw [regWrite_of_invisible hidden, ite_self]
  case csr => intro s h n v i; rfl
  case low => exact fun s w o first => congrArg (ok s) (programOrder_of_nothingBefore false _ first)
  case hart =>
    intro s h r empty
    refine ⟨?latch, ?latched, ?w1c, ?keeper, ?lock⟩
    case latch =>
      refine congrArg (ok s) ((programOrder_of_nothingBefore (w := .hart h) false _ empty).trans ?_)
      exact congrArg (fun p : State × W64 => p.1.emit (.readData p.2)) (regRead_hart (p := .low) r (by decide) rfl rfl rfl)
    case latched =>
      intro v kept
      have key : latched s (.hart h) (latchKey s (.hart h) 0x2010) = some v := kept
      rw [regRead_hart (p := .high) (o := 0x2010) r (by decide) rfl rfl rfl]
      simp only [read64, key]
      rfl
    case w1c =>
      intro v clears
      refine ⟨?ps, ?up, ?lb, ?cx⟩
      case ps =>
        rw [troubleW1cWrite_hart (t := .ps) r empty (by decide) rfl rfl rfl (by decide) rfl (fun _ => rfl)]
        exact congrArg (fun x => Host.Outcome.next (troubleEdges s (s.onPwr fun p => { p with trouble := x })))
          (w1c_narrow (by decide) _ _)
      case up =>
        rw [troubleW1cWrite_hart (t := .up) r empty (by decide) rfl rfl rfl (by decide) rfl (fun _ => rfl)]
        exact congrArg (fun x => Host.Outcome.next (troubleEdges s (s.onUp fun u => { u with trouble := x })))
          (w1c_narrow (by decide) _ _)
      case lb =>
        rw [troubleW1cWrite_hart (t := .lb) r empty (by decide) rfl rfl rfl (by decide) rfl (fun _ => rfl)]
        exact congrArg (fun x => Host.Outcome.next (troubleEdges s (s.onLb fun b => { b with trouble := x })))
          (w1c_narrow (by decide) _ _)
      case cx =>
        rw [troubleW1cWrite_hart (t := .cx) r empty (by decide) rfl rfl rfl (by decide) rfl (fun _ => rfl)]
        exact congrArg (fun x => Host.Outcome.next (troubleEdges s (s.onCx fun c => { c with trouble := x })))
          (w1c_narrow (by decide) _ _)
    case keeper =>
      intro o v open_ lo hi
      refine congrArg (ok s) ((programOrder_of_nothingBefore (w := .hart h) true _ empty).trans ?_)
      exact regWrite_hart_low_of_denied (o := o.toNat) r (by omega) (.inr (by omega)) (by omega) (.inr (by omega)) fun d =>
        denied_openWorld open_ (by omega) (by omega)
    case lock =>
      intro v
      refine congrArg (ok s) ((programOrder_of_nothingBefore (w := .hart h) true _ empty).trans ?_)
      exact regWrite_hart_low_of_denied (o := 0x7010) r (by decide) (by decide) (by decide) (by decide) fun _ => rfl
  case violations => exact fun s w v sees first => congrArg (ok s) (pfWrite_of_seesPf (violClear v) sees first)

end Sys2Proof.Machine
end

section
/-!
PROOFS. The idle step: one measurement clock of cycle time, of the harts' own clocks, of the acceptance allowance and of the
watchdog (02 §2.1, §2.5, 05 §5.1, 08 §8.9, 11 §11.9; R60, R79, R102, R189, R233, R375, R532).
-/

namespace Sys2Proof.Machine

variable {s : State} {h j : HartId} {n : Nat}

/-! ### Cycle time -/

/-- R102: what cycle time is set to, or all ones beyond its width. -/
theorem full_setFull {c : Ct} (small : n < 2 ^ 96) : (c.setFull n).full = n := by
  simp only [Ct.setFull, Ct.full, if_neg (Nat.not_le.mpr small), BitVec.toNat_ofNat]
  omega

theorem now_setFull {c : Ct} (large : 2 ^ 96 ≤ n) : (c.setFull n).now = BitVec.allOnes 64 :=
  congrArg Ct.now (if_pos large)

theorem trouble_setFull {c : Ct} : (c.setFull n).trouble = c.trouble := by
  unfold Ct.setFull
  split <;> rfl

theorem measurementClock_frame :
    measurementClock s = { s with ct := (measurementClock s).ct, free := (measurementClock s).free } := by
  unfold measurementClock
  dsimp only
  split <;> rfl

theorem measurementClock_mt : (measurementClock s).ct.mt = if s.ct.mtRunning then s.ct.mt + 2 else s.ct.mt := by
  unfold measurementClock
  dsimp only
  split <;> rfl

theorem measurementClock_trouble : (measurementClock s).ct.trouble = s.ct.trouble := by
  unfold measurementClock
  dsimp only
  split
  · exact trouble_setFull
  · rfl

/-- R60, R79: a clock that has not started, or that holds, stands. -/
theorem measurementClock_of_standing (stands : s.ct.running = false ∨ s.ct.holding = true) :
    (measurementClock s).ct.now = s.ct.now ∧ (measurementClock s).ct.acc = s.ct.acc := by
  have standing : ¬ (s.ct.running && !s.ct.holding && decide (s.ct.rate ≠ 0)) = true := by
    rcases stands with e | e <;> simp [e]
  simp only [measurementClock, if_neg standing, and_self]

theorem toNat_add_nothing (a b : Nat) : ((a + b : Int) + 0).toNat = a + b := by omega

/-- R60: a clock that runs at the master's period with no slew left advances by the period's share. -/
theorem measurementClock_of_running (runs : s.ct.running = true) (goes : s.ct.holding = false) (locked : s.ct.coasting = false)
    (steady : s.ct.slewLeft = 0) (period : s.ct.period ≠ 0) :
    (measurementClock s).ct.now = (s.ct.setFull (s.ct.full + clockStep s.ct.period.toNat)).now ∧
      (measurementClock s).ct.acc = (s.ct.setFull (s.ct.full + clockStep s.ct.period.toNat)).acc := by
  have rate : s.ct.rate = s.ct.period.toNat := by simp [Ct.rate, locked]
  have nonzero : s.ct.period.toNat ≠ 0 := fun e => period (BitVec.eq_of_toNat_eq e)
  have running : (s.ct.running && !s.ct.holding && decide (s.ct.period.toNat ≠ 0)) = true := by simp [runs, goes, nonzero]
  unfold measurementClock
  dsimp only
  rw [rate]
  generalize clockStep s.ct.period.toNat = d
  rw [if_pos running]
  dsimp only
  rw [if_pos steady, toNat_add_nothing]
  exact ⟨rfl, rfl⟩

/-! ### The clocks of one hart -/

/-- What `n` core clocks may do to a hart: cycles and fetch stalls count in the Open world, and a pause runs out. -/
def Hart.ClockedBy (n : Nat) (x y : Hart) : Prop :=
  y = { x with counters := y.counters, stall := y.stall } ∧ (∀ op, y.stall = .line op → x.stall = .line op) ∧
    (x.inReset = true ∨ x.keeper = true → y.counters = x.counters) ∧
    (x.inReset = false → x.keeper = false → x.mcountinhibit.getLsbD 0 = false → rises x.counters = true →
      tget 0 y.counters 0 = tget 0 x.counters 0 + BitVec.ofNat 64 n)

theorem Hart.ClockedBy.buffers {x y : Hart} (c : Hart.ClockedBy n x y) :
    y.inReset = x.inReset ∧ y.storeBuf = x.storeBuf ∧ y.combining = x.combining := by
  obtain ⟨same, -⟩ := c
  rw [same]
  exact ⟨rfl, rfl, rfl⟩

/-- An event's count touches the event counters alone, not the cycle counter. -/
theorem countEvent_counters (k : rises s.harts = true) (code : Nat) :
    ∃ c, (countEvent h code n s).hart h = { s.hart h with counters := c } ∧
    ((s.hart h).keeper = true → c = (s.hart h).counters) ∧ tget 0 c 0 = tget 0 (s.hart h).counters 0 ∧
    (rises (s.hart h).counters = true → rises c = true) := by
  by_cases e : (s.hart h).keeper = true
  · exact ⟨_, by rw [countEvent, if_pos e], fun _ => rfl, rfl, id⟩
  · rw [countEvent, if_neg e]
    refine ⟨_, hart_onHart_same s k, fun e' => absurd e' e, ?cycles, ?rising⟩
    case cycles =>
      refine List.foldlRecOn (motive := fun t => tget 0 t 0 = tget 0 (s.hart h).counters 0) _ _ rfl fun t same i _ => ?_
      split
      · exact (tget_tmod_other (by omega)).trans same
      · exact same
    case rising =>
      intro r
      refine rises_foldl (fun t i r' => ?_) r
      split
      · exact rises_tmod r'
      · exact r'

theorem rises_onHart {f : Hart → Hart} (k : rises s.harts = true) : rises (s.onHart h f).harts = true := rises_tmod k

theorem rises_countEvent (k : rises s.harts = true) (code : Nat) : rises (countEvent h code n s).harts = true := by
  unfold countEvent
  dsimp only
  split
  · exact k
  · exact rises_onHart k

/-- The hart before its cycle counter moves: its fetch stalls are counted. -/
def stallsCounted (h : HartId) (n : Nat) (s : State) : State := if (s.hart h).pred.full then countEvent h 0x05 n s else s

theorem stallsCounted_counters (k : rises s.harts = true) : ∃ c, (stallsCounted h n s).hart h = { s.hart h with counters := c } ∧
    ((s.hart h).keeper = true → c = (s.hart h).counters) ∧ tget 0 c 0 = tget 0 (s.hart h).counters 0 ∧
    (rises (s.hart h).counters = true → rises c = true) := by
  unfold stallsCounted
  split
  · exact countEvent_counters k _
  · exact ⟨_, rfl, fun _ => rfl, rfl, id⟩

theorem rises_stallsCounted (k : rises s.harts = true) : rises (stallsCounted h n s).harts = true := by
  unfold stallsCounted
  split
  · exact rises_countEvent k _
  · exact k

theorem hartClocks_of_inReset (r : (s.hart h).inReset = true) : hartClocks h n s = s := if_pos r

/-- What the cycle counter and the pause of a hart become (R189, R233, Table 5.4). -/
def Hart.clock (n : Nat) (x : Hart) : Hart :=
  { x with
    counters := if x.keeper || x.mcountinhibit.getLsbD 0 then x.counters else tmod 0 x.counters 0 (· + BitVec.ofNat 64 n)
    stall := match x.stall with | .pause m => if m ≤ n then .none else .pause (m - n) | y => y }

theorem hartClocks_of_running (r : (s.hart h).inReset = false) :
    hartClocks h n s = (stallsCounted h n s).onHart h (Hart.clock n) := by
  rw [hartClocks, if_neg (by rw [r]; exact Bool.false_ne_true)]
  rfl

theorem clock_stall_line {x : Hart} {op : Instr} (e : (x.clock n).stall = .line op) : x.stall = .line op := by
  unfold Hart.clock at e
  dsimp only at e
  split at e
  · split at e <;> cases e
  · exact e

theorem hartClocks_same (k : rises s.harts = true) : Hart.ClockedBy n (s.hart h) ((hartClocks h n s).hart h) := by
  cases r : (s.hart h).inReset with
  | true =>
    rw [hartClocks_of_inReset r]
    exact ⟨rfl, fun _ e => e, fun _ => rfl, fun r' => absurd (r.symm.trans r') Bool.noConfusion⟩
  | false =>
    obtain ⟨c, counted, keeps, cycles, rising⟩ := stallsCounted_counters (h := h) (n := n) k
    rw [hartClocks_of_running r, hart_onHart_same _ (rises_stallsCounted k), counted]
    refine ⟨rfl, fun _ e => clock_stall_line e, ?keeper, ?counts⟩
    case keeper =>
      rintro (r' | e)
      · exact absurd (r.symm.trans r') Bool.noConfusion
      · exact (if_pos (by rw [Bool.or_eq_true]; exact .inl e)).trans (keeps e)
    case counts =>
      intro _ e i t
      have counting : ¬ ((s.hart h).keeper || (s.hart h).mcountinhibit.getLsbD 0) = true := by
        rw [e, i]
        exact Bool.false_ne_true
      have moved : ({ s.hart h with counters := c }.clock n).counters = tmod 0 c 0 (· + BitVec.ofNat 64 n) := if_neg counting
      rw [moved, tget_tmod_same (rising t), cycles]

theorem countEvent_other (o : j ≠ h) (code : Nat) : (countEvent h code n s).hart j = s.hart j := by
  unfold countEvent
  dsimp only
  split
  · rfl
  · exact hart_onHart_other s o

theorem hartClocks_other (o : j ≠ h) : (hartClocks h n s).hart j = s.hart j := by
  cases r : (s.hart h).inReset with
  | true => rw [hartClocks_of_inReset r]
  | false =>
    rw [hartClocks_of_running r, hart_onHart_other _ o, stallsCounted]
    split
    · exact countEvent_other o _
    · rfl

theorem rises_hartClocks (k : rises s.harts = true) : rises (hartClocks h n s).harts = true := by
  cases r : (s.hart h).inReset with
  | true => rwa [hartClocks_of_inReset r]
  | false =>
    rw [hartClocks_of_running r]
    exact rises_onHart (rises_stallsCounted k)

theorem hartClocks_frame : hartClocks h n s = { s with harts := (hartClocks h n s).harts } := by
  unfold hartClocks countEvent
  dsimp only
  split
  · rfl
  · split
    · split <;> rfl
    · rfl

/-! ### The clocks of all harts -/

/-- Of a change of one hart after another, each hart sees its own. -/
theorem forAll_harts {f : HartId → State → State} (others : ∀ {h j t}, j ≠ h → (f h t).hart j = t.hart j)
    (keeps : ∀ {h t}, rises t.harts = true → rises (f h t).harts = true) {l : List HartId} (once : l.Nodup) (m : j ∈ l)
    (k : rises s.harts = true) : ∃ t, rises t.harts = true ∧ t.hart j = s.hart j ∧ (forAll l f s).hart j = (f j t).hart j := by
  induction l generalizing s with
  | nil => exact absurd m List.not_mem_nil
  | cons a l ih =>
    obtain ⟨fresh, once⟩ := List.nodup_cons.mp once
    rcases List.mem_cons.mp m with rfl | m
    · have rest : ∀ t b, b ∈ l → (f b t).hart j = t.hart j := fun t b mb => others fun e => fresh (e ▸ mb)
      exact ⟨s, k, rfl, List.foldlRecOn (motive := fun t => t.hart j = (f j s).hart j) l _ rfl fun t same b mb =>
        (rest t b mb).trans same⟩
    · obtain ⟨t, rt, before, after⟩ := ih once m (keeps (h := a) k)
      exact ⟨t, rt, before.trans (others fun e => fresh (e ▸ m)), after⟩

theorem coreTime_hart (k : rises s.harts = true) :
    Hart.ClockedBy ((s.pwr.clockPart + s.pwr.coreMHz) / 500) (s.hart h) ((coreTime s).hart h) := by
  obtain ⟨t, rt, before, after⟩ := forAll_harts (s := s.onPwr fun w => { w with clockPart := (coreClocks s.pwr).2 }) (j := h)
    (f := fun h t => hartClocks h (coreClocks s.pwr).1 t) hartClocks_other rises_hartClocks (List.nodup_finRange 24)
    (List.mem_finRange h) k
  have own : t.hart h = s.hart h := before
  rw [coreTime, allHarts, after, ← own]
  exact hartClocks_same rt

theorem forAll_hartClocks_frame (l : List HartId) :
    forAll l (fun h t => hartClocks h n t) s = { s with harts := (forAll l (fun h t => hartClocks h n t) s).harts } := by
  refine List.foldlRecOn (motive := fun t : State => t = { s with harts := t.harts }) l
    (fun t h => hartClocks h n t) (b := s) rfl fun t same h _ => ?_
  exact hartClocks_frame.trans (congrArg (fun u : State => { u with harts := (hartClocks h n t).harts }) same)

theorem coreTime_frame : coreTime s = { s with
    pwr := { s.pwr with clockPart := (s.pwr.clockPart + s.pwr.coreMHz) % 500 }, harts := (coreTime s).harts } :=
  forAll_hartClocks_frame allHarts

/-! ### One clock with nothing waiting for its end -/

theorem watchdogClock_eq : watchdogClock s =
    { s with kp := { s.kp with wdCount := if watchdogRuns s then s.kp.wdCount + 1 else s.kp.wdCount } } := by
  unfold watchdogClock
  split <;> rfl

/-- The state after the free-running clocks of an idle step. -/
def clocksPassed (s : State) : State := watchdogClock (coreTime (refill (measurementClock { s with clock := {} })))

theorem refill_ct : (refill s).ct = s.ct := by
  unfold refill
  exact onRings_ct ..

theorem watchdogClock_ct : (watchdogClock s).ct = s.ct := by
  unfold watchdogClock
  split
  · exact onKp_ct ..
  · rfl

theorem coreTime_ct : (coreTime s).ct = s.ct := by
  rw [coreTime_frame]

theorem clocksPassed_ct : (clocksPassed s).ct = (measurementClock { s with clock := {} }).ct := by
  rw [clocksPassed, watchdogClock_ct, coreTime_ct, refill_ct]

theorem clocksPassed_hart (k : rises s.harts = true) :
    Hart.ClockedBy ((s.pwr.clockPart + s.pwr.coreMHz) / 500) (s.hart h) ((clocksPassed s).hart h) := by
  have rest := measurementClock_frame (s := { s with clock := {} })
  unfold clocksPassed
  generalize measurementClock { s with clock := {} } = m at rest ⊢
  have clocked := coreTime_hart (s := refill m) (h := h) (by rw [rest]; exact k)
  rw [watchdogClock_eq]
  generalize coreTime (refill m) = u at clocked ⊢
  rw [rest] at clocked
  exact clocked

theorem clocksPassed_frame : clocksPassed s = { s with
    ct := (clocksPassed s).ct, free := (clocksPassed s).free, harts := (clocksPassed s).harts, clock := {}
    pwr := { s.pwr with clockPart := (s.pwr.clockPart + s.pwr.coreMHz) % 500 }
    rings := { s.rings with allowance := min (allowanceFull s) (s.rings.allowance + s.lt.acceptRateCap) }
    kp := { s.kp with wdCount := if watchdogRuns s then s.kp.wdCount + 1 else s.kp.wdCount } } := by
  have rest := measurementClock_frame (s := { s with clock := {} })
  unfold clocksPassed
  generalize measurementClock { s with clock := {} } = m at rest ⊢
  have clocked := coreTime_frame (s := refill m)
  rw [watchdogClock_eq]
  generalize coreTime (refill m) = u at clocked ⊢
  rw [clocked, rest]
  rfl

/-- A change applied for every number of a list that none of them makes. -/
theorem forAll_of_fixed {α : Type} {l : List α} {f : α → State → State} (fixed : ∀ a ∈ l, f a s = s) : forAll l f s = s :=
  List.foldlRecOn (motive := fun t => t = s) l _ rfl fun t same a m => by rw [same]; exact fixed a m

/-- With nothing waiting, the end of a clock lets nothing go on. -/
theorem settleClock_of_settled (quiet : settled s) : settleClock s = s := by
  obtain ⟨drained, behind, waiting, root, child⟩ := quiet
  have buffers : forAll (allHarts.filter fun h => (s.hart h).inReset) drainBoth s = s := forAll_of_fixed fun h m => by
    obtain ⟨stores, combined⟩ := drained h (of_decide_eq_true (by simpa using (List.mem_filter.mp m).2))
    rw [drainBoth, drainAll_empty stores, drainCombining_empty combined]
  have msis : forwardMsis false (forwardMsis true s) = s := by simp [forwardMsis, root, child]
  have writes : releaseWrites s = s := by simp [releaseWrites, behind]
  have wakes : ∀ h ∈ allHarts, wakeLine h s = s := fun h _ => by
    unfold wakeLine
    split
    · exact absurd ‹_› (waiting h _)
    · rfl
  rw [settleClock, buffers, msis, wakeAll, writes, forAll_of_fixed wakes]

theorem settled_clocksPassed (k : rises s.harts = true) (quiet : settled s) : settled (clocksPassed s) := by
  obtain ⟨drained, behind, waiting, root, child⟩ := quiet
  refine ⟨fun h r => ?drained, ?behind, fun h op e => ?waiting, ?root, ?child⟩
  case drained =>
    obtain ⟨resets, stores, combined⟩ := (clocksPassed_hart (h := h) k).buffers
    rw [unbuffered, stores, combined]
    exact drained h (resets ▸ r)
  case waiting =>
    obtain ⟨-, lines, -⟩ := clocksPassed_hart (h := h) k
    exact waiting h op (lines op e)
  all_goals rw [clocksPassed_frame]; assumption

/-- What the free-running clocks move is no trouble word and no level. -/
theorem sameTrouble_of_clocks {c : Ct} {f p m w : Nat} {hs : Tab Hart} (same : c.trouble = s.ct.trouble) :
    let t := { s with
      ct := c, free := f, harts := hs, clock := {}, pwr := { s.pwr with clockPart := p }
      rings := { s.rings with allowance := m }, kp := { s.kp with wdCount := w } }
    troubleWords t = troubleWords { s with clock := {} } ∧ levelSources t = levelSources { s with clock := {} } := by
  constructor
  · simp only [troubleWords, same]
  · simp only [levelSources, troubleSums, same]

theorem troubleEdges_clocksPassed : troubleEdges { s with clock := {} } (clocksPassed s) = clocksPassed s := by
  have same : (clocksPassed s).ct.trouble = s.ct.trouble := by rw [clocksPassed_ct, measurementClock_trouble]
  have frame := clocksPassed_frame (s := s)
  generalize clocksPassed s = t at same frame ⊢
  obtain ⟨words, levels⟩ := sameTrouble_of_clocks (s := s) (f := t.free) (hs := t.harts)
    (p := (s.pwr.clockPart + s.pwr.coreMHz) % 500) (m := min (allowanceFull s) (s.rings.allowance + s.lt.acceptRateCap))
    (w := if watchdogRuns s then s.kp.wdCount + 1 else s.kp.wdCount) same
  rw [← frame] at words levels
  exact troubleEdges_of_sameTrouble words levels

theorem idle_of_settled (on : s.pwr.supply = .on) (k : rises s.harts = true) (quiet : settled s) : idle s = clocksPassed s := by
  have passed : idle s = troubleEdges { s with clock := {} } (settleClock (clocksPassed s)) := if_pos on
  rw [passed, settleClock_of_settled (settled_clocksPassed k quiet), troubleEdges_clocksPassed]

theorem step_of_empty (e : s.pending = []) : step s = .next (idle s) := by rw [step, e]

/-- Settles O55: the free-running clocks pass, and nothing waits for the end of the clock. -/
theorem idleStep : Obligations.IdleStep := by
  unfold Obligations.IdleStep
  intro s e
  rw [step_of_empty e]
  refine ⟨fun off => congrArg Host.Outcome.next (if_neg off), fun on tables quiet => ?_⟩
  have k : rises s.harts = true := tables.1
  rw [idle_of_settled on k quiet]
  refine ⟨clocksPassed s, rfl, clocksPassed_frame, ?mt, ?stands, ?advances, fun h => ?hart⟩
  case mt => rw [clocksPassed_ct, measurementClock_mt]
  case stands => rw [clocksPassed_ct]; exact measurementClock_of_standing (s := { s with clock := {} })
  case advances =>
    intro runs goes locked steady period next
    obtain ⟨now, acc⟩ := measurementClock_of_running (s := { s with clock := {} }) runs goes locked steady period
    rw [clocksPassed_ct, Ct.full, now, acc]
    exact ⟨full_setFull, now_setFull⟩
  case hart =>
    obtain ⟨same, -, keeps, counts⟩ := clocksPassed_hart (h := h) k
    exact ⟨same, keeps, counts⟩

end Sys2Proof.Machine
end
